-- ==== Sys2Proof/Word.lean ====
section
/-! DEFINITION. The word types of the K7 (R4, R49): bytes, halfwords, 32-bit words and 64-bit double words, and the
sparse map that memories and register files are written in. -/

namespace Sys2Proof

/-- One byte of any space (R100). -/
abbrev Byte := BitVec 8
/-- A 16-bit value. -/
abbrev Half := BitVec 16
/-- A 32-bit word: a register, an instruction word (R206). -/
abbrev Word := BitVec 32
/-- A 64-bit value: an address, a program counter, a 64-bit operand (R76). -/
abbrev Dword := BitVec 64

/-- A sparse map from an index to a value with a default that is not listed: a list with strictly rising indexes and
no entry equal to the default. Memory is one with byte values (`List Host.Cell`). -/
abbrev SMap (α : Type) := List (Nat × α)

end Sys2Proof
end

