-- ==== Sys2Proof/Syntax.lean ====
section
/-! DEFINITION. The instructions and events of spec/opcode_table.json, one constructor of `Instr` per row. The 197
instruction rows carry their operands, decoded once (R212 to R219, R223); the 115 event rows, which have no encoding,
carry the names of the items they act on. -/

namespace Sys2Proof

/-- A source code (R215). Inside a crew body `k 8` to `k 15` name h0 to h7 (R79). -/
inductive Src where
  | q (i : Fin 16)
  | n (i : Fin 32)
  | k (i : Fin 16)
  deriving DecidableEq, Repr

/-- A destination code (R216). Inside a crew body `k 8` to `k 15` name h0 to h7 (R79). -/
inductive Dst where
  | n (i : Fin 32)
  | k (i : Fin 16)
  | push
  deriving DecidableEq, Repr

/-- The sixteen guard conditions (R219). -/
inductive Cond where
  | al | eq | ne | lt | ge | gt | le | lo | hs | hi | ls | mi | pl | vs | vc | nv
  deriving DecidableEq, Repr

/-- A guard: a cc register and a condition (R219). -/
structure Guard where
  cc : Fin 4
  cond : Cond
  deriving DecidableEq, Repr

/-- Rounding modes (R53). -/
inductive RM where
  | rne | rtz | rup | rdn
  deriving DecidableEq, Repr

/-- The type codes of CVT (R212). -/
inductive NumTy where
  | i8 | i16 | i32 | i64 | n8 | n16 | n32 | n64 | fp16 | bf16 | fp32
  deriving DecidableEq, Repr

/-- The two 16-bit floating-point formats (R51, R255). -/
inductive HalfTy where
  | f16 | b16
  deriving DecidableEq, Repr

/-- Mantissa widths 2 to 8 (R56, R257). -/
inductive BfpW where
  | w2 | w3 | w4 | w5 | w6 | w7 | w8
  deriving DecidableEq, Repr

/-- Scopes (R128). -/
inductive Scope where
  | grp | clu | dev | sys
  deriving DecidableEq, Repr

/-- Cache policies (R113). -/
inductive Policy where
  | dflt | byp | strm | sys
  deriving DecidableEq, Repr

/-- Acquire and release on an atomic (R213, ord). -/
inductive MemOrd where
  | none | acq | rel | both
  deriving DecidableEq, Repr

/-- Atomic operations (R281). -/
inductive Aop where
  | add | min | max | minn | maxn | and | or | xor | swap | fadd | faddRa | add64 | swap64
  deriving DecidableEq, Repr

/-- Sizes of scratchpad and local accesses (R213, R276). -/
inductive SSize where
  | b | bz | h | hz | w | d | q
  deriving DecidableEq, Repr

/-- RELAY modes (R260, R262). -/
inductive RelayMode where
  | atThread | behind | ahead | flip
  deriving DecidableEq, Repr

/-- CENSUS modes (R260, R263). -/
inductive CensusMode where
  | every | some | mask | live
  deriving DecidableEq, Repr

/-- REDG and SCANG modes (R260, R264). -/
inductive RedMode where
  | add | min | max | minn | maxn | and | or | fadd
  deriving DecidableEq, Repr

/-- PEERS modes (R260, R265). -/
inductive PeersMode where
  | eq | uniform
  deriving DecidableEq, Repr

/-- LEADER modes (R260, R265). -/
inductive LeaderMode where
  | flag | id
  deriving DecidableEq, Repr

/-- FENCE kinds (R138, R277). -/
inductive FenceKind where
  | acq | rel | ar | sc
  deriving DecidableEq, Repr

/-- Combine operators of a crew (R315). -/
inductive Comb where
  | add | min | max | minn | maxn | fadd | fmin | fmax
  deriving DecidableEq, Repr

/-- RECADJ modes (R342). -/
inductive AdjMode where
  | tap | outer | kstep
  deriving DecidableEq, Repr

/-- ACCCVT formats (R355). -/
inductive AccFmt where
  | fp16 | bf16 | bfp (w : BfpW)
  deriving DecidableEq, Repr

/-- ACCST modes (R356). -/
inductive StMode where
  | w32 | w16 | fp16 | bf16 | bfp (w : BfpW)
  deriving DecidableEq, Repr

/-- STAMP stages (R359). -/
inductive Stage where
  | opn | cin | opw | mma | cout | retire
  deriving DecidableEq, Repr

/-- R format (R212): destination, two sources, F bit, guard. -/
structure RFmt where
  d : Dst
  a : Src
  b : Src
  f : Bool
  g : Guard
  deriving DecidableEq, Repr

/-- R format of a unary opcode, whose srcB field selects it (R212, R223). -/
structure UFmt where
  d : Dst
  a : Src
  f : Bool
  g : Guard
  deriving DecidableEq, Repr

/-- R format of FRND, whose selector carries the rounding mode (R223, R254). -/
structure FrndFmt where
  d : Dst
  a : Src
  rm : RM
  f : Bool
  g : Guard
  deriving DecidableEq, Repr

/-- R format of a compare (R248): the dest field selects a cc register. -/
structure CmpFmt where
  cc : Fin 4
  a : Src
  b : Src
  g : Guard
  deriving DecidableEq, Repr

/-- R format of SEL (R249): the guard field is a selection condition. -/
structure SelFmt where
  d : Dst
  a : Src
  b : Src
  g : Guard
  deriving DecidableEq, Repr

/-- T format (R212): three sources. -/
structure TFmt where
  d : Dst
  a : Src
  b : Src
  c : Src
  f : Bool
  deriving DecidableEq, Repr

/-- T format whose F bit is reserved (PRFMA, R255). -/
structure T0Fmt where
  d : Dst
  a : Src
  b : Src
  c : Src
  deriving DecidableEq, Repr

/-- I format (R212): a 13-bit immediate. -/
structure IFmt where
  d : Dst
  a : Src
  imm : BitVec 13
  deriving DecidableEq, Repr

/-- I format of an immediate shift (R221): a 5-bit count. -/
structure ShFmt where
  d : Dst
  a : Src
  n : BitVec 5
  deriving DecidableEq, Repr

/-- I format of CMPI (R221). -/
structure CmpiFmt where
  cc : Fin 4
  a : Src
  imm : BitVec 13
  deriving DecidableEq, Repr

/-- I format of MOVI (R221). -/
structure MoviFmt where
  d : Dst
  imm : BitVec 13
  deriving DecidableEq, Repr

/-- L format of LDHI (R212, R221). -/
structure LFmt where
  d : Dst
  imm : BitVec 19
  deriving DecidableEq, Repr

/-- V format (R212). -/
structure VFmt where
  d : Dst
  a : Src
  src : NumTy
  dst : NumTy
  rm : RM
  sat : Bool
  deriving DecidableEq, Repr

/-- E format of a packed-pair instruction (R223, R255). -/
structure PrFmt where
  d : Dst
  a : Src
  b : Src
  ty : HalfTy
  deriving DecidableEq, Repr

/-- E format of opcode 0x3E (R257). -/
structure NarFmt where
  d : Dst
  a : Src
  b : Src
  w : BfpW
  o : Bool
  deriving DecidableEq, Repr

/-- RELAY (R262). -/
structure RelayFmt where
  d : Dst
  a : Src
  b : Src
  mode : RelayMode
  deriving DecidableEq, Repr

/-- CENSUS (R263). -/
structure CensusFmt where
  d : Dst
  a : Src
  mode : CensusMode
  deriving DecidableEq, Repr

/-- REDG and SCANG (R264). -/
structure RedFmt where
  d : Dst
  a : Src
  mode : RedMode
  deriving DecidableEq, Repr

/-- PEERS (R265). -/
structure PeersFmt where
  d : Dst
  a : Src
  mode : PeersMode
  deriving DecidableEq, Repr

/-- LEADER (R265). -/
structure LeaderFmt where
  d : Dst
  mode : LeaderMode
  deriving DecidableEq, Repr

/-- MU format of a load (R213). -/
structure MuLd where
  d : Dst
  kp : Fin 16
  ix : Fin 32
  x : Bool
  imm : BitVec 5
  pol : Policy
  sc : Scope
  deriving DecidableEq, Repr

/-- MU format of a store (R213). -/
structure MuSt where
  a : Src
  kp : Fin 16
  ix : Fin 32
  x : Bool
  imm : BitVec 5
  pol : Policy
  sc : Scope
  deriving DecidableEq, Repr

/-- MU format of LDK (R274). -/
structure LdkFmt where
  d : Dst
  kp : Fin 16
  imm : BitVec 5
  pol : Policy
  sc : Scope
  deriving DecidableEq, Repr

/-- MP format of a load (R213). -/
structure MpLd where
  d : Dst
  np : Fin 16
  imm : BitVec 5
  pol : Policy
  sc : Scope
  g : Guard
  deriving DecidableEq, Repr

/-- MP format of a store (R213). -/
structure MpSt where
  a : Src
  np : Fin 16
  imm : BitVec 5
  pol : Policy
  sc : Scope
  g : Guard
  deriving DecidableEq, Repr

/-- S format of a load (R213, R276). -/
structure SLd where
  d : Dst
  base : Src
  size : SSize
  imm : BitVec 7
  sc : Scope
  deriving DecidableEq, Repr

/-- S format of a store (R213, R276). -/
structure SSt where
  a : Src
  base : Src
  size : SSize
  imm : BitVec 7
  sc : Scope
  deriving DecidableEq, Repr

/-- W format (R213, R287). -/
structure WFmt where
  ld : BitVec 6
  st : BitVec 6
  cp : BitVec 6
  tl : BitVec 6
  deriving DecidableEq, Repr

/-- A format of ATOM (R282). -/
structure AtomFmt where
  d : Dst
  np : Fin 16
  v : Src
  aop : Aop
  ord : MemOrd
  sc : Scope
  p : Bool
  deriving DecidableEq, Repr

/-- A format of CAS, whose aop is 0 (R283). -/
structure CasFmt where
  d : Dst
  np : Fin 16
  v : Src
  ord : MemOrd
  sc : Scope
  p : Bool
  deriving DecidableEq, Repr

/-- A format of RED, whose dest is 63 and whose ord is none or release (R284). -/
structure RedMemFmt where
  np : Fin 16
  v : Src
  aop : Aop
  rel : Bool
  sc : Scope
  p : Bool
  deriving DecidableEq, Repr

/-- AS format of ATOMS (R285). -/
structure AtomsFmt where
  d : Dst
  base : Src
  v : Src
  aop : Aop
  sc : Scope
  deriving DecidableEq, Repr

/-- AS format of CASS (R285). -/
structure CassFmt where
  d : Dst
  base : Src
  v : Src
  sc : Scope
  deriving DecidableEq, Repr

/-- COPY, COPYG and REGRP (R277, R294, R298). -/
structure CopyFmt where
  a : Src
  b : Src
  c : Src
  sc : Scope
  deriving DecidableEq, Repr

/-- X format (R214, R347). -/
structure XFmt where
  acc : Fin 4
  ra : Fin 16
  rb : Fin 16
  wait : BitVec 8
  set : Fin 8
  z : Bool
  deriving DecidableEq, Repr

/-- ACCST (R333, R356). -/
structure AccstFmt where
  a : Src
  b : Src
  acc : Fin 4
  slot : Fin 8
  shadow : Bool
  mode : StMode
  sc : Scope
  deriving DecidableEq, Repr

/-- B format (R214). -/
structure BFmt where
  g : Guard
  off : BitVec 19
  deriving DecidableEq, Repr

/-- P format (R214, R313). -/
structure RepFmt where
  n : BitVec 12
  s : BitVec 13
  deriving DecidableEq, Repr

/-- Y format (R214, R315). -/
structure CrewFmt where
  lo : Src
  count : Src
  c : Fin 16
  h : Fin 8
  reach : Bool
  comb : Comb
  deriving DecidableEq, Repr

/-- A stop action that the command processor chooses (R46, R378). -/
inductive StopAction where
  | drain | discard | save
  deriving DecidableEq, Repr

/-- The storage structures that a memory error can strike (R123, R201), with the team (an index of State.teams) whose
access reads the line or block, or to which the word is allotted, if any (R384). -/
inductive ErrWhere where
  | dram (pa : Nat) (team : Option Nat)
  | l2 (pa : Nat) (team : Option Nat)
  | dcache (core : Nat) (pa : Nat) (team : Option Nat)
  | icache (core : Nat) (team : Option Nat)
  | scratch (core : Nat) (team : Option Nat) (off : Nat)
  | obuf (core : Nat) (team : Option Nat)
  | nreg (core sub : Nat) (team : Option Nat)
  deriving DecidableEq, Repr

/-- A host, controller or peer access to memory (R424, R438, R152): a read, a write of bytes, or an atomic. -/
inductive ExtAccess where
  | read (pa len : Nat)
  | write (pa : Nat) (bytes : List (BitVec 8))
  | atomic (aop : Aop) (pa : Nat) (v : BitVec 64)
  deriving DecidableEq, Repr

/-- What a shoot-down names (R176). -/
inductive ShootRange where
  | pages (ctx : BitVec 16) (va : Nat) (count : Nat)
  | context (ctx : BitVec 16)
  | all
  deriving DecidableEq, Repr

/-- Where a TEAM_PLACE or RESTORE_PLACE puts a team (R21). -/
structure Spot where
  core : Nat
  s0 : Nat
  p0 : Nat
  deriving DecidableEq, Repr

/-- A write of `value` to the register at BAR0 offset `off` (R425); `half` tells a 4-byte write of the low (false) or
high (true) half. -/
structure RegWrite where
  off : Nat
  value : BitVec 64
  half : Option Bool
  deriving DecidableEq, Repr

/-- One constructor per row of spec/opcode_table.json: the encoded instructions in the table's order, the events that
follow from the state, the events that come from outside, and the rows without operands. -/
inductive Instr where
  | add (o : RFmt)
  | sub (o : RFmt)
  | addc (o : RFmt)
  | subb (o : RFmt)
  | mul (o : RFmt)
  | mulh (o : RFmt)
  | mulhn (o : RFmt)
  | mad (o : TFmt)
  | div (o : RFmt)
  | divn (o : RFmt)
  | rem (o : RFmt)
  | remn (o : RFmt)
  | min (o : RFmt)
  | max (o : RFmt)
  | minn (o : RFmt)
  | maxn (o : RFmt)
  | addsat (o : RFmt)
  | subsat (o : RFmt)
  | sla (o : RFmt)
  | and (o : RFmt)
  | or (o : RFmt)
  | xor (o : RFmt)
  | andn (o : RFmt)
  | bfx (o : RFmt)
  | shl (o : RFmt)
  | shr (o : RFmt)
  | sar (o : RFmt)
  | rot (o : RFmt)
  | cmp (o : CmpFmt)
  | cmpn (o : CmpFmt)
  | tst (o : CmpFmt)
  | sel (o : SelFmt)
  | addi (o : IFmt)
  | muli (o : IFmt)
  | andi (o : IFmt)
  | ori (o : IFmt)
  | xori (o : IFmt)
  | shli (o : ShFmt)
  | shri (o : ShFmt)
  | sari (o : ShFmt)
  | roti (o : ShFmt)
  | cmpi (o : CmpiFmt)
  | movi (o : MoviFmt)
  | ldhi (o : LFmt)
  | neg (o : UFmt)
  | abs (o : UFmt)
  | not (o : UFmt)
  | clz (o : UFmt)
  | popc (o : UFmt)
  | brev (o : UFmt)
  | mov (o : UFmt)
  | bfi (o : TFmt)
  | dot4 (o : TFmt)
  | fadd (o : RFmt)
  | fsub (o : RFmt)
  | fmul (o : RFmt)
  | fdiv (o : RFmt)
  | fmin (o : RFmt)
  | fmax (o : RFmt)
  | fsgn (o : RFmt)
  | fcmp (o : CmpFmt)
  | ffma (o : TFmt)
  | frcp (o : UFmt)
  | fsqrt (o : UFmt)
  | frsq (o : UFmt)
  | fexp2 (o : UFmt)
  | flog2 (o : UFmt)
  | fsin (o : UFmt)
  | fcos (o : UFmt)
  | fclass (o : UFmt)
  | frnd (o : FrndFmt)
  | prfmaF16 (o : T0Fmt)
  | prfmaB16 (o : T0Fmt)
  | pradd (o : PrFmt)
  | prsub (o : PrFmt)
  | prmul (o : PrFmt)
  | prmin (o : PrFmt)
  | prmax (o : PrFmt)
  | cvt (o : VFmt)
  | pack (o : NarFmt)
  | unpk (o : NarFmt)
  | bfpq (o : NarFmt)
  | bfpx (o : NarFmt)
  | relay (o : RelayFmt)
  | census (o : CensusFmt)
  | redg (o : RedFmt)
  | scang (o : RedFmt)
  | peers (o : PeersFmt)
  | leader (o : LeaderFmt)
  | ldbMu (o : MuLd)
  | ldbzMu (o : MuLd)
  | ldhMu (o : MuLd)
  | ldhzMu (o : MuLd)
  | ldwMu (o : MuLd)
  | lddMu (o : MuLd)
  | ldqMu (o : MuLd)
  | ldk (o : LdkFmt)
  | stbMu (o : MuSt)
  | sthMu (o : MuSt)
  | stwMu (o : MuSt)
  | stdMu (o : MuSt)
  | stqMu (o : MuSt)
  | lds (o : SLd)
  | ldl (o : SLd)
  | sts (o : SSt)
  | stl (o : SSt)
  | wait (o : WFmt)
  | ldbMp (o : MpLd)
  | ldbzMp (o : MpLd)
  | ldhMp (o : MpLd)
  | ldhzMp (o : MpLd)
  | ldwMp (o : MpLd)
  | lddMp (o : MpLd)
  | ldqMp (o : MpLd)
  | ldacq (o : MpLd)
  | stbMp (o : MpSt)
  | sthMp (o : MpSt)
  | stwMp (o : MpSt)
  | stdMp (o : MpSt)
  | stqMp (o : MpSt)
  | strel (o : MpSt)
  | atom (o : AtomFmt)
  | cas (o : CasFmt)
  | red (o : RedMemFmt)
  | atoms (o : AtomsFmt)
  | cass (o : CassFmt)
  | pref (a : Src) (l2 : Bool)
  | cflush (a : Src) (sc : Scope)
  | cinv (a : Src)
  | fence (kind : FenceKind) (sc : Scope)
  | stashmap (a b c : Src)
  | stashwb (a c : Src)
  | stashdrop (a c : Src)
  | swinit (a b : Src)
  | swwait (a b : Src) (sc : Scope)
  | swgen (d : Dst) (b : Src)
  | enq (a : Src) (qn : Fin 16)
  | deq (d : Dst) (qn : Fin 16)
  | enqtry (a : Src) (qn : Fin 16) (st : Dst)
  | deqtry (d : Dst) (qn : Fin 16) (st : Dst)
  | chsend (a : Src) (ch : Fin 16)
  | chrecv (a : Src) (ch : Fin 16)
  | chpoll (d : Dst) (ch : Fin 16)
  | bararr (a : Src)
  | barwait (a : Src)
  | barsync (a : Src)
  | syncm (a : Src)
  | copy (o : CopyFmt)
  | copyg (o : CopyFmt)
  | regrp (o : CopyFmt)
  | publish (a : Src) (sc : Scope)
  | mma (o : XFmt)
  | mmas (o : XFmt)
  | mmat (o : XFmt)
  | recld (x : Fin 16) (b : Src) (scratch : Bool)
  | recset (x : Fin 16) (w : Fin 8) (c : Src)
  | recadj (x : Fin 16) (b : Src) (mode : AdjMode)
  | gensetSeed (gi : Fin 4) (b : Src)
  | gensetCtl (gi : Fin 4) (b c : Src)
  | gensetFreq (gi : Fin 4) (b : Src)
  | genadvStream (gi : Fin 4) (b : Src)
  | genadvSeed (gi : Fin 4) (b : Src)
  | genrd (d : Dst) (x : Fin 16) (c : Src)
  | accrd (d : Dst) (acc : Fin 4) (c : Src)
  | accwr (acc : Fin 4) (b c : Src)
  | accclr (acc : Fin 4)
  | acccvt (acc : Fin 4) (fmt : AccFmt)
  | accst (o : AccstFmt)
  | stamp (a b : Src) (stage : Stage)
  | bra (o : BFmt)
  | call (o : BFmt)
  | meet (o : BFmt)
  | rep (o : RepFmt)
  | frame (f : BitVec 6)
  | crew (o : CrewFmt)
  | rdsys (d : Dst) (num : BitVec 12)
  | wrsys (a : Src) (num : BitVec 12)
  | brx (a : Src)
  | callx (a : Src)
  | time (d : Dst)
  | trap (b : BitVec 6)
  | brk (b : BitVec 6)
  | crewacc (a : Src)
  | post (a : Src)
  | svctake (d : Fin 4)
  | svcgive (a b : Src)
  | tlbinv (a b : Src)
  | diagMark (a : Src)
  | diagMask (d : Dst)
  | runStart (port : Nat)
  | progressRun (port : Nat)
  | loadFill (op : Nat)
  | longLatencyResult (op : Nat)
  | storePerformed (op : Nat)
  | tlbWalkComplete (walk : Nat)
  | trapEntry (port : Nat)
  | copyStart (core : Nat)
  | copyPieceArrival (op : Nat)
  | copyComplete (op : Nat)
  | copyFail (op : Nat)
  | mmaFetchPoint (op : Nat)
  | mmaStart (op : Nat)
  | mmaComplete (op : Nat)
  | accstComplete (op : Nat)
  | channelMessageArrival (op : Nat)
  | channelCreditReturn (op : Nat)
  | publishSwap (op : Nat)
  | crewBudgetOverrun (team grp thr helper : Nat)
  | holdOverrun (port : Nat)
  | watchdogExpiry (team : Nat)
  | durationOverrun (team : Nat)
  | haltDrainDone (team : Nat)
  | dumpComplete (part : Nat)
  | teamPlace (launch : Nat) (spot : Spot)
  | teamLoadComplete (team : Nat)
  | restorePlace (team : Nat) (spot : Spot)
  | groupRetire (team grp : Nat)
  | teamRetire (team : Nat)
  | preemptionRequest (team : Nat) (slack : Nat) (lent : Bool)
  | drainComplete (team : Nat)
  | discardComplete (team : Nat)
  | saveComplete (team : Nat)
  | launchArrival (queue : Nat)
  | phasePrefetch (part phase : Nat)
  | phaseFiring (part phase : Nat)
  | quiesceDone (pair : Nat)
  | flushDone (pair : Nat)
  | alignDone (pair : Nat)
  | unpairDone (pair : Nat)
  | comparatorCompare (pair : Nat)
  | rollbackDone (pair : Nat)
  | checkpoint (pair : Nat)
  | il2Checkpoint (team : Nat)
  | shootdownComplete (op : Nat)
  | contextClearComplete (entry : Nat)
  | formatRangeDisableDone (range : Nat)
  | cancelDone (part : Nat)
  | singleStepStop (team : Nat)
  | partitionResetDone (part : Nat)
  | traceSample (part : Nat)
  | traceSyncRecord (part : Nat)
  | hostQueueLineInvalidate (queue : Nat)
  | pairRequest (pair : Nat) (value : BitVec 64)
  | unpairRequest (pair : Nat)
  | mergeOwnershipRelease (cluster : Nat)
  | hostAccess (acc : ExtAccess)
  | peerAccess (acc : ExtAccess)
  | memoryError (at_ : ErrWhere) (correctable : Bool)
  | patrolScrub (pa : Nat) (found : Option Bool)
  | pageMigration (src dst size pte : Nat)
  | shootdownRequest (r : ShootRange)
  | queueRegistrationWrite (queue word : Nat) (value : BitVec 64)
  | contextEntryWrite (entry word : Nat) (value : BitVec 64)
  | formatRangeWrite (range word : Nat) (value : BitVec 64)
  | retentionRangeWrite (part range word : Nat) (value : BitVec 64)
  | publicationEntryWrite (part entry word : Nat) (value : BitVec 64)
  | partitionTableWrite (index : Nat) (value : BitVec 64)
  | tokenBucketWrite (part : Nat) (value : BitVec 64)
  | cancelLaunch (part : Nat)
  | cancelGraph (part : Nat)
  | cancelPhase (part : Nat)
  | cancelJob (part : Nat)
  | dbgHalt (part : Nat)
  | dbgResume (part : Nat)
  | dbgStep (part : Nat)
  | dumpRequest (part : Nat)
  | dumpCtlRead (part : Nat)
  | frLostRead (part : Nat)
  | partitionReset (part : Nat)
  | partModeWrite (mode : Bool)
  | timeCtlWrite (value : BitVec 64)
  | phcAdjWrite (value : BitVec 32)
  | phcStep (value : BitVec 64)
  | ptmResponse (t2 t3 : BitVec 64)
  | powerLimitWrite (value : BitVec 64)
  | clockStepDown (khz : BitVec 32)
  | thermalThrottle (temp : BitVec 16) (khz : BitVec 32)
  | thermtrip (recorded : Bool)
  | portbLinkUp (pages : Nat)
  | lifeHistogramSample (temp : BitVec 16) (watts : Nat)
  | errorCounterClear (off : Nat)
  | satMemRead (part : Nat)
  | registerWrite (w : RegWrite)
  | hostSnoop (pa : Nat) (write : Bool)
  | ret
  | exit
  | nop
  | yield
  | rejoin
  | eret
  | ckpt
  | crewend
  | tlbWalkStart
  | migrationDone
  | mbxIdentityClaim
  | mbxRaiseFusedMinimum
  | mbxLifeHistograms
  | mbxRecoveryImage
  | mbxFaultLog
  | mbxCommandDone
  | mbxStatusRead
  | ptmRequest
  | ptmCtlRead
  | ppsEdge
  | portbLinkLoss
  | portbStatusRead
  | deviceReset
  | bootStageComplete
  | lifeHistogramSave
  | portbPtmRequest
  | powerLoss
  | orderlyShutdown
  deriving DecidableEq, Repr

end Sys2Proof
end

