-- ==== Sys2Proof/WellFormed.lean ====
section
/-! DEFINITION. The operand rules that hold in every context (R76, R80, R213 to R218, R235, R256, R273 to R285, R303,
R309, R313, R333, R355, R356). Rules that depend on the crew body (R79, R237, R272) or on the kernel header (R81) are
checked by the meanings, in Machine/Operands.lean. -/

namespace Sys2Proof

/-- The source names a uniform register (or, in a crew body, an h register). -/
def Src.isK : Src → Bool
  | .k _ => true
  | _ => false

/-- R76: a legal 64-bit source. -/
def Src.pairOk : Src → Bool
  | .q i => i.val < 15
  | .n i => i.val % 2 == 0
  | .k i => i.val % 2 == 0

/-- R217: a legal 128-bit source. -/
def Src.quadOk : Src → Bool
  | .q i => i.val ≤ 12
  | .n i => i.val % 4 == 0
  | .k _ => false

/-- The destination is one of codes 32 to 47 (R216). -/
def Dst.isK : Dst → Bool
  | .k _ => true
  | _ => false

/-- The destination names k0 to k7, a uniform register in every context (R79, R216). -/
def Dst.isLowK : Dst → Bool
  | .k i => i.val < 8
  | _ => false

/-- R76: a legal 64-bit destination. -/
def Dst.pairOk : Dst → Bool
  | .n i => i.val % 2 == 0
  | .k i => i.val % 2 == 0
  | .push => true

/-- R217: a legal 128-bit destination. -/
def Dst.quadOk : Dst → Bool
  | .n i => i.val % 4 == 0
  | .k _ => false
  | .push => true

/-- R80, R218, R235: what a k destination asks of the sources, the guard and the F bit. -/
def kDstOk (d : Dst) (srcs : List Src) (g : Cond) (f : Bool) : Bool :=
  !d.isLowK || (srcs.all Src.isK && g == .al && !f)

/-- The 64-bit integer types of CVT (R212). -/
def NumTy.is64 : NumTy → Bool
  | .i64 | .n64 => true
  | _ => false

/-- The floating-point types of CVT (R212). -/
def NumTy.isFp : NumTy → Bool
  | .fp16 | .bf16 | .fp32 => true
  | _ => false

/-- The 64-bit atomic operations (R281). -/
def Aop.is64 : Aop → Bool
  | .add64 | .swap64 => true
  | _ => false

def RFmt.wf (o : RFmt) : Bool := kDstOk o.d [o.a, o.b] o.g.cond o.f
def UFmt.wf (o : UFmt) : Bool := kDstOk o.d [o.a] o.g.cond o.f
def FrndFmt.wf (o : FrndFmt) : Bool := kDstOk o.d [o.a] o.g.cond o.f
def SelFmt.wf (o : SelFmt) : Bool := kDstOk o.d [o.a, o.b] o.g.cond false
def TFmt.wf (o : TFmt) : Bool := kDstOk o.d [o.a, o.b, o.c] .al o.f
def T0Fmt.wf (o : T0Fmt) : Bool := kDstOk o.d [o.a, o.b, o.c] .al false
def IFmt.wf (o : IFmt) : Bool := kDstOk o.d [o.a] .al false
def ShFmt.wf (o : ShFmt) : Bool := kDstOk o.d [o.a] .al false
def PrFmt.wf (o : PrFmt) : Bool := kDstOk o.d [o.a, o.b] .al false
def NarFmt.wf (o : NarFmt) : Bool := kDstOk o.d [o.a, o.b] .al false

/-- R256: pairs, SAT and rm. -/
def VFmt.wf (o : VFmt) : Bool :=
  kDstOk o.d [o.a] .al false && (!o.src.is64 || o.a.pairOk) && (!o.dst.is64 || o.d.pairOk) &&
  (!o.sat || (!o.src.isFp && !o.dst.isFp)) && (o.src.isFp || o.dst.isFp || o.rm == .rne)

/-- R258, R235: BFPQ takes no k destination. -/
def NarFmt.wfQ (o : NarFmt) : Bool := !o.d.isLowK

/-- R76, R217: an operand of `bytes` bytes. -/
def Src.sizeOk (a : Src) (bytes : Nat) : Bool :=
  if bytes = 8 then a.pairOk else if bytes = 16 then a.quadOk else true
def Dst.sizeOk (d : Dst) (bytes : Nat) : Bool :=
  !d.isLowK && (if bytes = 8 then d.pairOk else if bytes = 16 then d.quadOk else true)

/-- R276: bytes of a size code. -/
def SSize.bytes : SSize → Nat
  | .b | .bz => 1
  | .h | .hz => 2
  | .w => 4
  | .d => 8
  | .q => 16

def SLd.wf (o : SLd) : Bool := o.d.sizeOk o.size.bytes
/-- R213: codes 1 and 3 are illegal in a store. -/
def SSt.wf (o : SSt) : Bool := o.size != .bz && o.size != .hz && o.a.sizeOk o.size.bytes

def AtomFmt.wf (o : AtomFmt) : Bool :=
  !o.d.isLowK && (!o.aop.is64 || (o.d.pairOk && o.v.pairOk))
def CasFmt.wf (o : CasFmt) : Bool := !o.d.isLowK && o.v.pairOk
def RedMemFmt.wf (o : RedMemFmt) : Bool :=
  o.aop != .swap && o.aop != .swap64 && (!o.aop.is64 || o.v.pairOk)
def AtomsFmt.wf (o : AtomsFmt) : Bool :=
  o.aop != .faddRa && !o.d.isLowK && (!o.aop.is64 || (o.d.pairOk && o.v.pairOk))
def CassFmt.wf (o : CassFmt) : Bool := !o.d.isLowK && o.v.pairOk
def CopyFmt.wf (o : CopyFmt) : Bool := o.a.pairOk && o.b.pairOk && o.c.pairOk
/-- R298: REGRP's destination is a 32-bit offset. -/
def CopyFmt.wfRegrp (o : CopyFmt) : Bool := o.b.pairOk && o.c.pairOk

/-- R355, R356: a BFP form takes an even accumulator, and only a BFP form has a second operand. -/
def AccstFmt.wf (o : AccstFmt) : Bool :=
  o.a.pairOk &&
  (match o.mode with
   | .bfp _ => o.b.pairOk && o.acc.val % 2 == 0
   | _ => o.b == .q 0)

/-- The instruction's operands obey every rule of the spec that does not depend on the context. -/
def Instr.wf : Instr → Bool
  | .add o | .sub o | .addc o | .subb o | .mul o | .mulh o | .mulhn o | .div o | .divn o | .rem o | .remn o | .min o
  | .max o | .minn o | .maxn o | .addsat o | .subsat o | .sla o | .and o | .or o | .xor o | .andn o | .bfx o | .shl o
  | .shr o | .sar o | .rot o | .fadd o | .fsub o | .fmul o | .fdiv o | .fmin o | .fmax o | .fsgn o => o.wf
  | .mad o | .bfi o | .dot4 o | .ffma o => o.wf
  | .sel o => o.wf
  | .addi o | .muli o | .andi o | .ori o | .xori o => o.wf
  | .shli o | .shri o | .sari o | .roti o => o.wf
  | .neg o | .abs o | .not o | .clz o | .popc o | .brev o | .mov o | .frcp o | .fsqrt o | .frsq o | .fexp2 o | .flog2 o
  | .fsin o | .fcos o | .fclass o => o.wf
  | .frnd o => o.wf
  | .prfmaF16 o | .prfmaB16 o => o.wf
  | .pradd o | .prsub o | .prmul o | .prmin o | .prmax o => o.wf
  | .cvt o => o.wf
  | .pack o | .unpk o | .bfpx o => o.wf
  | .bfpq o => o.wfQ
  | .relay o => !o.d.isK
  | .census o => !o.d.isK && (o.mode != .live || o.a == .q 0)
  | .redg o | .scang o => !o.d.isK
  | .peers o => !o.d.isK
  | .leader o => !o.d.isK
  | .ldbMu o | .ldbzMu o | .ldhMu o | .ldhzMu o | .ldwMu o => o.d.sizeOk 4
  | .lddMu o => o.d.sizeOk 8
  | .ldqMu o => o.d.sizeOk 16
  | .ldk o => o.d.isK
  | .stdMu o => o.a.sizeOk 8
  | .stqMu o => o.a.sizeOk 16
  | .lds o | .ldl o => o.wf
  | .sts o | .stl o => o.wf
  | .ldbMp o | .ldbzMp o | .ldhMp o | .ldhzMp o | .ldwMp o | .ldacq o => o.d.sizeOk 4
  | .lddMp o => o.d.sizeOk 8
  | .ldqMp o => o.d.sizeOk 16
  | .stdMp o => o.a.sizeOk 8
  | .stqMp o => o.a.sizeOk 16
  | .atom o => o.wf
  | .cas o => o.wf
  | .red o => o.wf
  | .atoms o => o.wf
  | .cass o => o.wf
  | .pref a _ => a.pairOk
  | .cflush a _ => a.pairOk
  | .cinv a => a.pairOk
  | .stashmap _ b _ => b.pairOk
  | .swgen d _ => !d.isLowK
  | .deq d _ => !d.isK
  | .enqtry _ _ st => !st.isK
  | .deqtry d _ st => !d.isK && !st.isK
  | .chpoll d _ => !d.isK
  | .copy o | .copyg o => o.wf
  | .regrp o => o.wfRegrp
  | .recld _ b scratch => scratch || b.pairOk
  | .gensetSeed _ b => b.pairOk
  | .genrd d _ _ => !d.isLowK
  | .accrd d _ _ => !d.isK
  | .acccvt acc fmt =>
    match fmt with
    | .bfp _ => acc.val % 2 == 0
    | _ => true
  | .accst o => o.wf
  | .stamp _ b stage => stage == .opn || b == .q 0
  | .rep o => o.n != 0
  | .frame f => 1 ≤ f.toNat && f.toNat ≤ 32
  | .time d => d.pairOk
  | .svcgive a _ => a.pairOk
  | .tlbinv a _ => a.pairOk
  | _ => true

end Sys2Proof
end

