-- ==== Sys2Proof/Decode.lean ====
section
/-! DEFINITION. Decoding of a 32-bit instruction word (R206, R212 to R225), total and rejecting by name, and the
encoder written from the same tables. Fields are taken with division and remainder, so that `omega` can reason about
them. Every rejection is an illegal-instruction (R224, rows 3 to 5). -/

namespace Sys2Proof

/-- Why a word is not an instruction (R224, rows 3, 4 and 5). -/
inductive DecodeError where
  | unassignedOpcode
  | reservedField
  | unassignedSelector
  | operandCode
  deriving DecidableEq, Repr

/-- Bits [lo+n-1:lo] of a word. -/
def fld (w lo n : Nat) : Nat := w / 2 ^ lo % 2 ^ n

/-! ## Codes of the operand and option types -/

/-- R215. -/
def Src.code : Src → Nat
  | .q i => i.val
  | .n i => 16 + i.val
  | .k i => 48 + i.val
def Src.ofCode (c : Nat) : Src :=
  if c < 16 then .q (Fin.ofNat 16 c) else if c < 48 then .n (Fin.ofNat 32 (c - 16)) else .k (Fin.ofNat 16 (c - 48))

/-- R216: codes 48 to 62 are illegal. -/
def Dst.code : Dst → Nat
  | .n i => i.val
  | .k i => 32 + i.val
  | .push => 63
def Dst.ofCode (c : Nat) : Option Dst :=
  if c < 32 then some (.n (Fin.ofNat 32 c)) else if c < 48 then some (.k (Fin.ofNat 16 (c - 32)))
  else if c = 63 then some .push else none

/-- R219. -/
def Cond.code : Cond → Nat
  | .al => 0
  | .eq => 1
  | .ne => 2
  | .lt => 3
  | .ge => 4
  | .gt => 5
  | .le => 6
  | .lo => 7
  | .hs => 8
  | .hi => 9
  | .ls => 10
  | .mi => 11
  | .pl => 12
  | .vs => 13
  | .vc => 14
  | .nv => 15
def Cond.ofCode : Nat → Cond
  | 0 => .al
  | 1 => .eq
  | 2 => .ne
  | 3 => .lt
  | 4 => .ge
  | 5 => .gt
  | 6 => .le
  | 7 => .lo
  | 8 => .hs
  | 9 => .hi
  | 10 => .ls
  | 11 => .mi
  | 12 => .pl
  | 13 => .vs
  | 14 => .vc
  | _ => .nv

/-- R219: [5:4] the cc register, [3:0] the condition. -/
def Guard.code (g : Guard) : Nat := 16 * g.cc.val + g.cond.code
def Guard.ofCode (c : Nat) : Guard := ⟨Fin.ofNat 4 (c / 16), Cond.ofCode (c % 16)⟩

/-- R53. -/
def RM.code : RM → Nat
  | .rne => 0
  | .rtz => 1
  | .rup => 2
  | .rdn => 3
def RM.ofCode : Nat → RM
  | 0 => .rne
  | 1 => .rtz
  | 2 => .rup
  | _ => .rdn

/-- R212. -/
def NumTy.code : NumTy → Nat
  | .i8 => 0
  | .i16 => 1
  | .i32 => 2
  | .i64 => 3
  | .n8 => 4
  | .n16 => 5
  | .n32 => 6
  | .n64 => 7
  | .fp16 => 8
  | .bf16 => 9
  | .fp32 => 10
def NumTy.ofCode : Nat → Option NumTy
  | 0 => some .i8
  | 1 => some .i16
  | 2 => some .i32
  | 3 => some .i64
  | 4 => some .n8
  | 5 => some .n16
  | 6 => some .n32
  | 7 => some .n64
  | 8 => some .fp16
  | 9 => some .bf16
  | 10 => some .fp32
  | _ => none

/-- R223, opcode 0x3C. -/
def HalfTy.code : HalfTy → Nat
  | .f16 => 0
  | .b16 => 1
def HalfTy.ofCode : Nat → HalfTy
  | 0 => .f16
  | _ => .b16

/-- R223, opcode 0x3E: w - 2; the value 7 is unassigned. -/
def BfpW.code : BfpW → Nat
  | .w2 => 0
  | .w3 => 1
  | .w4 => 2
  | .w5 => 3
  | .w6 => 4
  | .w7 => 5
  | .w8 => 6
def BfpW.ofCode : Nat → Option BfpW
  | 0 => some .w2
  | 1 => some .w3
  | 2 => some .w4
  | 3 => some .w5
  | 4 => some .w6
  | 5 => some .w7
  | 6 => some .w8
  | _ => none

/-- R128. -/
def Scope.code : Scope → Nat
  | .grp => 0
  | .clu => 1
  | .dev => 2
  | .sys => 3
def Scope.ofCode : Nat → Scope
  | 0 => .grp
  | 1 => .clu
  | 2 => .dev
  | _ => .sys

/-- R113. -/
def Policy.code : Policy → Nat
  | .dflt => 0
  | .byp => 1
  | .strm => 2
  | .sys => 3
def Policy.ofCode : Nat → Policy
  | 0 => .dflt
  | 1 => .byp
  | 2 => .strm
  | _ => .sys

/-- R213: ord. -/
def MemOrd.code : MemOrd → Nat
  | .none => 0
  | .acq => 1
  | .rel => 2
  | .both => 3
def MemOrd.ofCode : Nat → MemOrd
  | 0 => .none
  | 1 => .acq
  | 2 => .rel
  | _ => .both

/-- R281. -/
def Aop.code : Aop → Nat
  | .add => 0
  | .min => 1
  | .max => 2
  | .minn => 3
  | .maxn => 4
  | .and => 5
  | .or => 6
  | .xor => 7
  | .swap => 8
  | .fadd => 9
  | .faddRa => 10
  | .add64 => 11
  | .swap64 => 12
def Aop.ofCode : Nat → Option Aop
  | 0 => some .add
  | 1 => some .min
  | 2 => some .max
  | 3 => some .minn
  | 4 => some .maxn
  | 5 => some .and
  | 6 => some .or
  | 7 => some .xor
  | 8 => some .swap
  | 9 => some .fadd
  | 10 => some .faddRa
  | 11 => some .add64
  | 12 => some .swap64
  | _ => none

/-- R213: the size codes of the S format. -/
def SSize.code : SSize → Nat
  | .b => 0
  | .bz => 1
  | .h => 2
  | .hz => 3
  | .w => 4
  | .d => 5
  | .q => 6
def SSize.ofCode : Nat → Option SSize
  | 0 => some .b
  | 1 => some .bz
  | 2 => some .h
  | 3 => some .hz
  | 4 => some .w
  | 5 => some .d
  | 6 => some .q
  | _ => none

/-- R262. -/
def RelayMode.code : RelayMode → Nat
  | .atThread => 0
  | .behind => 1
  | .ahead => 2
  | .flip => 3
def RelayMode.ofCode : Nat → RelayMode
  | 0 => .atThread
  | 1 => .behind
  | 2 => .ahead
  | _ => .flip

/-- R263. -/
def CensusMode.code : CensusMode → Nat
  | .every => 0
  | .some => 1
  | .mask => 2
  | .live => 3
def CensusMode.ofCode : Nat → CensusMode
  | 0 => .every
  | 1 => .some
  | 2 => .mask
  | _ => .live

/-- R264. -/
def RedMode.code : RedMode → Nat
  | .add => 0
  | .min => 1
  | .max => 2
  | .minn => 3
  | .maxn => 4
  | .and => 5
  | .or => 6
  | .fadd => 7
def RedMode.ofCode : Nat → RedMode
  | 0 => .add
  | 1 => .min
  | 2 => .max
  | 3 => .minn
  | 4 => .maxn
  | 5 => .and
  | 6 => .or
  | _ => .fadd

/-- R265. -/
def PeersMode.code : PeersMode → Nat
  | .eq => 0
  | .uniform => 1
def PeersMode.ofCode : Nat → PeersMode
  | 0 => .eq
  | _ => .uniform

/-- R265. -/
def LeaderMode.code : LeaderMode → Nat
  | .flag => 0
  | .id => 1
def LeaderMode.ofCode : Nat → LeaderMode
  | 0 => .flag
  | _ => .id

/-- R277: FENCE kinds. -/
def FenceKind.code : FenceKind → Nat
  | .acq => 0
  | .rel => 1
  | .ar => 2
  | .sc => 3
def FenceKind.ofCode : Nat → Option FenceKind
  | 0 => some .acq
  | 1 => some .rel
  | 2 => some .ar
  | 3 => some .sc
  | _ => none

/-- R315. -/
def Comb.code : Comb → Nat
  | .add => 0
  | .min => 1
  | .max => 2
  | .minn => 3
  | .maxn => 4
  | .fadd => 5
  | .fmin => 6
  | .fmax => 7
def Comb.ofCode : Nat → Comb
  | 0 => .add
  | 1 => .min
  | 2 => .max
  | 3 => .minn
  | 4 => .maxn
  | 5 => .fadd
  | 6 => .fmin
  | _ => .fmax

/-- R342. -/
def AdjMode.code : AdjMode → Nat
  | .tap => 0
  | .outer => 1
  | .kstep => 2
def AdjMode.ofCode : Nat → Option AdjMode
  | 0 => some .tap
  | 1 => some .outer
  | 2 => some .kstep
  | _ => none

/-- R355: formats 0 to 8. -/
def AccFmt.code : AccFmt → Nat
  | .fp16 => 0
  | .bf16 => 1
  | .bfp w => 2 + w.code
def AccFmt.ofCode (c : Nat) : Option AccFmt :=
  if c = 0 then some .fp16 else if c = 1 then some .bf16 else (BfpW.ofCode (c - 2)).map .bfp

/-- R356: modes 0 to 10. -/
def StMode.code : StMode → Nat
  | .w32 => 0
  | .w16 => 1
  | .fp16 => 2
  | .bf16 => 3
  | .bfp w => 4 + w.code
def StMode.ofCode (c : Nat) : Option StMode :=
  if c = 0 then some .w32 else if c = 1 then some .w16 else if c = 2 then some .fp16 else if c = 3 then some .bf16
  else (BfpW.ofCode (c - 4)).map .bfp

/-- R359. -/
def Stage.code : Stage → Nat
  | .opn => 0
  | .cin => 1
  | .opw => 2
  | .mma => 3
  | .cout => 4
  | .retire => 5
def Stage.ofCode : Nat → Option Stage
  | 0 => some .opn
  | 1 => some .cin
  | 2 => some .opw
  | 3 => some .mma
  | 4 => some .cout
  | 5 => some .retire
  | _ => none

/-! ## Decoding by format -/

abbrev Decoded := Except DecodeError Instr

/-- Reads the destination field [24:19]. -/
def withDst (w : Nat) (k : Dst → Decoded) : Decoded :=
  match Dst.ofCode (fld w 19 6) with
  | some d => k d
  | none => .error .operandCode

/-- Continues where a value is assigned. -/
def withSome {α : Type} (x : Option α) (k : α → Decoded) : Decoded :=
  match x with
  | some a => k a
  | none => .error .unassignedSelector

/-- Continues where a reserved field is zero. -/
def zeroField (x : Nat) (k : Decoded) : Decoded := if x = 0 then k else .error .reservedField

def srcA (w : Nat) : Src := Src.ofCode (fld w 13 6)
def srcB (w : Nat) : Src := Src.ofCode (fld w 7 6)
def srcTop (w : Nat) : Src := Src.ofCode (fld w 19 6)
def fldGuard (w : Nat) : Guard := Guard.ofCode (fld w 0 6)
def flag (w i : Nat) : Bool := fld w i 1 == 1

/-- R format (R212). -/
def decR (f : RFmt → Instr) (w : Nat) : Decoded :=
  withDst w fun d => .ok (f ⟨d, srcA w, srcB w, flag w 6, fldGuard w⟩)
/-- Compare (R248): [24:21] and F are reserved. -/
def decCmp (f : CmpFmt → Instr) (w : Nat) : Decoded :=
  zeroField (fld w 21 4) (zeroField (fld w 6 1) (.ok (f ⟨Fin.ofNat 4 (fld w 19 2), srcA w, srcB w, fldGuard w⟩)))
/-- SEL (R249): F is reserved. -/
def decSel (f : SelFmt → Instr) (w : Nat) : Decoded :=
  withDst w fun d => zeroField (fld w 6 1) (.ok (f ⟨d, srcA w, srcB w, fldGuard w⟩))
/-- T format (R212). -/
def decT (f : TFmt → Instr) (w : Nat) : Decoded :=
  withDst w fun d => .ok (f ⟨d, srcA w, srcB w, Src.ofCode (fld w 1 6), flag w 0⟩)
/-- T format with F reserved (R255). -/
def decT0 (f : T0Fmt → Instr) (w : Nat) : Decoded :=
  withDst w fun d => zeroField (fld w 0 1) (.ok (f ⟨d, srcA w, srcB w, Src.ofCode (fld w 1 6)⟩))
/-- I format (R212). -/
def decI (f : IFmt → Instr) (w : Nat) : Decoded :=
  withDst w fun d => .ok (f ⟨d, srcA w, BitVec.ofNat 13 (fld w 0 13)⟩)
/-- Immediate shift (R221): imm13[12:5] is reserved. -/
def decSh (f : ShFmt → Instr) (w : Nat) : Decoded :=
  withDst w fun d => zeroField (fld w 5 8) (.ok (f ⟨d, srcA w, BitVec.ofNat 5 (fld w 0 5)⟩))
/-- CMPI (R221). -/
def decCmpi (f : CmpiFmt → Instr) (w : Nat) : Decoded :=
  zeroField (fld w 21 4) (.ok (f ⟨Fin.ofNat 4 (fld w 19 2), srcA w, BitVec.ofNat 13 (fld w 0 13)⟩))
/-- MOVI (R221): srcA is reserved. -/
def decMovi (f : MoviFmt → Instr) (w : Nat) : Decoded :=
  withDst w fun d => zeroField (fld w 13 6) (.ok (f ⟨d, BitVec.ofNat 13 (fld w 0 13)⟩))
/-- LDHI (R212). -/
def decL (f : LFmt → Instr) (w : Nat) : Decoded :=
  withDst w fun d => .ok (f ⟨d, BitVec.ofNat 19 (fld w 0 19)⟩)
/-- A unary opcode of the R format (R223). -/
def decU (f : UFmt → Instr) (w : Nat) : Decoded :=
  withDst w fun d => .ok (f ⟨d, srcA w, flag w 6, fldGuard w⟩)
/-- FRND (R223): the selector is 8 + rm. -/
def decFrnd (f : FrndFmt → Instr) (w : Nat) : Decoded :=
  withDst w fun d => .ok (f ⟨d, srcA w, RM.ofCode (fld w 7 2), flag w 6, fldGuard w⟩)
/-- Packed pairs (R223, R255). -/
def decPr (f : PrFmt → Instr) (w : Nat) : Decoded :=
  withDst w fun d => .ok (f ⟨d, srcA w, srcB w, HalfTy.ofCode (fld w 4 1)⟩)
/-- CVT (R212, R256): [1:0] is reserved. -/
def decV (f : VFmt → Instr) (w : Nat) : Decoded :=
  withDst w fun d => withSome (NumTy.ofCode (fld w 9 4)) fun s => withSome (NumTy.ofCode (fld w 5 4)) fun t =>
    zeroField (fld w 0 2) (.ok (f ⟨d, srcA w, s, t, RM.ofCode (fld w 3 2), flag w 2⟩))
/-- Narrow instructions (R223, R257). -/
def decNar (f : NarFmt → Instr) (w : Nat) : Decoded :=
  withDst w fun d => withSome (BfpW.ofCode (fld w 2 3)) fun bw => .ok (f ⟨d, srcA w, srcB w, bw, flag w 1⟩)

/-- MU load (R213). -/
def decMuLd (f : MuLd → Instr) (w : Nat) : Decoded :=
  withDst w fun d => .ok (f ⟨d, Fin.ofNat 16 (fld w 15 4), Fin.ofNat 32 (fld w 10 5), flag w 9,
    BitVec.ofNat 5 (fld w 4 5), Policy.ofCode (fld w 2 2), Scope.ofCode (fld w 0 2)⟩)
/-- MU store (R213). -/
def decMuSt (f : MuSt → Instr) (w : Nat) : Decoded :=
  .ok (f ⟨srcTop w, Fin.ofNat 16 (fld w 15 4), Fin.ofNat 32 (fld w 10 5), flag w 9,
    BitVec.ofNat 5 (fld w 4 5), Policy.ofCode (fld w 2 2), Scope.ofCode (fld w 0 2)⟩)
/-- LDK (R274): index and X are reserved. -/
def decLdk (f : LdkFmt → Instr) (w : Nat) : Decoded :=
  withDst w fun d => zeroField (fld w 9 6) (.ok (f ⟨d, Fin.ofNat 16 (fld w 15 4),
    BitVec.ofNat 5 (fld w 4 5), Policy.ofCode (fld w 2 2), Scope.ofCode (fld w 0 2)⟩))
/-- MP load (R213). -/
def decMpLd (f : MpLd → Instr) (w : Nat) : Decoded :=
  withDst w fun d => .ok (f ⟨d, Fin.ofNat 16 (fld w 15 4), BitVec.ofNat 5 (fld w 10 5),
    Policy.ofCode (fld w 8 2), Scope.ofCode (fld w 6 2), fldGuard w⟩)
/-- MP store (R213). -/
def decMpSt (f : MpSt → Instr) (w : Nat) : Decoded :=
  .ok (f ⟨srcTop w, Fin.ofNat 16 (fld w 15 4), BitVec.ofNat 5 (fld w 10 5),
    Policy.ofCode (fld w 8 2), Scope.ofCode (fld w 6 2), fldGuard w⟩)
/-- S format load (R213). -/
def decSLd (f : SLd → Instr) (w : Nat) : Decoded :=
  withDst w fun d => withSome (SSize.ofCode (fld w 10 3)) fun z =>
    .ok (f ⟨d, srcA w, z, BitVec.ofNat 7 (fld w 2 7), Scope.ofCode (fld w 0 2)⟩)
/-- S format store (R213). -/
def decSSt (f : SSt → Instr) (w : Nat) : Decoded :=
  withSome (SSize.ofCode (fld w 10 3)) fun z =>
    .ok (f ⟨srcTop w, srcA w, z, BitVec.ofNat 7 (fld w 2 7), Scope.ofCode (fld w 0 2)⟩)
/-- W format (R213). -/
def decW (f : WFmt → Instr) (w : Nat) : Decoded :=
  zeroField (fld w 0 1) (.ok (f ⟨BitVec.ofNat 6 (fld w 19 6), BitVec.ofNat 6 (fld w 13 6), BitVec.ofNat 6 (fld w 7 6),
    BitVec.ofNat 6 (fld w 1 6)⟩))
/-- ATOM (R282). -/
def decAtom (f : AtomFmt → Instr) (w : Nat) : Decoded :=
  withDst w fun d => withSome (Aop.ofCode (fld w 5 4)) fun op =>
    .ok (f ⟨d, Fin.ofNat 16 (fld w 15 4), Src.ofCode (fld w 9 6), op, MemOrd.ofCode (fld w 3 2),
      Scope.ofCode (fld w 1 2), flag w 0⟩)
/-- CAS (R283): aop is 0. -/
def decCas (f : CasFmt → Instr) (w : Nat) : Decoded :=
  withDst w fun d => zeroField (fld w 5 4)
    (.ok (f ⟨d, Fin.ofNat 16 (fld w 15 4), Src.ofCode (fld w 9 6), MemOrd.ofCode (fld w 3 2),
      Scope.ofCode (fld w 1 2), flag w 0⟩))
/-- RED (R284): dest is 63, ord is 0 or 2. -/
def decRed (f : RedMemFmt → Instr) (w : Nat) : Decoded :=
  if fld w 19 6 = 63 then
    withSome (Aop.ofCode (fld w 5 4)) fun op => zeroField (fld w 3 1)
      (.ok (f ⟨Fin.ofNat 16 (fld w 15 4), Src.ofCode (fld w 9 6), op, flag w 4, Scope.ofCode (fld w 1 2), flag w 0⟩))
  else .error .operandCode
/-- ATOMS and CASS (R285): the kind bit selects; CASS has aop 0. -/
def decAs (w : Nat) : Decoded :=
  withDst w fun d =>
    if fld w 2 1 = 0 then
      withSome (Aop.ofCode (fld w 3 4)) fun op => .ok (.atoms ⟨d, srcA w, srcB w, op, Scope.ofCode (fld w 0 2)⟩)
    else zeroField (fld w 3 4) (.ok (.cass ⟨d, srcA w, srcB w, Scope.ofCode (fld w 0 2)⟩))

/-- The zero fields of a G word: a, b, c, the scope and bit [0], each where it must be zero (R214, R277, R303, R333). -/
def gA0 (w : Nat) (k : Decoded) : Decoded := zeroField (fld w 19 6) k
def gB0 (w : Nat) (k : Decoded) : Decoded := zeroField (fld w 13 6) k
def gC0 (w : Nat) (k : Decoded) : Decoded := zeroField (fld w 7 6) k
def gS0 (w : Nat) (k : Decoded) : Decoded := zeroField (fld w 0 3) k
def gR0 (w : Nat) (k : Decoded) : Decoded := zeroField (fld w 0 1) k
def gScope (w : Nat) : Scope := Scope.ofCode (fld w 1 2)
/-- An immediate in a 6-bit field, below `n` (R277, R333). -/
def withImm (n : Nat) (v : Nat) (k : Decoded) : Decoded := if v < n then k else .error .unassignedSelector
/-- The destination in field c (R277). -/
def withDstC (w : Nat) (k : Dst → Decoded) : Decoded :=
  match Dst.ofCode (fld w 7 6) with
  | some d => k d
  | none => .error .operandCode

/-- COPY, COPYG and REGRP (R277). -/
def decCopy (f : CopyFmt → Instr) (w : Nat) : Decoded :=
  gR0 w (.ok (f ⟨srcTop w, srcA w, srcB w, gScope w⟩))
/-- X format (R214): [2:0] is reserved. -/
def decX (f : XFmt → Instr) (w : Nat) : Decoded :=
  zeroField (fld w 0 3) (.ok (f ⟨Fin.ofNat 4 (fld w 23 2), Fin.ofNat 16 (fld w 19 4), Fin.ofNat 16 (fld w 15 4),
    BitVec.ofNat 8 (fld w 7 8), Fin.ofNat 8 (fld w 4 3), flag w 3⟩))
/-- ACCST (R333, R356). -/
def decAccst (w : Nat) : Decoded :=
  withSome (StMode.ofCode (fld w 3 4)) fun m => gR0 w
    (.ok (.accst ⟨srcTop w, srcA w, Fin.ofNat 4 (fld w 7 2), Fin.ofNat 8 (fld w 9 3), flag w 12, m, gScope w⟩))
/-- B format (R214). -/
def decB (f : BFmt → Instr) (w : Nat) : Decoded :=
  .ok (f ⟨Guard.ofCode (fld w 19 6), BitVec.ofNat 19 (fld w 0 19)⟩)
/-- CREW (R214): [1:0] is reserved. -/
def decCrew (w : Nat) : Decoded :=
  zeroField (fld w 0 2) (.ok (.crew ⟨srcTop w, srcA w, Fin.ofNat 16 (fld w 9 4), Fin.ofNat 8 (fld w 6 3), flag w 5,
    Comb.ofCode (fld w 2 3)⟩))

/-! ## The shared opcodes (R223) -/

/-- 0x2C. -/
def decIntUnary (w : Nat) : Decoded :=
  match fld w 7 6 with
  | 0 => decU .neg w
  | 1 => decU .abs w
  | 2 => decU .not w
  | 3 => decU .clz w
  | 4 => decU .popc w
  | 5 => decU .brev w
  | 6 => decU .mov w
  | _ => .error .unassignedSelector
/-- 0x39. -/
def decFpUnary (w : Nat) : Decoded :=
  match fld w 7 6 with
  | 0 => decU .frcp w
  | 1 => decU .fsqrt w
  | 2 => decU .frsq w
  | 3 => decU .fexp2 w
  | 4 => decU .flog2 w
  | 5 => decU .fsin w
  | 6 => decU .fcos w
  | 7 => decU .fclass w
  | 8 | 9 | 10 | 11 => decFrnd .frnd w
  | _ => .error .unassignedSelector
/-- 0x3C: fn = 8·type + op; [0] is reserved. -/
def decPacked (w : Nat) : Decoded :=
  gR0 w <| if 2 ≤ fld w 4 3 then .error .unassignedSelector else
  match fld w 1 3 with
  | 0 => decPr .pradd w
  | 1 => decPr .prsub w
  | 2 => decPr .prmul w
  | 3 => decPr .prmin w
  | 4 => decPr .prmax w
  | _ => .error .unassignedSelector
/-- 0x3E: fn = 16·op + 2·(w − 2) + o; [0] is reserved. -/
def decNarrow (w : Nat) : Decoded :=
  gR0 w <|
  match fld w 5 2 with
  | 0 => decNar .pack w
  | 1 => decNar .unpk w
  | 2 => decNar .bfpq w
  | _ => decNar .bfpx w
/-- 0x3F: fn = 8·op + mode; [0] is reserved; unused sources are reserved (R260). -/
def decCross (w : Nat) : Decoded :=
  gR0 w <| withDst w fun d =>
  match fld w 4 3 with
  | 0 => if fld w 1 3 < 4 then .ok (.relay ⟨d, srcA w, srcB w, RelayMode.ofCode (fld w 1 3)⟩)
         else .error .unassignedSelector
  | 1 => if fld w 1 3 < 4 then gC0 w (.ok (.census ⟨d, srcA w, CensusMode.ofCode (fld w 1 3)⟩))
         else .error .unassignedSelector
  | 2 => gC0 w (.ok (.redg ⟨d, srcA w, RedMode.ofCode (fld w 1 3)⟩))
  | 3 => gC0 w (.ok (.scang ⟨d, srcA w, RedMode.ofCode (fld w 1 3)⟩))
  | 4 => if fld w 1 3 < 2 then gC0 w (.ok (.peers ⟨d, srcA w, PeersMode.ofCode (fld w 1 3)⟩))
         else .error .unassignedSelector
  | 5 => if fld w 1 3 < 2 then gB0 w (gC0 w (.ok (.leader ⟨d, LeaderMode.ofCode (fld w 1 3)⟩)))
         else .error .unassignedSelector
  | _ => .error .unassignedSelector
/-- 0x4D and 0x4E: the space bit [9]. -/
def decLoadS (w : Nat) : Decoded := if fld w 9 1 = 0 then decSLd .lds w else decSLd .ldl w
def decStoreS (w : Nat) : Decoded := if fld w 9 1 = 0 then decSSt .sts w else decSSt .stl w
/-- 0x62 (R277). -/
def decCache (w : Nat) : Decoded :=
  match fld w 3 4 with
  | 0 => gC0 w (gS0 w (withImm 2 (fld w 13 6) (.ok (.pref (srcTop w) (flag w 13)))))
  | 1 => gB0 w (gC0 w (gR0 w (.ok (.cflush (srcTop w) (gScope w)))))
  | 2 => gB0 w (gC0 w (gS0 w (.ok (.cinv (srcTop w)))))
  | 3 => gA0 w (gB0 w (gR0 w (withSome (FenceKind.ofCode (fld w 7 6)) fun k => .ok (.fence k (gScope w)))))
  | 4 => gS0 w (.ok (.stashmap (srcTop w) (srcA w) (srcB w)))
  | 5 => gB0 w (gS0 w (.ok (.stashwb (srcTop w) (srcB w))))
  | 6 => gB0 w (gS0 w (.ok (.stashdrop (srcTop w) (srcB w))))
  | _ => .error .unassignedSelector
/-- 0x63 (R277). -/
def decSync (w : Nat) : Decoded :=
  match fld w 3 4 with
  | 0 => gC0 w (gS0 w (.ok (.swinit (srcTop w) (srcA w))))
  | 1 => gC0 w (gR0 w (.ok (.swwait (srcTop w) (srcA w) (gScope w))))
  | 2 => gC0 w (gS0 w (withDst w fun d => .ok (.swgen d (srcA w))))
  | _ => .error .unassignedSelector
/-- 0x64 (R277). -/
def decQueue (w : Nat) : Decoded :=
  gS0 w <| withImm 16 (fld w 13 6) <|
  match fld w 3 4 with
  | 0 => gC0 w (.ok (.enq (srcTop w) (Fin.ofNat 16 (fld w 13 6))))
  | 1 => gC0 w (withDst w fun d => .ok (.deq d (Fin.ofNat 16 (fld w 13 6))))
  | 2 => withDstC w fun st => .ok (.enqtry (srcTop w) (Fin.ofNat 16 (fld w 13 6)) st)
  | 3 => withDst w fun d => withDstC w fun st => .ok (.deqtry d (Fin.ofNat 16 (fld w 13 6)) st)
  | _ => .error .unassignedSelector
/-- 0x65 (R277). -/
def decChannel (w : Nat) : Decoded :=
  gS0 w <| gC0 w <| withImm 16 (fld w 13 6) <|
  match fld w 3 4 with
  | 0 => .ok (.chsend (srcTop w) (Fin.ofNat 16 (fld w 13 6)))
  | 1 => .ok (.chrecv (srcTop w) (Fin.ofNat 16 (fld w 13 6)))
  | 2 => withDst w fun d => .ok (.chpoll d (Fin.ofNat 16 (fld w 13 6)))
  | _ => .error .unassignedSelector
/-- 0x66 (R277). -/
def decBarrier (w : Nat) : Decoded :=
  gS0 w <| gC0 w <| gB0 w <|
  match fld w 3 4 with
  | 0 => .ok (.bararr (srcTop w))
  | 1 => .ok (.barwait (srcTop w))
  | 2 => .ok (.barsync (srcTop w))
  | 3 => .ok (.syncm (srcTop w))
  | _ => .error .unassignedSelector
/-- 0x67 (R277). -/
def decCopies (w : Nat) : Decoded :=
  match fld w 3 4 with
  | 0 => decCopy .copy w
  | 1 => decCopy .copyg w
  | 2 => decCopy .regrp w
  | 3 => gB0 w (gC0 w (gR0 w (.ok (.publish (srcTop w) (gScope w)))))
  | _ => .error .unassignedSelector
/-- 0x6B (R333). -/
def decRecord (w : Nat) : Decoded :=
  gS0 w <| withImm 16 (fld w 19 6) <|
  match fld w 3 4 with
  | 0 => withImm 2 (fld w 7 6) (.ok (.recld (Fin.ofNat 16 (fld w 19 6)) (srcA w) (flag w 7)))
  | 1 => withImm 8 (fld w 13 6) (.ok (.recset (Fin.ofNat 16 (fld w 19 6)) (Fin.ofNat 8 (fld w 13 6)) (srcB w)))
  | 2 => withSome (AdjMode.ofCode (fld w 7 6)) fun m => .ok (.recadj (Fin.ofNat 16 (fld w 19 6)) (srcA w) m)
  | _ => .error .unassignedSelector
/-- 0x6C (R333): GENSET modes in a[3:2], GENADV modes in a[2]. -/
def decGen (w : Nat) : Decoded :=
  gS0 w <|
  match fld w 3 4 with
  | 0 =>
    match fld w 21 4 with
    | 0 => gC0 w (.ok (.gensetSeed (Fin.ofNat 4 (fld w 19 2)) (srcA w)))
    | 1 => .ok (.gensetCtl (Fin.ofNat 4 (fld w 19 2)) (srcA w) (srcB w))
    | 2 => gC0 w (.ok (.gensetFreq (Fin.ofNat 4 (fld w 19 2)) (srcA w)))
    | _ => .error .unassignedSelector
  | 1 =>
    match fld w 21 4 with
    | 0 => gC0 w (.ok (.genadvStream (Fin.ofNat 4 (fld w 19 2)) (srcA w)))
    | 1 => gC0 w (.ok (.genadvSeed (Fin.ofNat 4 (fld w 19 2)) (srcA w)))
    | _ => .error .unassignedSelector
  | 2 => withImm 16 (fld w 13 6) (withDst w fun d => .ok (.genrd d (Fin.ofNat 16 (fld w 13 6)) (srcB w)))
  | _ => .error .unassignedSelector
/-- 0x6D (R333). -/
def decAcc (w : Nat) : Decoded :=
  gS0 w <|
  match fld w 3 4 with
  | 0 => withImm 4 (fld w 13 6) (withDst w fun d => .ok (.accrd d (Fin.ofNat 4 (fld w 13 6)) (srcB w)))
  | 1 => withImm 4 (fld w 19 6) (.ok (.accwr (Fin.ofNat 4 (fld w 19 6)) (srcA w) (srcB w)))
  | 2 => gB0 w (gC0 w (withImm 4 (fld w 19 6) (.ok (.accclr (Fin.ofNat 4 (fld w 19 6))))))
  | 3 => gC0 w (withImm 4 (fld w 19 6) (withSome (AccFmt.ofCode (fld w 13 6)) fun m =>
      .ok (.acccvt (Fin.ofNat 4 (fld w 19 6)) m)))
  | _ => .error .unassignedSelector
/-- 0x6F (R333, R359). -/
def decStamp (w : Nat) : Decoded :=
  gS0 w <| gC0 w <| withSome (Stage.ofCode (fld w 3 4)) fun st => .ok (.stamp (srcTop w) (srcA w) st)
/-- 0x78 (R303). -/
def decFlow (w : Nat) : Decoded :=
  gS0 w <| gB0 w <| gC0 w <|
  match fld w 3 4 with
  | 0 => .ok (.brx (srcTop w))
  | 1 => .ok (.callx (srcTop w))
  | 2 => gA0 w (.ok .ret)
  | 3 => gA0 w (.ok .exit)
  | 4 => gA0 w (.ok .nop)
  | 5 => gA0 w (.ok .yield)
  | 6 => gA0 w (.ok .rejoin)
  | 7 => gA0 w (.ok .eret)
  | _ => .error .unassignedSelector
/-- 0x79 (R303). -/
def decSystem (w : Nat) : Decoded :=
  gS0 w <| gC0 w <|
  match fld w 3 4 with
  | 0 => gA0 w (gB0 w (.ok .ckpt))
  | 1 => gB0 w (withDst w fun d => .ok (.time d))
  | 2 => gA0 w (.ok (.trap (BitVec.ofNat 6 (fld w 13 6))))
  | 3 => gA0 w (.ok (.brk (BitVec.ofNat 6 (fld w 13 6))))
  | 4 => gB0 w (.ok (.crewacc (srcTop w)))
  | 5 => gA0 w (gB0 w (.ok .crewend))
  | 6 => gB0 w (.ok (.post (srcTop w)))
  | 7 => gB0 w (if fld w 19 6 < 32 ∧ fld w 19 3 = 0 then .ok (.svctake (Fin.ofNat 4 (fld w 22 2)))
      else .error .operandCode)
  | 8 => .ok (.svcgive (srcTop w) (srcA w))
  | 9 => .ok (.tlbinv (srcTop w) (srcA w))
  | 10 =>
    match fld w 13 6 with
    | 0 => .ok (.diagMark (srcTop w))
    | 1 => withDst w fun d => .ok (.diagMask d)
    | _ => .error .unassignedSelector
  | _ => .error .unassignedSelector

/-! ## The opcode map (R222) -/

def decRow00 (w : Nat) : Decoded :=
  match fld w 25 3 with
  | 0 => decR .add w
  | 1 => decR .sub w
  | 2 => decR .addc w
  | 3 => decR .subb w
  | 4 => decR .mul w
  | 5 => decR .mulh w
  | 6 => decR .mulhn w
  | _ => decT .mad w
def decRow08 (w : Nat) : Decoded :=
  match fld w 25 3 with
  | 0 => decR .div w
  | 1 => decR .divn w
  | 2 => decR .rem w
  | 3 => decR .remn w
  | 4 => decR .min w
  | 5 => decR .max w
  | 6 => decR .minn w
  | _ => decR .maxn w
def decRow10 (w : Nat) : Decoded :=
  match fld w 25 3 with
  | 0 => decR .addsat w
  | 1 => decR .subsat w
  | 2 => decR .sla w
  | 3 => decR .and w
  | 4 => decR .or w
  | 5 => decR .xor w
  | 6 => decR .andn w
  | _ => decR .bfx w
def decRow18 (w : Nat) : Decoded :=
  match fld w 25 3 with
  | 0 => decR .shl w
  | 1 => decR .shr w
  | 2 => decR .sar w
  | 3 => decR .rot w
  | 4 => decCmp .cmp w
  | 5 => decCmp .cmpn w
  | 6 => decCmp .tst w
  | _ => decSel .sel w
def decRow20 (w : Nat) : Decoded :=
  match fld w 25 3 with
  | 0 => decI .addi w
  | 1 => decI .muli w
  | 2 => decI .andi w
  | 3 => decI .ori w
  | 4 => decI .xori w
  | 5 => decSh .shli w
  | 6 => decSh .shri w
  | _ => decSh .sari w
def decRow28 (w : Nat) : Decoded :=
  match fld w 25 3 with
  | 0 => decSh .roti w
  | 1 => decCmpi .cmpi w
  | 2 => decMovi .movi w
  | 3 => decL .ldhi w
  | 4 => decIntUnary w
  | 5 => decT .bfi w
  | 6 => decT .dot4 w
  | _ => .error .unassignedOpcode
def decRow30 (w : Nat) : Decoded :=
  match fld w 25 3 with
  | 0 => decR .fadd w
  | 1 => decR .fsub w
  | 2 => decR .fmul w
  | 3 => decR .fdiv w
  | 4 => decR .fmin w
  | 5 => decR .fmax w
  | 6 => decR .fsgn w
  | _ => decCmp .fcmp w
def decRow38 (w : Nat) : Decoded :=
  match fld w 25 3 with
  | 0 => decT .ffma w
  | 1 => decFpUnary w
  | 2 => decT0 .prfmaF16 w
  | 3 => decT0 .prfmaB16 w
  | 4 => decPacked w
  | 5 => decV .cvt w
  | 6 => decNarrow w
  | _ => decCross w
def decRow40 (w : Nat) : Decoded :=
  match fld w 25 3 with
  | 0 => decMuLd .ldbMu w
  | 1 => decMuLd .ldbzMu w
  | 2 => decMuLd .ldhMu w
  | 3 => decMuLd .ldhzMu w
  | 4 => decMuLd .ldwMu w
  | 5 => decMuLd .lddMu w
  | 6 => decMuLd .ldqMu w
  | _ => decLdk .ldk w
def decRow48 (w : Nat) : Decoded :=
  match fld w 25 3 with
  | 0 => decMuSt .stbMu w
  | 1 => decMuSt .sthMu w
  | 2 => decMuSt .stwMu w
  | 3 => decMuSt .stdMu w
  | 4 => decMuSt .stqMu w
  | 5 => decLoadS w
  | 6 => decStoreS w
  | _ => decW .wait w
def decRow50 (w : Nat) : Decoded :=
  match fld w 25 3 with
  | 0 => decMpLd .ldbMp w
  | 1 => decMpLd .ldbzMp w
  | 2 => decMpLd .ldhMp w
  | 3 => decMpLd .ldhzMp w
  | 4 => decMpLd .ldwMp w
  | 5 => decMpLd .lddMp w
  | 6 => decMpLd .ldqMp w
  | _ => decMpLd .ldacq w
def decRow58 (w : Nat) : Decoded :=
  match fld w 25 3 with
  | 0 => decMpSt .stbMp w
  | 1 => decMpSt .sthMp w
  | 2 => decMpSt .stwMp w
  | 3 => decMpSt .stdMp w
  | 4 => decMpSt .stqMp w
  | 5 => decMpSt .strel w
  | 6 => decAtom .atom w
  | _ => decCas .cas w
def decRow60 (w : Nat) : Decoded :=
  match fld w 25 3 with
  | 0 => decRed .red w
  | 1 => decAs w
  | 2 => decCache w
  | 3 => decSync w
  | 4 => decQueue w
  | 5 => decChannel w
  | 6 => decBarrier w
  | _ => decCopies w
def decRow68 (w : Nat) : Decoded :=
  match fld w 25 3 with
  | 0 => decX .mma w
  | 1 => decX .mmas w
  | 2 => decX .mmat w
  | 3 => decRecord w
  | 4 => decGen w
  | 5 => decAcc w
  | 6 => decAccst w
  | _ => decStamp w
def decRow70 (w : Nat) : Decoded :=
  match fld w 25 3 with
  | 0 => decB .bra w
  | 1 => decB .call w
  | 2 => decB .meet w
  | 3 => .ok (.rep ⟨BitVec.ofNat 12 (fld w 13 12), BitVec.ofNat 13 (fld w 0 13)⟩)
  | 4 => zeroField (fld w 0 19) (.ok (.frame (BitVec.ofNat 6 (fld w 19 6))))
  | 5 => decCrew w
  | 6 => zeroField (fld w 0 7) (withDst w fun d => .ok (.rdsys d (BitVec.ofNat 12 (fld w 7 12))))
  | _ => zeroField (fld w 0 7) (.ok (.wrsys (srcTop w) (BitVec.ofNat 12 (fld w 7 12))))
def decRow78 (w : Nat) : Decoded :=
  match fld w 25 3 with
  | 0 => decFlow w
  | 1 => decSystem w
  | _ => .error .unassignedOpcode

/-- The fields of a word, reserved fields checked (R222 to R224, rows 3 and 4, and codes of R216). -/
def decodeFields (w : Nat) : Decoded :=
  match fld w 28 4 with
  | 0 => decRow00 w
  | 1 => decRow08 w
  | 2 => decRow10 w
  | 3 => decRow18 w
  | 4 => decRow20 w
  | 5 => decRow28 w
  | 6 => decRow30 w
  | 7 => decRow38 w
  | 8 => decRow40 w
  | 9 => decRow48 w
  | 10 => decRow50 w
  | 11 => decRow58 w
  | 12 => decRow60 w
  | 13 => decRow68 w
  | 14 => decRow70 w
  | _ => decRow78 w

/-- R222 to R224: the instruction of a 32-bit word, or why it is none. -/
def decode (w : Word) : Except DecodeError Instr :=
  match decodeFields w.toNat with
  | .ok i => if i.wf then .ok i else .error .operandCode
  | .error e => .error e

/-- R206: the word that four bytes hold, the first at the lowest address. -/
def wordOfBytes (b0 b1 b2 b3 : Byte) : Word :=
  BitVec.ofNat 32 (b0.toNat + 256 * b1.toNat + 65536 * b2.toNat + 16777216 * b3.toNat)

/-- The bytes of a word in memory order (R206). -/
def bytesOfWord (w : Word) : List Byte :=
  [BitVec.ofNat 8 w.toNat, BitVec.ofNat 8 (w.toNat / 256), BitVec.ofNat 8 (w.toNat / 65536),
   BitVec.ofNat 8 (w.toNat / 16777216)]

/-- Decodes the first instruction of a byte stream and gives the rest. -/
def decodeBytes : List Byte → Except DecodeError (Instr × List Byte)
  | b0 :: b1 :: b2 :: b3 :: rest =>
    match decode (wordOfBytes b0 b1 b2 b3) with
    | .ok i => .ok (i, rest)
    | .error e => .error e
  | _ => .error .reservedField

/-- The instruction that the decoder reads from a table word: its four bytes, laid out as the hardware stores them.
DEDUCED: log entry 19. -/
def decodeTableWord (nbits w : Nat) : Option Instr :=
  if nbits = 0 then none else
  match decodeBytes (bytesOfWord (BitVec.ofNat 32 (w % 2 ^ nbits))) with
  | .ok (i, _) => some i
  | .error _ => none

/-! ## Encoding -/

def opw (op : Nat) (rest : Nat) : Nat := op * 2 ^ 25 + rest
def bit (b : Bool) : Nat := if b then 1 else 0

def encR (op : Nat) (o : RFmt) : Nat :=
  opw op (o.d.code * 2 ^ 19 + o.a.code * 2 ^ 13 + o.b.code * 2 ^ 7 + bit o.f * 2 ^ 6 + o.g.code)
def encCmp (op : Nat) (o : CmpFmt) : Nat :=
  opw op (o.cc.val * 2 ^ 19 + o.a.code * 2 ^ 13 + o.b.code * 2 ^ 7 + o.g.code)
def encSel (op : Nat) (o : SelFmt) : Nat :=
  opw op (o.d.code * 2 ^ 19 + o.a.code * 2 ^ 13 + o.b.code * 2 ^ 7 + o.g.code)
def encT (op : Nat) (o : TFmt) : Nat :=
  opw op (o.d.code * 2 ^ 19 + o.a.code * 2 ^ 13 + o.b.code * 2 ^ 7 + o.c.code * 2 + bit o.f)
def encT0 (op : Nat) (o : T0Fmt) : Nat :=
  opw op (o.d.code * 2 ^ 19 + o.a.code * 2 ^ 13 + o.b.code * 2 ^ 7 + o.c.code * 2)
def encI (op : Nat) (o : IFmt) : Nat := opw op (o.d.code * 2 ^ 19 + o.a.code * 2 ^ 13 + o.imm.toNat)
def encSh (op : Nat) (o : ShFmt) : Nat := opw op (o.d.code * 2 ^ 19 + o.a.code * 2 ^ 13 + o.n.toNat)
def encCmpi (op : Nat) (o : CmpiFmt) : Nat := opw op (o.cc.val * 2 ^ 19 + o.a.code * 2 ^ 13 + o.imm.toNat)
def encMovi (op : Nat) (o : MoviFmt) : Nat := opw op (o.d.code * 2 ^ 19 + o.imm.toNat)
def encL (op : Nat) (o : LFmt) : Nat := opw op (o.d.code * 2 ^ 19 + o.imm.toNat)
def encU (op fn : Nat) (o : UFmt) : Nat :=
  opw op (o.d.code * 2 ^ 19 + o.a.code * 2 ^ 13 + fn * 2 ^ 7 + bit o.f * 2 ^ 6 + o.g.code)
def encFrnd (op : Nat) (o : FrndFmt) : Nat :=
  opw op (o.d.code * 2 ^ 19 + o.a.code * 2 ^ 13 + (8 + o.rm.code) * 2 ^ 7 + bit o.f * 2 ^ 6 + o.g.code)
def encE (op fn : Nat) (d : Dst) (a b : Nat) : Nat :=
  opw op (d.code * 2 ^ 19 + a * 2 ^ 13 + b * 2 ^ 7 + fn * 2)
def encPr (op fn : Nat) (o : PrFmt) : Nat := encE op (8 * o.ty.code + fn) o.d o.a.code o.b.code
def encNar (op fn : Nat) (o : NarFmt) : Nat := encE op (16 * fn + 2 * o.w.code + bit o.o) o.d o.a.code o.b.code
def encV (op : Nat) (o : VFmt) : Nat :=
  opw op (o.d.code * 2 ^ 19 + o.a.code * 2 ^ 13 + o.src.code * 2 ^ 9 + o.dst.code * 2 ^ 5 + o.rm.code * 2 ^ 3 +
    bit o.sat * 2 ^ 2)
def encMu (op data : Nat) (kp : Fin 16) (ix : Nat) (x : Bool) (imm : BitVec 5) (pol : Policy) (sc : Scope) : Nat :=
  opw op (data * 2 ^ 19 + kp.val * 2 ^ 15 + ix * 2 ^ 10 + bit x * 2 ^ 9 + imm.toNat * 2 ^ 4 + pol.code * 2 ^ 2 +
    sc.code)
def encMuLd (op : Nat) (o : MuLd) : Nat := encMu op o.d.code o.kp o.ix.val o.x o.imm o.pol o.sc
def encMuSt (op : Nat) (o : MuSt) : Nat := encMu op o.a.code o.kp o.ix.val o.x o.imm o.pol o.sc
def encMp (op data : Nat) (np : Fin 16) (imm : BitVec 5) (pol : Policy) (sc : Scope) (g : Guard) : Nat :=
  opw op (data * 2 ^ 19 + np.val * 2 ^ 15 + imm.toNat * 2 ^ 10 + pol.code * 2 ^ 8 + sc.code * 2 ^ 6 + g.code)
def encMpLd (op : Nat) (o : MpLd) : Nat := encMp op o.d.code o.np o.imm o.pol o.sc o.g
def encMpSt (op : Nat) (o : MpSt) : Nat := encMp op o.a.code o.np o.imm o.pol o.sc o.g
def encS (op data : Nat) (base : Src) (size : SSize) (space : Nat) (imm : BitVec 7) (sc : Scope) : Nat :=
  opw op (data * 2 ^ 19 + base.code * 2 ^ 13 + size.code * 2 ^ 10 + space * 2 ^ 9 + imm.toNat * 2 ^ 2 + sc.code)
def encA (op dest : Nat) (np : Fin 16) (v : Src) (aop ord : Nat) (sc : Scope) (p : Bool) : Nat :=
  opw op (dest * 2 ^ 19 + np.val * 2 ^ 15 + v.code * 2 ^ 9 + aop * 2 ^ 5 + ord * 2 ^ 3 + sc.code * 2 + bit p)
def encAs (op : Nat) (d : Dst) (base v : Src) (aop kind : Nat) (sc : Scope) : Nat :=
  opw op (d.code * 2 ^ 19 + base.code * 2 ^ 13 + v.code * 2 ^ 7 + aop * 2 ^ 3 + kind * 2 ^ 2 + sc.code)
def encG (op fn a b c scope : Nat) : Nat :=
  opw op (a * 2 ^ 19 + b * 2 ^ 13 + c * 2 ^ 7 + fn * 2 ^ 3 + scope * 2)
def encCopy (fn : Nat) (o : CopyFmt) : Nat := encG 0x67 fn o.a.code o.b.code o.c.code o.sc.code
def encX (op : Nat) (o : XFmt) : Nat :=
  opw op (o.acc.val * 2 ^ 23 + o.ra.val * 2 ^ 19 + o.rb.val * 2 ^ 15 + o.wait.toNat * 2 ^ 7 + o.set.val * 2 ^ 4 +
    bit o.z * 2 ^ 3)
def encB (op : Nat) (o : BFmt) : Nat := opw op (o.g.code * 2 ^ 19 + o.off.toNat)

/-- The word of an instruction, as a number; none for an event, which has no encoding. -/
def encodeNat : Instr → Option Nat
  | .add o => some (encR 0x00 o)
  | .sub o => some (encR 0x01 o)
  | .addc o => some (encR 0x02 o)
  | .subb o => some (encR 0x03 o)
  | .mul o => some (encR 0x04 o)
  | .mulh o => some (encR 0x05 o)
  | .mulhn o => some (encR 0x06 o)
  | .mad o => some (encT 0x07 o)
  | .div o => some (encR 0x08 o)
  | .divn o => some (encR 0x09 o)
  | .rem o => some (encR 0x0A o)
  | .remn o => some (encR 0x0B o)
  | .min o => some (encR 0x0C o)
  | .max o => some (encR 0x0D o)
  | .minn o => some (encR 0x0E o)
  | .maxn o => some (encR 0x0F o)
  | .addsat o => some (encR 0x10 o)
  | .subsat o => some (encR 0x11 o)
  | .sla o => some (encR 0x12 o)
  | .and o => some (encR 0x13 o)
  | .or o => some (encR 0x14 o)
  | .xor o => some (encR 0x15 o)
  | .andn o => some (encR 0x16 o)
  | .bfx o => some (encR 0x17 o)
  | .shl o => some (encR 0x18 o)
  | .shr o => some (encR 0x19 o)
  | .sar o => some (encR 0x1A o)
  | .rot o => some (encR 0x1B o)
  | .cmp o => some (encCmp 0x1C o)
  | .cmpn o => some (encCmp 0x1D o)
  | .tst o => some (encCmp 0x1E o)
  | .sel o => some (encSel 0x1F o)
  | .addi o => some (encI 0x20 o)
  | .muli o => some (encI 0x21 o)
  | .andi o => some (encI 0x22 o)
  | .ori o => some (encI 0x23 o)
  | .xori o => some (encI 0x24 o)
  | .shli o => some (encSh 0x25 o)
  | .shri o => some (encSh 0x26 o)
  | .sari o => some (encSh 0x27 o)
  | .roti o => some (encSh 0x28 o)
  | .cmpi o => some (encCmpi 0x29 o)
  | .movi o => some (encMovi 0x2A o)
  | .ldhi o => some (encL 0x2B o)
  | .bfi o => some (encT 0x2D o)
  | .dot4 o => some (encT 0x2E o)
  | .fadd o => some (encR 0x30 o)
  | .fsub o => some (encR 0x31 o)
  | .fmul o => some (encR 0x32 o)
  | .fdiv o => some (encR 0x33 o)
  | .fmin o => some (encR 0x34 o)
  | .fmax o => some (encR 0x35 o)
  | .fsgn o => some (encR 0x36 o)
  | .fcmp o => some (encCmp 0x37 o)
  | .ffma o => some (encT 0x38 o)
  | .prfmaF16 o => some (encT0 0x3A o)
  | .prfmaB16 o => some (encT0 0x3B o)
  | .cvt o => some (encV 0x3D o)
  | .ldbMu o => some (encMuLd 0x40 o)
  | .ldbzMu o => some (encMuLd 0x41 o)
  | .ldhMu o => some (encMuLd 0x42 o)
  | .ldhzMu o => some (encMuLd 0x43 o)
  | .ldwMu o => some (encMuLd 0x44 o)
  | .lddMu o => some (encMuLd 0x45 o)
  | .ldqMu o => some (encMuLd 0x46 o)
  | .stbMu o => some (encMuSt 0x48 o)
  | .sthMu o => some (encMuSt 0x49 o)
  | .stwMu o => some (encMuSt 0x4A o)
  | .stdMu o => some (encMuSt 0x4B o)
  | .stqMu o => some (encMuSt 0x4C o)
  | .ldbMp o => some (encMpLd 0x50 o)
  | .ldbzMp o => some (encMpLd 0x51 o)
  | .ldhMp o => some (encMpLd 0x52 o)
  | .ldhzMp o => some (encMpLd 0x53 o)
  | .ldwMp o => some (encMpLd 0x54 o)
  | .lddMp o => some (encMpLd 0x55 o)
  | .ldqMp o => some (encMpLd 0x56 o)
  | .ldacq o => some (encMpLd 0x57 o)
  | .stbMp o => some (encMpSt 0x58 o)
  | .sthMp o => some (encMpSt 0x59 o)
  | .stwMp o => some (encMpSt 0x5A o)
  | .stdMp o => some (encMpSt 0x5B o)
  | .stqMp o => some (encMpSt 0x5C o)
  | .strel o => some (encMpSt 0x5D o)
  | .mma o => some (encX 0x68 o)
  | .mmas o => some (encX 0x69 o)
  | .mmat o => some (encX 0x6A o)
  | .bra o => some (encB 0x70 o)
  | .call o => some (encB 0x71 o)
  | .meet o => some (encB 0x72 o)
  | .neg o => some (encU 0x2C 0 o)
  | .abs o => some (encU 0x2C 1 o)
  | .not o => some (encU 0x2C 2 o)
  | .clz o => some (encU 0x2C 3 o)
  | .popc o => some (encU 0x2C 4 o)
  | .brev o => some (encU 0x2C 5 o)
  | .mov o => some (encU 0x2C 6 o)
  | .frcp o => some (encU 0x39 0 o)
  | .fsqrt o => some (encU 0x39 1 o)
  | .frsq o => some (encU 0x39 2 o)
  | .fexp2 o => some (encU 0x39 3 o)
  | .flog2 o => some (encU 0x39 4 o)
  | .fsin o => some (encU 0x39 5 o)
  | .fcos o => some (encU 0x39 6 o)
  | .fclass o => some (encU 0x39 7 o)
  | .frnd o => some (encFrnd 0x39 o)
  | .pradd o => some (encPr 0x3C 0 o)
  | .prsub o => some (encPr 0x3C 1 o)
  | .prmul o => some (encPr 0x3C 2 o)
  | .prmin o => some (encPr 0x3C 3 o)
  | .prmax o => some (encPr 0x3C 4 o)
  | .pack o => some (encNar 0x3E 0 o)
  | .unpk o => some (encNar 0x3E 1 o)
  | .bfpq o => some (encNar 0x3E 2 o)
  | .bfpx o => some (encNar 0x3E 3 o)
  | .relay o => some (encE 0x3F o.mode.code o.d o.a.code o.b.code)
  | .census o => some (encE 0x3F (8 + o.mode.code) o.d o.a.code 0)
  | .redg o => some (encE 0x3F (16 + o.mode.code) o.d o.a.code 0)
  | .scang o => some (encE 0x3F (24 + o.mode.code) o.d o.a.code 0)
  | .peers o => some (encE 0x3F (32 + o.mode.code) o.d o.a.code 0)
  | .leader o => some (encE 0x3F (40 + o.mode.code) o.d 0 0)
  | .ldk o => some (encMu 0x47 o.d.code o.kp 0 false o.imm o.pol o.sc)
  | .lds o => some (encS 0x4D o.d.code o.base o.size 0 o.imm o.sc)
  | .ldl o => some (encS 0x4D o.d.code o.base o.size 1 o.imm o.sc)
  | .sts o => some (encS 0x4E o.a.code o.base o.size 0 o.imm o.sc)
  | .stl o => some (encS 0x4E o.a.code o.base o.size 1 o.imm o.sc)
  | .wait o => some (opw 0x4F (o.ld.toNat * 2 ^ 19 + o.st.toNat * 2 ^ 13 + o.cp.toNat * 2 ^ 7 + o.tl.toNat * 2))
  | .atom o => some (encA 0x5E o.d.code o.np o.v o.aop.code o.ord.code o.sc o.p)
  | .cas o => some (encA 0x5F o.d.code o.np o.v 0 o.ord.code o.sc o.p)
  | .red o => some (encA 0x60 63 o.np o.v o.aop.code (2 * bit o.rel) o.sc o.p)
  | .atoms o => some (encAs 0x61 o.d o.base o.v o.aop.code 0 o.sc)
  | .cass o => some (encAs 0x61 o.d o.base o.v 0 1 o.sc)
  | .pref a l2 => some (encG 0x62 0 a.code (bit l2) 0 0)
  | .cflush a sc => some (encG 0x62 1 a.code 0 0 sc.code)
  | .cinv a => some (encG 0x62 2 a.code 0 0 0)
  | .fence k sc => some (encG 0x62 3 0 0 k.code sc.code)
  | .stashmap a b c => some (encG 0x62 4 a.code b.code c.code 0)
  | .stashwb a c => some (encG 0x62 5 a.code 0 c.code 0)
  | .stashdrop a c => some (encG 0x62 6 a.code 0 c.code 0)
  | .swinit a b => some (encG 0x63 0 a.code b.code 0 0)
  | .swwait a b sc => some (encG 0x63 1 a.code b.code 0 sc.code)
  | .swgen d b => some (encG 0x63 2 d.code b.code 0 0)
  | .enq a qn => some (encG 0x64 0 a.code qn.val 0 0)
  | .deq d qn => some (encG 0x64 1 d.code qn.val 0 0)
  | .enqtry a qn st => some (encG 0x64 2 a.code qn.val st.code 0)
  | .deqtry d qn st => some (encG 0x64 3 d.code qn.val st.code 0)
  | .chsend a ch => some (encG 0x65 0 a.code ch.val 0 0)
  | .chrecv a ch => some (encG 0x65 1 a.code ch.val 0 0)
  | .chpoll d ch => some (encG 0x65 2 d.code ch.val 0 0)
  | .bararr a => some (encG 0x66 0 a.code 0 0 0)
  | .barwait a => some (encG 0x66 1 a.code 0 0 0)
  | .barsync a => some (encG 0x66 2 a.code 0 0 0)
  | .syncm a => some (encG 0x66 3 a.code 0 0 0)
  | .copy o => some (encCopy 0 o)
  | .copyg o => some (encCopy 1 o)
  | .regrp o => some (encCopy 2 o)
  | .publish a sc => some (encG 0x67 3 a.code 0 0 sc.code)
  | .recld x b scratch => some (encG 0x6B 0 x.val b.code (bit scratch) 0)
  | .recset x wi c => some (encG 0x6B 1 x.val wi.val c.code 0)
  | .recadj x b m => some (encG 0x6B 2 x.val b.code m.code 0)
  | .gensetSeed g b => some (encG 0x6C 0 g.val b.code 0 0)
  | .gensetCtl g b c => some (encG 0x6C 0 (4 + g.val) b.code c.code 0)
  | .gensetFreq g b => some (encG 0x6C 0 (8 + g.val) b.code 0 0)
  | .genadvStream g b => some (encG 0x6C 1 g.val b.code 0 0)
  | .genadvSeed g b => some (encG 0x6C 1 (4 + g.val) b.code 0 0)
  | .genrd d x c => some (encG 0x6C 2 d.code x.val c.code 0)
  | .accrd d acc c => some (encG 0x6D 0 d.code acc.val c.code 0)
  | .accwr acc b c => some (encG 0x6D 1 acc.val b.code c.code 0)
  | .accclr acc => some (encG 0x6D 2 acc.val 0 0 0)
  | .acccvt acc m => some (encG 0x6D 3 acc.val m.code 0 0)
  | .accst o => some (encG 0x6E o.mode.code o.a.code o.b.code (32 * bit o.shadow + 4 * o.slot.val + o.acc.val) o.sc.code)
  | .stamp a b st => some (encG 0x6F st.code a.code b.code 0 0)
  | .rep o => some (opw 0x73 (o.n.toNat * 2 ^ 13 + o.s.toNat))
  | .frame f => some (opw 0x74 (f.toNat * 2 ^ 19))
  | .crew o => some (opw 0x75 (o.lo.code * 2 ^ 19 + o.count.code * 2 ^ 13 + o.c.val * 2 ^ 9 + o.h.val * 2 ^ 6 + bit o.reach * 2 ^ 5 +
      o.comb.code * 2 ^ 2))
  | .rdsys d n => some (opw 0x76 (d.code * 2 ^ 19 + n.toNat * 2 ^ 7))
  | .wrsys a n => some (opw 0x77 (a.code * 2 ^ 19 + n.toNat * 2 ^ 7))
  | .brx a => some (encG 0x78 0 a.code 0 0 0)
  | .callx a => some (encG 0x78 1 a.code 0 0 0)
  | .ret => some (encG 0x78 2 0 0 0 0)
  | .exit => some (encG 0x78 3 0 0 0 0)
  | .nop => some (encG 0x78 4 0 0 0 0)
  | .yield => some (encG 0x78 5 0 0 0 0)
  | .rejoin => some (encG 0x78 6 0 0 0 0)
  | .eret => some (encG 0x78 7 0 0 0 0)
  | .ckpt => some (encG 0x79 0 0 0 0 0)
  | .time d => some (encG 0x79 1 d.code 0 0 0)
  | .trap b => some (encG 0x79 2 0 b.toNat 0 0)
  | .brk b => some (encG 0x79 3 0 b.toNat 0 0)
  | .crewacc a => some (encG 0x79 4 a.code 0 0 0)
  | .crewend => some (encG 0x79 5 0 0 0 0)
  | .post a => some (encG 0x79 6 a.code 0 0 0)
  | .svctake d => some (encG 0x79 7 (8 * d.val) 0 0 0)
  | .svcgive a b => some (encG 0x79 8 a.code b.code 0 0)
  | .tlbinv a b => some (encG 0x79 9 a.code b.code 0 0)
  | .diagMark a => some (encG 0x79 10 a.code 0 0 0)
  | .diagMask d => some (encG 0x79 10 d.code 1 0 0)
  | _ => none

/-- R206, R212 to R223: the word of a well-formed instruction; none for an event. -/
def encode (i : Instr) : Option Word := (encodeNat i).map (BitVec.ofNat 32)

end Sys2Proof
end

