-- ==== Sys2Proof/Config.lean ====
section
/-! DEFINITION. What one device has fixed and the manual leaves open: constants with no body, so that no proof can see
their value, and the BAR0 offsets of R425 to R427. -/

namespace Sys2Proof.Config

/-- The device is of grade -X rather than -C (R2). Free: DESIGN CHOICE, log entry 3. -/
opaque gradeX : Bool
/-- The serial number (R426, R435). Free: DESIGN CHOICE, log entry 3. -/
opaque serial : BitVec 64
/-- Byte `i` of what the supervisor adds to an identity claim of given content: its header, its signatures and the certificates
(R434, R435). Free: DESIGN CHOICE, log entry 3. -/
opaque claimByte : List (BitVec 8) → Nat → BitVec 8
/-- The size in bytes of those additions (R435). Free: DESIGN CHOICE, log entry 3. -/
opaque claimSize : Nat
/-- Byte `i` of the SHA-384 digest that the header of an image of given bytes holds, whose place the manual does not give (R434).
Free: DESIGN CHOICE, log entry 3. -/
opaque imageSha : List (BitVec 8) → Nat → BitVec 8

/-- What the checks of R434 find in the bytes of a recovery image: both signatures, the digest, the keys, and the security
version. Free: DESIGN CHOICE, log entry 3. -/
opaque imageCheck : List (BitVec 8) → Bool × Bool × Bool × Nat
/-- The stall reason of the `n`-th free value (R418), whose codes the manual does not give. Free: DESIGN CHOICE, log entry 3. -/
opaque stallReason : Nat → BitVec 32

/-- How the K7 orders one instruction's atomics on one location, and groups the additions of .FADD.RA (R144, R282, R284):
choice `i` of operation `op`. Free: DESIGN CHOICE, log entry 8. -/
opaque sumPick (op i : Nat) : Nat

/-- Which of the lines that may leave a cache of unit `unit` does, when line `line` enters it at CYCLE `now` and it is full
(R12, R104, R105, R110). Free: DESIGN CHOICE, log entry 22. -/
opaque victim (now unit line : Nat) : Nat
/-- The clk in which a flit of core `core` waits behind another partition's flit (R203). Free: DESIGN CHOICE, log entry 103. -/
opaque interferes (now core : Nat) : Bool

/-- R2. -/
def deviceId : BitVec 64 := if gradeX then 0x7480A101#64 else 0x7480A102#64

/-! ## BAR0 offsets (R425 to R427) -/

def oBootStatus : Nat := 0x0008
def oTimeCtl : Nat := 0x0100
def oPhcNs : Nat := 0x0108
def oPhcAdj : Nat := 0x0110
def oPhcStep : Nat := 0x0118
def oPtmCtl : Nat := 0x0120
def oPtmT1 : Nat := 0x0128
def oPpsLatch : Nat := 0x0148
def oPortbStatus : Nat := 0x0200
def oPartCtl : Nat := 0x0300
def oPowerLimit : Nat := 0x0400
def oThermStatus : Nat := 0x0408
def oMbxCtl : Nat := 0x1000
def oMbxStatus : Nat := 0x1008
def oMbxData : Nat := 0x1100
def oContext (e : Nat) : Nat := 0x100000 + 16 * e
def oPartition (w : Nat) : Nat := 0x110000 + 8 * w
def oFormat (f : Nat) : Nat := 0x120000 + 0x20 * f
def oQueueReg (q : Nat) : Nat := 0x130000 + 0x20 * q
def oPairCtl (p : Nat) : Nat := 0x140000 + 8 * p
def oErrors : Nat := 0x200000
/-- The base of partition d's block. -/
def oPart (d : Nat) : Nat := 0x1000000 + d * 0x400000
def oIntegArea : Nat := 0x0
def oHoldLimit : Nat := 0x8
def oWdLimit : Nat := 0x10
def oTbCtl : Nat := 0x20
def oFrBase : Nat := 0x40
def oFrCtl : Nat := 0x48
def oFrWr : Nat := 0x50
def oFrRd : Nat := 0x58
def oFrLost : Nat := 0x60
def oTrBase : Nat := 0x80
def oTrCtl : Nat := 0x88
def oTrWr : Nat := 0x90
def oTrRd : Nat := 0x98
def oTrLost : Nat := 0xA0
def oSaveBase : Nat := 0xC0
def oSaveSize : Nat := 0xC8
def oDumpBase : Nat := 0xE0
def oDumpSize : Nat := 0xE8
def oDumpCtl : Nat := 0xF0
def oDumpTgt : Nat := 0xF8
def oDbgCtl : Nat := 0x100
def oDbgTgt : Nat := 0x108
def oCancelCtl : Nat := 0x180
def oCancelArg : Nat := 0x188
def oRetention (r : Nat) : Nat := 0x1000 + 0x10 * r
def oPhase (n : Nat) : Nat := 0x2000 + 0x20 * n
def oPublication (e : Nat) : Nat := 0x4000 + 0x20 * e
def oGraph (g : Nat) : Nat := 0x10000 + 8 * g
def oNode (n : Nat) : Nat := 0x20000 + 0x10 * n

end Sys2Proof.Config
end

