-- ==== Sys2Proof/Machine/Flags.lean ====
section
/-! DEFINITION. Condition flags (R80, R219), the flag rules of R239, and the results of the integer lane operations
with their flags (R240 to R248, R259). -/

namespace Sys2Proof.Machine

/-- One condition-code register: S, Z, C and V (R80). -/
structure Flags where
  s : Bool := false
  z : Bool := false
  c : Bool := false
  v : Bool := false
  deriving DecidableEq, Repr

/-- R219: a condition tested on flags. -/
def condHolds (f : Flags) : Cond → Bool
  | .al => true
  | .eq => f.z
  | .ne => !f.z
  | .lt => f.s != f.v
  | .ge => f.s == f.v
  | .gt => !f.z && f.s == f.v
  | .le => f.z || f.s != f.v
  | .lo => !f.c
  | .hs => f.c
  | .hi => f.c && !f.z
  | .ls => !f.c || f.z
  | .mi => f.s
  | .pl => !f.s
  | .vs => f.v
  | .vc => !f.v
  | .nv => false

/-- S and Z of a 32-bit result (R239), with the given C and V. -/
def flagsSZ (r : Word) (c v : Bool) : Flags := ⟨r.msb, r == 0, c, v⟩

/-- A result and the flags it would write. -/
abbrev LaneResult := Word × Flags

/-- The exact integer lies outside I32 (R49). -/
def outsideI32 (x : Int) : Bool := x < -2147483648 || 2147483647 < x

/-- `sat_i(v, w)` (R226). -/
def satI (x : Int) (w : Nat) : Int :=
  if x < -(2 ^ (w - 1)) then -(2 ^ (w - 1)) else if 2 ^ (w - 1) - 1 < x then 2 ^ (w - 1) - 1 else x

/-- `sat_n(v, w)` (R226). -/
def satN (x : Int) (w : Nat) : Int := if x < 0 then 0 else if 2 ^ w - 1 < x then 2 ^ w - 1 else x

/-- `wrap32(v)` (R226). -/
def wrap32 (x : Int) : Word := BitVec.ofInt 32 x

/-- `sext(v, w)` of a number (R226). -/
def sextNat (v w : Nat) : Int :=
  if 2 ^ (w - 1) ≤ v % 2 ^ w then (v % 2 ^ w : Nat) - (2 ^ w : Nat) else (v % 2 ^ w : Nat)

/-! ## Add and subtract (R240) -/

def opAdd (a b : Word) : LaneResult :=
  (a + b, flagsSZ (a + b) (4294967296 ≤ a.toNat + b.toNat) (outsideI32 (a.toInt + b.toInt)))

def opSub (a b : Word) : LaneResult :=
  (a - b, flagsSZ (a - b) (b.toNat ≤ a.toNat) (outsideI32 (a.toInt - b.toInt)))

def carryNat (c : Bool) : Nat := if c then 1 else 0

def opAddc (cin : Bool) (a b : Word) : LaneResult :=
  let r := a + b + BitVec.ofNat 32 (carryNat cin)
  (r, flagsSZ r (4294967296 ≤ a.toNat + b.toNat + carryNat cin) (outsideI32 (a.toInt + b.toInt + carryNat cin)))

def opSubb (cin : Bool) (a b : Word) : LaneResult :=
  let r := a - b - BitVec.ofNat 32 (1 - carryNat cin)
  (r, flagsSZ r (b.toNat + 1 ≤ a.toNat + carryNat cin) (outsideI32 (a.toInt - b.toInt - (1 - (carryNat cin : Int)))))

def opNeg (a : Word) : LaneResult := (-a, flagsSZ (-a) (a == 0) (a == 0x80000000#32))

/-! ## Multiply and divide (R241, R242, R50) -/

def opMul (a b : Word) : LaneResult := (a * b, flagsSZ (a * b) false (outsideI32 (a.toInt * b.toInt)))

def opMulh (a b : Word) : LaneResult :=
  let r := BitVec.ofInt 32 ((a.toInt * b.toInt) / 4294967296)
  (r, flagsSZ r false false)

def opMulhn (a b : Word) : LaneResult :=
  let r := BitVec.ofNat 32 (a.toNat * b.toNat / 4294967296)
  (r, flagsSZ r false false)

def opMad (a b c : Word) : LaneResult := (a * b + c, flagsSZ (a * b + c) false false)

/-- R50: the edge cases of signed division. -/
def divEdge (a b : Word) : Bool := b == 0 || (a == 0x80000000#32 && b == 0xFFFFFFFF#32)

def opDiv (a b : Word) : LaneResult :=
  let r : Word :=
    if b = 0 then (if a.msb then 0x80000001#32 else 0x7FFFFFFF#32)
    else if a = 0x80000000#32 ∧ b = 0xFFFFFFFF#32 then 0x80000000#32
    else BitVec.ofInt 32 (Int.tdiv a.toInt b.toInt)
  (r, flagsSZ r false (divEdge a b))

def opRem (a b : Word) : LaneResult :=
  let r : Word :=
    if b = 0 then a
    else if a = 0x80000000#32 ∧ b = 0xFFFFFFFF#32 then 0
    else BitVec.ofInt 32 (Int.tmod a.toInt b.toInt)
  (r, flagsSZ r false (divEdge a b))

def opDivn (a b : Word) : LaneResult :=
  let r : Word := if b = 0 then 0xFFFFFFFF#32 else BitVec.ofNat 32 (a.toNat / b.toNat)
  (r, flagsSZ r false (b == 0))

def opRemn (a b : Word) : LaneResult :=
  let r : Word := if b = 0 then a else BitVec.ofNat 32 (a.toNat % b.toNat)
  (r, flagsSZ r false (b == 0))

/-! ## Minimum, maximum, absolute value, saturation (R243) -/

def minI (a b : Word) : Word := if a.toInt ≤ b.toInt then a else b
def maxI (a b : Word) : Word := if a.toInt ≤ b.toInt then b else a
def minN (a b : Word) : Word := if a.toNat ≤ b.toNat then a else b
def maxN (a b : Word) : Word := if a.toNat ≤ b.toNat then b else a

/-- A result whose C and V are clear (R239). -/
def plain (r : Word) : LaneResult := (r, flagsSZ r false false)

def opAbs (a : Word) : LaneResult :=
  let r : Word := if a.msb then -a else a
  (r, flagsSZ r false (a == 0x80000000#32))

/-- A 32-bit saturation with V set when it clamped. -/
def opSat (x : Int) : LaneResult := (wrap32 (satI x 32), flagsSZ (wrap32 (satI x 32)) false (outsideI32 x))

def opAddsat (a b : Word) : LaneResult := opSat (a.toInt + b.toInt)
def opSubsat (a b : Word) : LaneResult := opSat (a.toInt - b.toInt)

/-! ## Shifts and bit operations (R245 to R247) -/

def shl32 (a : Word) (n : Nat) : Word := if 32 ≤ n then 0 else BitVec.ofNat 32 (a.toNat * 2 ^ n)
def shr32 (a : Word) (n : Nat) : Word := if 32 ≤ n then 0 else BitVec.ofNat 32 (a.toNat / 2 ^ n)
def sar32 (a : Word) (n : Nat) : Word :=
  if 32 ≤ n then (if a.msb then 0xFFFFFFFF#32 else 0) else BitVec.ofInt 32 (a.toInt / 2 ^ n)
def rot32 (a : Word) (n : Nat) : Word :=
  BitVec.ofNat 32 (a.toNat * 2 ^ (n % 32) + a.toNat / 2 ^ (32 - n % 32))
def opSla (a b : Word) : LaneResult := opSat (a.toInt * 2 ^ (min b.toNat 32))

/-- Counts the set bits among the low `n` bits of `v`. -/
def popcount : Nat → Nat → Nat
  | 0, _ => 0
  | n + 1, v => v % 2 + popcount n (v / 2)

/-- The low `n` bits of `v` in reverse order. -/
def reverseBits : Nat → Nat → Nat
  | 0, _ => 0
  | n + 1, v => (v % 2) * 2 ^ n + reverseBits n (v / 2)

def clz32 (a : Word) : Word := BitVec.ofNat 32 (if a.toNat = 0 then 32 else 31 - Nat.log2 a.toNat)
def popc32 (a : Word) : Word := BitVec.ofNat 32 (popcount 32 a.toNat)
def brev32 (a : Word) : Word := BitVec.ofNat 32 (reverseBits 32 a.toNat)

/-- R247: BFX. -/
def bfx32 (a b : Word) : Word :=
  let lsb := b.toNat % 32
  let len := b.toNat / 256 % 32 + 1
  let signed := b.toNat / 65536 % 2 = 1
  let view : Int := if signed then a.toInt else a.toNat
  let v : Nat := ((view / 2 ^ lsb) % 2 ^ len).toNat
  if signed then BitVec.ofInt 32 (sextNat v len) else BitVec.ofNat 32 v

/-- R247: BFI. -/
def bfi32 (a b c : Word) : Word :=
  let lsb := c.toNat % 32
  let len := c.toNat / 256 % 32 + 1
  let mask : Word := BitVec.ofNat 32 ((2 ^ len - 1) * 2 ^ lsb)
  (a &&& ~~~mask) ||| (BitVec.ofNat 32 (b.toNat * 2 ^ lsb) &&& mask)

/-! ## Compare (R248) and dot product (R259) -/

def flagsCmp (a b : Word) : Flags :=
  ⟨(a - b).msb, a == b, b.toNat ≤ a.toNat, outsideI32 (a.toInt - b.toInt)⟩
def flagsCmpn (a b : Word) : Flags := ⟨a.toNat < b.toNat, a == b, b.toNat ≤ a.toNat, false⟩
def flagsTst (a b : Word) : Flags := ⟨(a &&& b).msb, (a &&& b) == 0, false, false⟩

/-- Byte i of a word as I8. -/
def byteI8 (a : Word) (i : Nat) : Int := sextNat (a.toNat / 2 ^ (8 * i)) 8

def dot4Sum (a b : Word) : Int :=
  byteI8 a 0 * byteI8 b 0 + byteI8 a 1 * byteI8 b 1 + byteI8 a 2 * byteI8 b 2 + byteI8 a 3 * byteI8 b 3

def opDot4 (a b c : Word) : LaneResult :=
  let r := wrap32 (c.toInt + dot4Sum a b)
  (r, flagsSZ r false (outsideI32 (c.toInt + dot4Sum a b)))

end Sys2Proof.Machine
end

