-- ==== Sys2Proof/Machine/Float.lean ====
section
/-! DEFINITION. Floating-point formats and exact arithmetic with one rounding (R51 to R55, R251 to R256). A value is a
NaN, an infinity, or a sign and an exact dyadic number; every operation is computed exactly, or truncated with a sticky
bit far below the last place, and rounded once. -/

namespace Sys2Proof.Machine

/-- A binary format: exponent bits and fraction bits (R51). -/
structure FloatFmt where
  eb : Nat
  mb : Nat
  deriving DecidableEq, Repr

def fp32 : FloatFmt := ⟨8, 23⟩
def fp16 : FloatFmt := ⟨5, 10⟩
def bf16 : FloatFmt := ⟨8, 7⟩

/-- An exact value: `fin neg m e` is ±m·2^e. -/
inductive FVal where
  | nan
  | inf (neg : Bool)
  | fin (neg : Bool) (m : Nat) (e : Int)
  deriving DecidableEq, Repr

/-- The canonical NaN of a format (R52). -/
def FloatFmt.nan (f : FloatFmt) : Nat := (2 ^ f.eb - 1) * 2 ^ f.mb + 2 ^ (f.mb - 1)
def FloatFmt.signBit (f : FloatFmt) : Nat := 2 ^ (f.eb + f.mb)
def FloatFmt.infBits (f : FloatFmt) : Nat := (2 ^ f.eb - 1) * 2 ^ f.mb
/-- The exponent of the smallest subnormal. -/
def FloatFmt.emin (f : FloatFmt) : Int := 2 - (2 : Int) ^ (f.eb - 1) - f.mb

/-- The value of an encoding (R51, R52). -/
def unpackF (f : FloatFmt) (bits : Nat) : FVal :=
  let neg := bits / f.signBit % 2 = 1
  let ex := bits / 2 ^ f.mb % 2 ^ f.eb
  let fr := bits % 2 ^ f.mb
  if ex = 2 ^ f.eb - 1 then (if fr = 0 then .inf neg else .nan)
  else if ex = 0 then .fin neg fr f.emin
  else .fin neg (2 ^ f.mb + fr) (f.emin + (ex - 1))

/-- Whether a remainder `rem` of 2^s rounds a quotient `n` away from zero (R53). -/
def roundsUp (rm : RM) (neg : Bool) (n rem s : Nat) : Bool :=
  match rm with
  | .rne => 2 ^ s < 2 * rem || (2 * rem == 2 ^ s && n % 2 == 1)
  | .rtz => false
  | .rup => !neg && rem != 0
  | .rdn => neg && rem != 0

/-- m·2^e as an integer magnitude, rounded (R53). -/
def roundMag (rm : RM) (neg : Bool) (m : Nat) (e : Int) : Nat :=
  if 0 ≤ e then m * 2 ^ e.toNat
  else
    let s := (-e).toNat
    let n := m / 2 ^ s
    if roundsUp rm neg n (m % 2 ^ s) s then n + 1 else n

/-- `round_int(x, m)` of a finite value (R226). -/
def roundInt (rm : RM) (neg : Bool) (m : Nat) (e : Int) : Int :=
  if neg then -(roundMag rm neg m e : Int) else (roundMag rm neg m e : Int)

/-- An overflowing result (R53). -/
def overflowBits (f : FloatFmt) (rm : RM) (neg : Bool) : Nat :=
  match rm, neg with
  | .rne, _ => f.infBits
  | .rtz, _ => f.infBits - 1
  | .rup, true => f.infBits - 1
  | .rup, false => f.infBits
  | .rdn, true => f.infBits
  | .rdn, false => f.infBits - 1

/-- The magnitude bits of ±m·2^e rounded to the format (R53). -/
def roundMagBits (f : FloatFmt) (rm : RM) (neg : Bool) (m : Nat) (e : Int) : Nat :=
  if m = 0 then 0
  else
    let q := max ((Nat.log2 m : Int) + e - f.mb) f.emin
    let b := (q - f.emin).toNat * 2 ^ f.mb + roundMag rm neg m (e - q)
    if f.infBits ≤ b then overflowBits f rm neg else b

/-- `round_fp32`, `round_fp16` and `round_bf16` (R226). -/
def roundF (f : FloatFmt) (rm : RM) : FVal → Nat
  | .nan => f.nan
  | .inf neg => (if neg then f.signBit else 0) + f.infBits
  | .fin neg m e => (if neg then f.signBit else 0) + roundMagBits f rm neg m e

/-- A value truncated below m, whose exact magnitude lies strictly between m and m + 1 units when `inexact`. -/
def sticky (neg : Bool) (m : Nat) (e : Int) (inexact : Bool) : FVal :=
  .fin neg (4 * m + (if inexact then 1 else 0)) (e - 2)

def FVal.isNan : FVal → Bool
  | .nan => true
  | _ => false

def FVal.neg : FVal → FVal
  | .nan => .nan
  | .inf s => .inf (!s)
  | .fin s m e => .fin (!s) m e

/-- A signed integer times 2^e, a zero taking the sign +0 (R53, RNE). -/
def FVal.ofInt (x e : Int) : FVal := .fin (x < 0) x.natAbs e

/-- Exact addition under RNE (R251, R53). -/
def FVal.add : FVal → FVal → FVal
  | .nan, _ => .nan
  | _, .nan => .nan
  | .inf a, .inf b => if a = b then .inf a else .nan
  | .inf a, .fin .. => .inf a
  | .fin .., .inf b => .inf b
  | .fin sa ma ea, .fin sb mb eb =>
    if ma = 0 ∧ mb = 0 then .fin (sa && sb) 0 0
    else
      let e := min ea eb
      let xa : Int := (ma * 2 ^ (ea - e).toNat : Nat)
      let xb : Int := (mb * 2 ^ (eb - e).toNat : Nat)
      FVal.ofInt ((if sa then -xa else xa) + (if sb then -xb else xb)) e

def FVal.sub (a b : FVal) : FVal := a.add b.neg

/-- Exact multiplication (R251). -/
def FVal.mul : FVal → FVal → FVal
  | .nan, _ => .nan
  | _, .nan => .nan
  | .inf a, .inf b => .inf (a != b)
  | .inf a, .fin b m _ => if m = 0 then .nan else .inf (a != b)
  | .fin a m _, .inf b => if m = 0 then .nan else .inf (a != b)
  | .fin sa ma ea, .fin sb mb eb => .fin (sa != sb) (ma * mb) (ea + eb)

/-- R55: FDIV. -/
def FVal.div : FVal → FVal → FVal
  | .nan, _ => .nan
  | _, .nan => .nan
  | .inf _, .inf _ => .nan
  | .inf a, .fin b _ _ => .inf (a != b)
  | .fin a _ _, .inf b => .fin (a != b) 0 0
  | .fin sa ma ea, .fin sb mb eb =>
    if mb = 0 then (if ma = 0 then .nan else .inf (sa != sb))
    else
      let q := ma * 2 ^ 64 / mb
      sticky (sa != sb) q (ea - eb - 64) (q * mb != ma * 2 ^ 64)

/-- The integer square root of `n`, by `k` binary digits from the root `r`. -/
def isqrtStep : Nat → Nat → Nat → Nat
  | 0, _, r => r
  | k + 1, n, r => isqrtStep k n (if (r + 2 ^ k) * (r + 2 ^ k) ≤ n then r + 2 ^ k else r)
def isqrt (n : Nat) : Nat := isqrtStep (Nat.log2 n / 2 + 1) n 0

/-- A mantissa with an even exponent. -/
def evenExp (m : Nat) (e : Int) : Nat × Int := if e % 2 = 0 then (m, e) else (2 * m, e - 1)

/-- R55: FSQRT. -/
def FVal.sqrt : FVal → FVal
  | .nan => .nan
  | .inf neg => if neg then .nan else .inf false
  | .fin neg m e =>
    if m = 0 then .fin neg 0 0
    else if neg then .nan
    else
      let (m', e') := evenExp m e
      let r := isqrt (m' * 2 ^ 64)
      sticky false r (e' / 2 - 32) (r * r != m' * 2 ^ 64)

/-- R55: FRSQ. -/
def FVal.rsqrt : FVal → FVal
  | .nan => .nan
  | .inf neg => if neg then .nan else .fin false 0 0
  | .fin neg m e =>
    if m = 0 then .inf neg
    else if neg then .nan
    else
      let (m', e') := evenExp m e
      let r := isqrt (2 ^ 128 / m')
      sticky false r (-(e' / 2) - 64) (r * r * m' != 2 ^ 128)

/-- R55: FRCP. -/
def FVal.rcp (x : FVal) : FVal := (FVal.fin false 1 0).div x

/-! ## Elementary functions (R55)

Each is evaluated in fixed point with at least 190 bits below the result's last place, far below the closest distance
of a binary32 argument's value to a rounding boundary, then rounded once. -/

/-- ⌊ln 2 · 2^256⌋. -/
def ln2Fix : Nat := 0xb17217f7d1cf79abc9e3b39803f2f6af40f343267298b62d8a0d175b8baafa2b
/-- ⌊π · 2^384⌋. -/
def piFix : Nat := 0x3243f6a8885a308d313198a2e03707344a4093822299f31d0082efa98ec4e6c89452821e638d01377be5466cf34e90c6c

/-- Σ y^k/k! in units of 2^-256, from term `t` = y^k/k!, for `n` more terms. DEDUCED: log entry 12. -/
def expSeries : Nat → Nat → Nat → Nat → Nat
  | 0, _, _, _ => 0
  | n + 1, y, t, k => t + expSeries n y (t * y / 2 ^ 256 / (k + 1)) (k + 1)

/-- 2^f for f = `num`/2^256 < 1, in units of 2^-256. -/
def exp2Frac (num : Nat) : Nat := expSeries 64 (num * ln2Fix / 2 ^ 256) (2 ^ 256) 0

/-- R55: FEXP2. DEDUCED: log entry 12. -/
def FVal.exp2 : FVal → FVal
  | .nan => .nan
  | .inf neg => if neg then .fin false 0 0 else .inf false
  | .fin neg m e =>
    if m = 0 then .fin false 1 0
    else if 0 ≤ e then
      let n := m * 2 ^ e.toNat
      if 1024 < n then (if neg then .fin false 1 (-1024) else .inf false)
      else .fin false 1 (if neg then -(n : Int) else n)
    else
      let num : Int := if -256 ≤ e then (m * 2 ^ (256 + e).toNat : Nat) else 1
      let num := if neg then -num else num
      let n := num / (2 ^ 256 : Int)
      let f := (num % (2 ^ 256 : Int)).toNat
      if 1024 < n then .inf false
      else if n < -1024 then .fin false 1 (-1024)
      else if f = 0 then .fin false 1 n
      else sticky false (exp2Frac f) (n - 256) true

/-- Σ z^(2k+1)/(2k+1) in units of 2^-256, from term `t` = z^(2k+1). DEDUCED: log entry 12. -/
def atanhSeries : Nat → Nat → Nat → Nat → Nat
  | 0, _, _, _ => 0
  | n + 1, z2, t, k => t / (2 * k + 1) + atanhSeries n z2 (t * z2 / 2 ^ 256) (k + 1)

/-- log₂ of m/2^L in units of 2^-256, for 2^L ≤ m < 2^(L+1). -/
def log2Frac (m l : Nat) : Nat :=
  let z := (m - 2 ^ l) * 2 ^ 256 / (m + 2 ^ l)
  2 * atanhSeries 90 (z * z / 2 ^ 256) z 0 * 2 ^ 256 / ln2Fix

/-- R55: FLOG2. DEDUCED: log entry 12. -/
def FVal.log2 : FVal → FVal
  | .nan => .nan
  | .inf neg => if neg then .nan else .inf false
  | .fin neg m e =>
    if m = 0 then .inf true
    else if neg then .nan
    else
      let l := Nat.log2 m
      let ex : Int := l + e
      if m = 2 ^ l then FVal.ofInt ex 0
      else
        let x : Int := ex * (2 ^ 256 : Int) + log2Frac m l
        sticky (x < 0) x.natAbs (-256) true

/-- Σ (-1)^k r^(2k+j)/(2k+j)! in units of 2^-320, from term `t` with factorial index `j`; `pos` is the sign.
DEDUCED: log entry 12. -/
def trigSeries : Nat → Nat → Nat → Nat → Bool → Int
  | 0, _, _, _, _ => 0
  | n + 1, r2, t, j, pos =>
    (if pos then (t : Int) else -(t : Int)) + trigSeries n r2 (t * r2 / 2 ^ 320 / ((j + 1) * (j + 2))) (j + 2) (!pos)

/-- sin and cos of r/2^320 for 0 ≤ r/2^320 < π/2, in units of 2^-320. -/
def sinFix (r : Nat) : Int := trigSeries 40 (r * r / 2 ^ 320) r 1 true
def cosFix (r : Nat) : Int := trigSeries 40 (r * r / 2 ^ 320) (2 ^ 320) 0 true

/-- The quadrant of x = m·2^e and the rest in units of 2^-320 (R55: exact reduction). -/
def reduceAngle (m : Nat) (e : Int) : Nat × Nat :=
  let half := piFix / 2
  let x : Nat := if -384 ≤ e then m * 2 ^ (e + 384).toNat else 0
  (x / half % 4, x % half / 2 ^ 64)

/-- The sine (`cosine` false) or cosine of quadrant `q` and rest `r`, in units of 2^-320. -/
def trigQuadrant (cosine : Bool) (q r : Nat) : Int :=
  match (q + (if cosine then 1 else 0)) % 4 with
  | 0 => sinFix r
  | 1 => cosFix r
  | 2 => -sinFix r
  | _ => -cosFix r

/-- R55: FSIN and FCOS of a finite nonzero argument; an argument below 2^-160 gives itself, or 1. -/
def trigF (cosine neg : Bool) (m : Nat) (e : Int) : FVal :=
  if (Nat.log2 m : Int) + e < -160 then
    (if cosine then .fin false 1 0 else .fin neg m e)
  else
    let (q, r) := reduceAngle m e
    let v := trigQuadrant cosine q r
    let v := if neg && !cosine then -v else v
    sticky (v < 0) v.natAbs (-320) true

/-- DEDUCED: log entry 12. -/
def FVal.sin : FVal → FVal
  | .nan => .nan
  | .inf _ => .nan
  | .fin neg m e => if m = 0 then .fin neg 0 0 else trigF false neg m e
/-- DEDUCED: log entry 12. -/
def FVal.cos : FVal → FVal
  | .nan => .nan
  | .inf _ => .nan
  | .fin neg m e => if m = 0 then .fin false 1 0 else trigF true neg m e

/-! ## FP32 lane operations (R239, R251 to R254) -/

def valF (w : Word) : FVal := unpackF fp32 w.toNat
def wordF (v : FVal) : Word := BitVec.ofNat 32 (roundF fp32 .rne v)
def isNanW (w : Word) : Bool := (valF w).isNan

/-- R239: the flags of a floating-point result. -/
def flagsF (r : Word) : Flags := ⟨r.msb, r.toNat % 2147483648 = 0, false, isNanW r⟩
def plainF (r : Word) : LaneResult := (r, flagsF r)

def addF (a b : Word) : Word := wordF ((valF a).add (valF b))
def opFadd (a b : Word) : LaneResult := plainF (addF a b)
def opFsub (a b : Word) : LaneResult := plainF (wordF ((valF a).sub (valF b)))
def opFmul (a b : Word) : LaneResult := plainF (wordF ((valF a).mul (valF b)))
def opFdiv (a b : Word) : LaneResult := plainF (wordF ((valF a).div (valF b)))
def opFfma (a b c : Word) : LaneResult := plainF (wordF (((valF a).mul (valF b)).add (valF c)))

/-- A key that orders the non-NaN encodings of a format, −0 below +0 (R252). -/
def orderKey (f : FloatFmt) (bits : Nat) : Int :=
  if f.signBit ≤ bits then -((bits - f.signBit : Nat) : Int) - 1 else bits

/-- R252, element by element in any format: the lesser (`pickMin`) or greater. -/
def minMaxBits (f : FloatFmt) (pickMin : Bool) (a b : Nat) : Nat :=
  match (unpackF f a).isNan, (unpackF f b).isNan with
  | true, true => f.nan
  | true, false => b
  | false, true => a
  | false, false => if (orderKey f a ≤ orderKey f b) = pickMin then a else b

def minMaxF (pickMin : Bool) (a b : Word) : Word := BitVec.ofNat 32 (minMaxBits fp32 pickMin a.toNat b.toNat)
def opFmin (a b : Word) : LaneResult := plainF (minMaxF true a b)
def opFmax (a b : Word) : LaneResult := plainF (minMaxF false a b)
def opFsgn (a b : Word) : LaneResult :=
  plainF (if isNanW a then 0x7FC00000#32 else (a &&& 0x7FFFFFFF#32) ||| (b &&& 0x80000000#32))

/-- The comparison of two finite or infinite values. -/
def ltF : FVal → FVal → Bool
  | .inf a, .inf b => a && !b
  | .inf a, .fin .. => a
  | .fin .., .inf b => !b
  | a, b => match a.sub b with
    | .fin neg m _ => neg && m != 0
    | _ => false

/-- R253. -/
def flagsFcmp (a b : Word) : Flags :=
  if isNanW a || isNanW b then ⟨false, false, true, true⟩
  else if ltF (valF a) (valF b) then ⟨true, false, false, false⟩
  else if ltF (valF b) (valF a) then ⟨false, false, true, false⟩
  else ⟨false, true, true, false⟩

/-- R254: the class bit of an encoding. -/
def fclassBit (a : Word) : Nat :=
  let ex := a.toNat / 8388608 % 256
  let fr := a.toNat % 8388608
  if ex = 255 then (if fr = 0 then (if a.msb then 0 else 7) else if fr < 4194304 then 8 else 9)
  else if ex = 0 then (if fr = 0 then (if a.msb then 3 else 4) else if a.msb then 2 else 5)
  else if a.msb then 1 else 6
def opFclass (a : Word) : LaneResult := plain (BitVec.ofNat 32 (2 ^ fclassBit a))

/-- R254: FRND. -/
def frndBits (rm : RM) (a : Word) : FVal :=
  match valF a with
  | .fin neg m e => if 0 ≤ e then .fin neg m e else .fin neg (roundMag rm neg m e) 0
  | v => v
def opFrnd (rm : RM) (a : Word) : LaneResult := plainF (wordF (frndBits rm a))

def opFrcp (a : Word) : LaneResult := plainF (wordF (valF a).rcp)
def opFsqrt (a : Word) : LaneResult := plainF (wordF (valF a).sqrt)
def opFrsq (a : Word) : LaneResult := plainF (wordF (valF a).rsqrt)
def opFexp2 (a : Word) : LaneResult := plainF (wordF (valF a).exp2)
def opFlog2 (a : Word) : LaneResult := plainF (wordF (valF a).log2)
def opFsin (a : Word) : LaneResult := plainF (wordF (valF a).sin)
def opFcos (a : Word) : LaneResult := plainF (wordF (valF a).cos)

/-! ## Packed pairs (R255) -/

def halfFmt : HalfTy → FloatFmt
  | .f16 => fp16
  | .b16 => bf16

def loHalf (w : Word) : Nat := w.toNat % 65536
def hiHalf (w : Word) : Nat := w.toNat / 65536
def pairWord (lo hi : Nat) : Word := BitVec.ofNat 32 (hi * 65536 + lo)

/-- Two operands, element by element, with one rounding. -/
def pairOp (f : FloatFmt) (op : FVal → FVal → FVal) (a b : Word) : Word :=
  let el (x y : Nat) := roundF f .rne (op (unpackF f x) (unpackF f y))
  pairWord (el (loHalf a) (loHalf b)) (el (hiHalf a) (hiHalf b))

def pairMinMax (f : FloatFmt) (pickMin : Bool) (a b : Word) : Word :=
  pairWord (minMaxBits f pickMin (loHalf a) (loHalf b)) (minMaxBits f pickMin (hiHalf a) (hiHalf b))

def pairFma (f : FloatFmt) (a b c : Word) : Word :=
  let el (x y z : Nat) := roundF f .rne (((unpackF f x).mul (unpackF f y)).add (unpackF f z))
  pairWord (el (loHalf a) (loHalf b) (loHalf c)) (el (hiHalf a) (hiHalf b) (hiHalf c))

/-! ## CVT (R54, R256) -/

/-- Width and signedness of an integer type (R212). -/
def NumTy.intInfo : NumTy → Nat × Bool
  | .i8 => (8, true)
  | .i16 => (16, true)
  | .i32 => (32, true)
  | .i64 => (64, true)
  | .n8 => (8, false)
  | .n16 => (16, false)
  | .n32 => (32, false)
  | .n64 => (64, false)
  | _ => (32, false)

def NumTy.fmt : NumTy → FloatFmt
  | .fp16 => fp16
  | .bf16 => bf16
  | _ => fp32

/-- The integer that the low bits of the operand hold. -/
def cvtInt (t : NumTy) (v : Nat) : Int :=
  let (w, s) := NumTy.intInfo t
  if s then sextNat v w else (v % 2 ^ w : Nat)

/-- The floating-point value that the low bits of the operand hold. -/
def cvtFp (t : NumTy) (v : Nat) : FVal := unpackF (NumTy.fmt t) (v % 2 ^ ((NumTy.fmt t).eb + (NumTy.fmt t).mb + 1))

/-- An integer saturated to a type. -/
def satTo (t : NumTy) (x : Int) : Int :=
  let (w, s) := NumTy.intInfo t
  if s then satI x w else satN x w

/-- An integer wrapped to a type: the exact value it then has. -/
def wrapTo (t : NumTy) (x : Int) : Int := cvtInt t ((x % (2 ^ 64 : Int)).toNat)

/-- R256: the converted operand, as 64 bits; the low word alone counts for a type of 32 bits or fewer. -/
def cvtValue (src dst : NumTy) (rm : RM) (sat : Bool) (v : Nat) : Dword :=
  if src.isFp then
    if dst.isFp then BitVec.ofNat 64 (roundF (NumTy.fmt dst) rm (cvtFp src v))
    else
      match cvtFp src v with
      | .nan => 0
      | .inf neg => BitVec.ofInt 64 (satTo dst (if neg then -(2 ^ 64) else 2 ^ 64))
      | .fin neg m e => BitVec.ofInt 64 (satTo dst (roundInt rm neg m e))
  else
    if dst.isFp then BitVec.ofNat 64 (roundF (NumTy.fmt dst) rm (FVal.ofInt (cvtInt src v) 0))
    else BitVec.ofInt 64 (if sat then satTo dst (cvtInt src v) else wrapTo dst (cvtInt src v))

end Sys2Proof.Machine
end

