-- ==== Sys2Proof/Machine/Bfp.lean ====
section
/-! DEFINITION. Block floating point (R56 to R64, R257, R258), accumulation (R65, R66) and churn values (R68 to R72). -/

namespace Sys2Proof.Machine

/-- The mantissa width of a width option (R257). -/
def widthOf : BfpW → Nat
  | .w2 => 2
  | .w3 => 3
  | .w4 => 4
  | .w5 => 5
  | .w6 => 6
  | .w7 => 7
  | .w8 => 8

/-- A block: its exponent byte and its m8 values (R56). -/
structure Block where
  e : Nat
  m8 : List Int
  deriving DecidableEq, Repr

/-- The block whose 32 values are +0 (R56). -/
def zeroBlock : Block := ⟨0, List.replicate 32 0⟩

/-- The smallest E (without bounds) that holds ±m·2^ex, m nonzero: |x| ≤ 127·2^(E−134) (R59). -/
def fitExp (m : Nat) (ex : Int) : Int :=
  let l := Nat.log2 m
  if 64 * m ≤ 127 * 2 ^ l then (l : Int) + ex + 128 else (l : Int) + ex + 129

/-- The exponent R59 asks of one value, at least 1; none for a zero. -/
def needExp : FVal → Option Int
  | .fin _ m e => if m = 0 then none else some (max 1 (fitExp m e))
  | _ => none

def FVal.isFinite : FVal → Bool
  | .fin .. => true
  | _ => false

/-- `x / 2^(E−134)` rounded and clamped, and whether the clamp took effect (R59). -/
def quantise (e : Int) : FVal → Int × Bool
  | .fin neg m ex =>
    let r := roundInt .rne neg m (ex - (e - 134))
    if r < -128 then (-128, true) else if 127 < r then (127, true) else (r, false)
  | _ => (0, false)

def countTrue (l : List Bool) : Nat := l.foldl (fun n b => if b then n + 1 else n) 0

/-- R59: forms a block; the number of clamps is the second result. -/
def formBlock (xs : List FVal) : Block × Nat :=
  if xs.any (fun x => !x.isFinite) then (⟨255, xs.map fun _ => 0⟩, 0)
  else
    match xs.filterMap needExp with
    | [] => (⟨0, xs.map fun _ => 0⟩, 0)
    | es =>
      let e := min 254 (es.foldl max 1)
      let qs := xs.map (quantise e)
      (⟨e.toNat, qs.map Prod.fst⟩, countTrue (qs.map Prod.snd))

/-- R60: one m8 narrowed to w bits, and whether it saturated. -/
def narrowOne (w : Nat) (m8 : Int) : Int × Bool :=
  let r := roundInt .rne (m8 < 0) m8.natAbs (-((8 - w : Nat) : Int))
  (satI r w, satI r w != r)

/-- R60: a block narrowed, with the number of saturations. -/
def narrowBlock (w : Nat) (b : Block) : List Int × Nat :=
  let qs := b.m8.map (narrowOne w)
  (qs.map Prod.fst, countTrue (qs.map Prod.snd))

/-- The w-bit field of a mantissa. -/
def mantBits (w : Nat) (m : Int) : Nat := (m % (2 ^ w : Int)).toNat

/-- R61: the stream value of mantissas, the first in the lowest bits. -/
def streamNat (w : Nat) : List Int → Nat
  | [] => 0
  | m :: rest => mantBits w m + 2 ^ w * streamNat w rest

/-- `n` bytes of a number, lowest first. -/
def natBytes : Nat → Nat → List Byte
  | 0, _ => []
  | n + 1, v => BitVec.ofNat 8 v :: natBytes n (v / 256)

/-- The number that bytes hold, lowest first. -/
def bytesNat : List Byte → Nat
  | [] => 0
  | b :: rest => b.toNat + 256 * bytesNat rest

/-- R61: mantissa i of the stream that a number holds. -/
def streamField (w v i : Nat) : Int := sextNat (v / 2 ^ (i * w)) w

/-- R56, R58: the value of an element of a block. -/
def blockValue (e : Nat) (m8 : Int) : FVal :=
  if e = 255 then .nan else if e = 0 then .fin false 0 0 else FVal.ofInt m8 ((e : Int) - 134)

/-! ## Narrow instructions (R257, R258) -/

def perReg (w : Nat) : Nat := 32 / w

def packW (w : Nat) (sat : Bool) (a b : Word) : Word :=
  let n := perReg w
  let e := if sat then mantBits w (satI b.toInt w) else b.toNat % 2 ^ w
  BitVec.ofNat 32 (a.toNat % 2 ^ (n * w) / 2 ^ w + e * 2 ^ (w * (n - 1)))

def unpkW (w : Nat) (m8 : Bool) (a b : Word) : Word :=
  let i := b.toNat % 32
  if perReg w ≤ i then 0
  else wrap32 (streamField w a.toNat i * (if m8 then 2 ^ (8 - w) else 1))

def bfpxW (w : Nat) (half : Bool) (a b : Word) : Word :=
  let i := b.toNat % 32
  let e := b.toNat / 16777216
  let x : FVal :=
    if perReg w ≤ i then .fin false 0 0 else blockValue e (streamField w a.toNat i * 2 ^ (8 - w))
  BitVec.ofNat 32 (roundF (if half then fp16 else fp32) .rne x)

/-- R258: the result word. -/
def bfpqWord (e : Nat) (m : Int) : Word := BitVec.ofNat 32 (e * 16777216 + mantBits 8 m)

/-- R258: one thread of BFPQ.EXP, with the number of saturations. Where E = 0 meets an x that is Inf or NaN, two clauses of R258
speak: the one for x, which it does not qualify, decides. DEDUCED: log entry 123. -/
def bfpqExp (w : Nat) (a b : Word) : Word × Nat :=
  let e := b.toNat / 16777216
  if e = 255 || !(valF a).isFinite then (bfpqWord 255 0, 0)
  else if e = 0 then (bfpqWord 0 0, 0)
  else
    let (m8, c1) := quantise e (valF a)
    let (m, c2) := narrowOne w m8
    (bfpqWord e m, countTrue [c1, c2])

/-! ## Accumulation (R65, R66) -/

def dotM8 : List Int → List Int → Int
  | a :: as, b :: bs => a * b + dotM8 as bs
  | _, _ => 0

/-- R65: one block step of an FP32 accumulator. -/
def accStepF (acc : Word) (a b : Block) : Word :=
  if a.e = 255 || b.e = 255 then 0x7FC00000#32
  else
    let p : Int := if a.e = 0 || b.e = 0 then 0 else dotM8 a.m8 b.m8
    wordF ((valF acc).add (FVal.ofInt p ((a.e : Int) + b.e - 268)))

/-- R66: one block step of an INT32 accumulator. -/
def accStepI (acc : Word) (a b : Block) : Word :=
  let s : Int := (a.e : Int) + b.e - 268
  let p := dotM8 a.m8 b.m8
  acc + wrap32 (if 0 ≤ s then p * 2 ^ s.toNat else p / 2 ^ (-s).toNat)

/-! ## Churn values (R68 to R72) -/

/-- R68: the finishing mix on 64 bits. -/
def fin64 (v : Dword) : Dword :=
  let x := v ^^^ (v >>> 29)
  let x := x * 0xA3B195C47E2D6F81#64
  let x := x ^^^ (x >>> 32)
  let x := x * 0xC5D71E934B6A2F07#64
  x ^^^ (x >>> 29)

/-- R68: the mix at canonical (i, j). -/
def mixAt (seedEff : Dword) (stream : Nat) (i j : Word) : Dword :=
  fin64 (seedEff ^^^ BitVec.ofNat 64 (stream * 2 ^ 48) ^^^ (i.setWidth 64 * 0xA3B195C47E2D6F81#64) ^^^
    (j.setWidth 64 * 0xC5D71E934B6A2F07#64))

/-- R69: the tag of a scope. -/
def genTag (scope salt team grp : Nat) : Dword :=
  match scope with
  | 0 => 0
  | 1 => BitVec.ofNat 64 (2 ^ 62 + salt * 2 ^ 24)
  | 2 => BitVec.ofNat 64 (2 * 2 ^ 62 + salt * 2 ^ 24 + team % 2 ^ 19 * 32)
  | _ => BitVec.ofNat 64 (3 * 2 ^ 62 + salt * 2 ^ 24 + team % 2 ^ 19 * 32 + grp % 32)

/-- R69. -/
def seedEff (seed : Dword) (scope salt team grp : Nat) : Dword := seed ^^^ fin64 (genTag scope salt team grp)

/-- R71: output kinds. -/
inductive GenKind where
  | sign
  | uniform
  | gaussian
  | rotary
  | causal
  | band (width : Nat)
  | random (n : Nat)
  deriving DecidableEq, Repr

/-- What a generator value depends on besides its coordinates (R70). -/
structure GenParams where
  kind : GenKind
  seed : Dword
  stream : Nat
  freq : List Word
  deriving DecidableEq, Repr

/-- R71: the fixed exponent. -/
def genExp : GenKind → Nat
  | .uniform | .rotary => 127
  | .gaussian => 132
  | _ => 128

/-- R71: the effective width. -/
def genWidth : GenKind → Nat
  | .uniform | .gaussian | .rotary => 8
  | _ => 2

/-- R72: the m8 of a rotary element. -/
def rotaryM8 (freq : List Word) (i j : Word) : Int :=
  let f := j.toNat / 2 % 64
  let phase := i.toNat * (freq.getD f 0).toNat % 2 ^ 32
  let v := trigQuadrant (j.toNat % 2 = 0) (phase / 2 ^ 30) (phase % 2 ^ 30 * (piFix / 2) / 2 ^ 94)
  let r := roundInt .rne (v < 0) (v.natAbs * 128) (-320)
  if 127 < r then 127 else if r < -128 then -128 else r

/-- R71: how many of the rows `g + k .. g` of column j rank above (x, i). -/
def rankAbove (p : GenParams) (x : Dword) (i j : Word) (g : Word) : Nat → Nat
  | 0 => 0
  | k + 1 =>
    let i' := g + BitVec.ofNat 32 k
    let y := mixAt p.seed p.stream i' j
    (if x.toNat < y.toNat || (x == y && i'.toNat < i.toNat) then 1 else 0) + rankAbove p x i j g k

/-- R71: the m8 at canonical (i, j). -/
def genM8 (p : GenParams) (i j : Word) : Int :=
  let x := mixAt p.seed p.stream i j
  match p.kind with
  | .sign => if x.msb then -64 else 64
  | .uniform => sextNat (x.toNat / 2 ^ 56) 8
  | .gaussian => (popcount 64 x.toNat : Int) - 32
  | .rotary => rotaryM8 p.freq i j
  | .causal => if i.toNat ≤ j.toNat then 64 else 0
  | .band w => if (i.toNat - j.toNat) + (j.toNat - i.toNat) ≤ w then 64 else 0
  | .random n => if rankAbove p x i j (i &&& 0xFFFFFFC0#32) 64 < n then 64 else 0

/-- R58, R346: an element's value as FP32. -/
def genWord (p : GenParams) (i j : Word) : Word := wordF (blockValue (genExp p.kind) (genM8 p i j))

end Sys2Proof.Machine
end

