-- ==== Sys2Proof/Machine/TeamState.lean ====
section
/-! DEFINITION. The state of threads, groups, crews and teams, as plain data (R17, R24, R38 to R47, R73 to R99, R155,
R159, R183, R190 to R197). -/

namespace Sys2Proof.Machine

/-- A 32-bit register cell: a value, an entry that waits for word `part` of operation `op` (R75), or an entry that the
poisoned value of operation `op` marked, with the sector's address (R271). -/
inductive Cell where
  | word (w : Word)
  | pend (op part : Nat)
  | mark (op : Nat) (addr : Dword)
  deriving DecidableEq, Repr

/-- A condition-code register: its flags, or flags that operation `op` will write (R236). -/
inductive CcCell where
  | flags (f : Flags)
  | pend (op : Nat)
  deriving DecidableEq, Repr

/-- R24. -/
inductive Life where
  | runnable | held | waiting | exited
  deriving DecidableEq, Repr

/-- A link-stack entry (R77). -/
structure Link where
  ret : Dword
  cf : Nat
  deriving DecidableEq, Repr

/-- The registers that CREW holds (R82). -/
structure Held where
  q : List Cell
  cc : List CcCell
  repc : BitVec 16
  meet : Dword
  meetStk : List Word
  deriving DecidableEq, Repr

/-- A nested crew, with its chunk exponent, and what it holds of its member (R319). -/
structure Nested where
  lo : Word
  count : Nat
  c : Nat
  comb : Comb
  start : Dword
  crewEnd : Dword
  iter : Nat
  fold : Option Word
  held : Held
  h : List Cell
  deriving DecidableEq, Repr

/-- A member's place in its crew: its chunk, the iteration it runs, and how many contributions it has made (R316). -/
structure Member where
  chunk : Nat
  iter : Nat
  seq : Nat
  nested : Option Nested
  deriving DecidableEq, Repr

/-- What a deferred report is waited on (R270, R351). -/
inductive ReportAt where
  | stc
  | cpc
  | tile (slot acc : Nat)
  deriving DecidableEq, Repr

/-- A deferred report due in a thread (R270, R351). -/
structure Report where
  cause : Nat
  addr : Dword
  info : Word
  at_ : ReportAt
  deriving DecidableEq, Repr

/-- A thread, or a crew helper, which has a thread's registers of its own (R73, R40). -/
structure Thread where
  pc : Dword
  life : Life := .runnable
  q : List Cell
  cc : List CcCell
  stk : List (Nat × Cell) := []
  wb : Int := 0
  cf : Nat := 32
  links : List Link := []
  acc : SMap Word := []
  h : List Cell
  repc : BitVec 16 := 0
  /-- R314: REPC is looked at anew at the next word: after ERET, a restore, or a stop between repetitions. -/
  resume : Bool := false
  meet : Dword := 0xFFFFFFFFFFFFFFFF
  meetStk : List Word := []
  tf : List Cell
  hidBase : Int := 0
  hidCf : Nat := 0
  trapDepth : Nat := 0
  inTrap : Bool := false
  inCrew : Bool := false
  stepArmed : Bool := false
  cause : Word := 0
  epc : Dword := 0
  faultAddr : Dword := 0
  faultInfo : Word := 0
  econd : Word := 0
  crewStatus : Word := 0
  arrival : Option (Nat × Nat) := none
  /-- Its last arrival at each barrier: barrier, generation, and the next operation identifier then: what a deterministic flush
  drains (R401). -/
  arrivals : List (Nat × Nat × Nat) := []
  /-- R293: address, mask, and the threads whose matching arrival has been seen. -/
  syncm : Option (Dword × Word × Word) := none
  reports : List Report := []
  marks : List (Nat × Dword) := []
  member : Option Member := none
  deriving DecidableEq, Repr

/-- A helper: the borrowed context, its registers, its issue clk in the chunk that they count for, whether a release is due,
and the side effects of its chunk as fault-record items (R40, R44, R409). -/
structure Helper where
  grp : Nat
  thr : Nat
  th : Thread
  clk : Nat := 0
  clkChunk : Nat := 0
  leaving : Bool := false
  effects : List (Nat × Nat × Dword × Dword) := []
  deriving DecidableEq, Repr

/-- A fault charged to the recruiter (R45) or an overrun (R44). -/
structure Charged where
  cause : Nat
  iter : Word
  addr : Dword
  chunk : Nat
  deriving DecidableEq, Repr

/-- A contribution: iteration, order within it, chunk and value (R42, R317). -/
structure Contribution where
  iter : Nat
  seq : Nat
  chunk : Nat
  value : Word
  deriving DecidableEq, Repr

/-- A blocking instruction whose condition is not met, and the threads that wait on it (R29). -/
structure Wait where
  i : Instr
  lanes : List Nat
  deriving DecidableEq, Repr

/-- An open crew of the recruiter (grp, thr) (R38 to R45, R315 to R319). -/
structure Crew where
  grp : Nat
  thr : Nat
  lo : Word
  count : Nat
  c : Nat
  comb : Comb
  /-- The helper exponent and the reach bit. -/
  hexp : Nat
  reach : Bool
  start : Dword
  crewEnd : Dword
  /-- The crew holds one of its sub-core's snapshot buffers (R40). -/
  buffered : Bool
  snap : List Cell
  held : Held
  next : Nat := 0
  repooled : List Nat := []
  done : List Nat := []
  contrib : List Contribution := []
  charged : List Charged := []
  overruns : List Charged := []
  helpers : List Helper := []
  /-- R31: when the helper set last became ready. -/
  since : Option Nat := none
  /-- A WAIT or YIELD on which members of the helper set wait, by helper code 32·group+thread. -/
  wait : Option Wait := none
  deriving DecidableEq, Repr

/-- A generator register: its four words (R343). -/
structure GenReg where
  seed : Dword := 0
  w2 : Word := 0
  w3 : Word := 0
  deriving DecidableEq, Repr

/-- R88, R90, R190. -/
structure Group where
  threads : List Thread
  k : List Cell
  x : SMap Word := []
  gens : List GenReg
  freq : SMap Word := []
  d : List Nat
  ldc : Nat := 0
  stc : Nat := 0
  cpc : Nat := 0
  tlc : Nat := 0
  /-- R36. -/
  progress : Nat := 0
  /-- R31: when the group last became ready; none while it is not ready. -/
  readyAt : Option Nat := none
  /-- R399. -/
  interval : BitVec 32 := 0
  sub : Nat
  port : Nat
  /-- R22, R327: its slot of the port. -/
  slot : Nat := 0
  wait : Option Wait := none
  retired : Bool := false
  deriving DecidableEq, Repr

/-- R193. -/
structure Barrier where
  exp : Nat
  arr : Nat := 0
  gen : Nat := 0
  deriving DecidableEq, Repr

/-- R155, R156: the ring holds handles with their producer groups, from its oldest slot `head` on. -/
structure NamedQueue where
  depth : Nat
  ring : List (Word × Nat) := []
  head : Nat := 0
  allow : List Nat
  initial : List Nat
  deriving DecidableEq, Repr

/-- R183. -/
structure StashEntry where
  sbase : Nat
  gbase : Dword
  len : Nat
  deriving DecidableEq, Repr

/-- A filled stash line (R114): its scratchpad offset, its physical line, whether it is dirty, and its bytes that have been
written since it was clean, as a mask. -/
structure StashLine where
  off : Nat
  pa : Nat
  dirty : Bool
  mask : Nat := 0
  deriving DecidableEq, Repr

/-- The receiving side of a channel: messages, oldest first, and how many have been removed (R159); the sending side: its
credits (R160). -/
structure ChannelBox where
  ch : Nat
  msgs : List (List Byte)
  removed : Nat := 0
  deriving DecidableEq, Repr
structure ChannelCredit where
  ch : Nat
  credits : Nat
  deriving DecidableEq, Repr

/-- The part of a team that a save writes and a checkpoint snapshots (R47, R98, R391). -/
structure TeamCore where
  groups : List Group
  scratch : SMap Byte := []
  /-- Poisoned 32-byte sectors of the allocation (R124). -/
  scratchPoison : List Nat := []
  barriers : List Barrier := []
  queues : List NamedQueue := []
  stash : List StashEntry := []
  stashLines : List StashLine := []
  boxes : List ChannelBox := []
  credits : List ChannelCredit := []
  crews : List Crew := []
  /-- R320: the post word and the group that posted it. -/
  post : Option (Word × Nat) := none
  deriving DecidableEq, Repr

/-! ## Fresh registers -/

def zeroCells (n : Nat) : List Cell := List.replicate n (.word 0)

/-- R73: a thread at launch. -/
def Thread.fresh (pc : Dword) (teamThread linearTeam : Word) : Thread :=
  { pc := pc, q := zeroCells 16, cc := List.replicate 4 (.flags {}), h := zeroCells 8, tf := zeroCells 16,
    stk := (if teamThread = 0 then [] else [(0, .word teamThread)]) ++
           (if linearTeam = 0 then [] else [(1, .word linearTeam)]) }

/-- R88: a group at its first placement. -/
def Group.fresh (threads : List Thread) (k : List Cell) (sub port : Nat) : Group :=
  { threads := threads, k := k, gens := List.replicate 4 {}, d := List.replicate 8 0, sub := sub, port := port }

end Sys2Proof.Machine
end

