-- ==== Sys2Proof/Machine/DeviceState.lean ====
section
/-! DEFINITION. The state of runs, operations in flight, teams, launches, pairs and device tables, as plain data (R20 to
R25, R28, R100 to R125, R154 to R189, R363 to R404, R407 to R441). -/

namespace Sys2Proof.Machine

/-! ## Operations in flight -/

/-- Who receives a returned value: a thread of the group, a helper of recruiter `thr` in context (g, t), or the group
itself (k registers). -/
inductive Who where
  | lane (t : Nat)
  | helper (thr g t : Nat)
  | group
  deriving DecidableEq, Repr

/-- One receiver's part of an operation: its value words, the poisoned sector if its value is poison (R271), and its
address and width for fault records (R409). -/
structure Fill where
  who : Who
  words : List Word
  poison : Option Dword
  addr : Dword
  bytes : Nat
  flags : Option (Fin 4 × Flags) := none
  /-- The value is an atomic's: `words` is what it returned (R409 types 3 and 4). -/
  atomic : Bool := false
  deriving DecidableEq, Repr

/-- Where a copy reads or writes (R294): global addresses or scratchpad offsets. -/
inductive CopySpace where
  | global
  | scratch
  deriving DecidableEq, Repr

/-- The regrouping of REGRP (R298). -/
structure Regroup where
  w : Nat
  h : Nat
  c : Nat
  es : Nat
  f : Nat
  inv : Bool
  deriving DecidableEq, Repr

/-- A piece of a started copy: destination address, bytes, poisoned byte indexes (R296). -/
structure Piece where
  dst : Dword
  bytes : List Byte
  poison : List Nat
  deriving DecidableEq, Repr

/-- A copy command (R163, R294 to R298): one source address per row, `len` bytes a row. DEDUCED: log entry 30. -/
structure CopyCmd where
  dst : Dword
  dstSpace : CopySpace
  srcs : List Dword
  srcSpace : CopySpace
  len : Nat
  regroup : Option Regroup := none
  sync : Option Nat
  shadow : Bool
  scope : Scope
  /-- The trailing team of an IL2 pair writes no global destination of its own (R398). -/
  mute : Bool := false
  /-- R139: the leading team's copy that writes what this one does not. -/
  twin : Option Nat := none
  /-- R392: executed again: what it writes outside its pair has been written. -/
  again : Bool := false
  started : Bool := false
  pieces : List Piece := []
  written : Nat := 0
  /-- Bytes written so far (R409). -/
  bytesDone : Nat := 0
  failed : Option (Nat × Dword) := none
  deriving DecidableEq, Repr

/-- The engine stage of an MMA (R349). -/
inductive MmaStage where
  | queued | fetched | started
  deriving DecidableEq, Repr

/-- A matrix operation (R348): copies of its records and generators, its rows, what its wait mask waits for, and after
the fetch point its operand blocks; `xlat` maps virtual pages to physical ones as translated at issue (R347). -/
structure MmaCmd where
  acc : Nat
  ra : List Word
  rb : List Word
  ga : GenReg
  gb : GenReg
  tap : Nat
  sparse : Bool
  integer : Bool
  lanes : List Nat
  z : Bool
  slot : Nat
  waits : List Nat
  xlat : List (Nat × Nat)
  lines : List Nat
  stage : MmaStage := .queued
  /-- CYCLE at the fetch point. -/
  fetchedAt : Nat := 0
  rows : List (Option (List Block)) := []
  cols : List (List Block) := []
  /-- R350: the effective width of each block of B along K. -/
  widths : List Nat := []
  fault : Option (Nat × Dword) := none
  deriving DecidableEq, Repr

/-- One row of an ACCST (R356, R357): physical places of its bytes, and the exponent byte for an aperture block. -/
structure AccstRow where
  lane : Nat
  addr : Dword
  pa : Nat
  bytes : List Byte
  expPa : Option Nat
  exp : Nat
  aperture : Bool
  shadow : Bool := false
  /-- The address of the exponent byte. -/
  expVa : Dword := 0
  deriving DecidableEq, Repr

/-- R176: a shoot-down's requester is a group of a team, whose STC it counts in, or the driver. -/
inductive OpKind where
  /-- Loads of every space, returning atomics, counter reads: LDC (R191). -/
  | load (fills : List Fill)
  /-- Long-latency lane results (R236): no counter. -/
  | lane (fills : List Fill)
  /-- Stores, RED, non-returning atomics, cache and stash operations: STC (R191). -/
  | store (fills : List Fill)
  | copy (c : CopyCmd)
  | mma (m : MmaCmd)
  | accst (rows : List AccstRow) (slot : Nat)
  | message (ch : Nat) (bytes : List Byte)
  | credit (ch : Nat)
  /-- PUBLISH of an entry of a partition (R182): STC. -/
  | publish (part entry : Nat)
  /-- R176; STC where a TLBINV asked for it. -/
  | shootdown (range : ShootRange) (counted : Bool)
  /-- A returning atomic held to a flush point (R401): LDC. -/
  | held (fills : List Fill)
  deriving DecidableEq, Repr

/-- An operation: its identifier, team, group, instruction address, issuing thread for reports, and kind. -/
structure Op where
  id : Nat
  team : Nat
  grp : Nat
  pc : Dword
  reporter : Nat
  kind : OpKind
  deriving DecidableEq, Repr

/-! ## Runs (R28 to R36) -/

/-- The clause of which words are issuing, as fetched (R105): header address and the words after it. -/
structure Clause where
  addr : Dword
  header : Word
  words : List Word
  deriving DecidableEq, Repr

/-- A trap that waits for pending entries before its entry (R75, R85): cause, address, information, EPC. -/
structure TrapDue where
  cause : Nat
  addr : Dword
  info : Word
  epc : Dword
  charged : Bool := false
  others : Nat := 0
  /-- The lowest faulting lane (R409). -/
  lane : Nat := 0
  /-- What the fault record lists where the trap ends the team (R45). -/
  items : List (Nat × Nat × Dword × Dword) := []
  /-- The trap is itself a deferred report or a poison mark (R270, R271). -/
  deferred : Bool := false
  /-- R271: the operation whose mark the trap spends when it is taken. -/
  mark : Option Nat := none
  deriving DecidableEq, Repr

/-- How the word that issued last left its run: it completed and the run goes on at the next word; it did not issue
(R30); the threads' counters were set by a transfer (R33); the run ended with the threads at the next word, ready or
waiting (R29); a trap was entered or the run is over (R28). -/
inductive Signal where
  | word | stall | jump | block | ended
  deriving DecidableEq, Repr

/-- A run in progress on a port (R28): of a group, or of the helper set of recruiter thread `helpers` (R41). -/
structure Run where
  team : Nat
  grp : Nat
  helpers : Option Nat := none
  lanes : List Nat
  pc : Dword
  words : Nat := 0
  clause : Option Clause := none
  /-- The stride of the REP whose repeated word is issuing, in accesses, and its count (R313). -/
  rep : Option (Nat × Int) := none
  /-- The repeated word has been counted in `words` (R211). -/
  repWord : Bool := false
  progress : Bool := false
  sig : Signal := .word
  due : Option TrapDue := none
  since : Dword := 0
  /-- R399: the run was begun to catch up with the partner team. -/
  catching : Bool := false
  /-- R376: since when the run has had cause to give up its port. -/
  cause : Option Dword := none
  /-- R399: the word that is issuing does not count in the interval. -/
  spared : Bool := false
  /-- R377: the members whose copy of the word has issued while it holds its port. -/
  copied : List Nat := []
  /-- R398, R411: the counter and the number of words at which the run stood in a slack stall. -/
  slack : Option (Dword × Nat) := none
  deriving DecidableEq, Repr

/-! ## Translation (R168 to R176) -/

/-- A TLB entry (R174): page base and log2 size, frame, SA and rights. -/
structure TlbEntry where
  ctx : Nat
  va : Nat
  bits : Nat
  pa : Nat
  sa : Bool
  r : Bool
  w : Bool
  x : Bool
  deriving DecidableEq, Repr

/-- Who waits on a walk: a core, and the group of a team whose run holds its port, or 64 more for
a copy engine that acts for the group. -/
structure Requester where
  core : Nat
  team : Nat
  grp : Nat
  deriving DecidableEq, Repr

/-- A distinct miss (R175): requested, or being walked; `stale` where a shoot-down arrived after it began. -/
structure Walk where
  id : Nat
  ctx : Nat
  page : Nat
  part : Nat
  by_ : List Requester
  started : Bool := false
  stale : Bool := false
  deriving DecidableEq, Repr

/-- The outcome of a walk (R170 to R172). -/
inductive PageResult where
  | fault (cause : Nat)
  | page (e : TlbEntry)
  deriving DecidableEq, Repr

/-- The outcome of a walk, delivered to an access that waits on it (R173, R175). -/
structure WalkOutcome where
  to_ : Requester
  ctx : Nat
  page : Nat
  res : PageResult
  deriving DecidableEq, Repr

/-! ## Memory-side state -/

/-- The state of a line in a private data cache (R104). -/
inductive LineState where
  | shared | ownedClean | ownedDirty
  deriving DecidableEq, Repr

structure CacheLine where
  core : Nat
  line : Nat
  st : LineState
  /-- R113: its set's next victim. -/
  next : Bool := false
  deriving DecidableEq, Repr

/-- A line of an operand-buffer share (R107), with the operations that pin it. A pinned line that has been written keeps
its space and serves no later MMA (R108). -/
structure ShareLine where
  core : Nat
  sub : Nat
  line : Nat
  pins : List Nat
  valid : Bool := true
  deriving DecidableEq, Repr
/-- A scratchpad line of a team as an operand-buffer share names it. -/
def scratchKey (tid line : Nat) : Nat := 2 ^ 64 * (tid + 1) + line

/-- A line held in the L2 (R109 to R113, R180): its address, the partition whose sets hold it, whether it has the retained
class, and whether it is its set's next victim. -/
structure L2Line where
  line : Nat
  part : Nat
  kept : Bool := false
  strm : Bool := false
  deriving DecidableEq, Repr

/-- An aperture line (R116): physical line, m8 bytes, side tag exponents, width, dirty bit, poisoned sectors. -/
structure AperLine where
  line : Nat
  bytes : List Byte
  exps : List Nat
  width : Nat
  dirty : Bool
  poison : List Nat
  deriving DecidableEq, Repr

/-- An access to the port B window past issue (R152, R430, R431): a load of receiver `who` of an operation, or a write,
which is performed at the controller in order. -/
structure WinAccess where
  op : Nat
  who : Option Who
  pa : Nat
  bytes : List Byte
  deriving DecidableEq, Repr

/-- A page migration in progress (R122). -/
structure Migration where
  src : Nat
  dst : Nat
  size : Nat
  pte : Nat
  deriving DecidableEq, Repr

/-- A compared item's fields (R389). -/
structure ItemFields where
  addr : Dword
  data : List Byte
  mask : Nat
  scope : Nat
  policy : Nat
  deriving DecidableEq, Repr

/-- An entry of a pair's or core pair's atomic log (R392, R399). -/
structure LogEntry where
  team : Nat
  grp : Nat
  thr : Nat
  fields : ItemFields
  value : Dword
  used : Bool
  /-- The operation that is performing it, until it has been performed. -/
  op : Option Nat := none
  /-- R283: the poisoned sector that it met. -/
  bad : Option Dword := none
  deriving DecidableEq, Repr

/-! ## Pairs and integrity (R384 to R402) -/

inductive PairMode where
  | independent | quiesce | flush | align | paired | rollback | unpair
  deriving DecidableEq, Repr

/-- The kind of a compared item (R389, R394); `writeback` is a dirty stash line that another agent's access has met (R115). -/
inductive ItemKind where
  | store | atomic | copy | message | publish | post | sample | transfer | writeback
  deriving DecidableEq, Repr

/-- One thread's atomic (R281 to R284): its location, operand, and the receiver of its value in operation `op`; with
.FADD.RA, the other threads whose operands its partial sum holds (R282); and the value it returns where threads of its
instruction that name the location are served in another order than they update it here, with the same outcome. -/
structure AtomReq where
  aop : Aop
  cas : Bool
  pa : Nat
  va : Dword
  v : Dword
  op : Nat
  who : Who
  ret : Bool
  also : List Who := []
  gives : Option Dword := none
  /-- The page is system-atomic (R146), and the instruction's address. -/
  sa : Bool := false
  pc : Dword := 0
  /-- R162: its order, scope, policy and kind, for a service group that firmware runs. -/
  ord : Nat := 0
  sc : Nat := 0
  p : Bool := false
  kind : Nat := 2
  deriving DecidableEq, Repr

/-- A request in a service group's queue (R162, R327): the operations that wait for it, who
receives its value, whether firmware has taken it, or it waits at its injection station, what the
atomic log takes when it has been served (R392, R399), and the atomics that it serves, by team. -/
structure SvcReq where
  cluster : Nat
  ops : List Nat
  gives : List (Nat × Who)
  taken : Bool := false
  waits : Bool := false
  log : List LogEntry := []
  reqs : List (Nat × AtomReq) := []
  aop : Nat
  ord : Nat
  scope : Nat
  p : Bool
  kind : Nat
  slot : Nat
  pa : Nat
  value : Dword
  deriving DecidableEq, Repr

/-- What an item does when it is accepted or matched: provisional or ordinary writes, a write performed once, an
atomic, a POST, or nothing of its own (an operation that waits for it goes on). -/
inductive ItemAct where
  | write (cells : List Host.Cell)
  | once (cells : List Host.Cell)
  | atomic (req : AtomReq)
  | post (v : Word)
  | sample (v : Dword)
  | go
  deriving DecidableEq, Repr

/-- An item in a comparator or compare buffer (R389, R398): who issued it, its fields on each side, what it does, and
the operation that waits for it. Each thread of an instruction has its own. -/
structure Item where
  team : Nat
  grp : Nat
  thr : Nat
  pc : Dword
  kind : ItemKind
  lead : ItemFields
  trail : ItemFields
  act : ItemAct
  op : Option Nat
  /-- R124: the sectors that it writes as poison, and those that the threads of its instruction together overwrite. -/
  bad : List Nat := []
  whole : List Nat := []
  /-- CYCLE at the issue of its instruction, whose items of one `unit` make one item of R389. -/
  clk : Dword := 0
  unit : Nat := 0
  /-- R392: it forced a checkpoint, so the atomic log takes it once it is accepted. -/
  logs : Bool := false
  /-- R411: a release, which restarts the watchdog when it is performed. -/
  rel : Bool := false
  deriving DecidableEq, Repr

/-- A checked pair (R386 to R396), beside its PAIR_CTL register. -/
structure Pair where
  mode : PairMode := .independent
  items : List Item := []
  /-- Provisional bytes, oldest first, with the team that wrote each (R390, R400). -/
  prov : List (Nat × Host.Cell) := []
  /-- R124: sectors whose provisional bytes are poison, or clean, in place of what memory says of them, each with the team that
wrote it; newest first. -/
  provBad : List (Nat × Nat × Bool) := []
  /-- R390: the lines that hold provisional ways; the pair's other provisional lines are in its overflow area. -/
  ways : List Nat := []
  /-- Accepted writes since the last commit: team, address and bytes (R396). -/
  accepted : List (Nat × Dword × Nat) := []
  log : List LogEntry := []
  mismatches : Nat := 0
  /-- A checkpoint is requested (R390 to R392). -/
  request : Bool := false
  /-- Groups (team, group) whose next word forces a checkpoint first, and groups whose checkpoint has been taken. -/
  forced : List (Nat × Nat) := []
  granted : List (Nat × Nat) := []
  unpairHeld : Bool := false
  deriving DecidableEq, Repr

/-- An entry of a deterministic-mode atomic buffer (R401). -/
structure DetEntry where
  grp : Nat
  thr : Nat
  req : AtomReq
  /-- The operations that wait for the entry. -/
  ops : List Nat
  deriving DecidableEq, Repr

/-- A reservation record as a team has read it (R402), with each group's contributions. -/
structure Reservation where
  pa : Nat
  base : Word
  stride : Word
  sums : List Nat
  flushed : List Nat
  deriving DecidableEq, Repr

/-- ERRINJ (R96): the armed error and how many matching events have passed. -/
structure ArmedError where
  kind : Nat
  side : Bool
  bit : Nat
  thread : Nat
  skip : Nat
  deriving DecidableEq, Repr

/-! ## Teams (R23) -/

inductive TeamLife where
  /-- Returned to PENDING by a discard, its place given up. -/
  | pending
  | loading | resident | stopping | saved | done | failed
  deriving DecidableEq, Repr

/-- A team alone, or the leading or trailing team of a core pair with its partner (R397). -/
inductive Side where
  | single
  | lead (partner : Nat)
  | trail (partner : Nat)
  deriving DecidableEq, Repr

/-- A halt in progress (R413): the cause and what the fault record will carry. -/
structure Halt where
  cause : Nat
  epc : Dword
  addr : Dword
  info : Word
  thread : Nat
  items : List (Nat × Nat × Dword × Dword)
  /-- A dump, a debugger stop or a cancel asked for it (R412, R416, R23). -/
  resumable : Bool
  /-- CYCLE and PTP time at the halt. -/
  cycle : Dword := 0
  ptp : Dword := 0
  /-- R412, R416: it is that of a requested dump, and the debugger has asked meanwhile for a stop, which follows it. -/
  asked : Bool := false
  thenStop : Bool := false
  /-- R415: uncorrectable register-storage errors met since, by the free choice of each one's word. -/
  struck : List Nat := []
  deriving DecidableEq, Repr

/-- The progress watchdog's list (R411): a thread, the CYCLE values of its issues in the window, and its last PC. -/
structure Issuer where
  grp : Nat
  thr : Nat
  times : List Nat
  pc : Dword
  deriving DecidableEq, Repr

structure Team where
  launch : Nat
  idx : Nat
  core : Nat
  s0 : Nat
  p0 : Nat
  part : Nat
  side : Side := .single
  life : TeamLife := .loading
  body : TeamCore
  /-- R391, R399. -/
  snap : Option TeamCore := none
  /-- With the snapshot: reservations, the atomic buffer, and groups whose CKPT it serves. -/
  snapResv : List Reservation := []
  snapDet : List DetEntry := []
  snapServed : List Nat := []
  /-- Ended without a recorded stop: counted done or failed already. -/
  action : StopAction := .drain
  runs : BitVec 32 := 0
  issued : BitVec 48 := 0
  satTeam : BitVec 32 := 0
  ckptId : BitVec 32 := 0
  errinj : Option ArmedError := none
  /-- R96: WRSYS to ERRINJ executed by each side of an IL2 pair. -/
  errinjCount : Nat := 0
  /-- R399: a checkpoint of the core pair is requested, kept by the leading team. -/
  ckptRequest : Bool := false
  /-- R378: PTP time of the first instruction. -/
  started : Option Dword := none
  /-- R411: clk since the last restarting event. -/
  wd : Nat := 0
  issuers : List Issuer := []
  halt : Option Halt := none
  /-- R416: stopped for the debugger. -/
  stopped : Bool := false
  /-- R391: the next checkpoint of its pair is the one of its start. -/
  starting : Bool := false
  /-- R416: groups that have yet to issue their word. -/
  stepping : Option (List Nat) := none
  /-- R326: groups whose CKPT waits to be served, and 32 more than those whose checkpoint has been taken. -/
  ckptWaiting : List Nat := []
  /-- R398: store signatures, per group. -/
  sigs : List Dword := []
  retries : Nat := 0
  log : List LogEntry := []
  det : List DetEntry := []
  /-- R401: entries that a flush point of an IL2 team has drained, on their way to the compare buffer. -/
  detOut : List DetEntry := []
  resv : List Reservation := []
  /-- R398: compare-buffer entries of the core pair, kept by the leading team. -/
  entries : List Item := []
  /-- A write to its save area came first (R410). -/
  areaSpoiled : Bool := false
  /-- R410: the save area's base and size. -/
  area : Option (Nat × Nat) := none
  /-- R47: the ready ages of its groups when a save stopped them. -/
  ages : List (Option Nat) := []
  /-- R379: the CYCLE at which it was asked to stop. -/
  asked : Nat := 0
  /-- R327: the cluster whose service-group firmware this team is. -/
  firmware : Option Nat := none
  deriving DecidableEq, Repr

/-! ## Launches, graphs and phases (R363 to R375) -/

/-- The fields of a launch descriptor (R365). -/
structure Descriptor where
  kernel : Dword := 0
  args : Dword := 0
  localBase : Dword := 0
  trap : Dword := 0
  teams : Nat := 0
  salt : Word := 0
  l : Nat := 0
  ld : Nat := 0
  lstart : Nat := 0
  deadline : Nat := 0
  rop : Nat := 0
  trace : Nat := 0
  bounded : Bool := false
  inj : Bool := false
  perf : Bool := false
  dbg : Bool := false
  taddr : Dword := 0
  deriving DecidableEq, Repr

/-- A channel declaration (R228, R184). -/
structure ChannelDecl where
  ch : Nat
  slots : Nat
  sender : Nat
  receiver : Nat
  deriving DecidableEq, Repr

/-- A kernel header (R227), its declarations (R228) and its clause map, as read at submission. -/
structure Kernel where
  codeSize : Nat := 0
  entry : Nat := 0
  stack : Nat := 32
  groups : Nat := 1
  mdepth : Nat := 0
  accum : Nat := 0
  scratch : Nat := 0
  barriers : Nat := 0
  il : Nat := 0
  det : Bool := false
  crews : Bool := false
  restart : Bool := false
  duration : Nat := 0
  barrierExp : List (Nat × Nat × Nat) := []
  /-- Queue number, depth. -/
  queues : List (Nat × Nat) := []
  /-- Queue number, group, allowance. -/
  allows : List (Nat × Nat × Nat) := []
  channels : List ChannelDecl := []
  /-- Word indexes from ENTRY that are clause headers (R206). -/
  map : List Nat := []
  deriving DecidableEq, Repr

inductive LaunchStatus where
  | active | done | failed | cancelled
  deriving DecidableEq, Repr

/-- A launch (R17): its context and number, the queue or graph it came from, and its counters. -/
structure Launch where
  ctx : Nat
  num : Nat
  queue : Nat
  desc : Descriptor
  kernel : Kernel
  args : List Word
  prio : Nat
  status : LaunchStatus := .active
  /-- The first linear team index not yet placed (R20). -/
  nextTeam : Nat := 0
  /-- Teams that returned to PENDING by a discard (R46). -/
  again : List Nat := []
  done : Nat := 0
  failed : Nat := 0
  residue : Nat := 0
  posts : List (Nat × Word) := []
  /-- R184, R161: receiver teams that have ended, and sender teams that have ended. -/
  ended : List Nat := []
  traversal : Option Nat := none
  /-- R374: placements that a trace binds: team, core, s0, p0; and the records written so far. -/
  places : List (Nat × Nat × Nat × Nat) := []
  recorded : Nat := 0
  /-- R363, R368: the reserved cores of its queue at admission, and the core that the model gave each team. -/
  cores : Dword := 0
  assigned : List Nat := []
  /-- Its arrival or firing time. -/
  now : Dword := 0
  deriving DecidableEq, Repr

/-- A running traversal of a graph (R373): phase entry, graph counters and node. -/
structure Traversal where
  part : Nat
  phase : Nat
  ctx : Nat
  node : Nat
  launches : Nat
  nums : List Nat
  done : Nat
  failed : Nat
  running : Bool
  /-- R187: the predicate word of the node, as read when its predecessor completed. -/
  word : Dword := 0
  deriving DecidableEq, Repr

/-- The command processor's view of a registered queue (R164). -/
structure QueueWatch where
  q : Nat
  header : Nat
  head : Nat := 0
  complHead : Nat := 0
  /-- R164: RUN, as the command processor keeps it. -/
  watching : Bool := true
  /-- Line 0 is held as a shared copy that no write has invalidated, and the copy. -/
  lineHeld : Bool := false
  line : List Byte := []
  deriving DecidableEq, Repr

/-! ## The supervisor -/

/-- A firmware image in NOR (R434), with the outcome of each check, its security version and its digest. -/
structure Image where
  signatures : Bool
  digest : Bool
  keys : Bool
  version : Nat
  sha : List Byte := []
  deriving DecidableEq, Repr

/-- The NOR: the supervisor firmware's two slots, the command processor's and the service groups' firmware (R433), the fused
minimum (R434), and what R204 and R440 keep there. -/
structure Nor where
  slot0 : Option Image
  slot1 : Option Image
  cp : Option Image
  svcGroup : Option Image
  fusedMin : Nat
  hist : SMap Nat
  tripRecorded : Bool
  deriving DecidableEq, Repr

/-- The mailbox's command in progress and kept response (R429). -/
structure Mailbox where
  command : Nat := 0
  page : Nat := 0
  len : Nat := 0
  kept : Nat := 0
  response : List Byte := []
  /-- RESULT, as it will be when the command completes. -/
  result : Nat := 0
  image : List Byte := []
  imagePages : Nat := 0
  deriving DecidableEq, Repr

/-- A cancel in progress in a partition (R428), with the launches that it ends. -/
structure CancelJob where
  part : Nat
  launches : List Nat
  deriving DecidableEq, Repr

/-- A dump asked for or being written (R412 to R415): BUSY. Its team is named once the request has found it. -/
structure DumpJob where
  part : Nat
  team : Nat
  writing : Bool
  deriving DecidableEq, Repr

/-- A deferred partition reset (R437). -/
structure ResetJob where
  part : Nat
  deriving DecidableEq, Repr

end Sys2Proof.Machine
end

