-- ==== Sys2Proof/Machine/State.lean ====
section
/-! DEFINITION. The state of the whole machine, the reasons a step can stop, and the state right after reset. -/

namespace Sys2Proof.Machine

/-- Why the machine stops. -/
inductive Fault where
  /-- Raised by the meaning of an encoded instruction when no run is in progress: the machine has no thread to issue it
  for. The hardware cannot do this, so the stop is safe. DESIGN CHOICE: log entry 24. -/
  | noRun
  /-- Raised by a step after THERMTRIP_N or a power loss: the clock has stopped and the device state is lost (R440).
  The hardware stops too, so the stop is safe. -/
  | clockStopped
  deriving DecidableEq, Repr

/-- Why an instruction has no meaning. -/
inductive Refusal where
  /-- Raised by an arm of `exec` that has no meaning yet; safe. -/
  | notModelled (mnemonic : String)
  deriving DecidableEq, Repr

/-- The K7. Registers of the management window are held once, by their BAR0 offset (R425 to R427), a register at its
reset value 0 not listed; the fields after them hold the rest. -/
structure State where
  /-- What the outside will do, in order: the next events that are not the device's own choice, and choices that the
  manual leaves to the device's timing, each with the CYCLE from which it happens. The model's own field (DESIGN CHOICE, log entry 5). -/
  inputs : List (Nat × Instr)
  /-- Events that a count of CYCLE has made due in the present clk: trace synchronisation and samples (R417, R418). -/
  due : List Instr
  /-- Clock stopped for good (R440). -/
  dead : Bool
  /-- R199. -/
  cycle : Dword
  phcNs : Dword
  phcFrac : Word
  steps : BitVec 16
  /-- Clock in kHz, reported by synchronisation records (R418). -/
  khz : BitVec 32
  /-- Bytes by physical address; an unlisted byte reads 0 (R100, R120, R422; DESIGN CHOICE, log entry 1). -/
  mem : List Host.Cell
  /-- Poisoned 32-byte sectors, by physical address divided by 32 (R124). -/
  poison : List Nat
  /-- Registers of the management window by offset; an unlisted register reads 0. -/
  bar : SMap Dword
  /-- R203, R200, R202: evictions by 4·slice+partition (log entry 22), SAT_MEM by partition, PERF programming and counts by 8·core+n,
  INTERF by core. -/
  evict : SMap (BitVec 48)
  satMem : SMap (BitVec 32)
  perfProg : SMap Dword
  perf : SMap (BitVec 48)
  interf : SMap (BitVec 48)
  /-- R104, R105, R107: private data cache, instruction cache and operand-buffer lines. -/
  dcache : List CacheLine
  icache : List (Nat × Nat)
  shares : List ShareLine
  /-- R109 to R112: the lines that the L2 holds beside provisional ones, the most recently used first. -/
  l2 : List L2Line
  /-- R174: first-level TLBs by core, cluster TLBs by cluster, and R175 walks. -/
  tlb : List (Nat × TlbEntry)
  ctlb : List (Nat × TlbEntry)
  walks : List Walk
  outcomes : List WalkOutcome
  /-- R116. -/
  aper : List AperLine
  /-- R122: migrations in progress, oldest first. -/
  migrations : List Migration
  /-- R122: accesses of other agents that are queued at the pages that migrations block, oldest first. -/
  queued : List ExtAccess
  /-- R122: the status of the last migration command that completed. -/
  migRefused : Bool
  /-- R123, R124: poisoned sectors of scratchpad storage that no team holds, by core and offset. -/
  scratchBad : List (Nat × Nat)
  /-- R152, R431: accesses to the port B window past issue, oldest first. -/
  window : List WinAccess
  /-- R111: access counters by 16·partition+range. -/
  retention : SMap Nat
  /-- R162, R145. -/
  svc : List SvcReq
  merge : List (Nat × Nat)
  launches : List Launch
  teams : List Team
  /-- Runs in progress; the head issues next (R26, R28). -/
  runs : List Run
  /-- Operations in flight, oldest first, and the next identifier, which also numbers free values: the model's own field
  (DESIGN CHOICE, log entry 6). -/
  ops : List Op
  nextId : Nat
  pairs : List Pair
  /-- R164. -/
  watches : List QueueWatch
  /-- R368: F[c] in TAI ns by core, and the launch and team of the last commitment on it (log entry 63). -/
  freeTime : SMap Dword
  lastCommit : List (Nat × Nat × Nat)
  traversals : List Traversal
  /-- R372: phases (partition, entry) whose next firing has been prefetched for. -/
  prefetched : List (Nat × Nat)
  /-- R365: the next launch number of each context, and R198 job counters (log entry 96). -/
  nextLaunch : SMap Nat
  jobDone : SMap Dword
  jobFailed : SMap Dword
  phaseDone : SMap (BitVec 32)
  phaseFailed : SMap (BitVec 32)
  cancels : List CancelJob
  resets : List ResetJob
  dumps : List DumpJob
  /-- R412: requests that wait for BUSY to clear: partition, context, launch, team. -/
  dumpWaits : List (Nat × Nat × Nat × Nat)
  /-- Register writes that wait to take effect: those to a context entry from a clear of its V on (R169: entry, word,
  value), format disables (R178), clears of a publication entry's V (R181: partition, entry), and granule words of the
  partition table (R185: index, value). -/
  ctxWrites : List (Nat × Nat × Dword)
  fmtDisables : List Nat
  pubClears : List (Nat × Nat)
  partWrites : List (Nat × Dword)
  /-- R432: a PTM dialog in progress, with T1 and the STEPS value at its start. -/
  ptm : Option (Dword × BitVec 16)
  nor : Nor
  /-- R204: life histograms in the supervisor's RAM, and the seconds sampled since the last full hour. -/
  hist : SMap Nat
  lifeSeconds : Nat
  mbx : Mailbox
  /-- R394: the supervisor's fault log. -/
  faultLog : List (List Byte)
  /-- R431: the supervisor's log of port B link losses: the PTP time of each, oldest first. -/
  lossLog : List Dword
  deriving DecidableEq, Repr

/-- R433: NOR with images that verify. The manual gives no contents: DESIGN CHOICE, log entry 4. -/
def Nor.factory : Nor :=
  let image : Image := { signatures := true, digest := true, keys := true, version := 0, sha := List.replicate 48 0 }
  { slot0 := some image, slot1 := some image, cp := some image, svcGroup := some image, fusedMin := 0, hist := [], tripRecorded := false }

/-- The management-window registers whose reset value is not 0: BOOT_STATUS (R433), POWER_LIMIT (R440), PAIR_CTL WAKE
(R386), and per partition HOLD_LIMIT (R376), WD_LIMIT (R411), TB_CTL (R428), FR_CTL (R408) and TR_CTL (R417).
DESIGN CHOICE: log entry 2. -/
def resetBar : SMap Dword :=
  [(Config.oBootStatus, 0x01), (Config.oPowerLimit, 480)] ++
  (List.range 8).map (fun p => (Config.oPairCtl p, 0x1800000000#64)) ++
  (List.range 4).flatMap (fun d =>
    [(Config.oPart d + Config.oHoldLimit, 128), (Config.oPart d + Config.oWdLimit, 10000),
     (Config.oPart d + Config.oTbCtl, 0x4000000000#64), (Config.oPart d + Config.oFrCtl, 12),
     (Config.oPart d + Config.oTrCtl, 0x10000000000C#64)])

/-- The machine right after reset (R433 stage 1): the supervisor runs from its ROM and every other block is held in
reset. DESIGN CHOICE: log entries 1, 2, 4. -/
def State.reset : State :=
  { inputs := [], due := [], dead := false, cycle := 0, phcNs := 0, phcFrac := 0, steps := 0, khz := 2100000#32,
    mem := [], poison := [], bar := resetBar, evict := [], satMem := [], perfProg := [], perf := [], interf := [],
    dcache := [], icache := [], shares := [], l2 := [], tlb := [], ctlb := [], walks := [], outcomes := [], aper := [],
    migrations := [], queued := [], migRefused := false, scratchBad := [], window := [], retention := [], svc := [], merge := [], launches := [], teams := [], runs := [], ops := [],
    nextId := 0, pairs := List.replicate 8 {}, watches := [], freeTime := [], lastCommit := [], traversals := [], prefetched := [],
    nextLaunch := [], jobDone := [], jobFailed := [], phaseDone := [], phaseFailed := [], cancels := [], resets := [],
    dumps := [], dumpWaits := [], ctxWrites := [], fmtDisables := [], pubClears := [], partWrites := [], ptm := none, nor := Nor.factory,
    hist := [], lifeSeconds := 0, mbx := {}, faultLog := [], lossLog := [] }

end Sys2Proof.Machine
end

