-- ==== Sys2Proof/Machine/Mem.lean ====
section
/-! DEFINITION. Sparse maps, the management-window registers, physical memory with apertures, stash snoops and poison
(R100 to R125, R180, R422). -/

namespace Sys2Proof.Machine

/-! ## Sparse maps -/

/-- The value at a key, `d` where it is not listed. DESIGN CHOICE: log entry 1. -/
def mapGet {α : Type} (d : α) : List (Nat × α) → Nat → α
  | [], _ => d
  | (k', v) :: rest, k => if k' = k then v else mapGet d rest k

/-- Writes a value, keeping keys rising and the default value unlisted. -/
def mapSet {α : Type} [DecidableEq α] (d : α) : List (Nat × α) → Nat → α → List (Nat × α)
  | [], k, v => if v = d then [] else [(k, v)]
  | (k', v') :: rest, k, v =>
    if k < k' then (if v = d then (k', v') :: rest else (k, v) :: (k', v') :: rest)
    else if k' = k then (if v = d then rest else (k, v) :: rest)
    else (k', v') :: mapSet d rest k v

/-- The canonical form: keys strictly rising, no default value listed. -/
def mapWf {α : Type} [DecidableEq α] (d : α) : List (Nat × α) → Bool
  | [] => true
  | [(_, v)] => decide (v ≠ d)
  | (k, v) :: (k', v') :: rest => decide (v ≠ d) && decide (k < k') && mapWf d ((k', v') :: rest)

/-- What an unlisted byte of memory reads as (DESIGN CHOICE, log entry 1). -/
def memDefault : Byte := 0

/-- Memory is in its canonical form. -/
abbrev Memory.wf (m : List Host.Cell) : Bool := mapWf memDefault m

/-- The natural number `n` is in a sorted list. -/
def setHas (l : List Nat) (n : Nat) : Bool := l.contains n
def setAdd : List Nat → Nat → List Nat
  | [], n => [n]
  | a :: r, n => if n < a then n :: a :: r else if a = n then a :: r else a :: setAdd r n
def setDel (l : List Nat) (n : Nat) : List Nat := l.filter (· != n)

/-- Replaces element `i` of a list. -/
def listSet {α : Type} : List α → Nat → α → List α
  | [], _, _ => []
  | _ :: r, 0, v => v :: r
  | a :: r, n + 1, v => a :: listSet r n v
/-- Changes element `i` of a list. -/
def listMod {α : Type} : List α → Nat → (α → α) → List α
  | [], _, _ => []
  | a :: r, 0, f => f a :: r
  | a :: r, n + 1, f => a :: listMod r n f

/-! ## Bit fields and the management window -/

/-- Bits [lo+n-1:lo] of a bit vector, as a number. -/
def field {w : Nat} (v : BitVec w) (lo n : Nat) : Nat := v.toNat / 2 ^ lo % 2 ^ n
/-- `v` with bits [lo+n-1:lo] replaced by `x`. -/
def setField (v : Dword) (lo n : Nat) (x : Nat) : Dword :=
  BitVec.ofNat 64 (v.toNat - v.toNat / 2 ^ lo % 2 ^ n * 2 ^ lo + x % 2 ^ n * 2 ^ lo)

def bar (s : State) (off : Nat) : Dword := mapGet 0 s.bar off
def setBar (s : State) (off : Nat) (v : Dword) : State := { s with bar := mapSet 0 s.bar off v }
/-- A register of partition d's block (R427). -/
def pbar (s : State) (d off : Nat) : Dword := bar s (Config.oPart d + off)
def setPbar (s : State) (d off : Nat) (v : Dword) : State := setBar s (Config.oPart d + off) v

/-- PART_CTL.MODE (R436). -/
def partitioned (s : State) : Bool := (bar s Config.oPartCtl).msb
/-- R11: the partition of a core. -/
def corePart (s : State) (core : Nat) : Nat := if partitioned s then core / 16 else 0

/-! ## Physical targets (R422) -/

inductive Target where
  | device | none | host | portB | peer | aperture | window
  deriving DecidableEq, Repr

/-- PORTB_STATUS.SBW_SIZE in bytes while the link is up (R430, R431). -/
def sbwBytes (s : State) : Nat :=
  if (bar s Config.oPortbStatus).msb then field (bar s Config.oPortbStatus) 32 24 * 4096 else 0

def targetOf (s : State) (pa : Nat) : Target :=
  if pa < 0x3000000000 then .device
  else if pa < 0x1000000000000 then .none
  else if pa < 0xD000000000000 then .host
  else if pa < 0xE000000000000 then (if pa - 0xD000000000000 < sbwBytes s then .portB else .none)
  else if pa < 0xF000000000000 then .peer
  else if pa < 0xF800000000000 then .aperture
  else .window

/-- R120, R422: memory that the L2 caches. -/
def cachedTarget : Target → Bool
  | .device | .host | .aperture | .window => true
  | _ => false

/-- R113, R120: port A and port B ranges together are host memory. -/
def isHostMem : Target → Bool
  | .host | .portB => true
  | _ => false

/-! ## Partition ownership (R112, R185) -/

/-- The partition that owns a physical byte in partitioned mode; none where no valid granule or window names it. -/
def ownerPart (s : State) (pa : Nat) : Option Nat :=
  match targetOf s pa with
  | .device =>
    let g := pa / 2 ^ 30
    let b := field (bar s (Config.oPartition (g / 8))) (8 * (g % 8)) 8
    if 128 ≤ b then some (b % 4) else none
  | .host | .portB =>
    (List.range 16).findSome? fun i =>
      let w0 := bar s (Config.oPartition (24 + 2 * i))
      let w1 := bar s (Config.oPartition (25 + 2 * i))
      let base := field w0 12 40 * 4096
      let limit := field w1 12 40 * 4096
      if w0.msb && base ≤ pa && pa < limit + 4096 then some (field w0 0 2) else none
  | _ => some 0

/-- R11, R200, R203: the partition whose sets and counters a home address falls to; partition 0 where the device is not
partitioned. -/
def homePart (s : State) (pa : Nat) : Nat := if partitioned s then (ownerPart s pa).getD 0 else 0

/-- R112: an access from partition `d` is refused; SYS accesses to host memory are allowed. -/
def partitionDenied (s : State) (d : Nat) (pa : Nat) (sysPol : Bool) : Bool :=
  partitioned s &&
  (match targetOf s pa with
   | .device => ownerPart s pa != some d
   | .host | .portB => !sysPol && ownerPart s pa != some d
   | _ => false)

/-! ## Poison (R124) -/

def sectorOf (a : Nat) : Nat := a / 32
/-- The sectors that [pa, pa+n) touches. -/
def sectorsOf (pa n : Nat) : List Nat :=
  if n = 0 then [] else (List.range ((pa + n - 1) / 32 - pa / 32 + 1)).map (pa / 32 + ·)
/-- The first poisoned sector that a read of [pa, pa+n) meets. -/
def poisonIn (poison : List Nat) (pa n : Nat) : Option Nat := (sectorsOf pa n).find? (poison.contains ·)
/-- R124: a write of a whole sector clears its poison. -/
def clearPoison (poison : List Nat) (pa n : Nat) : List Nat :=
  poison.filter fun sec => !(pa ≤ 32 * sec && 32 * sec + 32 ≤ pa + n)

/-! ## Bytes -/

def readBytes (m : List Host.Cell) (pa : Nat) : Nat → List Byte
  | 0 => []
  | n + 1 => mapGet memDefault m pa :: readBytes m (pa + 1) n
def writeBytes (m : List Host.Cell) (pa : Nat) : List Byte → List Host.Cell
  | [] => m
  | b :: r => writeBytes (mapSet memDefault m pa b) (pa + 1) r

/-! ## Apertures (R116 to R119, R177) -/

/-- An enabled format range: aperture base and limit, kind, width, backing bases (R177). -/
structure AperRange where
  base : Nat
  limit : Nat
  plain : Bool
  width : Nat
  mant : Nat
  exp : Nat
  deriving DecidableEq, Repr

/-- The fields of format range register `f`, whatever EN holds. -/
def formatFields (s : State) (f : Nat) : AperRange :=
  let w0 := bar s (Config.oFormat f)
  let w1 := bar s (Config.oFormat f + 8)
  { base := 0xF000000000000 + field w0 12 35 * 4096, limit := 0xF000000000000 + field w1 12 35 * 4096 + 4096,
    plain := field w0 60 1 = 1, width := field w0 56 4, mant := field (bar s (Config.oFormat f + 0x10)) 7 45 * 128,
    exp := field (bar s (Config.oFormat f + 0x18)) 7 45 * 128 }

def aperEnabled (s : State) (f : Nat) : Bool := (bar s (Config.oFormat f)).msb

/-- The enabled range that covers an aperture byte (R116). -/
def aperRange (s : State) (pa : Nat) : Option AperRange :=
  (List.range 16).findSome? fun f =>
    let r := formatFields s f
    if aperEnabled s f && r.base ≤ pa && pa < r.limit then some r else none

/-- Bytes of the backing regions (R177). -/
def AperRange.mantBytes (r : AperRange) : Nat := (r.limit - r.base) * r.width / 8
def AperRange.expBytes (r : AperRange) : Nat := if r.plain then 0 else (r.limit - r.base) / 32

/-- The mantissa and exponent backing bytes of the line at `pa` (128-byte aligned): addresses (R116). -/
def AperRange.mantAddr (r : AperRange) (line : Nat) : Nat := r.mant + (line - r.base) * r.width / 8
def AperRange.expAddr (r : AperRange) (line : Nat) : Nat := r.exp + (line - r.base) / 32

/-- R116: builds an aperture line from its backing. -/
def buildLine (s : State) (r : AperRange) (line : Nat) : AperLine :=
  let v := bytesNat (readBytes s.mem (r.mantAddr line) (16 * r.width))
  let bytes := (List.range 128).map fun e => BitVec.ofInt 8 (streamField r.width v e * 2 ^ (8 - r.width))
  let exps := if r.plain then List.replicate 4 (126 + r.width)
    else (readBytes s.mem (r.expAddr line) 4).map BitVec.toNat
  let bad := (List.range 4).filter fun b =>
    (poisonIn s.poison (r.mantAddr line + 4 * r.width * b) (4 * r.width)).isSome ||
    (!r.plain && (poisonIn s.poison (r.expAddr line + b) 1).isSome)
  { line := line, bytes := bytes, exps := exps, width := r.width, dirty := false, poison := bad }

def satAdd (v : BitVec 32) (n : Nat) : BitVec 32 := BitVec.ofNat 32 (min (v.toNat + n) 0xFFFFFFFF)

/-- R118: a dirty aperture line is narrowed and written to its backing; the line becomes clean. -/
def resplit (s : State) (l : AperLine) : State :=
  match aperRange s l.line with
  | none => { s with aper := s.aper.map fun x => if x.line = l.line then { x with dirty := false } else x }
  | some r =>
    let qs := l.bytes.map fun b => narrowOne r.width b.toInt
    let mant := natBytes (16 * r.width) (streamNat r.width (qs.map Prod.fst))
    let mem := writeBytes s.mem (r.mantAddr l.line) mant
    let mem := if r.plain then mem
      else writeBytes mem (r.expAddr l.line) (l.exps.map (BitVec.ofNat 8 ·))
    let p := homePart s r.mant
    let poisoned := l.poison.flatMap fun b => sectorsOf (r.mantAddr l.line + 4 * r.width * b) (4 * r.width)
    { s with
      mem := mem
      poison := poisoned.foldl setAdd (clearPoison s.poison (r.mantAddr l.line) (16 * r.width))
      satMem := mapSet 0 s.satMem p (satAdd (mapGet 0 s.satMem p) (countTrue (qs.map Prod.snd)))
      aper := s.aper.map fun x => if x.line = l.line then { x with dirty := false } else x }

/-- A line derives from one of the backing lines, of 128 bytes, that [pa, pa+n) touches (R118). -/
def backingMeets (s : State) (pa n : Nat) (l : AperLine) : Bool :=
  match aperRange s l.line with
  | none => false
  | some r =>
    let m := r.mantAddr l.line
    let e := r.expAddr l.line
    let lo := pa / 128 * 128
    let hi := (pa + n + 127) / 128 * 128
    0 < n && ((m < hi && lo < m + 16 * r.width) || (!r.plain && e < hi && lo < e + 4))

/-- R118, steps 1 and 2: an access reaches backing bytes. -/
def reachBacking (s : State) (pa n : Nat) (write : Bool) : State :=
  let hit := s.aper.filter (backingMeets s pa n)
  let s := (hit.filter (·.dirty)).foldl resplit s
  if write then { s with aper := s.aper.filter fun x => !(hit.any (·.line == x.line)) } else s

/-! ## Publication windows (R180, R181) -/

/-- Entry and offset of a window address. -/
def windowEntry (pa : Nat) : Nat × Nat := ((pa - 0xF800000000000) / 2 ^ 39 % 256, pa % 2 ^ 39)

/-- The physical byte behind a window byte, in the table of partition `d`: the front buffer, or the back buffer for a
shadow write; none where V is clear or the offset lies outside (R180). -/
def windowByte (s : State) (d : Nat) (pa : Nat) (back : Bool) : Option Nat :=
  let (e, off) := windowEntry pa
  let d := if partitioned s then d else 0
  let w0 := pbar s d (Config.oPublication e)
  let front := field w0 62 1
  let useOne := (front == 1) != back
  let buf := pbar s d (Config.oPublication e + (if useOne then 0x10 else 0x08))
  if w0.msb && off < 2 ^ field w0 56 6 then some (field buf 12 40 * 4096 + off) else none

/-- R141, R180: a window address as caches and operations hold it: tagged above bit 51 with the partition whose table it
names, and in bit 54 where it is a shadow write's. DEDUCED: log entry 18. -/
def windowTag (s : State) (d : Nat) (shadow : Bool) (pa : Nat) : Nat :=
  pa + ((if partitioned s then d else 0) + (if shadow then 4 else 0)) * 2 ^ 52
/-- R141, R180: the byte that an access reaches at this moment: for a window address, the front buffer's, or the back
buffer's for a shadow write; none where the entry has been cleared. -/
def landing (s : State) (pa : Nat) : Option Nat :=
  match targetOf s pa with
  | .window => windowByte s (pa / 2 ^ 52 % 4) pa (pa / 2 ^ 54 % 2 == 1)
  | _ => some pa

/-! ## Stash lines and caches meeting an access (R104, R105, R107, R114, R115) -/

/-- Two byte ranges, as base and size, have a byte in common. -/
def rangesMeet (a b : Nat × Nat) : Bool := a.1 < b.1 + b.2 && b.1 < a.1 + a.2 && 0 < a.2 && 0 < b.2
/-- The lines that [pa, pa+n) touches. -/
def linesOf (pa n : Nat) : List Nat :=
  if n = 0 then [] else (List.range ((pa + n - 1) / 128 - pa / 128 + 1)).map fun i => (pa / 128 + i) * 128

/-- Sectors of memory are poison; an aperture's are those of its line (R123, R124). -/
def poisonSectors (s : State) (secs : List Nat) : State :=
  secs.foldl (fun s sec =>
    match landing s (32 * sec) with
    | none => s
    | some p =>
      if targetOf s p == .aperture then
        { s with aper := s.aper.map fun x => if x.line = p / 128 * 128 then { x with poison := setAdd x.poison (sec % 4) } else x }
      else { s with poison := setAdd s.poison (sectorOf p) }) s

/-- The bytes of a stash line, and its poisoned sectors as offsets. -/
def stashBytes (tc : TeamCore) (l : StashLine) : List Byte := (List.range 128).map fun i => mapGet (0 : Byte) tc.scratch (l.off + i)
def stashBad (tc : TeamCore) (l : StashLine) : List Nat := (List.range 4).filter fun b => tc.scratchPoison.contains (l.off / 32 + b)
/-- A stash line of a team is clean. -/
def stashClean (s : State) (tid : Nat) (l : StashLine) : State :=
  { s with teams := listMod s.teams tid fun t => { t with body := { t.body with
      stashLines := t.body.stashLines.map fun x => if x.off = l.off then { x with dirty := false, mask := 0 } else x } } }

/-- Bytes, some of whose sectors are poison, are written to memory outside the apertures. -/
def storeBytes (s : State) (pa : Nat) (bytes : List Byte) (bad : List Nat) : State :=
  let s := reachBacking s pa bytes.length true
  { s with mem := writeBytes s.mem pa bytes, poison := bad.foldl setAdd (clearPoison s.poison pa bytes.length) }

/-- R147, R389, R398: the write-back of a dirty stash line of an IL2 or IL3 team is an item, which is performed once
accepted or matched; the pair's or the team's own accesses see it before. It compares the whole line and writes the bytes that
the team has written, so that it undoes no later write of another agent to the line (R133). DEDUCED: log entry 100. -/
def stashItem (tid : Nat) (l : StashLine) (bytes : List Byte) (bad : List Nat) (now : Dword) : Item :=
  let f : ItemFields := { addr := BitVec.ofNat 64 l.pa, data := bytes, mask := 2 ^ 128 - 1, scope := 1, policy := 0 }
  { team := tid, grp := 0, thr := 0, pc := 0, kind := .writeback, lead := f, trail := f,
    act := .write (((List.range 128).filter l.mask.testBit).map fun i => (l.pa + i, bytes.getD i 0)), op := none, bad := bad.map (l.pa / 32 + ·), clk := now, unit := l.off }

/-- Whether a team's write-backs are items, and of what level (R389, R398). -/
def itemLevel (s : State) (t : Team) : Nat :=
  if ((s.launches[t.launch]?).map (·.kernel.il)).getD 0 = 3 then 3 else if t.side != .single then 2 else 0

/-- Writes one stash line of a team back, by `put` where nothing is compared; the line stays, clean. -/
def backWith (put : State → Nat → List Byte → List Nat → State) (s : State) (tid : Nat) (l : StashLine) : State :=
  match s.teams[tid]? with
  | none => s
  | some t =>
    let bytes := stashBytes t.body l
    let bad := stashBad t.body l
    let s := stashClean s tid l
    match itemLevel s t with
    | 3 => { s with pairs := listMod s.pairs (t.core / 8) fun p => { p with items := p.items ++ [stashItem tid l bytes bad s.cycle] } }
    | 2 => { s with teams := listMod s.teams tid fun t => { t with entries := t.entries ++ [stashItem tid l bytes bad s.cycle] } }
    | _ => put s l.pa bytes (bad.map (l.pa / 32 + ·))

/-- A snoop of a physical line from an agent other than team `keep`: each stash line of it is written back by `back` if
dirty, then invalid. The two teams of a core pair are one agent to others: what one reads, and what their items write, leaves the
other's line (R397, R398, log entry 100). -/
def snoopWith (back : State → Nat → StashLine → State) (s : State) (pa : Nat) (keep : Option Nat) : State :=
  (List.range s.teams.length).foldl (fun s tid =>
    if some tid = keep then s else
    match s.teams[tid]? with
    | none => s
    | some t =>
      match t.body.stashLines.find? (·.pa == pa / 128 * 128) with
      | none => s
      | some l =>
        let s := if l.dirty then back s tid l else s
        { s with teams := listMod s.teams tid fun t => { t with body := { t.body with
            stashLines := t.body.stashLines.filter (·.off != l.off) } } }) s

/-- The aperture line at a byte, built where it is not held (R116). Stash lines that hold its backing, which lies in device
memory, are written back first (R115). -/
def holdLine (s : State) (pa : Nat) : Option (State × AperLine) :=
  let line := pa / 128 * 128
  match s.aper.find? (·.line == line) with
  | some l => some (s, l)
  | none => (aperRange s pa).map fun r =>
    let s := (linesOf (r.mantAddr line) (16 * r.width) ++ linesOf (r.expAddr line) 4).foldl
      (fun s x => snoopWith (backWith storeBytes) s x none) s
    let s := reachBacking (reachBacking s (r.mantAddr line) (16 * r.width) false) (r.expAddr line) 4 false
    let l := buildLine s r line
    ({ s with aper := l :: s.aper }, l)

/-- The line `l` at an aperture byte takes bytes, of which the sectors `bad` are poison (R117, R124). -/
def putLine (s : State) (l : AperLine) (pa : Nat) (bytes : List Byte) (bad : List Nat) : State :=
  let n := bytes.length
  let upd := (List.range 128).map fun i =>
    if pa % 128 ≤ i && i < pa % 128 + n then bytes.getD (i - pa % 128) 0 else l.bytes.getD i 0
  let left := l.poison.filter fun b => !(pa % 128 ≤ 32 * b && 32 * b + 32 ≤ pa % 128 + n)
  { s with aper := s.aper.map fun x =>
      if x.line = l.line then { x with bytes := upd, dirty := true, poison := (bad.map (· % 4)).foldl setAdd left } else x }

/-- Bytes, some of whose sectors are poison, are written where they land. -/
def putBytes (s : State) (pa : Nat) (bytes : List Byte) (bad : List Nat) : State :=
  match targetOf s pa with
  | .aperture =>
    match holdLine s pa with
    | none => s
    | some (s, l) => putLine s l pa bytes bad
  | .window =>
    match landing s pa with
    | none => s
    | some p => storeBytes s p bytes (bad.map fun b => b - pa / 32 + p / 32)
  | _ => storeBytes s pa bytes bad

/-- Writes one stash line back; the team keeps the line, clean (R115). -/
def stashWriteBack (s : State) (tid : Nat) (l : StashLine) : State := backWith putBytes s tid l
/-- R115: a snoop of a physical line from an agent other than team `keep`: written back if dirty, then invalid. -/
def snoopStash (s : State) (pa : Nat) (keep : Option Nat) : State := snoopWith stashWriteBack s pa keep

/-- R107, R108: the copies of lines `ls` in operand-buffer shares are invalid; a pinned one keeps its space. -/
def staleShares (ls : List Nat) (l : List ShareLine) : List ShareLine :=
  (l.filter fun x => !(ls.contains x.line && x.pins.isEmpty)).map fun x => if ls.contains x.line then { x with valid := false } else x
/-- R107, R108: scratchpad bytes of a team are written: the shares' copies of their lines are invalid. -/
def dropScratch (s : State) (tid off n : Nat) : State :=
  { s with shares := staleShares ((linesOf off n).map (scratchKey tid)) s.shares }

/-- A write by any agent drops instruction-cache and operand-buffer copies of its lines (R105, R107), and other cores'
private copies (R104); a pinned copy keeps its space, no longer valid (R108). The command processor's copies of queue
headers go too (R164). -/
def dropCopies (s : State) (pa n : Nat) (core : Option Nat) : State :=
  let ls := linesOf pa n
  { s with
    icache := s.icache.filter fun x => !(ls.contains x.2)
    shares := staleShares ls s.shares
    watches := s.watches.map fun w => if ls.contains w.header then { w with lineHeld := false } else w
    dcache := s.dcache.filter fun x => !(ls.contains x.line && some x.core != core) }

/-! ## Physical accesses at the home -/

/-- What reaches memory before a home access of [pa, pa+n): stash snoops and backing re-splits. -/
def reachHome (s : State) (pa n : Nat) (write : Bool) (keep : Option Nat) : State :=
  let s := (linesOf pa n).foldl (fun s l => snoopStash s l keep) s
  reachBacking s pa n write

/-- Reads `n` bytes at the home outside the apertures, with the first poisoned sector. -/
def plainRead (s : State) (pa n : Nat) (keep : Option Nat) : State × List Byte × Option Nat :=
  let s := reachHome s pa n false keep
  (s, readBytes s.mem pa n, poisonIn s.poison pa n)

/-- Reads `n` bytes at the home, with the first poisoned sector. A window address reaches the buffer that is front now
(R141). -/
def homeRead (s : State) (pa n : Nat) (keep : Option Nat) : State × List Byte × Option Nat :=
  match targetOf s pa with
  | .aperture =>
    let s := (linesOf pa n).foldl (fun s l => snoopStash s l keep) s
    match holdLine s pa with
    | none => (s, List.replicate n 0, none)
    | some (s, l) =>
      (s, (List.range n).map fun i => l.bytes.getD (pa % 128 + i) 0,
        ((sectorsOf pa n).find? fun sec => l.poison.contains (sec % 4)))
  | .window =>
    let s := (linesOf pa n).foldl (fun s l => snoopStash s l keep) s
    match landing s pa with
    | none => (s, List.replicate n 0, none)
    | some p =>
      let (s, bs, bad) := plainRead s p n keep
      (s, bs, bad.map fun x => x - p / 32 + pa / 32)
  | _ => plainRead s pa n keep

/-- Writes bytes at the home outside the apertures. -/
def plainWrite (s : State) (pa : Nat) (bytes : List Byte) (core : Option Nat) (keep : Option Nat) : State :=
  let n := bytes.length
  let s := dropCopies (reachHome s pa n true keep) pa n core
  { s with mem := writeBytes s.mem pa bytes, poison := clearPoison s.poison pa n }

/-- Writes bytes at the home. DESIGN CHOICE: log entry 7. -/
def homeWrite (s : State) (pa : Nat) (bytes : List Byte) (core : Option Nat) (keep : Option Nat) : State :=
  let n := bytes.length
  match targetOf s pa with
  | .aperture =>
    let s := (linesOf pa n).foldl (fun s l => snoopStash s l keep) s
    match holdLine s pa with
    | none => s
    | some (s, l) => putLine (dropCopies s pa n core) l pa bytes []
  | .window =>
    let s := dropCopies ((linesOf pa n).foldl (fun s l => snoopStash s l keep) s) pa n core
    match landing s pa with
    | none => s
    | some p => plainWrite s p bytes none keep
  | _ => plainWrite s pa bytes core keep

/-- The runs of consecutive bytes of one line that cells written in order make. -/
def cellRuns : List Host.Cell → List (Nat × List Byte)
  | [] => []
  | c :: rest =>
    match cellRuns rest with
    | (a, bs) :: more => if a = c.1 + 1 && a % 128 != 0 then (c.1, c.2 :: bs) :: more else (c.1, [c.2]) :: (a, bs) :: more
    | [] => [(c.1, [c.2])]
/-- Cells are written at the home, a run at a time, so that a whole sector is written whole (R124); then the sectors of
`bad` are poison. -/
def writeCells (s : State) (core : Option Nat) (cs : List Host.Cell) (bad : List Nat) (keep : Option Nat := none) : State :=
  poisonSectors ((cellRuns cs).foldl (fun s x => homeWrite s x.1 x.2 core keep) s) bad
/-- R115: a team's own stash line is written back: the cells that it writes, and no snoop of it. -/
def writeStash (s : State) (cs : List Host.Cell) (bad : List Nat) : State :=
  poisonSectors ((cellRuns cs).foldl (fun s x => putBytes s x.1 x.2 []) s) bad

/-- A list without the `n`-th of its elements that `p` holds of. -/
def dropNth {α : Type} (p : α → Bool) : Nat → List α → List α
  | _, [] => []
  | n, x :: rest =>
    if !p x then x :: dropNth p n rest
    else match n with
      | 0 => rest
      | m + 1 => x :: dropNth p m rest
/-- A cache of at most `cap` lines of a kind makes room for one more, by the `pick`-th where it is full. -/
def makeRoom {α : Type} (mine : α → Bool) (cap pick : Nat) (l : List α) : List α :=
  if (l.filter mine).length < cap then l else dropNth mine (pick % cap) l

/-- R12, R104, R105: the ways and sets of a private data cache, and the lines of an instruction cache. The set of a line is
not stated: DESIGN CHOICE, log entry 22. -/
def dcacheWays : Nat := 16
def dcacheSet (line : Nat) : Nat := line / 128 % 128
def icacheLines : Nat := 1024
/-- A private cache obtains a line (R104); a full set gives up a line that .STRM has made the next victim (R113), or one of
the K7's choice. DESIGN CHOICE: log entry 22. -/
def allocLine (s : State) (core line : Nat) (st : LineState) (next : Bool) : State :=
  let rest := s.dcache.filter fun x => !(x.core == core && x.line == line)
  let pick := Config.victim s.cycle.toNat core line
  let mine := fun (x : CacheLine) => x.core == core && dcacheSet x.line == dcacheSet line
  let rest := if rest.any fun x => mine x && x.next
    then (if (rest.filter mine).length < dcacheWays then rest else dropNth (fun x => mine x && x.next) 0 rest)
    else makeRoom mine dcacheWays pick rest
  { s with dcache := ⟨core, line, st, next⟩ :: rest }
/-- R105: an instruction cache obtains a line. DESIGN CHOICE: log entry 22. -/
def allocCode (s : State) (core line : Nat) : State :=
  if s.icache.contains (core, line) then s else
  { s with icache := (core, line) :: makeRoom (·.1 == core) icacheLines (Config.victim s.cycle.toNat (64 + core) line) s.icache }

/-- R152: window writes past issue are performed at the controller, in order: those up to the last that `p` names.
DEDUCED: log entry 73. -/
def performWindow (s : State) (p : WinAccess → Bool) : State :=
  let n := s.window.length - (s.window.reverse.takeWhile fun x => !p x).length
  let now := s.window.take n
  let s := (now.filter (·.who.isNone)).foldl (fun s x => homeWrite s x.pa x.bytes none none) s
  { s with window := now.filter (·.who.isSome) ++ s.window.drop n }

/-- Marks sectors of physical memory as poison (R124). -/
def poisonBytes (s : State) (pas : List Nat) : State := poisonSectors s (pas.map sectorOf)

end Sys2Proof.Machine
end

