-- ==== Sys2Proof/Machine/Access.lean ====
section
/-! DEFINITION. Address translation and the checks of an access (R101, R102, R112, R119, R168 to R176, R269, R377, R430,
R438), and a team's view of memory (R147, R150). -/

namespace Sys2Proof.Machine

/-! ## Trap causes (R405) -/

def cIllegalInstr : Nat := 0x01
def cIllegalClause : Nat := 0x02
def cIllegalRun : Nat := 0x03
def cMisalignedTarget : Nat := 0x04
def cMisaligned : Nat := 0x05
def cNonCanonical : Nat := 0x06
def cTranslation : Nat := 0x07
def cPermission : Nat := 0x08
def cMalformed : Nat := 0x09
def cPartition : Nat := 0x0A
def cScratchBounds : Nat := 0x0B
def cLocalBounds : Nat := 0x0C
def cAperture : Nat := 0x0D
def cStashMap : Nat := 0x0E
def cPrivileged : Nat := 0x0F
def cStackOverflow : Nat := 0x10
def cReturnUnderflow : Nat := 0x11
def cMeetingOverflow : Nat := 0x12
def cMembership : Nat := 0x13
def cQueueCapacity : Nat := 0x14
def cChannelClosed : Nat := 0x15
def cCopyDescriptor : Nat := 0x16
def cBounded : Nat := 0x17
def cRecordKind : Nat := 0x18
def cRecordField : Nat := 0x19
def cInnerDim : Nat := 0x1A
def cOperandBounds : Nat := 0x1B
def cOperandLarge : Nat := 0x1C
def cReservation : Nat := 0x1D
def cHoldOverrun : Nat := 0x1E
def cPoison : Nat := 0x20
def cCopyFailed : Nat := 0x21
def cSparse : Nat := 0x22
def cCrewOverrun : Nat := 0x23
def cSoftTrap : Nat := 0x28
def cBreakpoint : Nat := 0x29
def cSingleStep : Nat := 0x2A
def cAbort : Nat := 0x30
def cWatchdog : Nat := 0x31
def cDoubleTrap : Nat := 0x32
def cRegStorage : Nat := 0x33
def cIntegrity : Nat := 0x34
def cGuarded : Nat := 0x35
def cDuration : Nat := 0x36
def cCancelled : Nat := 0x37
def cPartReset : Nat := 0x38

/-- R405: class T. -/
def classT (cause : Nat) : Bool := 0x30 ≤ cause && cause ≤ 0x38

/-! ## Contexts (R169) -/

/-- The valid context entry with an ID. -/
def ctxEntry (s : State) (ctx : Nat) : Option Nat :=
  (List.range 64).find? fun e => (bar s (Config.oContext e)).msb && field (bar s (Config.oContext e)) 0 16 == ctx
def ctxRoot (s : State) (ctx : Nat) : Option Nat :=
  (ctxEntry s ctx).map fun e => field (bar s (Config.oContext e + 8)) 12 40 * 4096
def ctxPart (s : State) (ctx : Nat) : Nat :=
  if partitioned s then ((ctxEntry s ctx).map fun e => field (bar s (Config.oContext e)) 16 2).getD 0 else 0

/-! ## The integrity granule (R386) -/

/-- R386: a byte of a valid integrity granule, which no kernel reaches. DEDUCED: log entry 101. -/
def integHeld (s : State) (pa : Nat) : Bool :=
  targetOf s pa == .device && (List.range 4).any fun d =>
    let a := pbar s d Config.oIntegArea
    (d == 0 || partitioned s) && a.msb && field a 30 22 == pa / 2 ^ 30
/-- R386: what lies behind a byte of an aperture or of a publication window is in an integrity granule. DEDUCED: log entry
101. -/
def integBehind (s : State) (part pa : Nat) (shadow : Bool) : Bool :=
  match targetOf s pa with
  | .window => (windowByte s part pa shadow).any (integHeld s)
  | .aperture => (aperRange s pa).any fun r =>
      let line := pa / 128 * 128
      integHeld s (r.mantAddr line) || integHeld s (r.mantAddr line + 16 * r.width - 1) ||
      (!r.plain && integHeld s (r.expAddr line))
  | _ => integHeld s pa

/-! ## Pages that a migration blocks (R122) -/

/-- R122: the page that a migration in progress moves holds the byte; its accesses wait. DEDUCED: log entry 75. -/
def pageMoving (s : State) (pa : Nat) : Bool := s.migrations.any fun m => m.src ≤ pa && pa < m.src + m.size
/-- What the writes that are queued at blocked pages, in their order, leave a byte at. -/
def queuedByte (s : State) (pa : Nat) : Option Byte :=
  s.queued.foldl (fun acc a => match a with
    | .write p bs => if p ≤ pa && pa < p + bs.length then bs[pa - p]? else acc
    | _ => acc) none
/-- R122: the command processor or a walker reads at the home. At a blocked page it reads what the accesses queued before it will
have left there, which is what it would read in its turn. DEDUCED: log entry 75. -/
def deviceRead (s : State) (pa n : Nat) : State × List Byte :=
  let (s, bs, _) := homeRead s pa n none
  (s, if s.queued.isEmpty then bs else (List.range n).map fun i => (queuedByte s (pa + i)).getD (bs.getD i 0))
/-- R122: the command processor or a dump writes at the home; what it writes to a blocked page is queued. -/
def deviceWrite (s : State) (pa : Nat) (bs : List Byte) : State :=
  if s.migrations.isEmpty then homeWrite s pa bs none none else
  (linesOf pa bs.length).foldl (fun s l =>
    let a := max pa l
    let part := (bs.drop (a - pa)).take (l + 128 - a)
    if pageMoving s a then { s with queued := s.queued ++ [.write a part] } else homeWrite s a part none none) s

/-! ## Page walks (R170 to R172) -/

/-- A table address that the walker does not read (R172, R386), with its cause. -/
def tableBad (s : State) (part : Nat) (a : Nat) : Option Nat :=
  match targetOf s a with
  | .none | .portB | .peer | .aperture | .window => some cMalformed
  | _ => if partitionDenied s part a true || integHeld s a then some cPartition else none

/-- An entry's reserved bits (R171). -/
def pteReserved (e : Nat) : Bool :=
  e / 2 ^ 60 % 16 != 0 || e / 2 ^ 52 % 128 != 0 || e / 2 ^ 8 % 16 != 0 || e / 2 ^ 6 % 2 != 0 || e / 4 % 2 != 0
def pteBit (e i : Nat) : Bool := e / 2 ^ i % 2 = 1
def ptePa (e : Nat) : Nat := e / 4096 % 2 ^ 40 * 4096

/-- R172: the 16 entries of a contiguous page's line agree. -/
def lineAgrees (e : Nat) (n : Nat) (x : Nat) : Bool :=
  pteBit x 0 && pteBit x 1 && pteBit x 7 && pteBit x 59 == pteBit e 59 && pteBit x 5 == pteBit e 5 &&
  pteBit x 4 == pteBit e 4 && pteBit x 3 == pteBit e 3 && ptePa x / 65536 == ptePa e / 65536 &&
  ptePa x / 4096 % 16 == n

/-- The page that a leaf maps. -/
def leafEntry (ctx va e bits : Nat) : PageResult :=
  .page { ctx := ctx, va := va / 2 ^ bits * 2 ^ bits, bits := bits, pa := ptePa e / 2 ^ bits * 2 ^ bits,
          sa := pteBit e 59, r := pteBit e 3, w := pteBit e 4, x := pteBit e 5 }

def read8 (s : State) (pa : Nat) : State × Nat :=
  let (s, bs) := deviceRead s pa 8
  (s, bytesNat bs)

/-- What one table entry tells the walker. -/
inductive PteResult where
  | fault (cause : Nat)
  | leaf (bits e : Nat)
  | table (tbl : Nat)
  deriving DecidableEq, Repr

/-- The index of `va` in a table of level `lvl` (R170). -/
def pteIndex (va lvl : Nat) : Nat := if lvl = 4 then va / 2 ^ 48 % 256 else va / 2 ^ (12 + 9 * lvl) % 512

/-- R171, R172: the entry of `va` in the table at `tbl`, with the memory state after the walker's read. A leaf above level 0
with C set is malformed. DESIGN CHOICE: log entry 117. -/
def readPte (s : State) (part va tbl lvl : Nat) : State × PteResult :=
  match tableBad s part tbl with
  | some c => (s, .fault c)
  | none =>
    let shift := 12 + 9 * lvl
    let at_ := tbl + 8 * pteIndex va lvl
    let (s, e) := read8 s at_
    if !pteBit e 0 then (s, .fault cTranslation)
    else if pteReserved e then (s, .fault cMalformed)
    else if !pteBit e 1 then
      (if pteBit e 59 || pteBit e 7 || pteBit e 5 || pteBit e 4 || pteBit e 3 || lvl = 0 then (s, .fault cMalformed)
       else (s, .table (ptePa e)))
    else if 3 ≤ lvl then (s, .fault cMalformed)
    else if ptePa e % 2 ^ shift != 0 then (s, .fault cMalformed)
    else if pteBit e 7 then
      let line := at_ / 128 * 128
      let xs := (List.range 16).map fun n => (n, bytesNat (readBytes s.mem (line + 8 * n) 8))
      (if lvl = 0 && xs.all (fun x => lineAgrees e x.1 x.2) then (s, .leaf 16 e) else (s, .fault cMalformed))
    else (s, .leaf shift e)

/-- R170: the walk of levels `lvl` down to 0, whose first table is at `tbl`. -/
def walkFrom (ctx part va : Nat) : Nat → State → Nat → State × PageResult
  | lvl, s, tbl =>
    match lvl with
    | 0 =>
      match readPte s part va tbl 0 with
      | (s, .leaf bits e) => (s, leafEntry ctx va e bits)
      | (s, .fault c) => (s, .fault c)
      | (s, .table _) => (s, .fault cMalformed)
    | n + 1 =>
      match readPte s part va tbl (n + 1) with
      | (s, .leaf bits e) => (s, leafEntry ctx va e bits)
      | (s, .fault c) => (s, .fault c)
      | (s, .table t) => walkFrom ctx part va n s t

/-- A walk of the page of `va` in a context. -/
def walkPage (s : State) (ctx part va : Nat) : State × PageResult :=
  match ctxRoot s ctx with
  | none => (s, .fault cTranslation)
  | some root => walkFrom ctx part va 4 s root

/-! ## TLBs (R173 to R175) -/

def TlbEntry.covers (e : TlbEntry) (ctx va : Nat) : Bool := e.ctx == ctx && e.va ≤ va && va < e.va + 2 ^ e.bits

def tlbFind (l : List (Nat × TlbEntry)) (unit ctx va : Nat) : Option TlbEntry :=
  (l.find? fun x => x.1 == unit && x.2.covers ctx va).map Prod.snd

/-- The entries of a unit that stay beside a new one: fewer than `cap`, the most recently used (R174). -/
def tlbKeep (unit : Nat) : Nat → List (Nat × TlbEntry) → List (Nat × TlbEntry)
  | _, [] => []
  | cap, x :: rest =>
    if x.1 ≠ unit then x :: tlbKeep unit cap rest
    else match cap with
      | 0 => tlbKeep unit 0 rest
      | n + 1 => x :: tlbKeep unit n rest
/-- R12, R174: the entries of a first-level TLB and of a cluster TLB. -/
def tlbSize : Nat := 1024
def clusterTlbSize : Nat := 16384
/-- Two entries translate some address of one context. -/
def TlbEntry.meets (a b : TlbEntry) : Bool := a.ctx == b.ctx && a.va < b.va + 2 ^ b.bits && b.va < a.va + 2 ^ a.bits
/-- R173, R174: a fill of a TLB of `cap` entries replaces the entries that translate what it does, and where the TLB is full the
least recently used of its set, which is the whole TLB here. DESIGN CHOICE: log entry 21. -/
def tlbFill (cap : Nat) (l : List (Nat × TlbEntry)) (unit : Nat) (e : TlbEntry) : List (Nat × TlbEntry) :=
  (unit, e) :: tlbKeep unit (cap - 1) (l.filter fun x => !(x.1 == unit && x.2.meets e))
/-- R174: the entry of `va` in a unit becomes its most recently used. -/
def tlbUse (l : List (Nat × TlbEntry)) (unit ctx va : Nat) : List (Nat × TlbEntry) :=
  match tlbFind l unit ctx va with
  | none => l
  | some e => (unit, e) :: l.filter (· != (unit, e))
/-- R173: no TLB of the unit holds an entry of an address whose translation faults. -/
def tlbDrop (l : List (Nat × TlbEntry)) (unit ctx va : Nat) : List (Nat × TlbEntry) :=
  l.filter fun x => !(x.1 == unit && x.2.covers ctx va)

/-- What an access does, for its rights and for the targets that refuse it (R173, R430, R438). -/
inductive AccKind where
  | load | store | fetch | operand | accst | stash | copySrc | copyDst
  | atomic (aop : Option Aop) (red : Bool)
  deriving DecidableEq, Repr

def AccKind.writes : AccKind → Bool
  | .store | .accst | .copyDst | .atomic _ _ => true
  | _ => false

/-- R173: the right that an access needs. A stash fill, which R173 does not list, needs R alone. DESIGN CHOICE: log entry 118. -/
def rightOk (k : AccKind) (e : TlbEntry) : Bool :=
  match k with
  | .load | .operand | .copySrc | .stash => e.r
  | .store | .accst | .copyDst => e.w
  | .fetch => e.x
  | .atomic _ _ => e.r && e.w

/-- What a thread's access needs to know of its surroundings. -/
structure AccEnv where
  ctx : Nat
  part : Nat
  req : Requester
  bounded : Bool
  il : Nat
  deriving DecidableEq, Repr

/-- The outcome of a check: a physical address, which is a tagged window address for a publication window (R180); a TLB
miss that holds the port (R269); an access that waits at a page being moved or a range being disabled (R122, R178); or a
fault. -/
inductive Checked where
  | ok (pa : Nat) (sa : Bool)
  | miss (page : Nat)
  | wait
  | fault (cause : Nat) (addr : Dword)
  deriving DecidableEq, Repr

/-- R438: the atomics that a peer performs. -/
def peerAtomic : AccKind → Bool
  | .atomic none red => !red
  | .atomic (some a) red => !red && (a == .add || a == .swap || a == .add64 || a == .swap64)
  | _ => true

/-- R178: the byte lies in an aperture whose range a write is disabling; its accesses wait. -/
def rangeClosing (s : State) (pa : Nat) : Bool :=
  s.fmtDisables.any fun f => let r := formatFields s f; r.base ≤ pa && pa < r.limit
/-- The checks that depend on the physical address: partition, rights, target (R112, R116, R119, R120, R180, R377, R430,
R438). Where R119 lists a store, a copy and an ACCST of an IL3 team to an aperture, a stash fill faults too here, since it takes
ownership of the line; and where R438 lists what a peer refuses, a stash fill is refused too, since nothing of a peer is
cached here. DESIGN CHOICE: log entry 123. DEDUCED: log entry 18. -/
def checkTarget (s : State) (env : AccEnv) (k : AccKind) (sysPol shadow : Bool) (e : TlbEntry) (va : Dword) (pa : Nat) :
    Checked :=
  let t := targetOf s pa
  if partitionDenied s env.part pa (sysPol || t == .portB) || integBehind s env.part pa shadow then .fault cPartition va
  else if !rightOk k e then .fault cPermission va
  else if pageMoving s pa then .wait
  else match t with
  | .none => .fault cTranslation va
  | .device => .ok pa e.sa
  | .host => if env.bounded then .fault cBounded va else .ok pa e.sa
  | .portB =>
    match k with
    | .atomic _ _ | .operand | .accst | .stash => .fault cPermission va
    | _ => if env.bounded then .fault cBounded va else .ok pa e.sa
  | .peer => if peerAtomic k && k != .stash then .ok pa e.sa else .fault cPermission va
  | .aperture =>
    if (aperRange s pa).isNone then .fault cAperture va
    else if env.il = 3 && (k.writes || k == .stash) then .fault cAperture va
    else if rangeClosing s pa then .wait
    else .ok pa e.sa
  | .window =>
    if (windowByte s env.part pa shadow).isNone then .fault cAperture va else .ok (windowTag s env.part shadow pa) e.sa

/-- R173: a translation whose every access faults, which no TLB holds. -/
def frameFaults (s : State) (part pa : Nat) : Bool :=
  match targetOf s pa with
  | .none => true
  | .device => partitionDenied s part pa false || integHeld s pa
  | .aperture => (aperRange s pa).isNone || integBehind s part pa false
  | .window => (windowByte s part pa false).isNone || integBehind s part pa false
  | _ => false

/-- The walk outcome that this requester has received for a page. -/
def outcomeFor (s : State) (env : AccEnv) (page : Nat) : Option PageResult :=
  (s.outcomes.find? fun o => o.to_ == env.req && o.ctx == env.ctx && o.page == page).map (·.res)

/-- R269: canonicality, alignment, translation through the first-level TLB, and the checks of `checkTarget`; a fault that
a TLB entry gives is confirmed by a fresh walk first (R173). -/
def checkGlobal (s : State) (env : AccEnv) (k : AccKind) (sysPol shadow : Bool) (align : Nat) (va : Dword) : Checked :=
  if 2 ^ 56 ≤ va.toNat then .fault cNonCanonical va
  else if va.toNat % align != 0 then .fault cMisaligned va
  else
    let page := va.toNat / 4096
    match outcomeFor s env page with
    | some (.page e) => checkTarget s env k sysPol shadow e va (e.pa + (va.toNat - e.va))
    | some (.fault c) => .fault c va
    | none =>
      match tlbFind s.tlb env.req.core env.ctx va.toNat with
      | some e =>
        match checkTarget s env k sysPol shadow e va (e.pa + (va.toNat - e.va)) with
        | .fault _ _ => .miss page
        | r => r
      | none => .miss page

/-! ## Counters of a core (R202) -/

/-- R388: a core of the leading cluster of a pair that runs checked: every event of it is one of the trailing core too.
DEDUCED: log entry 98. -/
def trails (s : State) (core : Nat) : Bool :=
  core / 4 % 2 == 0 && match (s.pairs.getD (core / 8) {}).mode with
    | .paired | .rollback | .unpair => true
    | _ => false
/-- PERF event `ev` of a context occurs `n` times on a core: a counter programmed with it, and with no filter or this
context, counts. The programming word holds EN [63], FILTER [32], CONTEXT [31:16] and EVENT [3:0] (DESIGN CHOICE, log entry 14). -/
def perfEvent (s : State) (core ctx ev n : Nat) : State :=
  if ev ≥ 8 || s.perfProg.isEmpty then s else
  let count := fun (perf : SMap (BitVec 48)) (core : Nat) => (List.range 8).foldl (fun p i =>
      let w := mapGet 0 s.perfProg (8 * core + i)
      if w.msb && field w 0 4 == ev && (field w 32 1 == 0 || field w 16 16 == ctx) then
        mapSet 0 p (8 * core + i) (mapGet 0 p (8 * core + i) + BitVec.ofNat 48 n) else p) perf
  { s with perf := if trails s core then count (count s.perf core) (core + 4) else count s.perf core }

/-- R174: the cluster TLB's entry for a first-level miss. A page whose rights the first level already holds is walked
again (R173). -/
def clusterHit (s : State) (env : AccEnv) (page : Nat) : Option TlbEntry :=
  if (tlbFind s.tlb env.req.core env.ctx (page * 4096)).isSome then none
  else tlbFind s.ctlb (env.req.core / 4) env.ctx (page * 4096)

/-- R174: an access that is performed uses the first-level TLB's entry of its page. -/
def usePage (s : State) (env : AccEnv) (va : Dword) : State := { s with tlb := tlbUse s.tlb env.req.core env.ctx va.toNat }
def usePages (s : State) (env : AccEnv) (vas : List Dword) : State := vas.foldl (fun s va => usePage s env va) s

/-- R174, R175, R202: a miss takes the cluster TLB's entry, attaches to the walk of its page, or asks for one. The walk that confirms
a fault of a first-level entry (R173) is no miss. -/
def requestWalk (s : State) (env : AccEnv) (page : Nat) : State :=
  match clusterHit s env page with
  | some e => { perfEvent s env.req.core env.ctx 7 1 with
      tlb := tlbFill tlbSize s.tlb env.req.core e, ctlb := tlbUse s.ctlb (env.req.core / 4) env.ctx (page * 4096) }
  | none =>
  let s := if (tlbFind s.tlb env.req.core env.ctx (page * 4096)).isSome then s
    else if s.walks.any fun w => w.ctx == env.ctx && w.page == page && w.by_.contains env.req then s
    else perfEvent s env.req.core env.ctx 7 1
  match s.walks.find? (fun w => w.ctx == env.ctx && w.page == page) with
  | some w =>
    if w.by_.contains env.req then s else
    { s with walks := s.walks.map fun x =>
        if x.id = w.id then { x with by_ := x.by_ ++ [env.req] } else x }
  | none =>
    { s with
      walks := s.walks ++ [⟨s.nextId, env.ctx, page, env.part, [env.req], false, false⟩]
      nextId := s.nextId + 1 }

/-- The partner of an IL2 team (R397). -/
def Team.partner (t : Team) : Option Nat :=
  match t.side with
  | .single => none
  | .lead p | .trail p => some p

/-! ## A team's view of memory (R147, R150)

A read by an IL3 team sees its pair's items and provisional bytes; a read by a leading IL2 team sees its own unmatched
items. -/

/-- The pair of a core (R9). -/
def pairOf (core : Nat) : Nat := core / 8

/-- The last value written to a byte among cells written later in the list. -/
def lastWrite (cells : List Host.Cell) (pa : Nat) : Option Byte :=
  cells.foldl (fun acc c => if c.1 = pa then some c.2 else acc) none

/-- The bytes that an item writes. -/
def Item.cells (i : Item) : List Host.Cell :=
  match i.act with
  | .write cs | .once cs => cs
  | _ => []

/-- The provisional value of a byte for a team, if any. -/
def viewOverlay (s : State) (tid : Nat) (pa : Nat) : Option Byte :=
  match s.teams[tid]? with
  | none => none
  | some t =>
    let il := ((s.launches[t.launch]?).map (·.kernel.il)).getD 0
    let items := if il = 3 then ((s.pairs[pairOf t.core]?).map (·.items)).getD [] else if il = 2 then t.entries else []
    match lastWrite (items.flatMap Item.cells) pa with
    | some b => some b
    | none =>
      if il = 3 then ((s.pairs[pairOf t.core]?).bind fun p => lastWrite (p.prov.map Prod.snd) pa) else none

/-- What a team's own writes that memory does not hold yet say of a sector's poison (R124, R147). -/
def viewBad (s : State) (tid sec : Nat) : Option Bool :=
  match s.teams[tid]? with
  | none => none
  | some t =>
    let il := ((s.launches[t.launch]?).map (·.kernel.il)).getD 0
    if il = 3 then
      let p := s.pairs.getD (pairOf t.core) {}
      if p.items.any (·.bad.contains sec) then some true else (p.provBad.find? (·.2.1 == sec)).map (·.2.2)
    else if il = 2 && t.entries.any (·.bad.contains sec) then some true else none

/-- The first poisoned sector of [pa, pa+n) as a team sees it, where memory has `p`. -/
def seenPoison (s : State) (tid pa n : Nat) (p : Option Nat) : Option Nat :=
  if (sectorsOf pa n).all fun sec => (viewBad s tid sec).isNone then p
  else (sectorsOf pa n).find? fun sec => (viewBad s tid sec).getD (s.poison.contains sec)
/-- Reads `n` bytes as a team sees them, with the first poisoned sector. -/
def viewRead (s : State) (tid pa n : Nat) : State × List Byte × Option Nat :=
  let s := if targetOf s pa == .portB then performWindow s fun _ => true else s
  let (s, bs, p) := homeRead s pa n ((s.teams[tid]?).bind Team.partner)
  let bs := (List.range n).map fun i => (viewOverlay s tid (pa + i)).getD (bs.getD i 0)
  (s, bs, seenPoison s tid pa n p)

end Sys2Proof.Machine
end

