-- ==== Sys2Proof/Machine/Teams.lean ====
section
/-! DEFINITION. Access to the fields of teams, groups, threads, crews and runs. -/

namespace Sys2Proof.Machine

/-! ## Records for places that hold nothing -/

def boolBit (b : Bool) : Nat := if b then 1 else 0

def Thread.empty : Thread := Thread.fresh 0 0 0
def Group.empty : Group := { threads := [], k := [], gens := [], d := [], sub := 0, port := 0 }
def TeamCore.empty : TeamCore := { groups := [], barriers := [], queues := [] }
def Team.empty : Team := { launch := 0, idx := 0, core := 0, s0 := 0, p0 := 0, part := 0, body := TeamCore.empty }
def Launch.empty : Launch := { ctx := 0, num := 0, queue := 0, desc := {}, kernel := {}, args := [], prio := 7 }

/-! ## Teams, groups and threads -/

def getTeam (s : State) (tid : Nat) : Team := s.teams.getD tid Team.empty
def modTeam (s : State) (tid : Nat) (f : Team → Team) : State := { s with teams := listMod s.teams tid f }
def modCore (s : State) (tid : Nat) (f : TeamCore → TeamCore) : State := modTeam s tid fun t => { t with body := f t.body }
def getCore (s : State) (tid : Nat) : TeamCore := (getTeam s tid).body
/-- The launch of a team. -/
def teamLaunch (s : State) (tid : Nat) : Launch := s.launches.getD (getTeam s tid).launch Launch.empty
def modLaunch (s : State) (li : Nat) (f : Launch → Launch) : State := { s with launches := listMod s.launches li f }

/-- R23: the team holds resources of its core. -/
def Team.holds (t : Team) : Bool := t.life == .loading || t.life == .resident || t.life == .stopping

def TeamCore.group (tc : TeamCore) (g : Nat) : Group := tc.groups.getD g Group.empty
def TeamCore.modGroup (tc : TeamCore) (g : Nat) (f : Group → Group) : TeamCore :=
  { tc with groups := listMod tc.groups g f }
def getGroup (s : State) (tid g : Nat) : Group := (getCore s tid).group g
def modGroup (s : State) (tid g : Nat) (f : Group → Group) : State := modCore s tid fun tc => tc.modGroup g f

/-- The open crew of recruiter thread `t` of group `g`. -/
def TeamCore.crew (tc : TeamCore) (g t : Nat) : Option Crew := tc.crews.find? fun c => c.grp == g && c.thr == t
def TeamCore.modCrew (tc : TeamCore) (g t : Nat) (f : Crew → Crew) : TeamCore :=
  { tc with crews := tc.crews.map fun c => if c.grp = g ∧ c.thr = t then f c else c }

/-- A member of group `g`: one of its threads, or a helper of one of its threads. -/
def TeamCore.th (tc : TeamCore) (g : Nat) : Who → Thread
  | .lane t => (tc.group g).threads.getD t Thread.empty
  | .helper thr hg ht =>
    match tc.crew g thr with
    | none => Thread.empty
    | some c =>
      match c.helpers.find? fun h => h.grp == hg && h.thr == ht with
      | none => Thread.empty
      | some h => h.th
  | .group => Thread.empty
def TeamCore.modTh (tc : TeamCore) (g : Nat) (w : Who) (f : Thread → Thread) : TeamCore :=
  match w with
  | .lane t => tc.modGroup g fun gr => { gr with threads := listMod gr.threads t f }
  | .helper thr hg ht =>
    tc.modCrew g thr fun c =>
      { c with helpers := c.helpers.map fun h => if h.grp = hg ∧ h.thr = ht then { h with th := f h.th } else h }
  | .group => tc

def getTh (s : State) (tid g : Nat) (w : Who) : Thread := (getCore s tid).th g w
def modTh (s : State) (tid g : Nat) (w : Who) (f : Thread → Thread) : State :=
  modCore s tid fun tc => tc.modTh g w f

/-- The member that lane code `c` of a run names: codes of a helper set are 32·group + thread of the borrowed context. -/
def laneWho (hs : Option Nat) (c : Nat) : Who :=
  match hs with
  | none => .lane c
  | some thr => .helper thr (c / 32) (c % 32)
def Run.who (r : Run) (c : Nat) : Who := laneWho r.helpers c

/-- The thread of a run's lane. -/
def laneTh (s : State) (r : Run) (c : Nat) : Thread := getTh s r.team r.grp (r.who c)
def modLane (s : State) (r : Run) (c : Nat) (f : Thread → Thread) : State := modTh s r.team r.grp (r.who c) f
/-- Changes every lane of a run. -/
def modLanes (s : State) (r : Run) (f : Nat → Thread → Thread) : State :=
  r.lanes.foldl (fun s c => modLane s r c (f c)) s
/-- The thread that a lane stands for in records and reports: a helper's recruiter (R418). -/
def Run.nameOf (r : Run) (c : Nat) : Nat := r.helpers.getD c
/-- How an operation names the lane to which its deferred reports go (R270): a thread by its index, a helper by 1024 for each of its
code and one more, and its recruiter. -/
def Run.reporter (r : Run) (c : Nat) : Nat :=
  match r.helpers with
  | none => c
  | some thr => 1024 * (c + 1) + thr
/-- The member that an operation's reporter names. -/
def reporterWho (n : Nat) : Who :=
  if n < 1024 then .lane n else .helper (n % 1024) ((n / 1024 - 1) / 32) ((n / 1024 - 1) % 32)
/-- R18: the team thread index of a lane. -/
def Run.teamThread (r : Run) (c : Nat) : Nat := 32 * r.grp + r.nameOf c
def Run.lowest (r : Run) : Nat := r.lanes.headD 0

/-- The run that issues next. -/
def curRun (s : State) : Run := s.runs.headD { team := 0, grp := 0, lanes := [], pc := 0 }
def modRun (s : State) (f : Run → Run) : State :=
  match s.runs with
  | [] => s
  | r :: rest => { s with runs := f r :: rest }
/-- How the word left its run. -/
def signal (s : State) (x : Signal) : State := modRun s fun r => { r with sig := x }

/-- What the accesses of a run know of their surroundings. -/
def envOf (s : State) (r : Run) : AccEnv :=
  let t := getTeam s r.team
  let l := teamLaunch s r.team
  { ctx := l.ctx, part := t.part, req := ⟨t.core, r.team, r.grp⟩, bounded := l.desc.bounded, il := l.kernel.il }

end Sys2Proof.Machine
end

