-- ==== Sys2Proof/Machine/Records.lean ====
section
/-! DEFINITION. The trace ring and the fault ring of a partition, and the records in them (R166, R408, R409, R417,
R418). -/

namespace Sys2Proof.Machine

/-! ## Byte rings (R166, R408) -/

/-- Writes bytes into a byte ring from position `wr` on. DEDUCED: log entry 57. -/
def ringBytes (s : State) (base size wr : Nat) : List Byte → State
  | [] => s
  | b :: rest => ringBytes (deviceWrite s (base + wr % size) [b]) base size (wr + 1) rest

/-- The size of the ring that a control register describes. -/
def ringSize (ctl : Dword) : Nat := 2 ^ field ctl 0 5

/-- Writes a record whole and advances WR, or nothing where it does not fit. -/
def ringWrite (s : State) (d oBase oCtl oWr oRd : Nat) (bs : List Byte) : Option State :=
  let size := ringSize (pbar s d oCtl)
  let wr := (pbar s d oWr).toNat
  if size < wr - (pbar s d oRd).toNat + bs.length then none
  else some (setPbar (ringBytes s (pbar s d oBase).toNat size wr bs) d oWr (BitVec.ofNat 64 (wr + bs.length)))

/-- One more lost record, saturating. -/
def loseRecord (s : State) (d oLost : Nat) : State :=
  setPbar s d oLost (BitVec.ofNat 64 (min ((pbar s d oLost).toNat + 1) 0xFFFFFFFF))

/-! ## Trace records (R417, R418) -/

/-- The logical name that a record carries (R8, R418). -/
structure RecName where
  ctx : Nat := 0
  team : Nat := 0
  thread : Nat := 0
  helper : Bool := false
  launch : Nat := 0
  deriving DecidableEq, Repr

def natWord (n : Nat) : List Byte := natBytes 4 n
def natDword (n : Nat) : List Byte := natBytes 8 n

/-- R418: the record's bytes, in whole 16-byte units. -/
def traceBytes (s : State) (kind : Nat) (nm : RecName) (body : List Byte) : List Byte :=
  let units := (16 + body.length + 15) / 16
  let w0 := kind * 2 ^ 56 + units * 2 ^ 48 + nm.ctx * 2 ^ 32 + field s.cycle 0 16 * 2 ^ 16
  let w1 := nm.team * 2 ^ 40 + nm.thread * 2 ^ 30 + boolBit nm.helper * 2 ^ 29 + nm.launch % 2 ^ 29
  natDword w0 ++ natDword w1 ++ body ++ List.replicate (16 * units - 16 - body.length) 0

def traceWrite (s : State) (d : Nat) (bs : List Byte) : Option State :=
  ringWrite s d Config.oTrBase Config.oTrCtl Config.oTrWr Config.oTrRd bs

/-- Records of a kind are written in a partition (R417). -/
def traceOn (s : State) (d kind : Nat) : Bool :=
  let ctl := pbar s d Config.oTrCtl
  ctl.msb && (kind < 3 || field ctl (48 + (kind - 3)) 1 == 1)

/-- R166: a record is written whole, after a gap record where records have been lost; or it is lost itself.
DEDUCED: log entry 56. -/
def trace (s : State) (d kind : Nat) (nm : RecName) (body : List Byte) : State :=
  if !traceOn s d kind then s else
  let lost := (pbar s d Config.oTrLost).toNat
  let afterGap := if lost = 0 then some s else
    (traceWrite s d (traceBytes s 2 {} (natWord lost ++ natDword s.cycle.toNat ++ natDword s.phcNs.toNat))).map fun s =>
      setPbar s d Config.oTrLost 0
  match afterGap with
  | none => loseRecord s d Config.oTrLost
  | some s =>
    match traceWrite s d (traceBytes s kind nm body) with
    | some s => s
    | none => loseRecord s d Config.oTrLost

/-- R418: a synchronisation record with its reason. -/
def traceSync (s : State) (d reason : Nat) : State :=
  trace s d 1 {} (natDword s.cycle.toNat ++ natDword s.phcNs.toNat ++ natWord s.khz.toNat ++ natWord reason)
/-- A synchronisation record in every partition that traces. -/
def traceSyncAll (s : State) (reason : Nat) : State := (List.range 4).foldl (fun s d => traceSync s d reason) s

/-- The name of a lane of a run in a record. -/
def nameOfLane (s : State) (r : Run) (c : Nat) : RecName :=
  let l := teamLaunch s r.team
  { ctx := l.ctx, team := (getTeam s r.team).idx, thread := r.teamThread c, helper := r.helpers.isSome, launch := l.num }
/-- The iteration index that a member runs, of its crew's range (R316). -/
def iterOf (s : State) (r : Run) (c : Nat) : Word :=
  (((getCore s r.team).crew r.grp (r.nameOf c)).map (·.lo)).getD 0 +
    BitVec.ofNat 32 (((laneTh s r c).member.map (·.iter)).getD 0)
/-- R418: the iteration index that a helper's record carries. -/
def helperIter (s : State) (r : Run) (c : Nat) : List Byte :=
  if r.helpers.isSome then natWord (iterOf s r c).toNat else []

/-! ## Fault records (R408, R409) -/

/-- What a fault record says. -/
structure FaultRec where
  kind : Nat
  code : Nat
  ctx : Nat
  launch : Nat
  team : Nat
  thread : Nat := 0
  epc : Dword := 0
  addr : Dword := 0
  info : Word := 0
  iter : Nat := 0
  dump : Nat := 0
  items : List (Nat × Nat × Dword × Dword) := []
  deriving DecidableEq, Repr

def itemBytes (i : Nat × Nat × Dword × Dword) : List Byte :=
  natDword (i.1 * 2 ^ 56 + i.2.1 % 2 ^ 56) ++ natDword i.2.2.1.toNat ++ natDword i.2.2.2.toNat ++ natDword 0

def faultHeader (s : State) (f : FaultRec) (items : Nat) : List Byte :=
  natDword (f.kind * 2 ^ 56 + f.code * 2 ^ 48 + f.ctx * 2 ^ 32 + f.launch) ++
  natDword (f.team * 2 ^ 40 + f.thread * 2 ^ 30 + items) ++ natDword f.epc.toNat ++ natDword f.addr.toNat ++
  natWord f.info.toNat ++ natWord f.iter ++ natDword s.cycle.toNat ++ natDword s.phcNs.toNat ++ natDword f.dump

/-- Writes one record, or loses it; the trace takes a copy of its header, as a helper's event for a record of a crew (R418). -/
def faultOne (s : State) (d : Nat) (f : FaultRec) (items : List (Nat × Nat × Dword × Dword)) : State :=
  let bs := faultHeader s f items.length
  let w := if (pbar s d Config.oFrCtl).msb then
      ringWrite s d Config.oFrBase Config.oFrCtl Config.oFrWr Config.oFrRd (bs ++ items.flatMap itemBytes)
    else none
  let s := match w with
    | some s => s
    | none => loseRecord s d Config.oFrLost
  trace s d 7 { ctx := f.ctx, team := f.team, thread := f.thread, helper := f.kind == 2, launch := f.launch } bs

/-- R409: at most 4,095 items a record; `n` bounds the further records. -/
def faultSplit (s : State) (d : Nat) (f : FaultRec) : Nat → List (Nat × Nat × Dword × Dword) → State
  | 0, items => faultOne s d f (items.take 4095)
  | n + 1, items =>
    let s := faultOne s d f (items.take 4095)
    if (items.drop 4095).isEmpty then s else faultSplit s d f n (items.drop 4095)

def faultRecord (s : State) (d : Nat) (f : FaultRec) : State := faultSplit s d f (f.items.length / 4095) f.items

/-- The record of a team. -/
def teamRec (s : State) (tid kind code : Nat) : FaultRec :=
  let l := teamLaunch s tid
  { kind := kind, code := code, ctx := l.ctx, launch := l.num, team := (getTeam s tid).idx }

/-! ## Mismatches (R394) -/

/-- R394: KIND. -/
def mismatchKind : ItemKind → Nat
  | .store | .writeback => 0
  | .atomic => 1
  | .copy => 2
  | .message | .publish | .post => 3
  | .transfer => 4
  | .sample => 6

/-- What a fault-log record says of the item that disagrees. -/
structure Mismatch where
  team : Nat
  grp : Nat
  thread : Nat
  kind : Nat
  mask : Nat := 0
  addr : Dword := 0
  lead : Nat := 0
  trail : Nat := 0
  deriving DecidableEq, Repr

/-- R394: a fault-log record; RETRY is at most 3. DEDUCED: log entry 120. -/
def mismatchBytes (s : State) (m : Mismatch) (pair retry : Nat) : List Byte :=
  let l := teamLaunch s m.team
  let t := getTeam s m.team
  natDword s.cycle.toNat ++ natDword (l.ctx * 2 ^ 48 + t.idx * 2 ^ 16 + m.thread % 256 * 2 ^ 8 + m.grp * 2 ^ 3 + pair) ++
  natWord l.num ++ natWord (m.kind * 2 ^ 24 + min retry 3 * 2 ^ 16 + m.mask % 2 ^ 16) ++ natDword m.addr.toNat ++
  natDword m.lead ++ natDword m.trail ++ natWord t.ckptId.toNat ++ natWord 0 ++ natDword s.phcNs.toNat
/-- R394: the record of a mismatch joins the supervisor's fault log. -/
def recordMismatch (s : State) (m : Mismatch) (pair retry : Nat) : State :=
  { s with faultLog := s.faultLog ++ [mismatchBytes s m pair retry] }

/-- R394: how many bytes of an item's data LEAD and TRAIL hold. -/
def mismatchWidth : ItemKind → Nat
  | .transfer => 4
  | _ => 8
/-- R394: the mismatch of an item; of a control transfer the taken masks alone. -/
def itemMismatch (i : Item) : Mismatch :=
  { team := i.team, grp := i.grp, thread := i.thr, kind := mismatchKind i.kind
    mask := if i.kind == .store then i.lead.mask else 0, addr := i.lead.addr
    lead := bytesNat (i.lead.data.take (mismatchWidth i.kind)), trail := bytesNat (i.trail.data.take (mismatchWidth i.kind)) }

end Sys2Proof.Machine
end

