-- ==== Sys2Proof/Machine/Ops.lean ====
section
/-! DEFINITION. Named operations over teams, groups, threads, crews and runs: the outcome of an
issue, windows (R77, R85), active sets (R33 to R35, R406), counters (R90, R191), taking a trap and returning from one
(R85 to R87, R322, R405 to R407), and the halt of a team (R413). -/

namespace Sys2Proof.Machine

/-! ## The outcome of an issue -/

/-- The outcome of reading operands and checking an instruction: a value; a stall (R30); a TLB miss; a fault of the
lane with code `lane` (R304); a poison mark of operation `op` that lane `lane` has read (R271); a checkpoint that
comes first, before which the run ends (R391, R392); a disagreement of a core pair, with the injected error that stays
armed (R96, R399) and what its record says (R394); or a slack stall (R398). -/
inductive Res (α : Type) where
  | ok (a : α)
  | stall
  | miss (page : Nat)
  | trap (lane cause : Nat) (addr : Dword) (info : Word)
  | poison (lane op : Nat) (addr : Dword)
  | commit
  | mismatch (armed : Option ArmedError) (m : Mismatch)
  | slack
  deriving DecidableEq, Repr

def Res.andThen {α β : Type} : Res α → (α → Res β) → Res β
  | .ok a, f => f a
  | .stall, _ => .stall
  | .miss p, _ => .miss p
  | .trap l c a i, _ => .trap l c a i
  | .poison l o a, _ => .poison l o a
  | .commit, _ => .commit
  | .mismatch e m, _ => .mismatch e m
  | .slack, _ => .slack
def Res.map {α β : Type} (x : Res α) (f : α → β) : Res β := x.andThen fun a => .ok (f a)
/-- A check: illegal-instruction in `lane` unless `b` holds (R224). -/
def Res.guard (b : Bool) (lane : Nat) : Res Unit := if b then .ok () else .trap lane cIllegalInstr 0 0
/-- Stalls unless `b` holds. -/
def Res.unless (b : Bool) : Res Unit := if b then .ok () else .stall

/-- Does each lane in order, the first outcome other than a value standing for all. -/
def forLanes {α : Type} : List Nat → (Nat → Res α) → Res (List (Nat × α))
  | [], _ => .ok []
  | c :: rest, f => (f c).andThen fun a => (forLanes rest f).map fun l => (c, a) :: l

/-- Does a list of items in order on the state, the first outcome other than a state standing for all. -/
def eachDo {α : Type} (l : List α) (s : State) (f : State → α → Res State) : Res State :=
  l.foldl (fun acc x => acc.andThen fun s => f s x) (.ok s)

/-! ## Cells -/

/-- A cell's value read by a lane: a pending entry stalls, a mark is poison (R75, R271). -/
def readCell (lane : Nat) : Cell → Res Word
  | .word w => .ok w
  | .pend _ _ => .stall
  | .mark op a => .poison lane op a

def Cell.isPend : Cell → Bool
  | .pend _ _ => true
  | _ => false
def CcCell.isPend : CcCell → Bool
  | .pend _ => true
  | _ => false
/-- The cell's value where marks and pending entries no longer matter. -/
def Cell.plain : Cell → Word
  | .word w => w
  | _ => 0
def CcCell.plain : CcCell → Flags
  | .flags f => f
  | .pend _ => {}
/-- A mark of operation `op` is spent: it reads as 0 (R271). -/
def Cell.spend (op : Nat) : Cell → Cell
  | .mark o a => if o = op then .word 0 else .mark o a
  | c => c
/-- The cell as a trap frame or a save area holds it (R271). -/
def Cell.unmarked : Cell → Cell
  | .mark _ _ => .word 0
  | c => c

/-- R75: the thread waits for values. -/
def Thread.hasPend (th : Thread) : Bool :=
  th.q.any Cell.isPend || th.stk.any (fun x => x.2.isPend) || th.h.any Cell.isPend || th.tf.any Cell.isPend ||
  th.cc.any CcCell.isPend
def Held.spend (op : Nat) (h : Held) : Held := { h with q := h.q.map (Cell.spend op) }
def Member.spend (op : Nat) (m : Member) : Member :=
  { m with nested := m.nested.map fun n => { n with held := n.held.spend op, h := n.h.map (Cell.spend op) } }
def Thread.spend (th : Thread) (op : Nat) : Thread :=
  { th with q := th.q.map (Cell.spend op), stk := (th.stk.map fun x => (x.1, x.2.spend op)).filter (fun x => x.2 != .word 0)
            h := th.h.map (Cell.spend op), tf := th.tf.map (Cell.spend op), marks := th.marks.filter (·.1 != op)
            member := th.member.map (Member.spend op) }
/-- A crew's copies of a value whose mark is spent (R271). -/
def Crew.spend (op : Nat) (c : Crew) : Crew := { c with snap := c.snap.map (Cell.spend op), held := c.held.spend op }
/-- R271: every mark that one value of operation `op` left is spent: in the lane that meets it and its recruiter, in their crew's
snapshot and held state, and, for a value of the group's, in its k registers and in every thread in which it is due. -/
def spendMark (s : State) (r : Run) (lane op : Nat) : State :=
  let own := r.nameOf lane
  let s := modLane s r lane (·.spend op)
  let s := modCore s r.team fun tc => (tc.modTh r.grp (.lane own) (·.spend op)).modCrew r.grp own (Crew.spend op)
  if (getGroup s r.team r.grp).k.any (fun c => c.spend op != c) then
    modGroup s r.team r.grp fun g => { g with
      k := g.k.map (Cell.spend op), threads := g.threads.map fun th => { th with marks := th.marks.filter (·.1 != op) } }
  else s

/-! ## The queue and the window (R74, R77, R85) -/

def Thread.push (th : Thread) (c : Cell) : Thread := { th with q := c :: th.q.take 15 }
/-- Pushes words, the first of the list first. -/
def Thread.pushAll (th : Thread) (cs : List Cell) : Thread := cs.foldl Thread.push th

/-- The thread is in a crew body: a handler is not (R318). -/
def Thread.inBody (th : Thread) : Bool := th.inCrew && !th.inTrap
/-- The thread is in its handler's own frame (R85). -/
def Thread.inHandlerFrame (th : Thread) : Bool := th.inTrap && th.links.length == th.trapDepth

def stackWord (th : Thread) (x : Int) : Cell := if x < 0 then .word 0 else mapGet (.word 0) th.stk x.toNat
def setStackWord (th : Thread) (x : Int) (c : Cell) : Thread :=
  if x < 0 then th else { th with stk := mapSet (.word 0) th.stk x.toNat c }

/-- n`i` of the thread's own window. -/
def Thread.n (th : Thread) (i : Nat) : Cell :=
  if th.inHandlerFrame && i < 16 then th.tf.getD i (.word 0) else stackWord th (th.wb + i)
def Thread.setN (th : Thread) (i : Nat) (c : Cell) : Thread :=
  if th.inHandlerFrame && i < 16 then { th with tf := listSet th.tf i c } else setStackWord th (th.wb + i) c

/-- n`i` as a lane reads it: a crew member reads its crew's snapshot (R40). -/
def laneN (s : State) (r : Run) (c i : Nat) : Cell :=
  let th := laneTh s r c
  if th.inBody then
    match (getCore s r.team).crew r.grp (r.nameOf c) with
    | none => th.n i
    | some cr => if cr.buffered then cr.snap.getD i (.word 0) else th.n i
  else th.n i

/-- k`i` of the run's group. -/
def groupK (s : State) (r : Run) (i : Nat) : Cell := (getGroup s r.team r.grp).k.getD i (.word 0)
def setGroupK (s : State) (r : Run) (i : Nat) (c : Cell) : State :=
  modGroup s r.team r.grp fun g => { g with k := listSet g.k i c }

/-! ## Clauses and targets (R206, R210) -/

def Launch.codeStart (l : Launch) : Nat := l.desc.kernel.toNat + l.kernel.entry
def Launch.codeEnd (l : Launch) : Nat := l.codeStart + l.kernel.codeSize
/-- R206: the word at `pc` is a clause header. -/
def Launch.isHeader (l : Launch) (pc : Dword) : Bool :=
  l.codeStart ≤ pc.toNat && pc.toNat < l.codeEnd && (pc.toNat - l.codeStart) % 4 == 0 &&
  l.kernel.map.contains ((pc.toNat - l.codeStart) / 4)

/-! ## Active sets (R33, R35, R406) -/

/-- The codes of a group's threads, or of a helper set. -/
def TeamCore.members (tc : TeamCore) (g : Nat) : Option Nat → List Nat
  | none => List.range (tc.group g).threads.length
  | some thr =>
    match tc.crew g thr with
    | none => []
    | some c => c.helpers.map fun h => 32 * h.grp + h.thr

/-- The context of thread `t` is lent to a helper (R39). -/
def TeamCore.borrowed (tc : TeamCore) (g t : Nat) : Bool :=
  tc.crews.any fun c => c.helpers.any fun h => h.grp == g && h.thr == t

/-- R406: while a thread of the group has STATUS.TRAP set, only such threads count. -/
def TeamCore.considered (tc : TeamCore) (g : Nat) (hs : Option Nat) : List Nat :=
  let cs := (tc.members g hs).filter fun c => (tc.th g (laneWho hs c)).life != .exited
  let tr := cs.filter fun c => (tc.th g (laneWho hs c)).inTrap
  if tr.isEmpty then cs else tr

def TeamCore.runnable (tc : TeamCore) (g : Nat) (hs : Option Nat) (c : Nat) : Bool :=
  (tc.th g (laneWho hs c)).life == .runnable && (hs.isSome || !tc.borrowed g c)

def lowestPc : List Dword → Option Dword
  | [] => none
  | p :: rest =>
    match lowestPc rest with
    | none => some p
    | some x => some (if p.toNat ≤ x.toNat then p else x)

/-- R35: releases held members at a selection point. -/
def TeamCore.release (tc : TeamCore) (g : Nat) (hs : Option Nat) : TeamCore × Bool :=
  let cs := tc.considered g hs
  let held := cs.filter fun c => (tc.th g (laneWho hs c)).life == .held
  let rel := match lowestPc ((cs.filter (tc.runnable g hs)).map fun c => (tc.th g (laneWho hs c)).pc) with
    | none => held
    | some p => held.filter fun c => (tc.th g (laneWho hs c)).meet.toNat ≤ p.toNat
  (rel.foldl (fun tc c => tc.modTh g (laneWho hs c) fun th => { th with life := .runnable }) tc, !rel.isEmpty)

/-- R33: the lowest program counter among the runnable members, and the members there. -/
def TeamCore.active (tc : TeamCore) (g : Nat) (hs : Option Nat) : Option (Dword × List Nat) :=
  let cs := (tc.considered g hs).filter (tc.runnable g hs)
  (lowestPc (cs.map fun c => (tc.th g (laneWho hs c)).pc)).map fun p =>
    (p, cs.filter fun c => (tc.th g (laneWho hs c)).pc == p)

/-- R411: an event that restarts the team's watchdog. -/
def restartWatchdog (s : State) (tid : Nat) : State := modTeam s tid fun t => { t with wd := 0 }

/-- R33, R35: a selection point of a group or helper set. -/
def selectAt (s : State) (tid g : Nat) (hs : Option Nat) : State × Option (Dword × List Nat) :=
  let (tc, freed) := (getCore s tid).release g hs
  let s := modCore s tid fun _ => tc
  let s := if freed then restartWatchdog s tid else s
  (s, tc.active g hs)

/-- R35, R307: a thread's counter arrives at `pc`; it is held where `pc` is a clause header equal to its MEET value. -/
def Thread.arrive (th : Thread) (l : Launch) (pc : Dword) : Thread :=
  { th with pc := pc, life := if l.isHeader pc && th.meet == pc then .held else .runnable }

/-! ## Counters (R90, R191) -/

inductive Ctr where
  | ld | st | cp | tl
  deriving DecidableEq, Repr
def Group.ctr (g : Group) : Ctr → Nat
  | .ld => g.ldc
  | .st => g.stc
  | .cp => g.cpc
  | .tl => g.tlc
def Group.setCtr (g : Group) (c : Ctr) (n : Nat) : Group :=
  match c with
  | .ld => { g with ldc := n }
  | .st => { g with stc := n }
  | .cp => { g with cpc := n }
  | .tl => { g with tlc := n }
def raiseCtr (s : State) (tid g : Nat) (c : Ctr) : State :=
  modGroup s tid g fun gr => gr.setCtr c (gr.ctr c + 1)
def lowerCtr (s : State) (tid g : Nat) (c : Ctr) : State :=
  modGroup s tid g fun gr => gr.setCtr c (gr.ctr c - 1)
def raiseSlot (s : State) (tid g slot : Nat) : State :=
  modGroup s tid g fun gr => { gr with d := listMod gr.d slot (· + 1) }
def lowerSlot (s : State) (tid g slot : Nat) : State :=
  modGroup s tid g fun gr => { gr with d := listMod gr.d slot (· - 1) }

/-- R208: the five waits of a clause header. -/
def Group.waitsHold (g : Group) (hd : Word) : Bool :=
  (field hd 20 4 == 15 || g.ldc ≤ field hd 20 4) && (field hd 16 4 == 15 || g.stc ≤ field hd 16 4) &&
  (field hd 12 4 == 15 || g.cpc ≤ field hd 12 4) && (field hd 8 4 == 15 || g.tlc ≤ field hd 8 4) &&
  (List.range 8).all (fun i => field hd i 1 == 0 || g.d.getD i 0 == 0)

/-- Puts an operation in flight; its identifier is `s.nextId`. DESIGN CHOICE: log entry 6. -/
def addOp (s : State) (tid g : Nat) (pc : Dword) (reporter : Nat) (k : OpKind) : State :=
  { s with ops := s.ops ++ [⟨s.nextId, tid, g, pc, reporter, k⟩], nextId := s.nextId + 1 }
def findOp (s : State) (id : Nat) : Option Op := s.ops.find? (·.id == id)
def dropOp (s : State) (id : Nat) : State := { s with ops := s.ops.filter (·.id != id) }
def setOpKind (s : State) (id : Nat) (k : OpKind) : State :=
  { s with ops := s.ops.map fun o => if o.id = id then { o with kind := k } else o }

/-! ## System words (R92 to R95) -/

/-- S, Z, C, V from high bit to low (R93). -/
def Flags.nibble (f : Flags) : Nat := 8 * boolBit f.s + 4 * boolBit f.z + 2 * boolBit f.c + boolBit f.v
def Flags.ofNibble (n : Nat) : Flags := ⟨n / 8 % 2 = 1, n / 4 % 2 = 1, n / 2 % 2 = 1, n % 2 = 1⟩
def condWord (cc : List CcCell) : Nat :=
  (List.range 4).foldl (fun n i => n + (cc.getD i (.flags {})).plain.nibble * 16 ^ i) 0
def econdWord (cc : List CcCell) (repc : Half) : Word := BitVec.ofNat 32 (repc.toNat * 65536 + condWord cc)
def condsOf (w : Word) : List CcCell := (List.range 4).map fun i => .flags (Flags.ofNibble (field w (4 * i) 4))
def causeWord (cause : Nat) (charged : Bool) (others : Nat) : Word :=
  BitVec.ofNat 32 (2 ^ 31 + boolBit charged * 2 ^ 30 + min others 255 * 65536 + cause)

/-! ## Runs that end, and pins that end with an operation -/

/-- R197: a run has ended. -/
def countRun (s : State) (tid : Nat) : State := modTeam s tid fun t => { t with runs := t.runs + 1 }
/-- R197, R202: a run of a team has ended, however it ended. -/
def countEnd (s : State) (tid : Nat) : State :=
  perfEvent (countRun s tid) (getTeam s tid).core (teamLaunch s tid).ctx 0 1
/-- R197, R202: a word of a team has issued. -/
def countIssue (s : State) (tid : Nat) : State :=
  modTeam (perfEvent s (getTeam s tid).core (teamLaunch s tid).ctx 1 1) tid fun t => { t with issued := t.issued + 1 }
/-- R32, R83, R314: where a run ends inside a REP, its lanes resume it later if repetitions are left. -/
def keepRep (s : State) (r : Run) : State :=
  if r.rep.isSome then modLanes s r fun _ th => { th with resume := th.repc != 0 } else s
/-- R28: a run that ends before its next word counts if a word of it has issued. -/
def countCut (s : State) (r : Run) : State :=
  let s := keepRep s r
  if r.words = 0 then s else countEnd s r.team
/-- R107, R108: the pins of operations are released; a line that is no longer valid leaves with its last pin. -/
def unpin (s : State) (ids : List Nat) : State :=
  { s with shares := (s.shares.map fun x => { x with pins := x.pins.filter fun i => !ids.contains i }).filter fun x =>
      x.valid || !x.pins.isEmpty }
/-- R107, R108: no share holds a scratchpad line of the team any more; a pinned copy keeps its space, no longer valid. -/
def forgetShares (s : State) (tid : Nat) : State :=
  { s with shares := (s.shares.map fun x => if x.line / 2 ^ 64 == tid + 1 then { x with valid := false } else x).filter fun x =>
      x.valid || !x.pins.isEmpty }
/-- The operations that `p` names are dropped, with their pins. -/
def dropOps (s : State) (p : Op → Bool) : State :=
  { unpin s ((s.ops.filter p).map (·.id)) with ops := s.ops.filter fun o => !p o }

/-! ## Halting a team (R396, R413) -/

/-- A range of bytes joined to ranges that lie apart, in rising order: it absorbs those that it meets or abuts.
DEDUCED: log entries 38, 51. -/
def joinRange : List (Nat × Nat) → Nat × Nat → List (Nat × Nat)
  | [], x => [x]
  | y :: rest, x =>
    if x.1 + x.2 < y.1 then x :: y :: rest
    else if y.1 + y.2 < x.1 then y :: joinRange rest x
    else joinRange rest (min x.1 y.1, max (x.1 + x.2) (y.1 + y.2) - min x.1 y.1)

/-- The atomics of a team that have not been performed: they wait to be compared, in the atomic buffer, or at a service group. -/
def waitingAtoms (s : State) (tid : Nat) : List AtomReq :=
  let t := getTeam s tid
  let items := ((s.pairs.getD (t.core / 8) {}).items ++ t.entries).filter (·.team == tid)
  items.flatMap (fun i => match i.act with
    | .atomic q => [q]
    | _ => []) ++
  (t.detOut ++ t.det).map (·.req) ++ s.svc.flatMap fun q => (q.reqs.filter (·.1 == tid)).map Prod.snd
/-- An atomic among `l` is that of member `who` of operation `op`. -/
def waitsIn (l : List AtomReq) (op : Nat) (who : Who) : Bool := l.any fun q => q.op == op && (q.who :: q.also).contains who

/-- R409: the items for work that a halt stops, but for the atomics `l`, which wait to be performed.
DEDUCED: log entry 38. -/
def haltItems (tid : Nat) (l : List AtomReq) (o : Op) : List (Nat × Nat × Dword × Dword) :=
  if o.team ≠ tid then [] else
  let perFill := fun (f : Fill) =>
    let t := match f.who with
      | .lane t => t
      | .helper thr _ _ => thr
      | .group => o.reporter
    let v : Nat := (f.words.getD 0 0).toNat + (f.words.getD 1 0).toNat * 2 ^ 32
    (if f.atomic && f.poison.isNone then [(3, f.bytes, f.addr, BitVec.ofNat 64 v)] else []) ++
    (if f.words.isEmpty then [] else [(1, f.bytes, f.addr, BitVec.ofNat 64 (32 * o.grp + t))])
  match o.kind with
  | .load fs => fs.flatMap perFill
  | .lane _ => []
  | .store fs => (fs.filter fun f => f.atomic && !waitsIn l o.id f.who).flatMap perFill
  | .held fs => (fs.filter fun f => !f.words.isEmpty).flatMap perFill
  | .copy _ => []
  | .mma _ => [(6, 0, 0, o.pc)]
  | .accst rows _ =>
    ((rows.map fun r => (r.addr.toNat, r.bytes.length)).foldl joinRange []).map fun x => (7, x.2, BitVec.ofNat 64 x.1, o.pc)
  | .message _ _ | .credit _ | .publish _ _ | .shootdown _ _ => []

/-- R413 step 3: the operations that a halt ends at once. -/
def haltsOp (tid : Nat) (o : Op) : Bool :=
  o.team == tid &&
  (match o.kind with
   | .load _ | .lane _ | .store _ | .held _ | .mma _ | .accst _ _ => true
   | .copy _ | .message _ _ | .credit _ | .publish _ _ | .shootdown _ _ => false)

/-- R396, R397: an operation of an IL2 team whose item has met no partner; it is not performed. -/
def unmatchedOp (t : Team) (o : Op) : Bool := t.entries.any (·.op == some o.id)

/-- R396, R409: the copies of an IL2 team that are not performed since they have met no partner, as failed with nothing written.
DEDUCED: log entry 38. -/
def unmatchedCopies (s : State) (tid cause : Nat) : List (Nat × Nat × Dword × Dword) :=
  s.ops.filterMap fun o =>
    match o.kind with
    | .copy c => if o.team = tid ∧ unmatchedOp (getTeam s tid) o then some (5, 0, c.srcs.headD 0, BitVec.ofNat 64 cause) else none
    | _ => none

/-- The iterations of chunk `k` of a crew that lie in its range, and its first (R38). -/
def Crew.chunkSize (c : Crew) (k : Nat) : Nat := min ((k + 1) * 2 ^ c.c) c.count - k * 2 ^ c.c
def Crew.chunkFirst (c : Crew) (k : Nat) : Word := c.lo + BitVec.ofNat 32 (k * 2 ^ c.c)

/-- R413 step 2: the type 8 items of the chunks that helpers were running. DEDUCED: log entry 34. -/
def crewItems (tc : TeamCore) : List (Nat × Nat × Dword × Dword) :=
  tc.crews.flatMap fun c => c.helpers.flatMap fun h =>
    match h.th.member with
    | none => []
    | some m => [(8, c.chunkSize m.chunk, 0, (c.chunkFirst m.chunk).setWidth 64)]

/-- Releases a chunk to the pool unfinished, with its contributions discarded (R44). -/
def Crew.repool (c : Crew) (m : Member) : Crew :=
  { c with repooled := setAdd c.repooled m.chunk, contrib := c.contrib.filter (·.chunk != m.chunk) }

/-- R270: a helper that leaves hands the reports due in it to its recruiter. DESIGN CHOICE: log entry 122. -/
def TeamCore.handReports (tc : TeamCore) (g thr : Nat) (hs : List Helper) : TeamCore :=
  let rps := hs.flatMap (·.th.reports)
  if rps.isEmpty then tc else tc.modTh g (.lane thr) fun th => { th with reports := th.reports ++ rps }
/-- Helper `code` of a recruiter leaves its crew. -/
def TeamCore.dropHelper (tc : TeamCore) (g thr code : Nat) : TeamCore :=
  let mine := fun (h : Helper) => 32 * h.grp + h.thr == code
  match tc.crew g thr with
  | none => tc
  | some c => (tc.handReports g thr (c.helpers.filter mine)).modCrew g thr fun c => { c with helpers := c.helpers.filter fun h => !mine h }
/-- R413: stops helpers; in the resumable form their chunks return to the pool. -/
def stopHelpers (tc : TeamCore) (resumable : Bool) : TeamCore :=
  let tc := tc.crews.foldl (fun tc c => tc.handReports c.grp c.thr c.helpers) tc
  { tc with crews := tc.crews.map fun c =>
      let c' := if resumable then c.helpers.foldl (fun c h => match h.th.member with
        | none => c
        | some m => c.repool m) c else c
      { c' with helpers := [], wait := none, since := none } }


/-- The team's runs are dropped. -/
def dropTeamRuns (s : State) (tid : Nat) : State := { s with runs := s.runs.filter (·.team != tid) }
/-- R32, R197, R413 step 1: the team's runs end, their stalled words not issued. -/
def endTeamRuns (s : State) (tid : Nat) : State :=
  (s.runs.filter (·.team == tid)).foldl countCut (dropTeamRuns s tid)

/-- R396: the items of a team's compared or accepted writes, and of its atomics that have not been performed. Discarded stores
are listed by address range. -/
def pendingItems (s : State) (tid : Nat) : List (Nat × Nat × Dword × Dword) :=
  let t := getTeam s tid
  let p := s.pairs.getD (t.core / 8) {}
  let items := (p.items ++ t.entries).filter (·.team == tid)
  let stores := (p.accepted.filter (·.1 == tid)).map (fun x => (x.2.1.toNat, x.2.2)) ++
    (items.filter (·.kind == .store)).map fun i => (i.lead.addr.toNat, Nat.log2 (i.lead.mask + 1))
  (stores.foldl joinRange []).map (fun x => (2, x.2, BitVec.ofNat 64 x.1, 0)) ++
  (waitingAtoms s tid).map fun q => (4, if q.aop.is64 then 8 else 4, q.va, q.v)

/-- R413: the halt broadcast of one team. A team-ending halt supersedes one from which the team would resume. R23 lists a
team-ending cause for a RESIDENT team; one that loads or stops fails in the same way (R407, R411). DEDUCED: log entry 119. -/
def haltTeam (s : State) (tid : Nat) (h : Halt) : State :=
  let t := getTeam s tid
  let busy := match t.halt with
    | some x => !x.resumable || h.resumable
    | none => false
  if busy || !(t.life == .loading || t.life == .resident || t.life == .stopping) then s else
  let s := endTeamRuns s tid
  let items := if h.resumable then t.body.crews.flatMap fun c => c.helpers.flatMap (·.effects)
    else crewItems t.body ++ s.ops.flatMap (haltItems tid (waitingAtoms s tid)) ++ unmatchedCopies s tid h.cause ++ pendingItems s tid
  let mine := (s.ops.filter (·.team == tid)).map (·.id)
  let s := if h.resumable then s else
    { dropOps s (fun o => haltsOp tid o || unmatchedOp t o) with svc := s.svc.filter fun q => q.ops.isEmpty || !q.ops.all mine.contains }
  let s := if h.resumable then s else modTeam s tid fun t => { t with entries := [], det := [], detOut := [], stepping := none }
  let h := { h with items := h.items ++ items, cycle := s.cycle, ptp := s.phcNs, struck := (t.halt.map (·.struck)).getD [] }
  modTeam s tid fun t => { t with halt := some h, stopped := t.stopped && h.resumable
                                  body := stopHelpers t.body h.resumable }

/-- The pair of a team under IL3 (R386). -/
def teamIl (s : State) (tid : Nat) : Nat := (teamLaunch s tid).kernel.il

/-- R204: a life histogram's bin counts. -/
def countHist (s : State) (bin : Nat) : State := { s with hist := mapSet 0 s.hist bin (min (mapGet 0 s.hist bin + 1) 0xFFFFFFFF) }
/-- The bins of R204: temperature from 0, power from 32, hours 64, boots 65, refusals 66, then pair, core-pair and
structure bins. -/
def histMismatch (p : Nat) : Nat := 128 + p
def histRollback (p : Nat) : Nat := 136 + p
def histFailed (p : Nat) : Nat := 144 + p
def histIl2 (s : State) (core : Nat) : Nat := 256 + (if partitioned s then core / 16 * 8 + core % 8 else core % 32)
def histError (kind : Nat) (correctable : Bool) : Nat := (if correctable then 320 else 328) + kind

/-- R386: STATE. -/
def modeNum : PairMode → Nat
  | .independent => 0
  | .quiesce => 1
  | .flush => 2
  | .align => 3
  | .paired => 4
  | .rollback => 5
  | .unpair => 6
/-- R387: a pair moves to a state, which PAIR_CTL shows. -/
def setMode (s : State) (p : Nat) (m : PairMode) : State :=
  let s := { s with pairs := listMod s.pairs p fun q => { q with mode := m } }
  setBar s (Config.oPairCtl p) (setField (bar s (Config.oPairCtl p)) 48 8 (modeNum m))

/-- An operation that a rollback keeps: a drained atomic that waits at a service group which firmware runs (R162, R392).
DEDUCED: log entry 69. -/
def keptOp (s : State) (o : Op) : Bool :=
  (match o.kind with
   | .held _ => true
   | _ => false) && s.svc.any fun q => q.ops.contains o.id
/-- R163, R413 step 4: a copy of a team that a halt ends runs on to completion or failure. -/
def runsOn (s : State) (o : Op) : Bool :=
  (match o.kind with
   | .copy _ => true
   | _ => false) &&
  match (getTeam s o.team).halt with
  | some h => !h.resumable
  | none => false

/-- R396: an accepted PUBLISH, or CHSEND to a team outside the pair, is performed whatever a rollback does: the atomic log holds
it. -/
def acceptedOut (s : State) (o : Op) : Bool :=
  (match o.kind with
   | .message _ _ | .publish _ _ => true
   | _ => false) && (s.pairs.getD (pairOf (getTeam s o.team).core) {}).log.any (·.op == some o.id)

/-- R98: the body of a team after a rollback: its snapshot, LDC, STC, CPC, TLC and the slots zero, with the counters that R98 does
not name, the R36 count and PLACE as they stand (R190). A crew whose snapshot buffer the snapshot holds keeps it, though other
crews may have taken all 8 of the sub-core since: R40 does not say what then happens, and here their number may pass 8.
DESIGN CHOICE: log entries 102, 123. DEDUCED: log entry 44. -/
def rolledBack (t : Team) : TeamCore :=
  let b := stopHelpers (t.snap.getD t.body) true
  { b with
    stashLines := []
    groups := (List.range b.groups.length).map fun i =>
      let now := t.body.group i
      { b.group i with interval := 0, progress := now.progress, sub := now.sub, port := now.port, slot := now.slot
                       ldc := 0, stc := 0, cpc := 0, tlc := 0, d := List.replicate 8 0 } }

/-- R393, R399: a retry of a core pair restores both teams from their snapshots (R98). DEDUCED: log entry 44. -/
def restoreTeam (s : State) (tid : Nat) : State :=
  let s := dropTeamRuns s tid
  let s := forgetShares (dropOps s fun o => o.team == tid && !keptOp s o) tid
  modTeam s tid fun t => { t with
    body := rolledBack t
    entries := []
    sigs := []
    detOut := []
    det := t.snapDet
    resv := t.snapResv
    ckptRequest := false
    ckptWaiting := t.snapServed
    log := t.log.map fun e => { e with used := false } }

/-- The teams of IL3 launches that are resident on pair `p`. -/
def pairTeams (s : State) (p : Nat) : List Nat :=
  (List.range s.teams.length).filter fun i =>
    let t := getTeam s i
    teamIl s i == 3 && pairOf t.core == p && (t.life == .resident || t.life == .stopping || t.life == .loading)
/-- The IL3 teams that take part in a pair's checkpoints and rollbacks. -/
def memberTeams (s : State) (p : Nat) : List Nat :=
  (pairTeams s p).filter fun i =>
    let t := getTeam s i
    t.life != .loading && (match t.halt with
      | some h => h.resumable
      | none => true)
/-- R387, R395 step 6: the TLBs of a pair's clusters are cleared. -/
def clearTlbs (s : State) (p : Nat) : State :=
  { s with tlb := s.tlb.filter (fun x => pairOf x.1 != p), ctlb := s.ctlb.filter (fun x => x.1 / 2 != p) }
/-- R395, steps 5 and 6: the snapshots are restored. -/
def restorePair (s : State) (p : Nat) : State :=
  let s := clearTlbs ((memberTeams s p).foldl restoreTeam s) p
  let starting := (memberTeams s p).any fun i => (getTeam s i).starting
  { s with pairs := listMod s.pairs p fun q => { q with request := starting } }

/-- R393, R395, steps 1 to 4: what an IL3 pair has in flight, its provisional writes, lines and items are dropped. A logged item
is executed again without another checkpoint before it (R392), but for a copy that stops before its end. -/
def abandonPair (s : State) (p : Nat) : State :=
  let onPair := fun (tid : Nat) => teamIl s tid == 3 && pairOf (getTeam s tid).core == p
  let gone := ((s.pairs.getD p {}).prov).map fun x => x.2.1 / 128 * 128
  let cut := fun (e : LogEntry) => s.ops.any fun o => e.op == some o.id && !runsOn s o && match o.kind with
    | .copy _ => true
    | _ => false
  let s := dropOps s fun o => onPair o.team && !keptOp s o && !runsOn s o && !acceptedOut s o
  { s with
    dcache := s.dcache.filter fun x => !(pairOf x.core == p && gone.contains x.line)
    pairs := listMod s.pairs p fun q =>
      { q with items := [], prov := [], provBad := [], ways := [], accepted := []
               log := (q.log.filter (!cut ·)).map (fun e => { e with used := false }), request := false, forced := []
               granted := (q.log.filter (!cut ·)).map fun e => (e.team, e.grp) }
    runs := s.runs.filter fun r => !onPair r.team }
/-- R387, R395: a PAIRED pair goes to ROLLBACK. R387 lists no mismatch in UNPAIR: there the pair keeps its state, and the same
steps are taken at once. DEDUCED: log entry 51. -/
def startRollback (s : State) (p : Nat) : State :=
  let s := countHist (abandonPair s p) (histRollback p)
  if (s.pairs.getD p {}).mode == .unpair then restorePair s p else setMode s p .rollback

/-- R407: a team-ending cause. An IL2 partner halts with it (R397); an IL3 pair rolls back for its other teams (R393).
DEDUCED: log entries 51, 56. -/
def failTeamWith (s : State) (tid cause : Nat) (epc addr : Dword) (info : Word) (thread : Nat)
    (items : List (Nat × Nat × Dword × Dword)) : State :=
  let h : Halt := { cause := cause, epc := epc, addr := addr, info := info, thread := thread, items := items, resumable := false }
  let s' := haltTeam s tid h
  let s' := match (getTeam s tid).partner with
    | none => s'
    | some p => haltTeam s' p { h with items := [] }
  if teamIl s tid = 3 && (getTeam s tid).life != .loading then startRollback s' (pairOf (getTeam s tid).core) else s'
def failTeam (s : State) (tid cause : Nat) (epc addr : Dword) (info : Word) (thread : Nat) : State :=
  failTeamWith s tid cause epc addr info thread []

/-! ## The retry of a core pair (R399) -/

/-- R394, R399: a mismatch of a core pair is recorded and retries both teams, at most twice in an interval. PAIR of its record is
that of the leading core's clusters. DEDUCED: log entry 120. -/
def il2Mismatch (s : State) (lead : Nat) (m : Mismatch) : State :=
  let t := getTeam s lead
  let n := t.retries + 1
  let s := modTeam (recordMismatch s m (pairOf t.core) n) lead fun t => { t with retries := n }
  let s := countHist s (histIl2 s t.core)
  if 2 < n then failTeam s lead cIntegrity 0 0 0 0
  else
    let s := restoreTeam s lead
    match t.partner with
    | none => s
    | some p => restoreTeam s p

/-- The leading team of a core pair, or the team itself (R397). -/
def leadOf (s : State) (tid : Nat) : Nat :=
  match (getTeam s tid).side with
  | .trail l => l
  | _ => tid

/-- R399: the items of an instruction disagree; none of them is performed, and an injected error that has fired stays
disarmed (R96). -/
def retryPair (s : State) (tid : Nat) (armed : Option ArmedError) (m : Mismatch) : State :=
  let l := leadOf s tid
  il2Mismatch (modTeam s l fun t => { t with errinj := armed }) l m

/-- The core pair has been retried between two states. -/
def retried (s s' : State) (tid : Nat) : Bool := (getTeam s (leadOf s tid)).retries != (getTeam s' (leadOf s tid)).retries

/-! ## Taking a trap (R75, R85, R86, R405 to R407) -/

/-- The causes whose FAULT_INFO is the repetition under REP (R405). -/
def infoIsRep (cause : Nat) : Bool :=
  [0x01, 0x02, 0x04, 0x05, 0x06, 0x07, 0x08, 0x09, 0x0A, 0x0B, 0x0C, 0x0D, 0x17].contains cause

/-- The repetition that a run is performing: count less REPC (R313). -/
def repNumber (s : State) (r : Run) : Nat :=
  match r.rep with
  | none => 0
  | some (n, _) => n - (laneTh s r r.lowest).repc.toNat

/-- R85, steps 2 to 6, in one thread. -/
def Thread.enterTrap (th : Thread) (base : Dword) (d : TrapDue) : Thread :=
  { th with
    tf := th.q.map Cell.unmarked
    q := th.q.map Cell.unmarked
    econd := econdWord th.cc th.repc
    epc := d.epc
    cause := causeWord d.cause d.charged d.others
    faultAddr := d.addr
    faultInfo := d.info
    hidBase := th.wb
    hidCf := th.cf
    wb := th.wb - 16
    cf := 32
    trapDepth := th.links.length
    inTrap := true
    resume := false
    pc := base }

/-- Removes the head run. -/
def dropRun (s : State) : State := { s with runs := s.runs.tail }

/-- R270, R271: the lowest lane with a deferred report or mark due, and what it raises. R271 gives FAULT_ADDR of a mark alone:
its FAULT_INFO is 0 here. DESIGN CHOICE: log entry 123. DEDUCED: log entry 27. -/
def dueReport (s : State) (r : Run) : Option (Nat × TrapDue) :=
  r.lanes.findSome? fun c =>
    let th := laneTh s r c
    match th.reports, th.marks with
    | rp :: _, _ => some (c, { cause := rp.cause, addr := rp.addr, info := rp.info, epc := r.pc, lane := c, deferred := true })
    | [], (op, a) :: _ => some (c, { cause := cPoison, addr := a, info := 0, epc := r.pc, lane := c, deferred := true, mark := some op })
    | [], [] => none

/-- R270, R271: a lane's report or mark is taken, which spends it. -/
def spendDue (s : State) (r : Run) (c : Nat) : State :=
  match (laneTh s r c).reports, (laneTh s r c).marks with
  | _ :: rest, _ => modLane s r c fun th => { th with reports := rest }
  | [], (op, _) :: _ => spendMark s r c op
  | [], [] => s

/-- R318: a charged report that is taken is spent: the helper faults first, then the overruns. -/
def Crew.spendCharge (c : Crew) : Crew :=
  if c.charged.isEmpty then { c with overruns := [] } else { c with charged := [] }
/-- R45, R421: the record of a helper fault that enters the handler. R409 gives it no kind of its own: kind 2, as that of an overrun.
DESIGN CHOICE: log entry 34. -/
def chargeRecord (s : State) (r : Run) (d : TrapDue) : State :=
  if !d.charged || d.cause == cCrewOverrun then s else
  let first := match (getCore s r.team).crew r.grp d.lane with
    | none => 0
    | some c => ((c.charged.find? (·.iter == d.info)).map fun x => (c.chunkFirst x.chunk).toNat).getD 0
  faultRecord s (getTeam s r.team).part
    { teamRec s r.team 2 d.cause with thread := r.teamThread d.lane, epc := d.epc, addr := d.addr, info := d.info, iter := first,
                                      items := d.items }
/-- R416: the group has issued its word, or has met a trap at it. DEDUCED: log entry 83. -/
def stepDone (s : State) (r : Run) : State :=
  modTeam s r.team fun t => { t with stepping := t.stepping.map fun l => l.filter (· != r.grp) }
/-- R406, R407: the trap that is due in the head run is taken by every thread of its active set, or it ends the team.
DEDUCED: log entry 95. -/
def takeTrap (s : State) (r : Run) (d : TrapDue) : State :=
  let l := teamLaunch s r.team
  let who := r.teamThread d.lane
  let s := match d.mark with
    | some op => spendMark s r d.lane op
    | none => s
  match r.lanes.find? fun c => (laneTh s r c).inTrap with
  | some c =>
    let first := field (laneTh s r c).cause 0 8
    failTeamWith s r.team cDoubleTrap d.epc d.addr (BitVec.ofNat 32 (first * 256 + d.cause)) who d.items
  | none =>
    if l.desc.trap = 0 then failTeamWith s r.team d.cause d.epc d.addr d.info who d.items
    else
      let s := chargeRecord s r d
      let s := if d.charged then modCore s r.team fun tc => tc.modCrew r.grp d.lane Crew.spendCharge else s
      let s := stepDone (modLanes s r fun _ th => th.enterTrap l.desc.trap d) r
      countEnd (dropRun s) r.team

/-- A trap of the run starts the handler: its launch has one (R407), and none of its threads is in it (R86). -/
def entersHandler (s : State) (r : Run) : Bool :=
  (teamLaunch s r.team).desc.trap != 0 && !r.lanes.any fun c => (laneTh s r c).inTrap
/-- R75, R85: enters the trap once no entering thread waits for a value; a report or mark that is due goes first
(R421). Where no handler runs, the team stops at once (R86, R407). -/
def tryTrap (s : State) : State :=
  match s.runs with
  | [] => s
  | r :: _ =>
    match r.due with
    | none => s
    | some d =>
      if entersHandler s r && r.lanes.any fun c => (laneTh s r c).hasPend then signal s .stall
      else match (if d.deferred then none else dueReport s r) with
      | some (c, d') => takeTrap (spendDue s r c) r d'
      | none => takeTrap s r d

/-- R45: a helper's fault is charged to its recruiter; the helper leaves, and its chunk is abandoned. -/
def chargeHelper (s : State) (r : Run) (thr lane cause : Nat) (addr : Dword) : State :=
  let s := modCore s r.team fun tc => tc.modCrew r.grp thr fun c =>
    match c.helpers.find? fun h => 32 * h.grp + h.thr == lane with
    | none => c
    | some h =>
      match h.th.member with
      | none => c
      | some m =>
        { c with done := setAdd c.done m.chunk
                 contrib := c.contrib.filter (·.chunk != m.chunk)
                 charged := c.charged ++ [⟨cause, c.lo + BitVec.ofNat 32 m.iter, addr, m.chunk⟩] }
  let s := modCore s r.team fun tc => tc.dropHelper r.grp thr lane
  let s := modRun s fun r => { r with lanes := r.lanes.filter (· != lane) }
  if (curRun s).lanes.isEmpty then countEnd (dropRun s) r.team else signal s .ended

/-- Raises a fault of lane `lane` at the head run's word: a helper's is charged (R45), another's is due (R85), one of
class T ends the team with no address, information or EPC (R407, R475). -/
def raise (s : State) (r : Run) (lane : Nat) (d : TrapDue) : State :=
  if classT d.cause then failTeam s r.team d.cause 0 0 0 (r.teamThread lane)
  else match r.helpers with
  | some thr => chargeHelper s r thr lane d.cause d.addr
  | none => tryTrap (modRun s fun r => { r with due := some { d with lane := lane } })

/-- The trap of a fault found at issue (R405). -/
def faultDue (s : State) (r : Run) (cause : Nat) (addr : Dword) (info : Word) : TrapDue :=
  { cause := cause, addr := addr, info := if infoIsRep cause && r.rep.isSome then BitVec.ofNat 32 (repNumber s r) else info, epc := r.pc }

/-- R28, R391, R392: the run ends before its word, and its group waits for a checkpoint of its pair. -/
def requestCommit (s : State) (r : Run) : State :=
  let p := pairOf (getTeam s r.team).core
  let s := { s with pairs := listMod s.pairs p fun q => { q with request := true, forced := q.forced ++ [(r.team, r.grp)] } }
  countCut (dropRun s) r

/-- A TLB miss: the word is tried again after a cluster TLB hit, and holds its port through a walk (R174, R269). -/
def missed (s : State) (r : Run) (page : Nat) : State :=
  let env := envOf s r
  signal (requestWalk s env page) (if (clusterHit s env page).isSome then .ended else .stall)

/-- Ends an issue with its outcome: the effect; or none, and a stall, a walk request, or a fault. R271 gives EPC and FAULT_ADDR of
a poison-consumed fault at a read: its FAULT_INFO is the repetition here, as that of other precise causes of a memory word
(DESIGN CHOICE: log entry 123). A word whose items disagree has issued (R197). -/
def conclude (s : State) (r : Run) : Res State → State
  | .ok s' => s'
  | .stall => signal s .stall
  | .miss page => missed s r page
  | .commit => requestCommit s r
  | .mismatch e m => retryPair (countIssue s r.team) r.team e m
  | .slack => modRun (signal s .stall) fun x => { x with slack := some (r.pc, r.words) }
  | .trap lane cause addr info => raise s r lane (faultDue s r cause addr info)
  | .poison lane op addr =>
    raise s r lane { cause := cPoison, addr := addr, info := BitVec.ofNat 32 (repNumber s r), epc := r.pc, deferred := true
                     mark := some op }

/-- Issues an instruction for the head run. The machine stops where no run is in progress.
DESIGN CHOICE: log entry 24. -/
def issue (s : State) (f : State → Run → State) : Host.Outcome State Fault Refusal :=
  match s.runs with
  | [] => .fault .noRun
  | r :: rest => .next (f { s with runs := { r with sig := .word } :: rest } { r with sig := .word })

/-- Issues an instruction that may stall or fault. -/
def attempt (s : State) (f : State → Run → Res State) : Host.Outcome State Fault Refusal :=
  issue s fun s r => conclude s r (f s r)

end Sys2Proof.Machine
end

