-- ==== Sys2Proof/Machine/Operands.lean ====
section
/-! DEFINITION. Operand forms (R74 to R80, R215 to R218, R226), guards (R219), and the pattern that lane instructions
share (R234 to R237). -/

namespace Sys2Proof.Machine

/-! ## Sources -/

/-- Source code e + j (R76, R217). -/
def Src.plus (e : Src) (j : Nat) : Src :=
  match e with
  | .q i => .q ⟨(i.val + j) % 16, Nat.mod_lt _ (by decide)⟩
  | .n i => .n ⟨(i.val + j) % 32, Nat.mod_lt _ (by decide)⟩
  | .k i => .k ⟨(i.val + j) % 16, Nat.mod_lt _ (by decide)⟩

/-- The cell that a source code names for a lane (R79, R215). -/
def srcCell (s : State) (r : Run) (c : Nat) : Src → Cell
  | .q i => (laneTh s r c).q.getD i.val (.word 0)
  | .n i => laneN s r c i.val
  | .k i =>
    if 8 ≤ i.val && (laneTh s r c).inBody then (laneTh s r c).h.getD (i.val - 8) (.word 0) else groupK s r i.val

/-- `read_src` (R226). -/
def readSrc (s : State) (r : Run) (c : Nat) (e : Src) : Res Word := readCell c (srcCell s r c e)
/-- `read_src64` (R76). -/
def readSrc64 (s : State) (r : Run) (c : Nat) (e : Src) : Res Dword :=
  (readSrc s r c e).andThen fun lo => (readSrc s r c (Src.plus e 1)).map fun hi => hi ++ lo
/-- Reads `n` consecutive words, lowest first (R217). -/
def readSrcs (s : State) (r : Run) (c : Nat) (e : Src) (n : Nat) : Res (List Word) :=
  ((forLanes (List.range n) fun j => readSrc s r c (Src.plus e j))).map (·.map Prod.snd)
/-- `n_pair` (R226). -/
def readPairN (s : State) (r : Run) (c : Nat) (p : Fin 16) : Res Dword :=
  (readCell c (laneN s r c (2 * p.val))).andThen fun lo =>
    (readCell c (laneN s r c (2 * p.val + 1))).map fun hi => hi ++ lo
/-- `k_pair` (R226): any even pair k0 to k30. -/
def readPairK (s : State) (r : Run) (c : Nat) (p : Fin 16) : Res Dword :=
  (readCell c (groupK s r (2 * p.val))).andThen fun lo => (readCell c (groupK s r (2 * p.val + 1))).map fun hi => hi ++ lo

/-- The words of a value of `n` words, lowest first. -/
def wordsOf (n : Nat) (v : Nat) : List Word := (List.range n).map fun i => BitVec.ofNat 32 (v / 2 ^ (32 * i))

/-! ## Destinations -/

/-- The cell that a destination code names, `off` registers above (R216); nothing for code 63. -/
def dstCell (s : State) (r : Run) (c : Nat) (d : Dst) (off : Nat) : Cell :=
  match d with
  | .n i => laneN s r c (i.val + off)
  | .k i => (laneTh s r c).h.getD (i.val - 8 + off) (.word 0)
  | .push => .word 0

/-- `write_dst` in a lane (R226): a named register, in a crew body an h register, and nothing for code 63. -/
def writeDst (s : State) (r : Run) (c : Nat) (d : Dst) (off : Nat) (v : Cell) : State :=
  match d with
  | .n i => modLane s r c fun th => th.setN (i.val + off) v
  | .k i => modLane s r c fun th => { th with h := listSet th.h (i.val - 8 + off) v }
  | .push => s
/-- Writes cells, lowest register first. -/
def writeDsts (s : State) (r : Run) (c : Nat) (d : Dst) : Nat → List Cell → State
  | _, [] => s
  | off, v :: rest => writeDsts (writeDst s r c d off v) r c d (off + 1) rest

/-- Writes a result to its destination and pushes it, highest word first (R74). -/
def deliver (s : State) (r : Run) (c : Nat) (d : Dst) (cells : List Cell) : State :=
  modLane (writeDsts s r c d 0 cells) r c fun th => th.pushAll cells.reverse

/-- R236: the old destination words that a false guard pushes are read: one that is pending stalls. -/
def oldReady (s : State) (r : Run) (c : Nat) (d : Dst) (n : Nat) : Res Unit :=
  Res.unless (!(List.range n).any fun j => (dstCell s r c d j).isPend)
/-- R74: a false guard pushes the `n` old words of the destination, and zero words for code 63: so says R74, where the comment in
R234's pseudocode has nothing for code 63; R74 is followed, since it makes the queue's ages fixed by the code (DESIGN CHOICE:
log entry 123). -/
def pushOld (s : State) (r : Run) (c : Nat) (d : Dst) (n : Nat) : State :=
  modLane s r c fun th => th.pushAll ((List.range n).map fun j => dstCell s r c d j).reverse

/-! ## Guards and flags -/

/-- The flags of a cc register; flags still due stall (R236). -/
def readCc (s : State) (r : Run) (c : Nat) (i : Fin 4) : Res Flags :=
  match (laneTh s r c).cc.getD i.val (.flags {}) with
  | .flags f => .ok f
  | .pend _ => .stall
/-- `guard_true` (R226). AL and NV read no flags. -/
def guardTrue (s : State) (r : Run) (c : Nat) (g : Guard) : Res Bool :=
  match g.cond with
  | .al => .ok true
  | .nv => .ok false
  | _ => (readCc s r c g.cc).map fun f => condHolds f g.cond
def setCc (s : State) (r : Run) (c : Nat) (i : Fin 4) (f : CcCell) : State :=
  modLane s r c fun th => { th with cc := listSet th.cc i.val f }

/-- The guard of the formats that have none (R220). -/
def noGuard : Guard := ⟨0, .al⟩

/-! ## What a context allows -/

/-- Illegal-instruction at the lowest lane that is in a crew body (R237, R272, R302). DEDUCED: log entry 46. -/
def notInBody (s : State) (r : Run) : Res Unit :=
  match r.lanes.find? fun c => (laneTh s r c).inBody with
  | none => .ok ()
  | some c => .trap c cIllegalInstr 0 0

/-- R40, R79, R218, R235, R237: the destination in each lane's context. In a crew body an h register or push only;
elsewhere a k register only where `kOk` holds. -/
def dstAllowed (s : State) (r : Run) (d : Dst) (kOk : Bool) : Res Unit :=
  match r.lanes.find? fun c =>
    if (laneTh s r c).inBody then (match d with | .n _ => true | .k i => i.val < 8 | .push => false)
    else d.isK && !kOk with
  | none => .ok ()
  | some c => .trap c cIllegalInstr 0 0

/-- R273: the data field of a store names no k register; in a crew body codes 56 to 63 are h registers (R79). -/
def dataAllowed (s : State) (r : Run) (a : Src) : Res Unit :=
  match r.lanes.find? fun c => match a with
    | .k i => !(8 ≤ i.val && (laneTh s r c).inBody)
    | _ => false with
  | none => .ok ()
  | some c => .trap c cIllegalInstr 0 0

/-! ## The pattern of lane instructions (R234, R235) -/

/-- What a lane instruction says of its operands: destination, result words, register sources, F bit, guard. -/
structure LaneForm where
  d : Dst
  n : Nat := 1
  srcs : List Src
  f : Bool := false
  g : Guard := noGuard
  deriving DecidableEq, Repr

/-- A lane's result: its words, lowest first, and its flags. -/
structure LaneOut where
  words : List Word
  flags : Flags := {}
  deriving DecidableEq, Repr

/-- The lanes in which the result goes to a k register: none, or all that are in no crew body (R218). -/
def kLanes (s : State) (r : Run) (d : Dst) : List Nat :=
  if d.isK then r.lanes.filter fun c => !(laneTh s r c).inBody else []
def threadLanes (s : State) (r : Run) (d : Dst) : List Nat :=
  if d.isK then r.lanes.filter fun c => (laneTh s r c).inBody else r.lanes

/-- What one lane performs: nothing but the push of its old destination under a false guard, else its result. Old words and, with
F, flags that are still due stall (R236). -/
def laneEval (s : State) (r : Run) (fm : LaneForm) (op : Nat → Res LaneOut) (c : Nat) : Res (Option LaneOut) :=
  (guardTrue s r c fm.g).andThen fun yes =>
    if yes then
      (if fm.f then (readCc s r c fm.g.cc).map fun _ => () else .ok ()).andThen fun _ => (op c).map some
    else (oldReady s r c fm.d fm.n).map fun _ => none

/-- Evaluates every lane on the state before the instruction (R234): per thread, and once for a k destination.
DEDUCED: log entry 17. -/
def laneResults (s : State) (r : Run) (fm : LaneForm) (op : Nat → Res LaneOut) :
    Res (List (Nat × Option LaneOut) × Option LaneOut) :=
  (dstAllowed s r fm.d (fm.srcs.all Src.isK && fm.g.cond == .al && !fm.f)).andThen fun _ =>
    (forLanes (threadLanes s r fm.d) (laneEval s r fm op)).andThen fun outs =>
      match kLanes s r fm.d with
      | [] => .ok (outs, none)
      | c :: _ => (op c).map fun o => (outs, some o)

/-- One lane's effect: the old destination pushed, or the result written and pushed, and flags where F is set. -/
def applyLane (r : Run) (fm : LaneForm) (s : State) (x : Nat × Option LaneOut) : State :=
  match x.2 with
  | none => pushOld s r x.1 fm.d fm.n
  | some o =>
    let s := deliver s r x.1 fm.d (o.words.map Cell.word)
    if fm.f then setCc s r x.1 fm.g.cc (.flags o.flags) else s

/-- A k destination is written once and pushes nothing (R26). -/
def writeK (s : State) (r : Run) (d : Dst) (cells : List Cell) : State :=
  match d with
  | .k i => modGroup s r.team r.grp fun g =>
      { g with k := (List.range cells.length).foldl (fun k j => listSet k (i.val + j) (cells.getD j (.word 0))) g.k }
  | _ => s

/-- R234: a lane instruction whose result is ready at once. -/
def laneExec (s : State) (r : Run) (fm : LaneForm) (op : Nat → Res LaneOut) : Res State :=
  (laneResults s r fm op).map fun (outs, ko) =>
    let s := outs.foldl (applyLane r fm) s
    match ko with
    | none => s
    | some o => writeK s r fm.d (o.words.map Cell.word)

/-- One lane's effect where the result comes later (R75, R236): pending entries and pending flags of operation `id`. -/
def applyPending (r : Run) (fm : LaneForm) (id : Nat) (s : State) (x : Nat × Option LaneOut) : State :=
  match x.2 with
  | none => pushOld s r x.1 fm.d fm.n
  | some o =>
    let s := deliver s r x.1 fm.d ((List.range o.words.length).map (Cell.pend id))
    if fm.f then setCc s r x.1 fm.g.cc (.pend id) else s

/-- The receiver of a lane's result. -/
def laneFill (r : Run) (fm : LaneForm) (x : Nat × Option LaneOut) : Option Fill :=
  x.2.map fun o => { who := r.who x.1, words := o.words, poison := none, addr := 0, bytes := 0,
                     flags := if fm.f then some (fm.g.cc, o.flags) else none }

/-- R236: a long-latency lane instruction. -/
def laneLong (s : State) (r : Run) (fm : LaneForm) (op : Nat → Res LaneOut) : Res State :=
  (laneResults s r fm op).map fun (outs, ko) =>
    let id := s.nextId
    let fills := outs.filterMap (laneFill r fm)
    let kfill := match ko with
      | none => []
      | some o => [{ who := .group, words := o.words, poison := none, addr := 0, bytes := 0 }]
    let s := outs.foldl (applyPending r fm id) s
    let s := match ko with
      | none => s
      | some o => writeK s r fm.d ((List.range o.words.length).map (Cell.pend id))
    if fills.isEmpty && kfill.isEmpty then s
    else addOp s r.team r.grp r.pc (r.nameOf r.lowest) (.lane (fills ++ kfill))

/-! ## Common shapes -/

def LaneOut.of (x : LaneResult) : LaneOut := { words := [x.1], flags := x.2 }

/-- Two sources, guard and F (R format). -/
def binary (s : State) (r : Run) (o : RFmt) (op : Word → Word → LaneResult) : Res State :=
  laneExec s r { d := o.d, srcs := [o.a, o.b], f := o.f, g := o.g } fun c =>
    (readSrc s r c o.a).andThen fun a => (readSrc s r c o.b).map fun b => LaneOut.of (op a b)
def binaryLong (s : State) (r : Run) (o : RFmt) (op : Word → Word → LaneResult) : Res State :=
  laneLong s r { d := o.d, srcs := [o.a, o.b], f := o.f, g := o.g } fun c =>
    (readSrc s r c o.a).andThen fun a => (readSrc s r c o.b).map fun b => LaneOut.of (op a b)
def unary (s : State) (r : Run) (o : UFmt) (op : Word → LaneResult) : Res State :=
  laneExec s r { d := o.d, srcs := [o.a], f := o.f, g := o.g } fun c =>
    (readSrc s r c o.a).map fun a => LaneOut.of (op a)
def unaryLong (s : State) (r : Run) (o : UFmt) (op : Word → LaneResult) : Res State :=
  laneLong s r { d := o.d, srcs := [o.a], f := o.f, g := o.g } fun c =>
    (readSrc s r c o.a).map fun a => LaneOut.of (op a)
/-- Three sources; F writes c0 (T format). -/
def ternary (s : State) (r : Run) (d : Dst) (a b c : Src) (f : Bool) (op : Word → Word → Word → LaneResult) : Res State :=
  laneExec s r { d := d, srcs := [a, b, c], f := f } fun l =>
    (readSrc s r l a).andThen fun x => (readSrc s r l b).andThen fun y => (readSrc s r l c).map fun z =>
      LaneOut.of (op x y z)
/-- A source and an immediate, no flags (I format). -/
def immediate (s : State) (r : Run) (d : Dst) (a : Src) (op : Word → Word) : Res State :=
  laneExec s r { d := d, srcs := [a] } fun c => (readSrc s r c a).map fun x => { words := [op x] }
/-- Two sources, no flags (E format). -/
def pairwise (s : State) (r : Run) (d : Dst) (a b : Src) (op : Word → Word → Word) : Res State :=
  laneExec s r { d := d, srcs := [a, b] } fun c =>
    (readSrc s r c a).andThen fun x => (readSrc s r c b).map fun y => { words := [op x y] }

/-- R248: a compare writes the selected cc register under its guard, and nothing else. -/
def compare (s : State) (r : Run) (cc : Fin 4) (g : Guard) (op : Nat → Res Flags) : Res State :=
  (forLanes r.lanes fun c => (guardTrue s r c g).andThen fun yes =>
    if yes then (readCc s r c cc).andThen fun _ => (op c).map some else .ok none).map fun outs =>
      outs.foldl (fun s x => match x.2 with
        | none => s
        | some f => setCc s r x.1 cc (.flags f)) s

/-- Adds to the team's saturation counter (R200). -/
def addSat (s : State) (tid n : Nat) : State := modTeam s tid fun t => { t with satTeam := satAdd t.satTeam n }

/-- The value of a source in the lowest active lane (R268). -/
def readLow (s : State) (r : Run) (e : Src) : Res Word := readSrc s r r.lowest e
def readLow64 (s : State) (r : Run) (e : Src) : Res Dword := readSrc64 s r r.lowest e

end Sys2Proof.Machine
end

