-- ==== Sys2Proof/Machine/Perform.lean ====
section
/-! DEFINITION. How a thread's global reads, writes and atomics are performed: caches and policies (R104, R111, R113),
comparators, compare buffers and logs (R147 to R151, R389 to R392, R396, R398), atomics (R144, R145, R281 to R284, R401,
R402) and injected errors (R96). -/

namespace Sys2Proof.Machine

/-! ## Scopes and policies as the fields hold them (R113, R128) -/

def scopeNum : Scope → Nat
  | .grp => 0
  | .clu => 1
  | .dev => 2
  | .sys => 3
def policyNum : Policy → Nat
  | .dflt => 0
  | .byp => 1
  | .strm => 2
  | .sys => 3

/-! ## Caches and retention around an access (R104, R111, R113) -/

/-- The enabled retention range that covers a physical address in a partition (R111, R179). -/
def retentionRange (s : State) (part pa : Nat) : Option Nat :=
  (List.range 16).find? fun i =>
    let w0 := pbar s part (Config.oRetention i)
    let w1 := pbar s part (Config.oRetention i + 8)
    w0.msb && field w0 12 40 * 4096 ≤ pa && pa < field w1 12 40 * 4096 + 4096
/-- R111: the class that an access with the default policy or BYP receives, by the counter of its range before the
access advances it. -/
def retains (s : State) (part pa pol : Nat) : Bool :=
  (pol = 0 ∨ pol = 1) && match retentionRange s part pa with
    | none => false
    | some i => mapGet 0 s.retention (16 * part + i) < field (pbar s part (Config.oRetention i)) 0 5
/-- R111: an access with the default policy or BYP advances the counter of its range. -/
def touchRetention (s : State) (part pa pol : Nat) : State :=
  if pol = 0 ∨ pol = 1 then
    match retentionRange s part pa with
    | none => s
    | some i => { s with retention := mapSet 0 s.retention (16 * part + i) ((mapGet 0 s.retention (16 * part + i) + 1) % 16) }
  else s

/-- R109: the home slice and set of a physical address. -/
def homeSlice (pa : Nat) : Nat :=
  let f := fun (lo n : Nat) => pa / 2 ^ lo % 2 ^ n
  f 7 6 ^^^ f 13 6 ^^^ f 19 6 ^^^ f 25 6 ^^^ f 31 6 ^^^ f 37 6 ^^^ f 43 6 ^^^ f 49 3
def homeSet (s : State) (part pa : Nat) : Nat :=
  let n := (pa / 2 ^ 13 % 2 ^ 9) ^^^ (pa / 2 ^ 22 % 2 ^ 9)
  if partitioned s then part * 128 + n % 128 else n
/-- R110: Wr, the ways of a partition's sets that the retained class has. -/
def retainedWays (s : State) (part : Nat) : Nat :=
  (List.range 16).foldl (fun n i =>
    let w0 := pbar s part (Config.oRetention i)
    if w0.msb then max n (field w0 8 4) else n) 0
/-- R110: the ways of a partition's sets that provisional lines do not have. -/
def plainWays (s : State) (part : Nat) : Nat :=
  if (List.range 8).any (fun p => corePart s (8 * p) == part && match (s.pairs.getD p {}).mode with
      | .independent | .quiesce => false
      | _ => true) then 14 else 16
/-- The set of a line in a partition's part of the L2 (R109). -/
def homeOf (s : State) (part line : Nat) : Nat × Nat := (homeSlice line, homeSet s part line)
/-- R107: a line that an operand-buffer share pins stays in the L2. -/
def pinnedLine (s : State) (line : Nat) : Bool := s.shares.any fun x => x.line == line && !x.pins.isEmpty
/-- R110, R111, R113: the line that leaves a set for one of the retained class or not. One of the retained class takes a way of its
own while it has one, else that of its least recently used. Elsewhere the next victim of .STRM goes, else an ordinary one of
the K7's choice, before one of the retained class that has no ways. DESIGN CHOICE: log entry 22. -/
def l2Victim (s : State) (part : Nat) (kept : Bool) (line : Nat) : Option L2Line :=
  let set := s.l2.filter fun x => homeOf s x.part x.line == homeOf s part line
  let wr := retainedWays s part
  let may := set.filter fun x => !pinnedLine s x.line
  let all := plainWays s part
  let plain := may.filter (!·.kept)
  let from_ := if plain.isEmpty then may else plain
  let ordinary := match plain.find? (·.strm) with
    | some x => some x
    | none => from_[Config.victim s.cycle.toNat (128 + homeSlice line) line % from_.length]?
  if kept && 0 < wr then
    if wr ≤ (set.filter (·.kept)).length then (may.filter (·.kept)).getLast?
    else if set.length < all then none else ordinary
  else if (set.filter fun x => !x.kept || wr == 0).length < all - wr && set.length < all then none
  else ordinary
/-- R203: the home slice counts an eviction for the partition of the line, at 4·slice + partition. -/
def countEvict (s : State) (x : L2Line) : SMap (BitVec 48) :=
  let at_ := 4 * homeSlice x.line + x.part
  mapSet 0 s.evict at_ (mapGet 0 s.evict at_ + 1)
/-- R109 to R113: an access of a partition brings its line to the L2, where its policy lets the L2 hold it; a full set
evicts one (R203). What an evicted aperture line holds is re-split before anything else reaches it (`evictLine`). -/
def l2Touch (s : State) (part pa pol : Nat) : State :=
  let kept := retains s part pa pol
  let s := touchRetention s part pa pol
  let line := pa / 128 * 128
  let t := targetOf s pa
  if !cachedTarget t || (pol == 3 && t == .host) then s else
  match s.l2.find? fun x => x.line == line && x.part == part with
  | some x => { s with l2 := x :: s.l2.filter (· != x) }
  | none =>
    match l2Victim s part kept line with
    | none => { s with l2 := ⟨line, part, kept, pol == 2⟩ :: s.l2 }
    | some x => { s with l2 := ⟨line, part, kept, pol == 2⟩ :: s.l2.filter (· != x), evict := countEvict s x }

/-- A line that a policy performs at its home leaves the core's cache (R113). -/
def cacheAccess (s : State) (core ctx part pa pol : Nat) (store : Bool) : State :=
  let s := l2Touch s part pa pol
  let line := pa / 128 * 128
  if pol = 1 ∨ pol = 3 ∨ !cachedTarget (targetOf s pa) then
    { s with dcache := s.dcache.filter fun x => !(x.core == core && x.line == line) }
  else
    let hit := s.dcache.find? fun x => x.core == core && x.line == line
    let s := if hit.isNone then perfEvent s core ctx 3 1 else s
    let owned := (hit.map (·.st)).getD .shared
    let next := pol == 2 && (hit.map (·.next)).getD true
    if store then
      let s := dropCopies s line 128 (some core)
      allocLine s core line .ownedDirty next
    else if hit.isNone then
      allocLine { s with dcache := s.dcache.map fun x => if x.line = line then { x with st := .shared } else x } core line .shared next
    else allocLine s core line owned next

/-! ## Injected errors (R96) -/

/-- The side of a team's own events: an IL3 team produces both. -/
def onSide (s : State) (tid : Nat) (trailing : Bool) : Bool :=
  match (getTeam s tid).side with
  | .trail _ => trailing
  | .lead _ => !trailing
  | .single => true

/-- A matching event of a team thread: the armed error counts down, or fires and disarms; the answer is its kind, side
and bit. `transfer` tells a control transfer from a store. DEDUCED: log entry 48. -/
def errEvent (s : State) (tid thread : Nat) (transfer : Bool) : State × Option (Nat × Bool × Nat) :=
  let ow := leadOf s tid
  match (getTeam s ow).errinj with
  | none => (s, none)
  | some e =>
    if e.thread ≠ thread ∨ (e.kind = 2) ≠ transfer ∨ !onSide s tid e.side then (s, none)
    else if 0 < e.skip then (modTeam s ow fun t => { t with errinj := some { e with skip := e.skip - 1 } }, none)
    else (modTeam s ow fun t => { t with errinj := none }, some (e.kind, e.side, e.bit))

/-- Flips bit `b` of little-endian bytes; nothing above their width. -/
def flipBit (bs : List Byte) (b : Nat) : List Byte :=
  listMod bs (b / 8) fun x => x ^^^ BitVec.ofNat 8 (2 ^ (b % 8))
def ItemFields.flip (f : ItemFields) (kind bit : Nat) : ItemFields :=
  if kind = 1 then { f with addr := f.addr ^^^ BitVec.ofNat 64 (2 ^ bit) } else { f with data := flipBit f.data bit }

/-! ## Atomics (R144, R281, R283) -/

/-- `new` of R281 from old and v; CAS holds e in the low word and r in the high one (R283). -/
def atomicNew (aop : Aop) (cas : Bool) (old v : Dword) : Dword :=
  let a : Word := old.setWidth 32
  let b : Word := v.setWidth 32
  if cas then (if a = b then (v >>> 32).setWidth 64 else old)
  else match aop with
  | .add => (a + b).setWidth 64
  | .min => (minI a b).setWidth 64
  | .max => (maxI a b).setWidth 64
  | .minn => (minN a b).setWidth 64
  | .maxn => (maxN a b).setWidth 64
  | .and => (a &&& b).setWidth 64
  | .or => (a ||| b).setWidth 64
  | .xor => (a ^^^ b).setWidth 64
  | .swap => b.setWidth 64
  | .fadd | .faddRa => (addF a b).setWidth 64
  | .add64 => old + v
  | .swap64 => v
/-- Bytes of an atomic (R281). -/
def aopBytes (aop : Aop) : Nat := if aop.is64 then 8 else 4

/-- Puts a returned value, or the poisoned sector it met, into the fill of `who` of an operation in flight. -/
def setFill (s : State) (op : Nat) (who : Who) (ws : List Word) (poison : Option Dword) : State :=
  let upd := fun (fs : List Fill) => fs.map fun f =>
    if f.who = who then { f with words := ws, poison := poison } else f
  let done := fun (fs : List Fill) => fs.all fun f => !f.words.isEmpty
  { s with ops := s.ops.map fun o =>
      if o.id = op then
        match o.kind with
        | .held fs => { o with kind := if done (upd fs) then .load (upd fs) else .held (upd fs) }
        | .load fs => { o with kind := .load (upd fs) }
        | _ => o
      else o }

/-- The cluster whose service group performs atomics on an address (R109). -/
def homeCluster (pa : Nat) : Nat := homeSlice pa / 4

/-- R145: the service group keeps ownership of a device line after an atomic; the oldest of 64 leaves first. -/
def mergeOwn (s : State) (pa : Nat) (sa : Bool) : State :=
  if sa ∨ targetOf s pa ≠ .device then s else
  let c := homeCluster pa
  let line := pa / 128 * 128
  let rest := s.merge.filter (· != (c, line))
  let mine := rest.filter (·.1 == c)
  let rest := if mine.length < 64 then rest else
    match mine with
    | [] => rest
    | x :: _ => rest.filter (· != x)
  { s with merge := rest ++ [(c, line)] }

/-- R270: a deferred report goes to the thread or helper that issued its operation, which takes it at its own WAIT or clause header:
a helper's is then charged with the iteration that it runs (R45). A helper that has left hands it to its recruiter.
DESIGN CHOICE: log entry 122. -/
def addReport (s : State) (tid g reporter : Nat) (rp : Report) : State :=
  let here : Bool := match reporterWho reporter with
    | .helper thr hg ht => ((getCore s tid).crew g thr).any fun c => c.helpers.any fun h => h.grp == hg && h.thr == ht
    | _ => true
  let w := if here then reporterWho reporter else .lane (reporter % 1024)
  modTh s tid g w fun th => { th with reports := th.reports ++ [rp] }

/-- The firmware team that serves a cluster's requests, if one is resident (R327). DEDUCED: log entry 29. -/
def firmwareOf (s : State) (cluster : Nat) : Bool :=
  s.teams.any fun t => t.firmware == some cluster && t.life == .resident

/-- The members that take the report of a non-returning atomic (R270): each thread that has an update of its own. A RED's update is
of several threads, and the lowest of them takes it. DESIGN CHOICE: log entry 122. -/
def AtomReq.reporters (q : AtomReq) : List Who := if q.kind = 2 then [q.who] else q.who :: q.also
/-- The report of a non-returning atomic that consumed poison (R270). -/
def reportPoison (s : State) (tid g : Nat) (q : AtomReq) (sector : Dword) : State :=
  let rep := fun (w : Who) => match w with
    | .lane t => t
    | .helper thr hg ht => 1024 * (32 * hg + ht + 1) + thr
    | .group => 0
  q.reporters.foldl (fun s w => addReport s tid g (rep w) ⟨cPoison, sector, q.pc.setWidth 32, .stc⟩) s

/-- R409: a helper's store, atomic or copy is a side effect of its chunk: type, bytes, address, value. -/
def noteWho (s : State) (tid g : Nat) (w : Who) (item : Nat × Nat × Dword × Dword) : State :=
  match w with
  | .helper thr hg ht => modCore s tid fun tc => tc.modCrew g thr fun cr => { cr with
      helpers := cr.helpers.map fun h => if h.grp = hg ∧ h.thr = ht then { h with effects := h.effects ++ [item] } else h }
  | _ => s
def noteEffect (s : State) (r : Run) (c : Nat) (item : Nat × Nat × Dword × Dword) : State :=
  noteWho s r.team r.grp (r.who c) item

/-- A release of an atomic (R137), which restarts the watchdog (R411). -/
def ordReleases (ord : Nat) : Bool := ord == 2 || ord == 3
/-- R409, R411: an atomic of a team has been performed and gave `v`: the helpers that issued it list it, and a release restarts the
watchdog. -/
def atomDone (s : State) (tid g : Nat) (q : AtomReq) (v : Dword) : State :=
  let s := (q.who :: q.also).foldl (fun s w => noteWho s tid g w (11, aopBytes q.aop, q.va, if q.ret then v else 0)) s
  if ordReleases q.ord then restartWatchdog s tid else s

/-- Performs one atomic at its home (R144), with the value it read, or the poisoned sector that it consumed: then nothing
is performed (R283). -/
def performReq (s : State) (tid g : Nat) (q : AtomReq) : State × Dword × Option Dword :=
  let n := aopBytes q.aop
  let s := l2Touch s (getTeam s tid).part q.pa (if q.p then 3 else 0)
  let (s, bs, p) := homeRead s q.pa n none
  match p with
  | some _ =>
    let sector := q.va &&& 0xFFFFFFFFFFFFFFE0#64
    (if q.ret then (q.who :: q.also).foldl (fun s w => setFill s q.op w (List.replicate (n / 4) 0) (some sector)) s
     else reportPoison s tid g q sector, 0, some sector)
  | none =>
    let old : Dword := BitVec.ofNat 64 (bytesNat bs)
    let s := homeWrite s q.pa (natBytes n (atomicNew q.aop q.cas old q.v).toNat) none none
    let s := mergeOwn s q.pa q.sa
    let v := q.gives.getD old
    let s := atomDone s tid g q v
    (if q.ret then (q.who :: q.also).foldl (fun s w => setFill s q.op w (wordsOf (n / 4) v.toNat) none) s else s, v, none)

/-- The code of an atomic's operation (R281). -/
def aopNum : Aop → Nat
  | .add => 0
  | .min => 1
  | .max => 2
  | .minn => 3
  | .maxn => 4
  | .and => 5
  | .or => 6
  | .xor => 7
  | .swap => 8
  | .fadd => 9
  | .faddRa => 10
  | .add64 => 11
  | .swap64 => 12

/-- R162: the entries of a cluster's request queue that firmware has not taken. -/
def svcDepth (s : State) (cl : Nat) : Nat := (s.svc.filter fun q => q.cluster == cl && !q.taken && !q.waits).length
/-- R162: the oldest request that waits at an injection station of a cluster enters its queue, which has room. -/
def admitSvc (cl : Nat) : List SvcReq → List SvcReq
  | [] => []
  | q :: rest => if q.cluster == cl && q.waits then { q with waits := false } :: rest else q :: admitSvc cl rest
/-- R162: requests at injection stations enter the queues that have room, oldest first; the first argument tells what each cluster's
queue holds. -/
def admitSvcs (l : List SvcReq) : List SvcReq :=
  (List.range 16).foldl (fun l cl =>
    let depth := (l.filter fun q => q.cluster == cl && !q.taken && !q.waits).length
    (List.range (min (256 - depth) (l.filter fun q => q.cluster == cl && q.waits).length)).foldl (fun l _ => admitSvc cl l) l) l
/-- R162: a request goes to the service group that firmware runs, or waits at its injection station while the queue is full, or
others wait before it. DEDUCED: log entry 29. -/
def serve (s : State) (tid grp thr : Nat) (q : AtomReq) (ops : List Nat) (more : List (Nat × Who)) (log : List LogEntry)
    (twin : List (Nat × AtomReq) := []) : State :=
  let t := getTeam s tid
  let g := getGroup s tid grp
  let cl := homeCluster q.pa
  { s with svc := s.svc ++ [{
      cluster := cl, ops := ops, gives := (if q.ret then (q.op, q.who) :: more else []), waits := decide (256 ≤ svcDepth s cl) || s.svc.any (fun q => q.cluster == cl && q.waits), log := log,
      reqs := (tid, q) :: twin,
      aop := aopNum q.aop, ord := q.ord, scope := q.sc, p := q.p, kind := q.kind,
      slot := t.core * 2 ^ 14 + g.sub * 2 ^ 11 + (g.port * 16 + g.slot) % 64 * 32 + thr % 32, pa := q.pa, value := q.v }] }
/-- The atomic is one for a service group that firmware runs: a peer performs its own (R438), and the host those of the SYS policy
(R112). -/
def served (s : State) (q : AtomReq) : Bool :=
  firmwareOf s (homeCluster q.pa) && targetOf s q.pa != .peer && !(q.p && targetOf s q.pa == .host)

/-! ## Items (R389, R398) -/

def kindNum : ItemKind → Nat
  | .store | .writeback => 0
  | .atomic => 1
  | .copy => 2
  | .message => 3
  | .publish => 4
  | .post => 5
  | .sample => 6
  | .transfer => 7

/-- R398: one bit, and one byte, of CRC-64. -/
def crcBit (c : Dword) : Dword := if c.msb then (c <<< 1) ^^^ 0x42F0E1EBA9EA3693#64 else c <<< 1
def crcByte (c : Dword) (b : Byte) : Dword :=
  crcBit (crcBit (crcBit (crcBit (crcBit (crcBit (crcBit (crcBit (c ^^^ (b.setWidth 64 <<< 56)))))))))
def crcBytes (c : Dword) (bs : List Byte) : Dword := bs.foldl crcByte c
/-- R398: the 28-byte image of an item. DEDUCED: log entry 28. -/
def itemImage (k : ItemKind) (f : ItemFields) : List Byte :=
  natBytes 8 f.addr.toNat ++ (f.data ++ List.replicate 16 0).take 16 ++ natBytes 2 f.mask ++ natBytes 1 f.scope ++
  natBytes 1 (kindNum k)
/-- Takes bytes into a group's store signature. DEDUCED: log entry 28. -/
def sign (s : State) (tid g : Nat) (bs : List Byte) : State :=
  modTeam s tid fun t => { t with sigs :=
    (List.range t.body.groups.length).map fun i => let c := t.sigs.getD i 0; if i = g then crcBytes c bs else c }

/-- An operation waits for an item that is not accepted or matched yet. -/
def opHeld (s : State) (id : Nat) : Bool :=
  s.pairs.any (fun p => p.items.any (·.op == some id)) || s.teams.any (fun t => t.entries.any (·.op == some id))

/-- The log entry that a re-executed item takes (R392): the first unused one of its thread. -/
def logNext (log : List LogEntry) (team g thr : Nat) : Option LogEntry :=
  log.find? fun e => !e.used && e.team == team && e.grp == g && e.thr == thr
def logUse (log : List LogEntry) (team g thr : Nat) : List LogEntry :=
  match log with
  | [] => []
  | e :: rest =>
    if !e.used && e.team == team && e.grp == g && e.thr == thr then { e with used := true } :: rest
    else e :: logUse rest team g thr

/-- R320: the launch's result operator. -/
def ropCombine (rop : Nat) (a b : Word) : Word :=
  match rop with
  | 0 => a ||| b
  | 1 => maxN a b
  | 2 => minN a b
  | 3 => a + b
  | _ => b
/-- R320: a POST of a group enters the team's post word. -/
def applyPost (s : State) (tid g : Nat) (v : Word) : State :=
  let rop := (teamLaunch s tid).desc.rop
  restartWatchdog (modCore s tid fun tc => { tc with post :=
    match tc.post with
    | none => some (v, g)
    | some (w, g') => if rop = 4 then (if g' ≤ g then some (v, g) else some (w, g')) else some (ropCombine rop w v, max g g') }) tid

/-- R152: a write to the port B window passes issue as part of operation `op`. DEDUCED: log entry 73. -/
def windowWrite (s : State) (op pa : Nat) (bs : List Byte) : State := { s with window := s.window ++ [⟨op, none, pa, bs⟩] }

/-- What an item gives the instruction that made it: an atomic's value, or the poison that it consumed. -/
abbrev ItemGot : Type := Dword × Option Dword

/-- The sectors that the threads of an instruction together overwrite are no longer poison (R124). -/
def cleanSectors (s : State) (secs : List Nat) : State :=
  secs.foldl (fun s sec =>
    match landing s (32 * sec) with
    | none => s
    | some p =>
      if targetOf s p == .aperture then
        { s with aper := s.aper.map fun x => if x.line = p / 128 * 128 then { x with poison := x.poison.filter (· != sec % 4) } else x }
      else { s with poison := s.poison.filter (· != sectorOf p) }) s

/-- An item that writes a stash line back (R115). -/
def Item.isStash (i : Item) : Bool := i.kind == .writeback || (i.kind == .store && i.lead.data.length == 128)
/-- R411: a release has been performed, for both teams of a core pair. -/
def releaseDone (s : State) (i : Item) : State :=
  if !i.rel then s else
  match (getTeam s i.team).partner with
  | none => restartWatchdog s i.team
  | some p => restartWatchdog (restartWatchdog s i.team) p
/-- What an accepted or matched item does outside provisional lines. A write to the port B window follows those past issue
(R152). A store of a core pair is performed into an owned line of the leading core, which issued it (R104, R398); a stash line that
is written back stays (R115). -/
def performItem (s : State) (i : Item) : State × ItemGot :=
  let s := releaseDone s i
  match i.act with
  | .write cs | .once cs =>
    match cs with
    | [] => (s, 0, none)
    | c :: _ =>
      if targetOf s c.1 == .portB then
        match i.op with
        | some op => (windowWrite s op c.1 (cs.map Prod.snd), 0, none)
        | none => (writeCells (performWindow s fun _ => true) none cs [], 0, none)
      else if i.isStash then (writeStash s cs i.bad, 0, none)
      else
        let t := getTeam s i.team
        let s := if i.kind == .store && t.side != .single then
            cacheAccess s t.core (teamLaunch s i.team).ctx t.part c.1 i.lead.policy true
          else s
        (cleanSectors (writeCells s (some t.core) cs i.bad (some i.team)) i.whole, 0, none)
  | .atomic q => performReq s i.team i.grp q
  | .post v => (applyPost s i.team i.grp v, 0, none)
  | .sample v => (s, v, none)
  | .go => (s, 0, none)

/-- A list without its first element that `p` holds of. -/
def dropFirst {α : Type} (p : α → Bool) : List α → List α
  | [] => []
  | x :: rest => if p x then rest else x :: dropFirst p rest

/-- Two items that are parts of one item of R389. -/
def sameItem (a b : Item) : Bool := a.team == b.team && a.grp == b.grp && a.clk == b.clk && a.unit == b.unit
/-- R398: the entries that items take. -/
def entryCount : List Item → Nat
  | [] => 0
  | [_] => 1
  | a :: b :: rest => (if sameItem a b then 0 else 1) + entryCount (b :: rest)

/-- R392, R399: what the atomic log takes of a matched atomic, for both teams, without its value. -/
def pairLog (e i : Item) : List LogEntry :=
  [⟨e.team, e.grp, e.thr, e.lead, 0, true, none, none⟩, ⟨i.team, i.grp, i.thr, e.lead, 0, true, none, none⟩]
/-- R392, R399: entries join the atomic log with the value read, or without it while operation `op` of each is yet to bring it,
and a checkpoint follows. -/
def enterLog (s : State) (log : List LogEntry) (v : Dword) (bad : Option Dword := none) : State :=
  match log with
  | [] => s
  | x :: _ =>
    let new := log.map fun e => { e with value := v, bad := bad }
    if teamIl s x.team = 3 then
      { s with pairs := listMod s.pairs (pairOf (getTeam s x.team).core) fun p => { p with log := p.log ++ new, request := true } }
    else modTeam s (leadOf s x.team) fun t => { t with ckptRequest := true, log := t.log ++ new }

/-- R162, R392, R399: a request to a service group that firmware runs is in the atomic log from then on; its value follows. -/
def serveLogged (s : State) (tid grp thr : Nat) (q : AtomReq) (ops : List Nat) (more : List (Nat × Who)) (log : List LogEntry)
    (twin : List (Nat × AtomReq) := []) : State :=
  enterLog (serve s tid grp thr q ops more log twin) (log.map fun e => { e with op := some q.op }) 0
/-- R327, R392: the value of a request that the atomic log holds has come. -/
def closeLog (s : State) (q : SvcReq) (v : Dword) : State :=
  let close := fun (l : List LogEntry) => l.map fun e =>
    if q.log.any (fun x => x.team == e.team && x.grp == e.grp && x.thr == e.thr && x.fields == e.fields) &&
        e.op.any q.ops.contains then { e with value := v, op := none } else e
  { s with
    pairs := s.pairs.map fun p => { p with log := close p.log }
    teams := s.teams.map fun t => { t with log := close t.log } }

/-- The entry that an item of the trailing team meets: the oldest of its group and kind; a sample, of its thread too (R325). -/
def meets (i e : Item) : Bool := e.grp == i.grp && e.kind == i.kind && (e.kind != .sample || e.thr == i.thr)
/-- R398: the trailing team's item meets the oldest entry of its group and kind. The outcome is the entry's value and
the state, or that they disagree; none while the leading item has not entered. DEDUCED: log entry 36. -/
def matchItem (s : State) (lead : Nat) (i : Item) : Option (Option (State × Option ItemGot)) :=
  match (getTeam s lead).entries.find? (meets i) with
  | none => none
  | some e =>
    let s := modTeam s lead fun t => { t with entries := dropFirst (meets i) t.entries }
    if e.kind == .sample || (e.thr == i.thr && e.lead == i.trail && e.bad == i.bad) then
      match e.act, i.act with
      | .atomic q, .atomic q' =>
        if served s q then some (some (serveLogged s e.team e.grp e.thr q [q.op, q'.op] (if q.ret then [(q'.op, q'.who)] else []) (pairLog e i)
            [(i.team, q')], none))
        else
          let (s, v) := performItem s e
          some (some (enterLog s (pairLog e i) v.1 v.2, some v))
      | _, _ => let (s, v) := performItem s e; some (some (s, some v))
    else some none

/-- The leading teams whose entries share the compare buffer of a team's core pair (R398). -/
def bufferTeams (s : State) (t : Team) : List Team :=
  s.teams.filter fun x => x.core == t.core && x.holds && (match x.side with
    | .lead _ => true
    | _ => false)
/-- R398: the slack stall of a leading group. The core pair's buffer holds the entries of every leading team on it; a write-back
that a snoop asks for enters without a stall (log entry 100). -/
def slackStall (s : State) (i : Item) : Bool :=
  let t := getTeam s i.team
  let free := 512 - (bufferTeams s t).foldl (fun n x => n + entryCount x.entries) 0
  let holds := fun x => t.entries.any (·.grp == x)
  let empty := ((List.range t.body.groups.length).filter fun x => x != i.grp && !holds x).length
  !(t.entries.getLast?.any (sameItem i)) && (free < 1 || (holds i.grp && free ≤ empty))

/-- The fields of an item after an injected error (R96). DEDUCED: log entry 98. -/
def withError (e : Option (Nat × Bool × Nat)) (trailing : Bool) (f : ItemFields) : ItemFields :=
  match e with
  | some (k, side, bit) => if side = trailing then f.flip k bit else f
  | none => f

/-- A CKPT of the team waits for its checkpoint. -/
def ckptDue (t : Team) : Bool := t.ckptRequest || t.ckptWaiting.any (· < 32)
/-- R399: a checkpoint of the core pair is due. -/
def il2Due (s : State) (tid : Nat) : Bool :=
  let l := leadOf s tid
  ckptDue (getTeam s l) || (match (getTeam s l).partner with
    | some p => ckptDue (getTeam s p)
    | none => false)
/-- R75, R191, R401: a team's atomic buffer holds what keeps its counters above zero or its entries pending: neither a save nor a
checkpoint is taken, and the groups that it would stop run on to a flush point. Under IL3 an accepted non-returning atomic
counts nowhere (R191). DEDUCED: log entry 69. -/
def bufferHolds (s : State) (tid : Nat) : Bool :=
  let t := getTeam s tid
  if teamIl s tid = 3 then t.det.any (·.req.ret) else !t.det.isEmpty || !t.detOut.isEmpty
/-- R391: a checkpoint of a pair is due. -/
def il3Due (s : State) (p : Nat) : Bool :=
  (s.pairs.getD p {}).request || (pairTeams s p).any fun i => ckptDue (getTeam s i)
/-- A thread of the group has STATUS.TRAP set. -/
def groupTrapped (s : State) (tid g : Nat) : Bool := (getGroup s tid g).threads.any (·.inTrap)
/-- R399: the group stands at a run end with STATUS.TRAP clear, or at a CKPT. -/
def atRest (s : State) (tid g : Nat) : Bool :=
  !groupTrapped s tid g &&
  ((getTeam s tid).ckptWaiting.contains g || !s.runs.any fun r => r.team == tid && r.grp == g)
/-- Every thread of the group has exited. -/
def Group.allExited (g : Group) : Bool := g.threads.all (·.life == .exited)
/-- R393, R399: no further item of the leading group can meet its partner's: its threads have exited, or it stands at rest
for a checkpoint with more words issued. DEDUCED: log entry 36. -/
def leadStands (s : State) (l p g : Nat) : Bool :=
  (getGroup s l g).allExited ||
  (il2Due s l && atRest s l g && (getGroup s p g).interval.toNat < (getGroup s l g).interval.toNat)

/-- How long after its issue an item enters the compare buffer: a thread's parts do by the last of their four beats (R26, R451).
DEDUCED: log entry 98. -/
def entryDelay : ItemKind → Dword
  | .store | .atomic => 3
  | _ => 0
/-- What the record says of an item that has met no partner (R394). -/
def unpaired (i : Item) : Mismatch := { itemMismatch i with kind := 6, trail := 0 }
/-- R115: what an item other than a write-back writes meets its own team's stash lines when it is handed over, as another agent's
lines once it is performed. -/
def meetStash (s : State) (i : Item) : State :=
  if i.isStash then s else
  ((i.cells.map fun c => c.1 / 128 * 128).eraseDups).foldl (fun s l => snoopStash s l (getTeam s i.team).partner) s
/-- Hands an item to the comparator (IL3) or the compare buffer (IL2). An atomic in flight receives a matched value.
DEDUCED: log entry 98. -/
def submit (s : State) (i : Item) (err : Option (Nat × Bool × Nat)) : Res State :=
  let il := teamIl s i.team
  let s := meetStash s i
  let i := { i with clk := s.cycle + entryDelay i.kind }
  if il = 3 then
    let i := { i with lead := withError err false i.lead, trail := withError err true i.trail }
    .ok { s with pairs := listMod s.pairs (pairOf (getTeam s i.team).core) fun p => { p with items := p.items ++ [i] } }
  else
    match (getTeam s i.team).side with
    | .lead _ =>
      if slackStall s i then .slack
      else
        let i := { i with lead := withError err false i.lead }
        let s := if i.kind == .sample then s else sign s i.team i.grp (itemImage i.kind i.lead)
        .ok (modTeam s i.team fun t => { t with entries := t.entries ++ [i] })
    | .trail l =>
      let i := { i with trail := withError err true i.trail }
      match matchItem s l i with
      | none => if leadStands s l i.team i.grp then .mismatch (getTeam s l).errinj (unpaired i) else .slack
      | some none => .mismatch (getTeam s l).errinj
          (itemMismatch { i with lead := (((getTeam s l).entries.find? (meets i)).map (·.lead)).getD i.lead })
      | some (some (s, v)) =>
        let s := if i.kind == .sample then s else sign s i.team i.grp (itemImage i.kind i.trail)
        .ok (match i.act, v with
          | .atomic q, some (x, none) =>
            let s := atomDone s i.team i.grp q x
            if q.ret then setFill s q.op q.who (wordsOf (aopBytes q.aop / 4) x.toNat) none else s
          | .atomic q, some (_, some sector) =>
            if q.ret then setFill s q.op q.who (List.replicate (aopBytes q.aop / 4) 0) (some sector)
            else reportPoison s i.team i.grp q sector
          | _, _ => s)
    | .single => .ok (performItem s i).1

/-- The integrity level whose items a team produces: IL2 while it has a partner, IL3, or none. -/
def hasItems (s : State) (tid : Nat) : Bool := teamIl s tid == 3 || (getTeam s tid).side != .single

/-! ## Forced commits (R148, R392) -/

def thePair (s : State) (tid : Nat) : Pair := s.pairs.getD (pairOf (getTeam s tid).core) {}
/-- R391, R392: a word that forces a commit issues as the first word of its run, after its checkpoint. -/
def needCommit (s : State) (r : Run) (b : Bool) : Res Unit :=
  if b && teamIl s r.team == 3 && !((thePair s r.team).granted.contains (r.team, r.grp) && r.words == 0) then .commit
  else .ok ()
/-- The checkpoint that the word forced is spent when the word issues. -/
def spendGrant (s : State) (r : Run) : State :=
  if teamIl s r.team = 3 then
    { s with pairs := listMod s.pairs (pairOf (getTeam s r.team).core) fun p =>
        { p with granted := p.granted.filter (· != (r.team, r.grp)) } }
  else s

/-- R149, R392: an event that an IL3 team's atomic log holds is executed again without being performed, where it is the same; none
where the log holds none. -/
def replayOut (s : State) (tid g thr : Nat) (f : ItemFields) : Option (Option State) :=
  if teamIl s tid ≠ 3 then none else
  (logNext (thePair s tid).log tid g thr).map fun e =>
    if e.fields = f then some { s with pairs := listMod s.pairs (pairOf (getTeam s tid).core) fun x =>
      { x with log := logUse x.log tid g thr, request := true } }
    else none
/-- R147: a location that no L2 caches, for an access with a policy. -/
def uncached (s : State) (pa pol : Nat) : Bool :=
  match (landing s pa).map (targetOf s) with
  | some .portB | some .peer => true
  | some .host => pol == 3
  | _ => false

/-! ## Reads and writes of a thread -/

/-- Reads `n` bytes at a physical address as a team sees them (R147), through its core's cache. -/
def readFor (s : State) (r : Run) (pa n pol : Nat) : State × List Byte × Option Nat :=
  let t := getTeam s r.team
  let s := cacheAccess s t.core (teamLaunch s r.team).ctx t.part pa pol false
  viewRead s r.team pa n

/-- The cells that bytes at a physical address make. -/
def cellsAt (pa : Nat) (bs : List Byte) : List Host.Cell := (List.range bs.length).map fun i => (pa + i, bs.getD i 0)

/-- One thread's store (R273, R389, R398): written at once, or handed to the comparator or compare buffer;
`ev` tells an event of R96, and `whole` names the sectors that the threads of the instruction together overwrite, for an item
(R124). -/
def storeOne (s : State) (r : Run) (c : Nat) (va : Dword) (pa : Nat) (bs : List Byte) (sc pol : Nat) (rel ev : Bool)
    (op : Nat) (whole : List Nat := []) : Res State :=
  let s := noteEffect s r c (10, bs.length, va, 0)
  let t := getTeam s r.team
  let (s, err) := if ev then errEvent s r.team (r.teamThread c) false else (s, none)
  if hasItems s r.team then
    let f : ItemFields := { addr := va, data := bs, mask := 2 ^ bs.length - 1, scope := sc, policy := pol }
    let once := (rel && 2 ≤ sc) || uncached s pa pol
    match (if once then replayOut s r.team r.grp (r.nameOf c) f else none) with
    | some (some s) => .ok s
    | some none => .trap c cIntegrity va 0
    | none =>
    let s := if teamIl s r.team = 3 then cacheAccess s t.core (teamLaunch s r.team).ctx t.part pa pol true else s
    submit s { team := r.team, grp := r.grp, thr := r.nameOf c, pc := r.pc, kind := .store, lead := f, trail := f,
               act := if once then .once (cellsAt pa bs) else .write (cellsAt pa bs),
               op := if teamIl s r.team = 3 then some op else none, whole := whole, rel := rel } err
  else
    let s := cacheAccess s t.core (teamLaunch s r.team).ctx t.part pa pol true
    .ok (if targetOf s pa == .portB then windowWrite s op pa bs else homeWrite s pa bs (some t.core) none)

/-! ## Atomics of a thread -/

/-- R389: an atomic's address, operand, operation, order, scope and P. -/
def atomFields (q : AtomReq) (ord : Nat) (sc : Nat) (p : Bool) : ItemFields :=
  { addr := q.va, data := natBytes 8 q.v.toNat ++ natBytes 1 (aopNum q.aop + ord * 16 + boolBit q.cas * 64),
    mask := aopBytes q.aop, scope := sc, policy := if p then 3 else 0 }

/-- R401: a non-returning integer atomic, other than a swap, merges with an entry of its location and operation. -/
def mergeable (q : AtomReq) : Bool :=
  !q.ret && !q.cas && q.aop != .swap && q.aop != .swap64 && q.aop != .fadd && q.aop != .faddRa

/-- The service request that performs a logged atomic, whose answer is yet to come. -/
def LogEntry.awaited (e : LogEntry) (x : SvcReq) : Bool := e.op.any x.ops.contains
/-- R392, R399: a re-executed atomic takes the logged value, or the poison that it met (R283), if its operands equal the logged
ones; one that firmware has yet to answer waits for that answer. None where none is logged. -/
def takeLogged (s : State) (tid g thr : Nat) (q : AtomReq) (f : ItemFields) : Option (Option State) :=
  let own := leadOf s tid
  let log := if teamIl s tid = 3 then (thePair s tid).log else (getTeam s own).log
  (logNext log tid g thr).map fun e =>
    let s := if teamIl s tid = 3 then
        { s with pairs := listMod s.pairs (pairOf (getTeam s tid).core) fun x => { x with log := logUse x.log tid g thr, request := true } }
      else modTeam s own fun t => { t with log := logUse t.log tid g thr, ckptRequest := true }
    if e.fields ≠ f then none
    else if s.svc.any e.awaited then
      let joined := fun (x : SvcReq) =>
        if e.awaited x then { x with ops := x.ops ++ [q.op], gives := if q.ret then x.gives ++ [(q.op, q.who)] else x.gives } else x
      some { s with svc := s.svc.map joined }
    else match e.bad with
    | some sector =>
      some (if q.ret then (q.who :: q.also).foldl (fun s w => setFill s q.op w (List.replicate (aopBytes q.aop / 4) 0) (some sector)) s
        else reportPoison s tid g q sector)
    | none =>
      some (if q.ret then (q.who :: q.also).foldl (fun s w => setFill s q.op w (wordsOf (aopBytes q.aop / 4) e.value.toNat) none) s else s)

/-- R402: USED of each record is raised by the group totals that no flush point has added yet, as additions of the groups. -/
def resvEntries (t : Team) : List DetEntry :=
  t.resv.flatMap fun x => (List.range x.sums.length).filterMap fun g =>
    let d := x.sums.getD g 0 - x.flushed.getD g 0
    if d = 0 then none else
      some ⟨g, 0, { aop := .add, cas := false, pa := x.pa + 8, va := BitVec.ofNat 64 (x.pa + 8), v := BitVec.ofNat 64 d, op := 0,
                    who := .group, ret := false }, []⟩

/-- The item of a drained entry (R389, R398). -/
def detItem (tid : Nat) (e : DetEntry) : Item :=
  let f := atomFields e.req e.req.ord e.req.sc e.req.p
  { team := tid, grp := e.grp, thr := e.thr, pc := e.req.pc, kind := .atomic, lead := f, trail := f, act := .atomic e.req,
    op := if e.req.ret then some e.req.op else none }
/-- R401: a drained entry of a team that is no part of a core pair is performed. -/
def drainOne (s : State) (tid : Nat) (e : DetEntry) : State :=
  if served s e.req then serve s tid e.grp e.thr e.req e.ops [] []
  else (performReq s tid e.grp e.req).1
/-- R149, R392: the drained entries of an IL3 team ask for the commit that comes immediately before they are performed.
DEDUCED: log entry 104. -/
def askCommit (s : State) (tid : Nat) (es : List DetEntry) : State :=
  if es.isEmpty then s else
  let s := modTeam s tid fun t => { t with detOut := t.detOut ++ es }
  { s with pairs := listMod s.pairs (pairOf (getTeam s tid).core) fun p => { p with request := true } }
/-- R398, R401: the drained entries of an IL2 team go to the compare buffer in order, as far as they find room, or meet their
partner's. DEDUCED: log entry 104. -/
def drainOut (tid : Nat) : List DetEntry → State → State
  | [], s => modTeam s tid fun t => { t with detOut := [] }
  | e :: rest, s =>
    match takeLogged s tid e.grp e.thr e.req (detItem tid e).lead with
    | some (some s) => drainOut tid rest s
    | some none => failTeam s tid cIntegrity 0 0 0 0
    | none =>
      match submit s (detItem tid e) none with
      | .ok s => drainOut tid rest s
      | .mismatch armed m => retryPair s tid armed m
      | _ => modTeam s tid fun t => { t with detOut := e :: rest }

/-- R401: a flush point of the team drains the entries that `p` names, in (group, thread, program) order, and raises USED
of its reservations (R402); an overflow drain, which is no flush point, raises nothing. DEDUCED: log entry 53. -/
def flushDet (s : State) (tid : Nat) (p : DetEntry → Bool) (atPoint : Bool := true) : State :=
  let t := getTeam s tid
  let es := t.det.filter p
  let order := ((List.range 32).flatMap fun g => (List.range 32).flatMap fun t =>
    es.filter fun e => e.grp == g && e.thr == t) ++ (if atPoint then resvEntries t else [])
  let s := modTeam s tid fun t => { t with
    det := t.det.filter fun e => !p e
    resv := if atPoint then t.resv.map fun x => { x with flushed := x.sums } else t.resv }
  if teamIl s tid = 3 then askCommit s tid order
  else if t.side == .single then order.foldl (fun s e => drainOne s tid e) s
  else drainOut tid (t.detOut ++ order) s

/-- R401: two atomics of the buffer that share an entry. -/
def shareEntry (p q : AtomReq) : Bool := mergeable p && mergeable q && p.pa == q.pa && p.aop == q.aop
/-- R401: the entries that a team's atomics take in the buffer. -/
def detSize : List DetEntry → Nat
  | [] => 0
  | e :: rest => detSize rest + (if rest.any fun x => shareEntry e.req x.req then 0 else 1)
/-- The entries of the teams on a core (R401). -/
def detCount (s : State) (core : Nat) : Nat :=
  (s.teams.filter fun t => t.core == core && t.holds).foldl (fun n t => n + detSize t.det) 0

/-- R401, R418: a team's part of an overflow drain: its determinism record, and its entries. R8 gives every record a thread index,
and this one, like that of a watchdog or a duration failure, is of no one thread: its THREAD is 0. DESIGN CHOICE: log entry 123. -/
def overflowOne (s : State) (tid : Nat) : State :=
  let t := getTeam s tid
  let l := teamLaunch s tid
  if t.det.isEmpty then s else
  flushDet (trace s t.part 6 { ctx := l.ctx, team := t.idx, launch := l.num } (natWord (detSize t.det))) tid (fun _ => true) false
/-- R401: the overflow drain of a full buffer, which the teams of its core share. DEDUCED: log entry 104. -/
def overflowDrain (s : State) (core : Nat) : State :=
  ((List.range s.teams.length).filter fun i => (getTeam s i).core == core && (getTeam s i).holds).foldl overflowOne s

/-- R401: an atomic enters the buffer, in an entry that it shares or in one of its own; a buffer that fills drains at once (overflow
drain). What shares an entry is kept apart, so that a drain applies it in its own place. DEDUCED: log entry 104. -/
def detAdd (s : State) (r : Run) (c : Nat) (q : AtomReq) : State :=
  let s := modTeam s r.team fun t => { t with det := t.det ++ [⟨r.grp, r.nameOf c, q, [q.op]⟩] }
  let core := (getTeam s r.team).core
  if 4096 ≤ detCount s core then overflowDrain s core else s

/-- Where an atomic takes its value from, or waits, by the team's mode (R144, R149 to R151, R392); `cs` are
its threads, of which the first issued it. -/
def atomOne (s : State) (r : Run) (cs : List Nat) (q : AtomReq) (ord sc : Nat) (p sa : Bool) (kind : Nat) : Res State :=
  let c := cs.headD 0
  let q := { q with sa := sa, pc := r.pc, ord := ord, sc := sc, p := p, kind := kind }
  let f := atomFields q ord sc p
  let il := teamIl s r.team
  if (teamLaunch s r.team).kernel.det then
    let s := detAdd s r c q
    if il = 3 then
      submit s { team := r.team, grp := r.grp, thr := r.nameOf c, pc := r.pc, kind := .atomic, lead := f, trail := f, act := .go,
                 op := if q.ret then none else some q.op } none
    else .ok s
  else if hasItems s r.team then
    match takeLogged s r.team r.grp (r.nameOf c) q f with
    | some (some s) => .ok s
    | some none => .trap c cIntegrity q.va 0
    | none =>
      submit s { team := r.team, grp := r.grp, thr := r.nameOf c, pc := r.pc, kind := .atomic, lead := f, trail := f,
                 act := .atomic q, op := if q.ret || il = 3 then some q.op else none } none
  else if served s q then .ok (serve s r.team r.grp (r.nameOf c) q [q.op] [] [])
  else
    .ok (performReq s r.team r.grp q).1

/-! ## Samples and transfers under IL2 and IL3 (R325, R360, R388, R389, R398) -/

/-- The value that a TIME or STAMP sample gives this team: its own, or the leading team's. -/
def sampleFor (s : State) (r : Run) (v : Dword) : Res (State × Dword) :=
  match (getTeam s r.team).side with
  | .single => .ok (s, v)
  | .lead _ =>
    let f : ItemFields := { addr := r.pc, data := [], mask := 0, scope := 0, policy := 0 }
    (submit s { team := r.team, grp := r.grp, thr := r.nameOf r.lowest, pc := r.pc, kind := .sample, lead := f, trail := f,
                act := .sample v, op := none } none).map fun s => (s, v)
  | .trail l =>
    let f : ItemFields := { addr := r.pc, data := [], mask := 0, scope := 0, policy := 0 }
    match matchItem s l { team := r.team, grp := r.grp, thr := r.nameOf r.lowest, pc := r.pc, kind := .sample, lead := f,
                          trail := f, act := .go, op := none } with
    | some (some (s, some y)) => .ok (s, y.1)
    | _ => .slack

/-- R389, R398: the taken mask of a control transfer, and its targets, enter the comparator or the signature. An error
of kind 2 flips a bit of the mask on its side. DEDUCED: log entry 98. -/
def transferItem (s : State) (r : Run) (taken : Nat) (targets : List Byte) : Res State :=
  if !hasItems s r.team then .ok s else
  let (s, err) := r.lanes.foldl (fun (x : State × Option (Nat × Bool × Nat)) c =>
    let (s, e) := errEvent x.1 r.team (r.teamThread c) true
    (s, if x.2.isSome then x.2 else e)) (s, none)
  let f : ItemFields := { addr := r.pc, data := natBytes 4 taken ++ targets, mask := 15, scope := 0, policy := 0 }
  let flipped := fun (side : Bool) => match err with
    | some (_, sd, bit) => if sd = side && bit < 32 then { f with data := flipBit f.data bit } else f
    | none => f
  if teamIl s r.team = 3 then
    .ok { s with pairs := listMod s.pairs (pairOf (getTeam s r.team).core) fun p => { p with items := p.items ++
      [{ team := r.team, grp := r.grp, thr := 0xFF, pc := r.pc, kind := .transfer, clk := s.cycle, lead := flipped false,
         trail := flipped true, act := .go, op := none }] } }
  else
    let mine := match (getTeam s r.team).side with
      | .trail _ => flipped true
      | _ => flipped false
    .ok (sign s r.team r.grp (mine.data.take 4))

end Sys2Proof.Machine
end

