-- ==== Sys2Proof/Machine/Memory.lean ====
section
/-! DEFINITION. The meanings of the global, scratchpad and local loads and stores, the atomics, and the cache and stash
operations (R268 to R286). Acquires and releases order nothing more in a machine that performs each access whole and in
order (log entry 7); what they force under IL3 is performed (R148). -/

namespace Sys2Proof.Machine

/-! ## Checks of addresses as issue outcomes (R269) -/

/-- R312, R313: what a REP adds to the address of the repetition it performs. -/
def repShift (s : State) (r : Run) (size : Nat) : Int :=
  match r.rep with
  | none => 0
  | some (_, stride) => (repNumber s r : Int) * stride * size

/-- A checked global address of lane `c`: its physical address and whether its page is system-atomic. -/
def checkLane (s : State) (r : Run) (c : Nat) (k : AccKind) (sysPol shadow : Bool) (align : Nat) (va : Dword) :
    Res (Nat × Bool) :=
  match checkGlobal s (envOf s r) k sysPol shadow align va with
  | .ok pa sa => .ok (pa, sa)
  | .miss page => .miss page
  | .wait => .stall
  | .fault cause a => .trap c cause a 0

/-- A scratchpad offset of lane `c` (R102): alignment, then bounds. -/
def checkScratch (s : State) (r : Run) (c off n align : Nat) : Res Unit :=
  if off % align ≠ 0 then .trap c cMisaligned (BitVec.ofNat 64 off) 0
  else if (teamLaunch s r.team).kernel.scratch < off + n then .trap c cScratchBounds (BitVec.ofNat 64 off) 0
  else .ok ()

/-- R103: the region of a thread in local memory. A helper uses its recruiter's (DEDUCED, log entry 15). -/
def localRegion (s : State) (r : Run) (c : Nat) : Dword :=
  let l := teamLaunch s r.team
  l.desc.localBase + BitVec.ofNat 64 (((getTeam s r.team).idx * 1024 + r.teamThread c) * (4 * l.desc.l + l.desc.ld))

/-- A part of a local access that lies in one page. -/
structure LocalPart where
  va : Dword
  pa : Nat
  n : Nat
  deriving DecidableEq, Repr

/-- R103: a region's start is a multiple of 8 only, so a local access may meet two pages; each has its own translation. -/
def pageParts (va : Dword) (n : Nat) : List (Dword × Nat) :=
  let first := min n (4096 - va.toNat % 4096)
  if first = n then [(va, n)] else [(va, first), (va + BitVec.ofNat 64 first, n - first)]
/-- The checked parts of a global access that any byte may begin. -/
def checkParts (s : State) (r : Run) (c : Nat) (k : AccKind) : List (Dword × Nat) → Res (List LocalPart)
  | [] => .ok []
  | x :: rest => (checkLane s r c k false false 1 x.1).andThen fun p =>
      (checkParts s r c k rest).map fun l => ⟨x.1, p.1, x.2⟩ :: l

/-- A local offset of lane `c` (R102, R103): alignment, bounds, then its global parts. -/
def checkLocal (s : State) (r : Run) (c : Nat) (k : AccKind) (off n : Nat) : Res (List LocalPart) :=
  let l := teamLaunch s r.team
  if off % n ≠ 0 then .trap c cMisaligned (BitVec.ofNat 64 off) 0
  else if l.desc.ld < off + n then .trap c cLocalBounds (BitVec.ofNat 64 off) 0
  else checkParts s r c k (pageParts (localRegion s r c + BitVec.ofNat 64 (4 * l.desc.l + off)) n)

/-! ## Scratchpad and stash (R114, R115, R124) -/

/-- The stash entry that maps a scratchpad offset. -/
def stashEntryAt (tc : TeamCore) (off : Nat) : Option StashEntry :=
  tc.stash.find? fun e => e.sbase ≤ off && off < e.sbase + e.len
def stashLineAt (tc : TeamCore) (off : Nat) : Option StashLine := tc.stashLines.find? (·.off == off / 128 * 128)

/-- R269, R115: the fill that an access at `off` needs, if any, finds no fault. -/
def stashReady (s : State) (r : Run) (c off : Nat) : Res (Option Nat) :=
  let tc := getCore s r.team
  match stashEntryAt tc off with
  | none => .ok none
  | some e =>
    if (stashLineAt tc off).isSome then .ok none else
    let va := e.gbase + BitVec.ofNat 64 (off / 128 * 128 - e.sbase)
    match checkGlobal s (envOf s r) .stash false false 1 va with
    | .miss page => .miss page
    | .wait => .stall
    | .fault cause _ => .trap c cause (e.gbase + BitVec.ofNat 64 (off - e.sbase)) 0
    | .ok pa _ => .ok (some pa)

/-- The sectors of the line at `pa` as a team sees them, each with whether it is poison. -/
def lineSectors (s : State) (tid pa : Nat) : State × List (List Byte × Bool) :=
  (List.range 4).foldl (fun (x : State × List (List Byte × Bool)) b =>
    let (s, bs, p) := viewRead x.1 tid (pa + 32 * b) 32
    (s, x.2 ++ [(bs, p.isSome)])) (s, [])

/-- R114, R118: the line at `pa` fills the stash line at `base`, whose team then owns it. -/
def fillStash (s : State) (tid base pa : Nat) : State :=
  let s := l2Touch s (getTeam s tid).part pa 0
  let (s, secs) := lineSectors s tid pa
  let s := match landing s pa with
    | none => s
    | some p => reachBacking s p 128 true
  let bad := (List.range 4).filter fun b => (secs.getD b ([], false)).2
  modCore (dropScratch (dropCopies s pa 128 none) tid base 128) tid fun tc => { tc with
    scratch := writeBytes tc.scratch base (secs.flatMap Prod.fst)
    scratchPoison := (bad.map (base / 32 + ·)).foldl setAdd (tc.scratchPoison.filter fun x => x / 4 != base / 128)
    stashLines := tc.stashLines ++ [{ off := base, pa := pa / 128 * 128, dirty := false }] }

/-- R114: the first access to a line of a mapped range fills it; a fill that faults faults the access (R115). -/
def touchStash (s : State) (r : Run) (c off : Nat) : Res State :=
  (stashReady s r c off).map fun x => match x with
    | none => s
    | some pa => fillStash s r.team (off / 128 * 128) pa

/-- The fills that [off, off+n) needs find no fault. -/
def stashRangeReady (s : State) (r : Run) (c off n : Nat) : Res Unit :=
  (forLanes (linesOf off n) fun line => stashReady s r c (max off line)).map fun _ => ()
/-- Fills every stash line that [off, off+n) touches. -/
def touchStashRange (s : State) (r : Run) (c off n : Nat) : Res State :=
  (linesOf off n).foldl (fun acc line => acc.andThen fun s => touchStash s r c (max off line)) (.ok s)

def scratchBytes (tc : TeamCore) (off n : Nat) : List Byte := readBytes tc.scratch off n
/-- Writes scratchpad bytes: a whole poisoned sector is cleaned, a touched stash line becomes dirty. -/
def scratchWrite (tc : TeamCore) (off : Nat) (bs : List Byte) : TeamCore :=
  { tc with
    scratch := writeBytes tc.scratch off bs
    scratchPoison := clearPoison tc.scratchPoison off bs.length
    stashLines := tc.stashLines.map fun l =>
      if l.off < off + bs.length && off < l.off + 128 then
        { l with dirty := true, mask := l.mask ||| (2 ^ (min (off + bs.length) (l.off + 128) - l.off) - 2 ^ (max off l.off - l.off)) }
      else l }
/-- Scratchpad bytes of a team are written, and copies of them are no longer valid (R107). -/
def writeScratch (s : State) (tid off : Nat) (bs : List Byte) : State :=
  dropScratch (modCore s tid fun tc => scratchWrite tc off bs) tid off bs.length

/-! ## Loads (R273 to R276) -/

/-- R273: the words of a loaded value. -/
def loadWords (bytes : Nat) (sx : Bool) (v : Nat) : List Word :=
  if bytes ≤ 4 then [if sx then BitVec.ofInt 32 (sextNat v (8 * bytes)) else BitVec.ofNat 32 v] else wordsOf (bytes / 4) v

/-- What a load is: destination, bytes, extension, policy. -/
structure LoadOp where
  d : Dst
  bytes : Nat
  sx : Bool
  pol : Nat
  deriving DecidableEq, Repr

/-- Words that a load of `bytes` bytes gives (R273). -/
def loadCount (bytes : Nat) : Nat := if bytes ≤ 4 then 1 else bytes / 4

/-- The start of the poisoned sector that a value at `a` read, as an address in its own space (R124). -/
def sectorAddr (a : Dword) (pa sec : Nat) : Dword := a - BitVec.ofNat 64 pa + BitVec.ofNat 64 (32 * sec)

/-- R191: LDC or another counter has room for one more, where anything counts in it. -/
def roomFor (s : State) (r : Run) (c : Ctr) (any : Bool) : Res Unit :=
  Res.unless (!any || (getGroup s r.team r.grp).ctr c < 63)

/-- One performed part of a load: lane, address for records, bytes and poison. -/
structure Loaded where
  lane : Nat
  addr : Dword
  bytes : List Byte
  poison : Option Dword
  deriving DecidableEq, Repr

/-- R75, R191: the pending entries of a load and its operation; lanes not listed push their old destination. -/
def finishLoad (s : State) (r : Run) (o : LoadOp) (got : List Loaded) : State :=
  let id := s.nextId
  let n := loadCount o.bytes
  let s := r.lanes.foldl (fun s c =>
    if got.any (·.lane == c) then deliver s r c o.d ((List.range n).map (Cell.pend id)) else pushOld s r c o.d n) s
  if got.isEmpty then s else
  let fills := got.map fun g =>
    { who := r.who g.lane, words := loadWords o.bytes o.sx (bytesNat g.bytes), poison := g.poison, addr := g.addr,
      bytes := o.bytes }
  raiseCtr (addOp s r.team r.grp r.pc (r.nameOf r.lowest) (.load fills)) r.team r.grp .ld

/-- R431: a load of the port B window is past issue, as part of the next operation. -/
def noteWindow (s : State) (who : Who) (pa : Nat) : State :=
  if targetOf s pa == .portB then { s with window := s.window ++ [⟨s.nextId, some who, pa, []⟩] } else s

/-- R273: a global load; `addr` gives a lane's address, none where its guard is false. DESIGN CHOICE: log entry 7. -/
def globalLoad (s : State) (r : Run) (o : LoadOp) (addr : Nat → Res (Option Dword)) : Res State :=
  (dstAllowed s r o.d false).andThen fun _ =>
    (forLanes r.lanes fun c => (addr c).andThen fun x => match x with
      | none => (oldReady s r c o.d (loadCount o.bytes)).map fun _ => none
      | some a =>
        let a := a + BitVec.ofInt 64 (repShift s r o.bytes)
        (checkLane s r c .load (o.pol == 3) false o.bytes a).map fun p => some (a, p.1)).andThen fun accs =>
      (roomFor s r .ld (accs.any (·.2.isSome))).map fun _ =>
        let s := usePages s (envOf s r) (accs.filterMap fun x => x.2.map Prod.fst)
        let (s, got) := accs.foldl (fun (x : State × List Loaded) acc =>
          match acc.2 with
          | none => x
          | some (a, pa) =>
            let (s, bs, p) := readFor x.1 r pa o.bytes o.pol
            let s := noteWindow s (r.who acc.1) pa
            (s, x.2 ++ [⟨acc.1, a, bs, p.map (sectorAddr a pa)⟩])) (s, [])
        finishLoad s r o got

/-- R213: the address of an MU access. -/
def muAddr (s : State) (r : Run) (kp : Fin 16) (ix : Fin 32) (x : Bool) (imm : BitVec 5) (size : Nat) (c : Nat) : Res Dword :=
  (readPairK s r c kp).andThen fun base => (readCell c (laneN s r c ix.val)).map fun i =>
    base + BitVec.ofInt 64 ((if x then i.toInt else (i.toNat : Int)) * size + imm.toNat * size)
/-- R213: the address of an MP access, none under a false guard. -/
def mpAddr (s : State) (r : Run) (np : Fin 16) (imm : BitVec 5) (size : Nat) (g : Guard) (c : Nat) : Res (Option Dword) :=
  (guardTrue s r c g).andThen fun yes =>
    if yes then (readPairN s r c np).map fun base => some (base + BitVec.ofInt 64 (imm.toInt * size)) else .ok none

def loadMu (s : State) (r : Run) (o : MuLd) (bytes : Nat) (sx : Bool) : Res State :=
  globalLoad s r ⟨o.d, bytes, sx, policyNum o.pol⟩ fun c => (muAddr s r o.kp o.ix o.x o.imm bytes c).map some
def loadMp (s : State) (r : Run) (o : MpLd) (bytes : Nat) (sx : Bool) : Res State :=
  globalLoad s r ⟨o.d, bytes, sx, policyNum o.pol⟩ (mpAddr s r o.np o.imm bytes o.g)

/-- R273. -/
def execLdbMu (o : MuLd) (s : State) : Host.Outcome State Fault Refusal :=
  attempt s fun s r => loadMu s r o 1 true
/-- R273. -/
def execLdbzMu (o : MuLd) (s : State) : Host.Outcome State Fault Refusal :=
  attempt s fun s r => loadMu s r o 1 false
/-- R273. -/
def execLdhMu (o : MuLd) (s : State) : Host.Outcome State Fault Refusal :=
  attempt s fun s r => loadMu s r o 2 true
/-- R273. -/
def execLdhzMu (o : MuLd) (s : State) : Host.Outcome State Fault Refusal :=
  attempt s fun s r => loadMu s r o 2 false
/-- R273. -/
def execLdwMu (o : MuLd) (s : State) : Host.Outcome State Fault Refusal :=
  attempt s fun s r => loadMu s r o 4 false
/-- R273. -/
def execLddMu (o : MuLd) (s : State) : Host.Outcome State Fault Refusal :=
  attempt s fun s r => loadMu s r o 8 false
/-- R273. -/
def execLdqMu (o : MuLd) (s : State) : Host.Outcome State Fault Refusal :=
  attempt s fun s r => loadMu s r o 16 false
/-- R273. -/
def execLdbMp (o : MpLd) (s : State) : Host.Outcome State Fault Refusal :=
  attempt s fun s r => loadMp s r o 1 true
/-- R273. -/
def execLdbzMp (o : MpLd) (s : State) : Host.Outcome State Fault Refusal :=
  attempt s fun s r => loadMp s r o 1 false
/-- R273. -/
def execLdhMp (o : MpLd) (s : State) : Host.Outcome State Fault Refusal :=
  attempt s fun s r => loadMp s r o 2 true
/-- R273. -/
def execLdhzMp (o : MpLd) (s : State) : Host.Outcome State Fault Refusal :=
  attempt s fun s r => loadMp s r o 2 false
/-- R273. -/
def execLdwMp (o : MpLd) (s : State) : Host.Outcome State Fault Refusal :=
  attempt s fun s r => loadMp s r o 4 false
/-- R273. -/
def execLddMp (o : MpLd) (s : State) : Host.Outcome State Fault Refusal :=
  attempt s fun s r => loadMp s r o 8 false
/-- R273. -/
def execLdqMp (o : MpLd) (s : State) : Host.Outcome State Fault Refusal :=
  attempt s fun s r => loadMp s r o 16 false
/-- R274: loads once for the group, and pushes nothing. In a crew body the code names an h register, which the value enters
in each active member (DEDUCED, log entry 13). -/
def execLdk (o : LdkFmt) (s : State) : Host.Outcome State Fault Refusal :=
  attempt s fun s r =>
    let body := (laneTh s r r.lowest).inBody
    (dstAllowed s r o.d true).andThen fun _ => (readPairK s r r.lowest o.kp).andThen fun base =>
      let a := base + BitVec.ofNat 64 (o.imm.toNat * 4) + BitVec.ofInt 64 (repShift s r 4)
      (checkLane s r r.lowest .load (o.pol == .sys) false 4 a).andThen fun p => (roomFor s r .ld true).map fun _ =>
        let whos := if body then r.lanes.map r.who else [.group]
        let s := usePage s (envOf s r) a
        let (s, bs, po) := readFor s r p.1 4 (policyNum o.pol)
        let s := whos.foldl (fun s w => noteWindow s w p.1) s
        let id := s.nextId
        let s := if body then r.lanes.foldl (fun s c => writeDst s r c o.d 0 (.pend id 0)) s else writeK s r o.d [.pend id 0]
        let fills := whos.map fun w => ({ who := w, words := loadWords 4 false (bytesNat bs),
                                          poison := po.map (sectorAddr a p.1), addr := a, bytes := 4 } : Fill)
        raiseCtr (addOp s r.team r.grp r.pc (r.nameOf r.lowest) (.load fills)) r.team r.grp .ld
/-- R275: LDW that is an acquire. -/
def execLdacq (o : MpLd) (s : State) : Host.Outcome State Fault Refusal :=
  attempt s fun s r => loadMp s r o 4 false

/-! ## Stores (R273, R275, R276) -/

/-- The bytes that a store of `n` bytes takes from its data operand (R273). -/
def storeData (s : State) (r : Run) (c : Nat) (a : Src) (n : Nat) : Res (List Byte) :=
  (readSrcs s r c a (if n ≤ 4 then 1 else n / 4)).map fun ws => (ws.flatMap fun w => natBytes 4 w.toNat).take n

/-- R124: the sectors that ranges of bytes, written by the threads of one instruction, cover together. -/
def wholeSectors (ranges : List (Nat × Nat)) : List Nat :=
  ((ranges.flatMap fun x => sectorsOf x.1 x.2).foldl setAdd []).filter fun sec =>
    (List.range 32).all fun i => ranges.any fun x => x.1 ≤ 32 * sec + i && 32 * sec + i < x.1 + x.2
/-- R124: the scratchpad sectors that the threads of one instruction together overwrite are no longer poison. -/
def cleanScratch (s : State) (tid : Nat) (ranges : List (Nat × Nat)) : State :=
  let whole := wholeSectors ranges
  modCore s tid fun tc => { tc with scratchPoison := tc.scratchPoison.filter fun sec => !whole.contains sec }
/-- R273: a global store; `rel` tells a release (R148, R411). DESIGN CHOICE: log entry 7. -/
def globalStore (s : State) (r : Run) (a : Src) (n pol sc : Nat) (rel : Bool) (addr : Nat → Res (Option Dword)) :
    Res State :=
  (dataAllowed s r a).andThen fun _ =>
  (forLanes r.lanes fun c => (addr c).andThen fun x => match x with
    | none => .ok none
    | some va =>
      let va := va + BitVec.ofInt 64 (repShift s r n)
      (storeData s r c a n).andThen fun bs =>
        (checkLane s r c .store (pol == 3) false n va).map fun p => some (va, p.1, bs)).andThen fun accs =>
    let live := accs.filterMap fun x => x.2.map fun y => (x.1, y)
    (roomFor s r .st (!live.isEmpty)).andThen fun _ =>
      (needCommit s r (live.any fun x => (rel && 2 ≤ sc) || uncached s x.2.2.1 pol)).andThen fun _ =>
        if live.isEmpty then .ok s else
        let s := if rel && !hasItems s r.team then restartWatchdog (spendGrant s r) r.team else spendGrant s r
        let s := usePages s (envOf s r) (live.map (·.2.1))
        let op := s.nextId
        let s := raiseCtr (addOp s r.team r.grp r.pc (r.nameOf r.lowest) (.store [])) r.team r.grp .st
        let whole := wholeSectors (live.map fun x => (x.2.2.1, x.2.2.2.length))
        (eachDo live s fun s x => storeOne s r x.1 x.2.1 x.2.2.1 x.2.2.2 sc pol rel true op whole).map fun s =>
          if hasItems s r.team then s else cleanSectors s whole

def storeMu (s : State) (r : Run) (o : MuSt) (n : Nat) : Res State :=
  globalStore s r o.a n (policyNum o.pol) (scopeNum o.sc) false fun c => (muAddr s r o.kp o.ix o.x o.imm n c).map some
def storeMp (s : State) (r : Run) (o : MpSt) (n : Nat) (rel : Bool) : Res State :=
  globalStore s r o.a n (policyNum o.pol) (scopeNum o.sc) rel (mpAddr s r o.np o.imm n o.g)

/-- R273. -/
def execStbMu (o : MuSt) (s : State) : Host.Outcome State Fault Refusal :=
  attempt s fun s r => storeMu s r o 1
/-- R273. -/
def execStbMp (o : MpSt) (s : State) : Host.Outcome State Fault Refusal :=
  attempt s fun s r => storeMp s r o 1 false
/-- R273. -/
def execSthMu (o : MuSt) (s : State) : Host.Outcome State Fault Refusal :=
  attempt s fun s r => storeMu s r o 2
/-- R273. -/
def execSthMp (o : MpSt) (s : State) : Host.Outcome State Fault Refusal :=
  attempt s fun s r => storeMp s r o 2 false
/-- R273. -/
def execStwMu (o : MuSt) (s : State) : Host.Outcome State Fault Refusal :=
  attempt s fun s r => storeMu s r o 4
/-- R273. -/
def execStwMp (o : MpSt) (s : State) : Host.Outcome State Fault Refusal :=
  attempt s fun s r => storeMp s r o 4 false
/-- R273. -/
def execStdMu (o : MuSt) (s : State) : Host.Outcome State Fault Refusal :=
  attempt s fun s r => storeMu s r o 8
/-- R273. -/
def execStdMp (o : MpSt) (s : State) : Host.Outcome State Fault Refusal :=
  attempt s fun s r => storeMp s r o 8 false
/-- R273. -/
def execStqMu (o : MuSt) (s : State) : Host.Outcome State Fault Refusal :=
  attempt s fun s r => storeMu s r o 16
/-- R273. -/
def execStqMp (o : MpSt) (s : State) : Host.Outcome State Fault Refusal :=
  attempt s fun s r => storeMp s r o 16 false
/-- R275: STW that is a release. -/
def execStrel (o : MpSt) (s : State) : Host.Outcome State Fault Refusal :=
  attempt s fun s r => storeMp s r o 4 true

/-! ## Scratchpad and local memory (R276) -/

/-- R213: the offset of an S access, with what REP adds. -/
def sOffset (s : State) (r : Run) (base : Src) (imm : BitVec 7) (n : Nat) (c : Nat) : Res Nat :=
  (readSrc s r c base).map fun b => (b + BitVec.ofInt 32 (imm.toInt * n) + BitVec.ofInt 32 (repShift s r n)).toNat

/-- Fills the stash lines of every lane's access. -/
def touchAll (s : State) (r : Run) (accs : List (Nat × Nat)) (n : Nat) : Res State :=
  accs.foldl (fun acc x => acc.andThen fun s => touchStashRange s r x.1 x.2 n) (.ok s)

/-- A scratchpad read with the poisoned sector it meets, by its offset. -/
def scratchLoad (s : State) (r : Run) (off n : Nat) : List Byte × Option Dword :=
  let tc := getCore s r.team
  (scratchBytes tc off n, (poisonIn tc.scratchPoison off n).map fun sec => BitVec.ofNat 64 (32 * sec))

def sizeSx : SSize → Bool
  | .b | .h => true
  | _ => false

/-- R276. -/
def execLds (o : SLd) (s : State) : Host.Outcome State Fault Refusal :=
  attempt s fun s r =>
    let n := o.size.bytes
    (dstAllowed s r o.d false).andThen fun _ =>
      (forLanes r.lanes fun c => (sOffset s r o.base o.imm n c).andThen fun off =>
        (checkScratch s r c off n n).andThen fun _ => (stashRangeReady s r c off n).map fun _ => off).andThen fun accs =>
        (touchAll s r accs n).andThen fun s => (roomFor s r .ld true).map fun _ =>
          finishLoad s r ⟨o.d, n, sizeSx o.size, 0⟩ (accs.map fun x =>
            let (bs, p) := scratchLoad s r x.2 n
            ⟨x.1, BitVec.ofNat 64 x.2, bs, p⟩)
/-- Reads the parts of a local access, with the first poisoned sector. -/
def readParts (s : State) (r : Run) (c : Nat) : List LocalPart → State × List Byte × Option Dword
  | [] => (s, [], none)
  | x :: rest =>
    let (s, bs, p) := readFor s r x.pa x.n 0
    let s := noteWindow s (r.who c) x.pa
    let (s, more, q) := readParts s r c rest
    (s, bs ++ more, (p.map (sectorAddr x.va x.pa)).orElse fun _ => q)
/-- Writes the parts of a local access, which no other agent but through memory can tell from one store. -/
def storeParts (s : State) (r : Run) (c sc op : Nat) (whole : List Nat) : List LocalPart → List Byte → Res State
  | [], _ => .ok s
  | x :: rest, bs => (storeOne s r c x.va x.pa (bs.take x.n) sc 0 false false op whole).andThen fun s =>
      storeParts s r c sc op whole rest (bs.drop x.n)

/-- R103, R276. -/
def execLdl (o : SLd) (s : State) : Host.Outcome State Fault Refusal :=
  attempt s fun s r =>
    let n := o.size.bytes
    (dstAllowed s r o.d false).andThen fun _ =>
      (forLanes r.lanes fun c => (sOffset s r o.base o.imm n c).andThen fun off =>
        (checkLocal s r c .load off n).map fun x => (off, x)).andThen fun accs =>
        (roomFor s r .ld true).map fun _ =>
          let s := usePages s (envOf s r) (accs.flatMap fun x => x.2.2.map (·.va))
          let (s, got) := accs.foldl (fun (x : State × List Loaded) acc =>
            let (s, bs, p) := readParts x.1 r acc.1 acc.2.2
            (s, x.2 ++ [⟨acc.1, BitVec.ofNat 64 acc.2.1, bs, p⟩])) (s, [])
          finishLoad s r ⟨o.d, n, sizeSx o.size, 0⟩ got
/-- R276. -/
def execSts (o : SSt) (s : State) : Host.Outcome State Fault Refusal :=
  attempt s fun s r =>
    let n := o.size.bytes
    (forLanes r.lanes fun c => (sOffset s r o.base o.imm n c).andThen fun off =>
      (storeData s r c o.a n).andThen fun bs => (checkScratch s r c off n n).andThen fun _ =>
        (stashRangeReady s r c off n).map fun _ => (off, bs)).andThen fun accs =>
      (touchAll s r (accs.map fun x => (x.1, x.2.1)) n).andThen fun s => (roomFor s r .st true).map fun _ =>
        let s := accs.foldl (fun s x => noteEffect (writeScratch s r.team x.2.1 x.2.2) r x.1 (10, n, BitVec.ofNat 64 x.2.1, 0)) s
        let s := cleanScratch s r.team (accs.map fun x => (x.2.1, n))
        raiseCtr (addOp s r.team r.grp r.pc (r.nameOf r.lowest) (.store [])) r.team r.grp .st
/-- R103, R276: a local store is a store to global memory, also in what it forces (R148). -/
def execStl (o : SSt) (s : State) : Host.Outcome State Fault Refusal :=
  attempt s fun s r =>
    let n := o.size.bytes
    (forLanes r.lanes fun c => (sOffset s r o.base o.imm n c).andThen fun off =>
      (storeData s r c o.a n).andThen fun bs => (checkLocal s r c .store off n).map fun x => (x, bs)).andThen fun accs =>
      (roomFor s r .st true).andThen fun _ =>
        (needCommit s r (accs.any fun x => x.2.1.any fun y => uncached s y.pa 0)).andThen fun _ =>
          let s := usePages (spendGrant s r) (envOf s r) (accs.flatMap fun x => x.2.1.map (·.va))
          let op := s.nextId
          let s := raiseCtr (addOp s r.team r.grp r.pc (r.nameOf r.lowest) (.store [])) r.team r.grp .st
          let whole := wholeSectors (accs.flatMap fun x => x.2.1.map fun y => (y.pa, y.n))
          (eachDo accs s fun s x => storeParts s r x.1 (scopeNum o.sc) op whole x.2.1 x.2.2).map fun s =>
            if hasItems s r.team then s else cleanSectors s whole

/-! ## Atomics (R281 to R286, R401, R402) -/

def ordNum : MemOrd → Nat
  | .none => 0
  | .acq => 1
  | .rel => 2
  | .both => 3

/-- The operand of an atomic: 64 bits for a 64-bit aop and for CAS. -/
def atomOperand (s : State) (r : Run) (c : Nat) (v : Src) (wide : Bool) : Res Dword :=
  if wide then readSrc64 s r c v else (readSrc s r c v).map fun w => w.setWidth 64

/-- The request of one thread. -/
structure AtomAcc where
  lane : Nat
  va : Dword
  pa : Nat
  sa : Bool
  v : Dword
  deriving DecidableEq, Repr

/-- R269, R281: the address and operand of one thread. -/
def atomAcc (s : State) (r : Run) (np : Fin 16) (v : Src) (wide : Bool) (n : Nat) (k : AccKind) (p : Bool) (c : Nat) :
    Res AtomAcc :=
  (readPairN s r c np).andThen fun a =>
    let a := a + BitVec.ofInt 64 (repShift s r n)
    (atomOperand s r c v wide).andThen fun x => (checkLane s r c k p false n a).map fun y => ⟨c, a, y.1, y.2, x⟩
/-- R269, R281: addresses and operands of the active threads. -/
def atomAccs (s : State) (r : Run) (np : Fin 16) (v : Src) (wide : Bool) (n : Nat) (k : AccKind) (p : Bool) :
    Res (List AtomAcc) :=
  (forLanes r.lanes (atomAcc s r np v wide n k p)).map (·.map Prod.snd)

/-- R402: a team reads BASE and STRIDE at its first reservation on a record; the answer is the poisoned sector that it met
instead, if any. -/
def openRecord (s : State) (r : Run) (x : AtomAcc) : State × Option Dword :=
  let t := getTeam s r.team
  let gs := t.body.groups.length
  if t.resv.any (·.pa == x.pa) then (s, none) else
  let (s, bs, bad) := viewRead s r.team x.pa 8
  if bad.isSome then (s, some (x.va &&& 0xFFFFFFFFFFFFFFE0#64)) else
  let v : Reservation :=
    { pa := x.pa, base := BitVec.ofNat 32 (bytesNat (bs.take 4)), stride := BitVec.ofNat 32 (bytesNat (bs.drop 4)),
      sums := List.replicate gs 0, flushed := List.replicate gs 0 }
  (modTeam s r.team fun t => { t with resv := t.resv ++ [v] }, none)
/-- R286, R402: the reservation of one thread: its value, or the poison that it consumed (R271), and the record with the
group's sum raised. -/
def reserveOne (s : State) (r : Run) (x : AtomAcc) : Res (State × Word × Option Dword) :=
  let t := getTeam s r.team
  let gs := t.body.groups.length
  let (s, bad) := openRecord s r x
  match (getTeam s r.team).resv.find? (·.pa == x.pa) with
  | none => .ok (s, 0, bad)
  | some rv =>
    let q := rv.stride.toNat / gs
    let p := rv.sums.getD r.grp 0
    let v := (x.v.setWidth 32 : Word).toNat
    if q < p + v then .trap x.lane cReservation x.va (BitVec.ofNat 32 (p + v))
    else
      let old := rv.base + BitVec.ofNat 32 (t.idx * rv.stride.toNat + r.grp * q + p)
      .ok (modTeam s r.team fun t => { t with resv := t.resv.map fun y =>
        if y.pa = x.pa then { y with sums := listSet y.sums r.grp (p + v) } else y }, old, none)

/-- R286, R402: the reservations of the active threads in ascending order, each with its checks, so that the lowest thread that
faults gives the fault (R406); and what their entries receive. -/
def reserveAll (s : State) (r : Run) (np : Fin 16) (v : Src) (p : Bool) : Res (State × List (AtomAcc × Fill)) :=
  r.lanes.foldl (fun acc c => acc.andThen fun y =>
    (atomAcc y.1 r np v false 16 (.atomic (some .add) false) p c).andThen fun x => (reserveOne y.1 r x).map fun z =>
      (z.1, y.2 ++ [(x, { who := r.who c, words := [z.2.1], poison := z.2.2, addr := x.va, bytes := 4, atomic := true })]))
    (.ok (s, []))
/-- R402: a reservation completes at issue, its values on their way. -/
def reserve (s : State) (r : Run) (d : Dst) (np : Fin 16) (v : Src) (ord : MemOrd) (sc : Scope) (p : Bool) : Res State :=
  (reserveAll s r np v p).andThen fun y => (roomFor s r .ld true).andThen fun _ =>
    (needCommit s r (ordReleases (ordNum ord) && 2 ≤ scopeNum sc)).map fun _ =>
      let id := y.1.nextId
      let s := usePages (spendGrant y.1 r) (envOf y.1 r) (y.2.map (·.1.va))
      let s := if ordReleases (ordNum ord) then restartWatchdog s r.team else s
      let s := y.2.foldl (fun s x => deliver s r x.1.lane d [.pend id 0]) s
      raiseCtr (addOp s r.team r.grp r.pc (r.nameOf r.lowest) (.load (y.2.map Prod.snd))) r.team r.grp .ld

/-- R282, R283: the pending entries of a returning atomic, and its operation, before the accesses are performed. -/
def atomPending (s : State) (r : Run) (d : Dst) (n : Nat) (accs : List AtomAcc) (ret : Bool) : State :=
  let id := s.nextId
  if ret then
    let s := accs.foldl (fun s x => deliver s r x.lane d ((List.range (n / 4)).map (Cell.pend id))) s
    raiseCtr (addOp s r.team r.grp r.pc (r.nameOf r.lowest) (.held (accs.map fun x =>
      { who := r.who x.lane, words := [], poison := none, addr := x.va, bytes := n, atomic := true }))) r.team r.grp .ld
  else
    raiseCtr (addOp s r.team r.grp r.pc (r.nameOf r.lowest) (.store (accs.map fun x =>
      { who := r.who x.lane, words := [], poison := none, addr := x.va, bytes := n, atomic := true }))) r.team r.grp .st

/-- Operands of one instruction's threads that name one location, summed: the first thread, the others, and the sum. -/
structure PartSum where
  first : AtomAcc
  more : List AtomAcc
  v : Dword
  deriving DecidableEq, Repr
def AtomAcc.alone (x : AtomAcc) : PartSum := ⟨x, [], x.v⟩
def PartSum.join (a b : PartSum) : PartSum :=
  ⟨a.first, a.more ++ b.first :: b.more, (addF (a.v.setWidth 32) (b.v.setWidth 32)).setWidth 64⟩
/-- R144, R282, R284: the updates of one location in an order of the K7's choice, as the free choices of operation `op`
say: with `join`, two operands or sums may be added first, and all become one with `one`. The first argument bounds the
steps, and `k` numbers them. DESIGN CHOICE: log entry 8. -/
def freeSums (op : Nat) (join one : Bool) : Nat → Nat → List PartSum → List PartSum
  | 0, _, l => l
  | f + 1, k, l =>
    if l.length < 2 then l else
    match l[Config.sumPick op (3 * k) % l.length]? with
    | none => l
    | some a =>
      let rest := l.eraseIdx (Config.sumPick op (3 * k) % l.length)
      if !one && (!join || Config.sumPick op (3 * k + 2) % 2 == 0) then a :: freeSums op join one f (k + 1) rest
      else match rest[Config.sumPick op (3 * k + 1) % rest.length]? with
        | none => l
        | some b => freeSums op join one f (k + 1) (a.join b :: rest.eraseIdx (Config.sumPick op (3 * k + 1) % rest.length))
/-- The distinct locations of accesses, in thread order. -/
def locations : List AtomAcc → List Nat
  | [] => []
  | x :: rest => x.pa :: (locations rest).filter (· != x.pa)
/-- R144, R282: the threads of one instruction that name one location are served in an order of the K7's choice, but for
.FADD, and where integrity or deterministic mode orders them; .FADD.RA groups them where memory serves them at issue
(log entry 8). -/
def servesFreely (s : State) (r : Run) (aop : Aop) (accs : List AtomAcc) : Bool :=
  aop != .fadd && !(teamLaunch s r.team).kernel.det && !hasItems s r.team &&
  accs.all fun x => !firmwareOf s (homeCluster x.pa)
/-- The updates of one location in the order, and the sums, that the K7 chooses. -/
def chosenOrder (s : State) (aop : Aop) (one : Bool) (here : List AtomAcc) : List PartSum :=
  freeSums s.nextId (aop == .faddRa) one here.length (64 * (here.map (·.lane)).headD 0) (here.map AtomAcc.alone)
/-- The updates that an instruction's threads make: one each, or one for each partial sum. Updates that commute are made
in thread order, which no agent can tell from another. DESIGN CHOICE: log entry 8. -/
def partSums (s : State) (r : Run) (aop : Aop) (cas one : Bool) (accs : List AtomAcc) : List PartSum :=
  if servesFreely s r aop accs && (cas || aop == .faddRa || aop == .swap || aop == .swap64) then
    (locations accs).flatMap fun pa => chosenOrder s aop one (accs.filter (·.pa == pa))
  else accs.map AtomAcc.alone
/-- The value found by lane `c` where updates of a location that holds `v` are made in an order. -/
def foundBy (aop : Aop) (c : Nat) : Dword → List PartSum → Dword
  | v, [] => v
  | v, y :: rest => if y.first.lane = c then v else foundBy aop c (atomicNew aop false v y.v) rest
/-- The value that a thread's commuting update returns where other threads name its location: the one it finds in the
order that the K7 chooses. DESIGN CHOICE: log entry 8. -/
def foundFreely (s : State) (r : Run) (aop : Aop) (cas : Bool) (accs : List AtomAcc) (x : AtomAcc) : Option Dword :=
  let here := accs.filter (·.pa == x.pa)
  if servesFreely s r aop accs && !(cas || aop == .faddRa || aop == .swap || aop == .swap64) && 1 < here.length then
    let v : Dword := BitVec.ofNat 64 (bytesNat (homeRead s x.pa (aopBytes aop) none).2.1)
    some (foundBy aop x.lane v (chosenOrder s aop false here))
  else none

/-- R282, R283: ATOM and CAS. In deterministic mode a returning ATOM.ADD is a reservation (R402). -/
def atomic (s : State) (r : Run) (d : Dst) (np : Fin 16) (v : Src) (aop : Aop) (cas : Bool) (ord : MemOrd) (sc : Scope)
    (p : Bool) : Res State :=
  let ret := d != .push
  let n := aopBytes aop
  let det := (teamLaunch s r.team).kernel.det
  (dstAllowed s r d false).andThen fun _ =>
    if det && ret && !cas && aop == .add then reserve s r d np v ord sc p else
    (atomAccs s r np v (cas || aop.is64) n (.atomic (if cas then none else some aop) false) p).andThen
      fun accs =>
        (roomFor s r (if ret then .ld else .st) true).andThen fun _ =>
          (needCommit s r (!det || (ordReleases (ordNum ord) && 2 ≤ scopeNum sc))).andThen fun _ =>
            let s := usePages (spendGrant s r) (envOf s r) (accs.map (·.va))
            let id := s.nextId
            let s0 := s
            (partSums s r aop cas false accs).foldl (fun acc y => acc.andThen fun s =>
              let x := y.first
              atomOne s r (x.lane :: y.more.map (·.lane))
                { aop := aop, cas := cas, pa := x.pa, va := x.va, v := y.v, op := id, who := r.who x.lane, ret := ret,
                  also := y.more.map (fun z => r.who z.lane),
                  gives := if ret then foundFreely s0 r aop cas accs x else none } (ordNum ord) (scopeNum sc) p x.sa
                (if ret then (if cas then 1 else 0) else 3)) (.ok (atomPending s r d n accs ret))

/-- R282. -/
def execAtom (o : AtomFmt) (s : State) : Host.Outcome State Fault Refusal :=
  attempt s fun s r => atomic s r o.d o.np o.v o.aop false o.ord o.sc o.p
/-- R283. -/
def execCas (o : CasFmt) (s : State) : Host.Outcome State Fault Refusal :=
  attempt s fun s r => atomic s r o.d o.np o.v .add true o.ord o.sc o.p

/-- R284: threads that name one location are combined first, in ascending thread index. -/
def ascendingSums (aop : Aop) : List AtomAcc → List PartSum
  | [] => []
  | x :: rest =>
    let same := rest.filter (·.pa == x.pa)
    ⟨x, same, same.foldl (fun v y => atomicNew aop false v y.v) x.v⟩ :: (ascendingSums aop rest).filter (·.first.pa != x.pa)

/-- R284: a RED's combinations: with .FADD.RA the core's grouping is free. DESIGN CHOICE: log entry 8. -/
def combineAccs (s : State) (r : Run) (aop : Aop) (accs : List AtomAcc) : List PartSum :=
  if aop == .faddRa && servesFreely s r aop accs then partSums s r aop false true accs else ascendingSums aop accs

/-- R284: one update per distinct location, of every thread whose operand it holds (R409). The lowest of them takes its report.
DESIGN CHOICE: log entry 122. -/
def execRed (o : RedMemFmt) (s : State) : Host.Outcome State Fault Refusal :=
  attempt s fun s r =>
    let n := aopBytes o.aop
    let det := (teamLaunch s r.team).kernel.det
    (atomAccs s r o.np o.v o.aop.is64 n (.atomic (some o.aop) true) o.p).andThen fun accs =>
      (roomFor s r .st true).andThen fun _ => (needCommit s r (!det || (o.rel && 2 ≤ scopeNum o.sc))).andThen fun _ =>
        let s := usePages (spendGrant s r) (envOf s r) (accs.map (·.va))
        let id := s.nextId
        let sums := combineAccs s r o.aop accs
        let s := atomPending s r .push n accs false
        sums.foldl (fun acc y => acc.andThen fun s =>
          let x := y.first
          atomOne s r (x.lane :: y.more.map (·.lane))
            { aop := o.aop, cas := false, pa := x.pa, va := x.va, v := y.v, op := id, who := r.who x.lane, ret := false,
              also := y.more.map fun z => r.who z.lane } (if o.rel then 2 else 0) (scopeNum o.sc) o.p x.sa 2) (.ok s)

/-- R285: scratchpad atomics, per thread in ascending thread index, at issue in every mode. A poisoned sector is
consumed, and nothing is performed on it (R124). -/
def scratchAtomic (s : State) (r : Run) (d : Dst) (base v : Src) (aop : Aop) (cas : Bool) : Res State :=
  let ret := d != .push
  let n := aopBytes aop
  (dstAllowed s r d false).andThen fun _ =>
    (forLanes r.lanes fun c => (readSrc s r c base).andThen fun b =>
      let off := (b + BitVec.ofInt 32 (repShift s r n)).toNat
      (atomOperand s r c v (cas || aop.is64)).andThen fun x => (checkScratch s r c off n n).andThen fun _ =>
        (stashRangeReady s r c off n).map fun _ => (off, x)).andThen
      fun accs =>
        (touchAll s r (accs.map fun x => (x.1, x.2.1)) n).andThen fun s =>
          (roomFor s r (if ret then .ld else .st) true).map fun _ =>
            let id := s.nextId
            let (s, fills) := accs.foldl (fun (x : State × List Fill) a =>
              let (bs, po) := scratchLoad x.1 r a.2.1 n
              let old : Dword := BitVec.ofNat 64 (bytesNat bs)
              let s := if po.isSome then
                  (if ret then x.1 else addReport x.1 r.team r.grp (r.reporter a.1) ⟨cPoison, po.getD 0, r.pc.setWidth 32, .stc⟩)
                else noteEffect (writeScratch x.1 r.team a.2.1 (natBytes n (atomicNew aop cas old a.2.2).toNat)) r a.1 (11, n, BitVec.ofNat 64 a.2.1, old)
              (s, x.2 ++ [{ who := r.who a.1, words := if ret then wordsOf (n / 4) old.toNat else [], poison := po,
                            addr := BitVec.ofNat 64 a.2.1, bytes := n, atomic := true }])) (s, [])
            if ret then
              let s := accs.foldl (fun s a => deliver s r a.1 d ((List.range (n / 4)).map (Cell.pend id))) s
              raiseCtr (addOp s r.team r.grp r.pc (r.nameOf r.lowest) (.load fills)) r.team r.grp .ld
            else raiseCtr (addOp s r.team r.grp r.pc (r.nameOf r.lowest) (.store fills)) r.team r.grp .st

/-- R285. -/
def execAtoms (o : AtomsFmt) (s : State) : Host.Outcome State Fault Refusal :=
  attempt s fun s r => scratchAtomic s r o.d o.base o.v o.aop false
/-- R285. -/
def execCass (o : CassFmt) (s : State) : Host.Outcome State Fault Refusal :=
  attempt s fun s r => scratchAtomic s r o.d o.base o.v .add true

/-! ## Cache operations and fences (R278, R279) -/

/-- What a request that is no access has in place of a policy (R111, R278). -/
def noPolicy : Nat := 4
/-- R278: requests a line; it performs no access and never faults. -/
def execPref (a : Src) (l2 : Bool) (s : State) : Host.Outcome State Fault Refusal :=
  attempt s fun s r =>
    (forLanes r.lanes fun c => readSrc64 s r c a).map fun accs =>
      accs.foldl (fun s x =>
        match checkGlobal s (envOf s r) .load false false 1 x.2 with
        | .ok pa _ =>
          let t := getTeam s r.team
          if !cachedTarget (targetOf s pa) then s
          else if l2 then l2Touch s t.part pa noPolicy
          else cacheAccess s t.core (teamLaunch s r.team).ctx t.part pa noPolicy false
        | _ => s) s

/-- The checked lines of CFLUSH and CINV, which need the read right (R278). -/
def flushLines (s : State) (r : Run) (a : Src) : Res (List (Nat × (Dword × Nat))) :=
  forLanes r.lanes fun c => (readSrc64 s r c a).andThen fun va =>
    (checkLane s r c .load false false 1 va).map fun p => (va, p.1 / 128 * 128)

/-- R278: writes back dirty copies of a line in private caches and stashes; the copies stay, clean. With .SYS an aperture
line goes to its backing too. -/
def flushLine (s : State) (line : Nat) (toMemory : Bool) : State :=
  let s := { s with dcache := s.dcache.map fun x =>
    if x.line = line && x.st == .ownedDirty then { x with st := .ownedClean } else x }
  let s := (List.range s.teams.length).foldl (fun s tid =>
    match (getCore s tid).stashLines.find? fun l => l.pa == line && l.dirty with
    | none => s
    | some l => stashWriteBack s tid l) s
  if toMemory then (s.aper.filter fun l => l.line == line && l.dirty).foldl resplit s else s

/-- R278. -/
def execCflush (a : Src) (sc : Scope) (s : State) : Host.Outcome State Fault Refusal :=
  attempt s fun s r =>
    (flushLines s r a).andThen fun accs => (roomFor s r .st true).map fun _ =>
      let s := accs.foldl (fun s x => flushLine s x.2.2 (sc == .sys)) s
      raiseCtr (addOp s r.team r.grp r.pc (r.nameOf r.lowest) (.store [])) r.team r.grp .st
/-- R278: the line leaves the core's private cache, the instruction cache and the operand-buffer share; a pinned copy keeps
its space (R108). -/
def execCinv (a : Src) (s : State) : Host.Outcome State Fault Refusal :=
  attempt s fun s r =>
    (flushLines s r a).andThen fun accs => (roomFor s r .st true).map fun _ =>
      let core := (getTeam s r.team).core
      let s := accs.foldl (fun s x => { s with
        dcache := s.dcache.filter fun y => !(y.core == core && y.line == x.2.2)
        icache := s.icache.filter fun y => !(y.1 == core && y.2 == x.2.2)
        shares := (s.shares.filter fun y => !(y.core == core && y.line == x.2.2 && y.pins.isEmpty)).map fun y =>
          if y.core = core ∧ y.line = x.2.2 then { y with valid := false } else y }) s
      raiseCtr (addOp s r.team r.grp r.pc (r.nameOf r.lowest) (.store [])) r.team r.grp .st

/-- R279: under IL3 a fence at device or system scope first forces a commit (R148). DESIGN CHOICE: log entry 7. -/
def execFence (kind : FenceKind) (sc : Scope) (s : State) : Host.Outcome State Fault Refusal :=
  attempt s fun s r =>
    (needCommit s r (2 ≤ scopeNum sc)).map fun _ =>
      let s := if 2 ≤ scopeNum sc then spendGrant s r else s
      if kind == .acq then s else restartWatchdog s r.team

/-! ## Stash operations (R114, R183, R280) -/

/-- The stash entries of a core. -/
def coreStash (s : State) (core : Nat) : Nat :=
  (s.teams.filter fun t => t.core == core && t.holds).foldl (fun n t => n + t.body.stash.length) 0

/-- R280: the checks in order, then a new entry. R280 names no address for a misaligned len: FAULT_ADDR is sbase, as where sbase
is misaligned. DESIGN CHOICE: log entry 123. -/
def execStashmap (a b c : Src) (s : State) : Host.Outcome State Fault Refusal :=
  attempt s fun s r =>
    (notInBody s r).andThen fun _ => (readLow s r a).andThen fun sb => (readLow64 s r b).andThen fun gb =>
      (readLow s r c).andThen fun ln =>
        let t := getTeam s r.team
        let lane := r.lowest
        let sbase := sb.toNat
        let len := ln.toNat
        if sbase % 128 ≠ 0 ∨ len % 128 ≠ 0 then .trap lane cMisaligned (sb.setWidth 64) 0
        else if gb.toNat % 128 ≠ 0 then .trap lane cMisaligned gb 0
        else if 2 ^ 56 ≤ gb.toNat then .trap lane cNonCanonical gb 0
        else if (teamLaunch s r.team).kernel.scratch < sbase + len then .trap lane cScratchBounds (sb.setWidth 64) 0
        else if len = 0 then .ok s
        else if 32 ≤ coreStash s t.core ∨ t.body.stash.any fun e => e.sbase < sbase + len && sbase < e.sbase + e.len then
          .trap lane cStashMap (sb.setWidth 64) 0
        else .ok (modCore s r.team fun tc => { tc with stash := tc.stash ++ [⟨sbase, gb, len⟩] })

/-- The operands of STASHWB and STASHDROP, in multiples of 128 (R280). -/
def stashRange (s : State) (r : Run) (a c : Src) : Res (Nat × Nat) :=
  (notInBody s r).andThen fun _ => (readLow s r a).andThen fun sb => (readLow s r c).andThen fun ln =>
    if sb.toNat % 128 ≠ 0 ∨ ln.toNat % 128 ≠ 0 then .trap r.lowest cMisaligned (sb.setWidth 64) 0
    else .ok (sb.toNat, ln.toNat)

/-- R115, R280: writes back every dirty line of the range; under IL2 and IL3 as items (R389, R398). A line of a location that
no L2 caches forces a commit (R148). -/
def execStashwb (a c : Src) (s : State) : Host.Outcome State Fault Refusal :=
  attempt s fun s r =>
    (stashRange s r a c).andThen fun (sbase, len) => (roomFor s r .st true).andThen fun _ =>
      let tc := getCore s r.team
      let lines := tc.stashLines.filter fun l => l.dirty && sbase ≤ l.off && l.off < sbase + len
      (needCommit s r (lines.any fun l => uncached s l.pa 0)).andThen fun _ =>
      let s := spendGrant s r
      let op := s.nextId
      let s := raiseCtr (addOp s r.team r.grp r.pc (r.nameOf r.lowest) (.store [])) r.team r.grp .st
      if hasItems s r.team then
        lines.foldl (fun acc l => acc.andThen fun s =>
          let bs := stashBytes (getCore s r.team) l
          let i := stashItem r.team l bs (stashBad (getCore s r.team) l) s.cycle
          let act := match i.act with
            | .write cs => if uncached s l.pa 0 then .once cs else .write cs
            | x => x
          let s := stashClean s r.team l
          submit s { i with grp := r.grp, thr := r.lowest, pc := r.pc, kind := .store, act := act
                            op := if teamIl s r.team = 3 then some op else none } none) (.ok s)
      else .ok (lines.foldl (fun s l => stashWriteBack s r.team l) s)

/-- R280: invalidates lines without write-back; a range that covers a whole entry frees it. -/
def execStashdrop (a c : Src) (s : State) : Host.Outcome State Fault Refusal :=
  attempt s fun s r =>
    (stashRange s r a c).map fun (sbase, len) =>
      modCore s r.team fun tc => { tc with
        stashLines := tc.stashLines.filter fun l => !(sbase ≤ l.off && l.off < sbase + len)
        stash := tc.stash.filter fun e => !(sbase ≤ e.sbase && e.sbase + e.len ≤ sbase + len) }

end Sys2Proof.Machine
end

