-- ==== Sys2Proof/Machine/Sync.lean ====
section
/-! DEFINITION. The meanings of WAIT, the sync words, named queues, channels, barriers and copies (R155 to R163, R193 to
R196, R287 to R299), and of waiting on a blocking instruction (R29). -/

namespace Sys2Proof.Machine

/-! ## Blocking (R29) -/

/-- The lanes go to the word after the blocking instruction, which may be a header they arrive at. -/
def advanceLanes (s : State) (r : Run) : State :=
  let l := teamLaunch s r.team
  modLanes s r fun _ th => th.arrive l (r.pc + 4)

/-- The group, or the helper set, waits on an instruction. -/
def setWait (s : State) (r : Run) (w : Option Wait) : State :=
  match r.helpers with
  | none => modGroup s r.team r.grp fun g => { g with wait := w }
  | some thr => modCore s r.team fun tc => tc.modCrew r.grp thr fun c => { c with wait := w }

def resOption {α : Type} : Res α → Option α
  | .ok a => some a
  | _ => none

/-- Named queue `q` of a team. -/
def TeamCore.queue (tc : TeamCore) (q : Nat) : NamedQueue := tc.queues.getD q { depth := 0, allow := [], initial := [] }

/-- R156, R157: an enqueue step. -/
def tryEnq (s : State) (r : Run) (a : Src) (q : Nat) : Option State :=
  let nq := (getCore s r.team).queue q
  let n := r.lanes.length
  (resOption (forLanes r.lanes fun c => readSrc s r c a)).bind fun hs =>
    if nq.allow.getD r.grp 0 < n then none
    else some (restartWatchdog (modCore s r.team fun tc => { tc with queues := listMod tc.queues q fun nq =>
      { nq with ring := nq.ring ++ hs.map fun h => (h.2, r.grp)
                allow := listMod nq.allow r.grp (· - n) } }) r.team)

/-- R156, R157: a dequeue step gives one handle to each lane, in ascending thread index. -/
def tryDeq (s : State) (r : Run) (d : Dst) (q : Nat) (status : Option Dst) : Option State :=
  let nq := (getCore s r.team).queue q
  let n := r.lanes.length
  if nq.ring.length < n then none
  else
    let got := nq.ring.take n
    let s := modCore s r.team fun tc => { tc with queues := listMod tc.queues q fun nq =>
      { nq with ring := nq.ring.drop n, head := (nq.head + n) % max 1 nq.depth
                allow := got.foldl (fun al h => listMod al h.2 (· + 1)) nq.allow } }
    some (restartWatchdog ((r.lanes.zip got).foldl (fun s x =>
      let s := deliver s r x.1 d [.word x.2.1]
      match status with
      | none => s
      | some st => deliver s r x.1 st [.word 0]) s) r.team)

/-- A team of a launch by its linear index, on the same side as team `tid` (R397). -/
def teamByIdx (s : State) (tid idx : Nat) : Option Nat :=
  let t := getTeam s tid
  let trailing := match t.side with
    | .trail _ => true
    | _ => false
  (List.range s.teams.length).find? fun i =>
    let u := getTeam s i
    u.launch == t.launch && u.idx == idx && (match u.side with | .trail _ => trailing | _ => !trailing)

def channelDecl (s : State) (tid ch : Nat) : Option ChannelDecl := (teamLaunch s tid).kernel.channels.find? (·.ch == ch)
def boxMsgs (tc : TeamCore) (ch : Nat) : List (List Byte) := ((tc.boxes.find? (·.ch == ch)).map (·.msgs)).getD []
/-- The messages of a channel become `ms`, `n` more having been removed. -/
def setBox (tc : TeamCore) (ch : Nat) (ms : List (List Byte)) (n : Nat) : TeamCore :=
  let old := ((tc.boxes.find? (·.ch == ch)).map (·.removed)).getD 0
  { tc with boxes := (tc.boxes.filter (·.ch != ch)) ++ [⟨ch, ms, old + n⟩] }
def creditOf (tc : TeamCore) (ch : Nat) : Nat := ((tc.credits.find? (·.ch == ch)).map (·.credits)).getD 0
def setCredit (tc : TeamCore) (ch n : Nat) : TeamCore :=
  { tc with credits := (tc.credits.filter (·.ch != ch)) ++ (if n = 0 then [] else [⟨ch, n⟩]) }

/-- The receiver of a channel lies outside the sender's pair (R161). -/
def outsidePair (s : State) (tid ch : Nat) : Bool :=
  match channelDecl s tid ch with
  | none => false
  | some d =>
    match teamByIdx s tid d.receiver with
    | none => true
    | some rt => pairOf (getTeam s rt).core != pairOf (getTeam s tid).core

/-- R160, R161: a send takes a credit; it waits while the receiver is PENDING or SAVED, or LOADING after a restore, which R161 does
not name (DESIGN CHOICE: log entry 123). A send that the atomic log holds is not performed again (R392). -/
def trySend (s : State) (r : Run) (a : Src) (ch : Nat) : Option State :=
  match channelDecl s r.team ch, resOption (readLow s r a) with
  | some d, some off =>
    match teamByIdx s r.team d.receiver with
    | none => none
    | some rt =>
      let life := (getTeam s rt).life
      let tc := getCore s r.team
      if life == .saved || life == .loading || life == .pending || creditOf tc ch = 0 then none
      else
        let id := s.nextId
        let bs := scratchBytes tc off.toNat 64
        let s := modCore s r.team fun tc => setCredit tc ch (creditOf tc ch - 1)
        let f : ItemFields := { addr := BitVec.ofNat 64 ch, data := bs, mask := 0, scope := 2, policy := 0 }
        let out := teamIl s r.team == 3 && outsidePair s r.team ch
        match (if out then replayOut s r.team r.grp r.lowest f else none) with
        | some (some s) => some (restartWatchdog s r.team)
        | some none => some (failTeam s r.team cIntegrity 0 0 0 (r.teamThread r.lowest))
        | none =>
        let s := addOp s r.team r.grp r.pc r.lowest (.message ch bs)
        let s := if hasItems s r.team then
            (match submit s { team := r.team, grp := r.grp, thr := r.lowest, pc := r.pc, kind := .message, lead := f,
                              trail := f, act := .go, op := some id, logs := out } none with
             | .ok s => some s
             | .mismatch e m => some (retryPair s r.team e m)
             | _ => none)
          else some s
        s.map fun s => restartWatchdog s r.team
  | _, _ => none

/-- R160: a receive writes the oldest message and returns its credit. -/
def tryRecv (s : State) (r : Run) (a : Src) (ch : Nat) : Option State :=
  match boxMsgs (getCore s r.team) ch, resOption (readLow s r a) with
  | m :: rest, some off =>
    let s := writeScratch (modCore s r.team fun tc => setBox tc ch rest 1) r.team off.toNat m
    some (restartWatchdog (addOp s r.team r.grp r.pc r.lowest (.credit ch)) r.team)
  | _, _ => none

/-- Word `i` of the sync word at an offset (R195). -/
def syncWordAt (tc : TeamCore) (off i : Nat) : Word := BitVec.ofNat 32 (bytesNat (scratchBytes tc (off + 4 * i) 4))

/-- R289: every active thread's generation is reached. -/
def swReached (s : State) (r : Run) (a b : Src) : Bool :=
  r.lanes.all fun c =>
    match resOption (readSrc s r c a), resOption (readSrc s r c b) with
    | some off, some v => 0 ≤ (syncWordAt (getCore s r.team) off.toNat 2 - v).toInt
    | _, _ => false

def barrierAt (tc : TeamCore) (b : Nat) : Barrier := tc.barriers.getD b ⟨1, 0, 0⟩

/-- R292: every active thread's recorded generation has passed. -/
def barrierPassed (s : State) (r : Run) (b : Nat) : Bool :=
  r.lanes.all fun c =>
    match (laneTh s r c).arrival with
    | some (x, g) => x != b || g != (barrierAt (getCore s r.team) b).gen
    | none => true
/-- The wait ends: records are cleared. -/
def clearArrivals (s : State) (r : Run) : State := modLanes s r fun _ th => { th with arrival := none }

/-- R287: the four limits hold at once. -/
def waitHolds (g : Group) (o : WFmt) : Bool :=
  (o.ld.toNat == 63 || g.ldc ≤ o.ld.toNat) && (o.st.toNat == 63 || g.stc ≤ o.st.toNat) &&
  (o.cp.toNat == 63 || g.cpc ≤ o.cp.toNat) && (o.tl.toNat == 63 || g.tlc ≤ o.tl.toNat)
/-- R270: the reports that a WAIT takes: those whose counter it waits on. -/
def waitTakes (o : WFmt) : ReportAt → Bool
  | .stc => o.st.toNat != 63
  | .cpc => o.cp.toNat != 63
  | .tile _ _ => o.tl.toNat != 63
/-- The first report of a lane, from the lowest lane, that `p` takes. -/
def reportFor (s : State) (r : Run) (p : ReportAt → Bool) : Option (Nat × Report) :=
  r.lanes.findSome? fun c => ((laneTh s r c).reports.find? fun x => p x.at_).map fun x => (c, x)
/-- Raises a report and spends it. -/
def takeReport (s : State) (r : Run) (c : Nat) (rp : Report) : State :=
  let s := modLane s r c fun th => { th with reports := dropFirst (· == rp) th.reports }
  raise s r c { cause := rp.cause, addr := rp.addr, info := rp.info, epc := r.pc, deferred := true }

/-- The step of a blocking instruction once its condition is met; none while it is not. -/
def tryBlock (s : State) (r : Run) (i : Instr) : Option State :=
  match i with
  | .wait o =>
    if waitHolds (getGroup s r.team r.grp) o && (reportFor s r (waitTakes o)).isNone then some s else none
  | .yield => some s
  | .enq a q => tryEnq s r a q.val
  | .deq d q => tryDeq s r d q.val none
  | .chsend a ch => trySend s r a ch.val
  | .chrecv a ch => tryRecv s r a ch.val
  | .swwait a b _ => if swReached s r a b then some (restartWatchdog s r.team) else none
  | .barwait a | .barsync a =>
    match resOption (readLow s r a) with
    | some b => if barrierPassed s r b.toNat then some (clearArrivals s r) else none
    | none => none
  | _ => none

/-- The instruction issues again, to raise what is now due at it: a report at a WAIT, or a closed channel (R161, R270). -/
def wakesToFault (s : State) (r : Run) (i : Instr) : Bool :=
  match i with
  | .wait o => waitHolds (getGroup s r.team r.grp) o && (reportFor s r (waitTakes o)).isSome
  | .chsend _ ch =>
    match channelDecl s r.team ch.val with
    | some d => (teamLaunch s r.team).ended.contains d.receiver
    | none => false
  | .chrecv _ ch =>
    match channelDecl s r.team ch.val with
    | some d => (teamLaunch s r.team).ended.contains d.sender && (boxMsgs (getCore s r.team) ch.val).isEmpty &&
        !s.ops.any fun o => match o.kind with
          | .message c _ => c == ch.val && (getTeam s o.team).launch == (getTeam s r.team).launch
          | _ => false
    | none => false
  | _ => false

/-- A blocking instruction at issue: it ends the run (R29), its step performed, or its group waiting. -/
def block (s : State) (r : Run) (i : Instr) : State :=
  match tryBlock s r i with
  | some s' => if retried s s' r.team then s' else signal (advanceLanes s' r) .block
  | none => signal (setWait s r (some ⟨i, r.lanes⟩)) .block

/-- R287. -/
def execWait (o : WFmt) (s : State) : Host.Outcome State Fault Refusal :=
  issue s fun s r =>
    match (if waitHolds (getGroup s r.team r.grp) o then reportFor s r (waitTakes o) else none) with
    | some (c, rp) => takeReport s r c rp
    | none => block s r (.wait o)

/-- R312: ends the run; the group is ready at once, its age starting again. -/
def execYield (s : State) : Host.Outcome State Fault Refusal := issue s fun s r => block s r .yield

/-! ## Sync words (R195, R288, R289) -/

/-- The offset of a sync word (R288). -/
def swOffset (s : State) (r : Run) (a : Src) (c : Nat) : Res Nat :=
  (readSrc s r c a).andThen fun off => (checkScratch s r c off.toNat 16 16).andThen fun _ =>
    (stashRangeReady s r c off.toNat 16).map fun _ => off.toNat

/-- R288. -/
def execSwinit (a b : Src) (s : State) : Host.Outcome State Fault Refusal :=
  attempt s fun s r =>
    (notInBody s r).andThen fun _ =>
      (forLanes r.lanes fun c => (swOffset s r a c).andThen fun off => (readSrc s r c b).map fun v => (off, v)).andThen fun accs =>
        (touchAll s r (accs.map fun x => (x.1, x.2.1)) 16).andThen fun s => (roomFor s r .st true).map fun _ =>
          let s := accs.foldl (fun s x =>
            writeScratch s r.team x.2.1 (natBytes 4 x.2.2.toNat ++ List.replicate 12 0)) s
          let s := cleanScratch s r.team (accs.map fun x => (x.2.1, 16))
          raiseCtr (addOp s r.team r.grp r.pc r.lowest (.store [])) r.team r.grp .st
/-- R289. -/
def execSwwait (a b : Src) (sc : Scope) (s : State) : Host.Outcome State Fault Refusal :=
  attempt s fun s r =>
    (notInBody s r).andThen fun _ =>
      (forLanes r.lanes fun c => (swOffset s r a c).andThen fun off => (readSrc s r c b).map fun _ => off).andThen fun accs =>
        (touchAll s r accs 16).map fun s => block s r (.swwait a b sc)
/-- R289: GEN as a scratchpad load. -/
def execSwgen (d : Dst) (b : Src) (s : State) : Host.Outcome State Fault Refusal :=
  attempt s fun s r =>
    (dstAllowed s r d false).andThen fun _ =>
      (forLanes r.lanes fun c => swOffset s r b c).andThen fun accs =>
        (touchAll s r accs 16).andThen fun s => (roomFor s r .ld true).map fun _ =>
          finishLoad s r ⟨d, 4, false, 0⟩ (accs.map fun x =>
            let (bs, p) := scratchLoad s r (x.2 + 8) 4
            ⟨x.1, BitVec.ofNat 64 (x.2 + 8), bs, p⟩)

/-! ## Named queues (R155 to R158, R290) -/

/-- R157: the queue number, and how many handles a step of the group may move. -/
def queueCheck (s : State) (r : Run) (q : Nat) (enq : Bool) : Res Unit :=
  (notInBody s r).andThen fun _ =>
    let tc := getCore s r.team
    let nq := tc.queue q
    if tc.queues.length ≤ q then .trap r.lowest cIllegalInstr 0 0
    else if enq && (nq.initial.getD r.grp 0 = 0 || nq.initial.getD r.grp 0 < r.lanes.length) then
      .trap r.lowest cQueueCapacity 0 (BitVec.ofNat 32 q)
    else if !enq && nq.depth < r.lanes.length then .trap r.lowest cQueueCapacity 0 (BitVec.ofNat 32 q)
    else .ok ()

/-- R290. -/
def execEnq (a : Src) (qn : Fin 16) (s : State) : Host.Outcome State Fault Refusal :=
  attempt s fun s r =>
    (queueCheck s r qn.val true).andThen fun _ => (forLanes r.lanes fun c => readSrc s r c a).map fun _ => block s r (.enq a qn)
/-- R290. -/
def execDeq (d : Dst) (qn : Fin 16) (s : State) : Host.Outcome State Fault Refusal :=
  attempt s fun s r =>
    (queueCheck s r qn.val false).andThen fun _ => (dstAllowed s r d false).map fun _ => block s r (.deq d qn)
/-- R290: status 0 performed, 1 not. -/
def execEnqtry (a : Src) (qn : Fin 16) (st : Dst) (s : State) : Host.Outcome State Fault Refusal :=
  attempt s fun s r =>
    (queueCheck s r qn.val true).andThen fun _ => (dstAllowed s r st false).andThen fun _ =>
      (forLanes r.lanes fun c => readSrc s r c a).map fun _ =>
        let (s, v) := match tryEnq s r a qn.val with
          | some s => (s, (0 : Word))
          | none => (s, 1)
        r.lanes.foldl (fun s c => deliver s r c st [.word v]) s
/-- R290: the handle, then the status; a failed step pushes 0 as the handle and leaves its destination. -/
def execDeqtry (d : Dst) (qn : Fin 16) (st : Dst) (s : State) : Host.Outcome State Fault Refusal :=
  attempt s fun s r =>
    (queueCheck s r qn.val false).andThen fun _ => (dstAllowed s r d false).andThen fun _ =>
      (dstAllowed s r st false).map fun _ =>
        match tryDeq s r d qn.val (some st) with
        | some s => s
        | none => r.lanes.foldl (fun s c => deliver (modLane s r c (·.push (.word 0))) r c st [.word 1]) s

/-! ## Channels (R159 to R161, R291) -/

/-- R291: the channel's declaration, the team's part in it, the offset, and a closed channel (R161). -/
def channelCheck (s : State) (r : Run) (a : Src) (ch : Nat) (send : Bool) : Res Unit :=
  (notInBody s r).andThen fun _ =>
    match channelDecl s r.team ch with
    | none => .trap r.lowest cIllegalInstr 0 0
    | some d =>
      if (if send then d.sender else d.receiver) ≠ (getTeam s r.team).idx then .trap r.lowest cIllegalInstr 0 0
      else (readLow s r a).andThen fun off =>
        (checkScratch s r r.lowest off.toNat 64 64).andThen fun _ =>
          if wakesToFault s r (if send then .chsend a (Fin.ofNat 16 ch) else .chrecv a (Fin.ofNat 16 ch)) then
            .trap r.lowest cChannelClosed 0 (BitVec.ofNat 32 ch)
          else .ok ()
/-- R291: under IL3, towards a receiver outside the pair, a commit comes first (R148). DEDUCED: log entry 30. -/
def execChsend (a : Src) (ch : Fin 16) (s : State) : Host.Outcome State Fault Refusal :=
  attempt s fun s r =>
    (channelCheck s r a ch.val true).andThen fun _ => (needCommit s r (outsidePair s r.team ch.val)).andThen fun _ =>
      (readLow s r a).andThen fun off => (touchStashRange s r r.lowest off.toNat 64).map fun s =>
        block (if outsidePair s r.team ch.val then spendGrant s r else s) r (.chsend a ch)
/-- R291. -/
def execChrecv (a : Src) (ch : Fin 16) (s : State) : Host.Outcome State Fault Refusal :=
  attempt s fun s r =>
    (channelCheck s r a ch.val false).andThen fun _ => (readLow s r a).andThen fun off =>
      (touchStashRange s r r.lowest off.toNat 64).map fun s => block s r (.chrecv a ch)
/-- R291: the number of messages present. -/
def execChpoll (d : Dst) (ch : Fin 16) (s : State) : Host.Outcome State Fault Refusal :=
  attempt s fun s r =>
    (notInBody s r).andThen fun _ => (dstAllowed s r d false).andThen fun _ =>
      match channelDecl s r.team ch.val with
      | none => .trap r.lowest cIllegalInstr 0 0
      | some dc =>
        if dc.receiver ≠ (getTeam s r.team).idx then .trap r.lowest cIllegalInstr 0 0
        else .ok (r.lanes.foldl (fun s c =>
          deliver s r c d [.word (BitVec.ofNat 32 (boxMsgs (getCore s r.team) ch.val).length)]) s)

/-! ## Barriers (R193, R292) and SYNCM (R293) -/

/-- R193: ARR and GEN after arrivals; `fuel` bounds the generations that one step can complete. -/
def barrierStep : Nat → Barrier → Barrier
  | 0, b => b
  | n + 1, b => if b.exp ≤ b.arr then barrierStep n { b with arr := b.arr - b.exp, gen := (b.gen + 1) % 65536 } else b

/-- R292: a thread's arrival at barrier `b` in a generation, and the next operation identifier then (R401). -/
def Thread.noteArrival (th : Thread) (b gen id : Nat) : Thread :=
  { th with arrival := some (b, gen), arrivals := (b, gen, id) :: th.arrivals.filter (·.1 != b) }
/-- R193, R292, R401: an arrival step of the active threads. -/
def arriveAt (s : State) (r : Run) (b : Nat) : State :=
  let old := barrierAt (getCore s r.team) b
  let n := r.lanes.length
  let new := barrierStep (old.arr + n) { old with arr := old.arr + n }
  let id := s.nextId
  let s := modLanes s r fun _ th => th.noteArrival b old.gen id
  let s := modCore s r.team fun tc => { tc with barriers := listSet tc.barriers b new }
  let s := if new.gen = old.gen then s else restartWatchdog s r.team
  if new.gen ≠ old.gen ∧ (teamLaunch s r.team).kernel.det then
    let tc := getCore s r.team
    flushDet s r.team fun e => (tc.th e.grp (.lane e.thr)).arrivals.any fun x => x.1 == b && x.2.1 == old.gen && e.req.op < x.2.2
  else s

def barrierCheck (s : State) (r : Run) (a : Src) : Res Nat :=
  (notInBody s r).andThen fun _ => (readLow s r a).andThen fun b =>
    if (getCore s r.team).barriers.length ≤ b.toNat then .trap r.lowest cIllegalInstr 0 0 else .ok b.toNat

/-- R292. -/
def execBararr (a : Src) (s : State) : Host.Outcome State Fault Refusal :=
  attempt s fun s r => (barrierCheck s r a).map fun b => arriveAt s r b
/-- R292: a thread with no record of the barrier waits for the generation after the issue. -/
def execBarwait (a : Src) (s : State) : Host.Outcome State Fault Refusal :=
  attempt s fun s r => (barrierCheck s r a).map fun b =>
    let g := (barrierAt (getCore s r.team) b).gen
    let s := modLanes s r fun _ th =>
      match th.arrival with
      | some (x, _) => if x = b then th else { th with arrival := some (b, g) }
      | none => { th with arrival := some (b, g) }
    block s r (.barwait a)
/-- R292. -/
def execBarsync (a : Src) (s : State) : Host.Outcome State Fault Refusal :=
  attempt s fun s r => (barrierCheck s r a).map fun b => block (arriveAt s r b) r (.barsync a)

def bitOf (w : Word) (i : Nat) : Bool := w.getLsbD i

/-- R293: waiters whose masks are complete are released; every waiter notes the partners that match it now. One that an EXIT of a
partner has made ready stays so, and faults.
DEDUCED: log entry 26. -/
def releaseSyncm (s : State) (tid g : Nat) : State :=
  let ths := (getGroup s tid g).threads
  let arrived := (List.range ths.length).filterMap fun t => ((ths.getD t Thread.empty).syncm).map fun x => (t, x)
  let seenOf := fun (t : Nat) (x : Dword × Word × Word) =>
    arrived.foldl (fun seen y =>
      if bitOf x.2.1 y.1 && y.2.1 == x.1 && bitOf y.2.2.1 t then seen ||| BitVec.ofNat 32 (2 ^ y.1) else seen) x.2.2
  let l := teamLaunch s tid
  let freed := arrived.any fun x => seenOf x.1 x.2 == x.2.2.1
  let s := arrived.foldl (fun s x =>
    let seen := seenOf x.1 x.2
    modTh s tid g (.lane x.1) fun th =>
      if seen = x.2.2.1 then { th with syncm := none }.arrive l (x.2.1 + 4)
      else { th with syncm := some (x.2.1, x.2.2.1, seen), pc := x.2.1 }) s
  if freed then restartWatchdog s tid else s

/-- A mask names a thread of the group that has exited. -/
def namesExited (s : State) (tid g : Nat) (m : Word) : Bool :=
  (List.range 32).any fun j => bitOf m j && (getTh s tid g (.lane j)).life == .exited

/-- R293: the arrival of one active thread among those already arrived: none for a thread that waits already.
DEDUCED: log entry 26. -/
def syncmArrive (s : State) (r : Run) (a : Src) (arrived : List (Nat × Dword × Word × Word)) (c : Nat) :
    Res (Option (Nat × Dword × Word × Word)) :=
  match (laneTh s r c).syncm with
  | some (at_, m, _) =>
    if at_ = r.pc then
      (if namesExited s r.team r.grp m then .trap c cMembership r.pc m else .ok none)
    else .ok none
  | none =>
    (readSrc s r c a).andThen fun v =>
      let m := v ||| BitVec.ofNat 32 (2 ^ c)
      let bad := arrived.any fun w => bitOf w.2.2.1 c && (w.2.1 != r.pc || !bitOf m w.1)
      if bad || namesExited s r.team r.grp m then .trap c cMembership r.pc m
      else .ok (some (c, r.pc, m, BitVec.ofNat 32 (2 ^ c)))

/-- The arrivals of the active threads, in ascending thread index. -/
def syncmAll (s : State) (r : Run) (a : Src) : List Nat → List (Nat × Dword × Word × Word) →
    Res (List (Nat × Dword × Word × Word))
  | [], arrived => .ok arrived
  | c :: rest, arrived => (syncmArrive s r a arrived c).andThen fun x => syncmAll s r a rest (arrived ++ x.toList)

/-- R293. A waiter that faults is withdrawn. -/
def execSyncm (a : Src) (s : State) : Host.Outcome State Fault Refusal :=
  attempt s fun s r =>
    (notInBody s r).andThen fun _ =>
      let ths := (getGroup s r.team r.grp).threads
      let before := (List.range ths.length).filterMap fun t => ((ths.getD t Thread.empty).syncm).map fun x => (t, x)
      match syncmAll s r a r.lanes before with
      | .trap c cause addr info =>
        let s := modLane s r c fun th => { th with syncm := none }
        .ok (raise s r c (faultDue s r cause addr info))
      | x => x.map fun arrived =>
        let s := arrived.foldl (fun s y => if r.lanes.contains y.1 then
          modLane s r y.1 fun th => { th with syncm := some y.2, life := .waiting } else s) s
        signal (releaseSyncm s r.team r.grp) .block

/-! ## Copies (R163, R294 to R298) -/

/-- The members that issue a copy each: every lane in a crew body, else the group as one (R268, R272). -/
def copyIssuers (s : State) (r : Run) : List (List Nat) :=
  if (laneTh s r r.lowest).inBody then r.lanes.map fun c => [c] else [r.lanes]

/-- R163: commands of a core that have not begun. -/
def copyQueued (s : State) (core : Nat) : Nat :=
  (s.ops.filter fun o => (getTeam s o.team).core == core && (match o.kind with
    | .copy c => !c.started
    | _ => false)).length

/-- R377: outstanding copies of a team. -/
def teamCopies (s : State) (tid : Nat) : Nat :=
  (s.ops.filter fun o => o.team == tid && (match o.kind with
    | .copy _ => true
    | _ => false)).length

/-- The sync word of a copy's control operand: SWEN and SW × 16. -/
def copySync (en : Bool) (sw : Nat) : Option Nat := if en then some (sw * 16) else none

/-- R295, R377: the checks at issue. DEDUCED: log entry 52. -/
def copyCheck (s : State) (r : Run) (c : Nat) (cmd : CopyCmd) (dstLen srcLen : Nat) (descOk : Bool) : Res Unit :=
  let alloc := (teamLaunch s r.team).kernel.scratch
  let addrs := cmd.dst :: cmd.srcs
  let beyond := fun (sp : CopySpace) (a : Dword) (n : Nat) => sp == .scratch && alloc < a.toNat + n
  match addrs.find? fun a => a.toNat % 4 != 0 with
  | some a => .trap c cMisaligned a 0
  | none =>
    if cmd.len % 4 ≠ 0 then .trap c cMisaligned cmd.dst 0
    else if beyond cmd.dstSpace cmd.dst dstLen then .trap c cScratchBounds cmd.dst 0
    else match cmd.srcs.find? fun a => beyond cmd.srcSpace a srcLen with
    | some a => .trap c cScratchBounds a 0
    | none =>
      if (match cmd.sync with | some o => decide (alloc < o + 16) | none => false) then
        .trap c cScratchBounds (BitVec.ofNat 64 (cmd.sync.getD 0)) 0
      else if cmd.dstSpace == .global && 2 ^ 56 ≤ cmd.dst.toNat then .trap c cNonCanonical cmd.dst 0
      else match (if cmd.srcSpace == .global then cmd.srcs.find? fun a => 2 ^ 56 ≤ a.toNat else none) with
      | some a => .trap c cNonCanonical a 0
      | none =>
        if !descOk || (cmd.shadow && cmd.dstSpace == .scratch) ||
            (teamIl s r.team = 3 && cmd.dstSpace == .global && 4096 < dstLen) ||
            ((teamLaunch s r.team).desc.bounded && 4096 < dstLen) then .trap c cCopyDescriptor 0 0
        else .ok ()

/-- Where a global byte of a copy lies, as the TLB or else the page tables have it now; none where there is no page. -/
def copyPlace (s : State) (r : Run) (va : Nat) : Option Nat :=
  let t := getTeam s r.team
  let ctx := (teamLaunch s r.team).ctx
  match tlbFind s.tlb t.core ctx va with
  | some e => some (e.pa + (va - e.va))
  | none =>
    match (walkPage s ctx t.part va).2 with
    | .page e => some (e.pa + (va - e.va))
    | .fault _ => none
/-- R148, R296: a copy towards a place that no L2 caches leaves the pair; an IL3 copy writes at most 4,096 bytes. -/
def copyLeaves (s : State) (r : Run) (cmd : CopyCmd) (n : Nat) : Bool :=
  cmd.dstSpace == .global && teamIl s r.team == 3 && 0 < n &&
  [cmd.dst.toNat, cmd.dst.toNat + n - 1].any fun va =>
    match copyPlace s r va with
    | some pa =>
      let pa := if targetOf s pa == .window then windowTag s (getTeam s r.team).part cmd.shadow pa else pa
      (match (landing s pa).map (targetOf s) with
      | some .portB | some .peer => true
      | _ => false)
    | none => false

/-- One command goes to the copy engine: CPC counts it. -/
def startCopy (s : State) (r : Run) (c : Nat) (cmd : CopyCmd) : State :=
  noteEffect (raiseCtr (addOp s r.team r.grp r.pc (r.reporter c) (.copy cmd)) r.team r.grp .cp) r c (12, cmd.len, cmd.srcs.headD 0, 0)
/-- Hands one command to the copy engine. Under IL2 and IL3 it is an item; one that leaves the pair (`out`) is in the atomic log once
it is accepted, and a copy that the log holds writes nothing outside again (R392). DEDUCED: log entries 30, 52. -/
def submitCopy (s : State) (r : Run) (c : Nat) (cmd : CopyCmd) (ctl : Dword) (out : Bool) : Res State :=
  if !hasItems s r.team then .ok (startCopy s r c cmd) else
  let f : ItemFields := { addr := cmd.dst, data := cmd.srcs.flatMap (fun a => natBytes 8 a.toNat) ++ natBytes 8 ctl.toNat,
                          mask := 0, scope := scopeNum cmd.scope, policy := boolBit cmd.shadow }
  match (if out then replayOut s r.team r.grp (r.nameOf c) f else none) with
  | some (some s) => .ok (startCopy s r c { cmd with again := true })
  | some none => .trap c cIntegrity cmd.dst 0
  | none =>
    let i : Item := { team := r.team, grp := r.grp, thr := r.nameOf c, pc := r.pc, kind := .copy, lead := f, trail := f,
                      act := .go, op := some s.nextId, logs := out }
    let cmd := match (getTeam s r.team).side with
      | .trail l => { cmd with mute := cmd.dstSpace == .global, twin := ((getTeam s l).entries.find? (meets i)).bind (·.op) }
      | _ => cmd
    submit (startCopy s r c cmd) i none

/-- What a member's copy is, from its operands: the command, the bytes it writes and reads a row, and its control. -/
structure CopyPlan where
  lane : Nat
  cmd : CopyCmd
  dstLen : Nat
  srcLen : Nat
  descOk : Bool
  ctl : Dword
  deriving DecidableEq, Repr

/-- R163, R191, R377: how many more copies may issue now. -/
def copyRoom (s : State) (r : Run) : Nat :=
  min (min (63 - (getGroup s r.team r.grp).cpc) (128 - copyQueued s (getTeam s r.team).core))
    (if (teamLaunch s r.team).desc.bounded then 4 - teamCopies s r.team else 63)

/-- Issues the copies of all members: all checks first, then the commands, as far as there is room; the word holds its port
until the last has issued (R377). A length of 0 is done at once. -/
def issueCopies (s : State) (r : Run) (plan : List Nat → Res CopyPlan) : Res State :=
  ((copyIssuers s r).foldl (fun (acc : Res (List CopyPlan)) ls => acc.andThen fun ps => (plan ls).andThen fun p =>
    (copyCheck s r p.lane p.cmd p.dstLen p.srcLen p.descOk).map fun _ => ps ++ [p]) (.ok [])).andThen fun ps =>
    let live := ps.filter fun p => p.dstLen != 0 && !r.copied.contains p.lane
    let now := live.take (copyRoom s r)
    (Res.unless (live.isEmpty || !now.isEmpty)).andThen fun _ =>
      let leaves := r.copied.isEmpty && live.any fun p => copyLeaves s r p.cmd p.dstLen
      (needCommit s r leaves).andThen fun _ =>
        (eachDo now (if leaves then spendGrant s r else s) fun s p =>
          submitCopy s r p.lane p.cmd p.ctl (copyLeaves s r p.cmd p.dstLen)).map fun s =>
          if now.length = live.length then (if r.copied.isEmpty then s else modRun s fun r => { r with copied := [] })
          else signal (modRun s fun r => { r with copied := r.copied ++ now.map (·.lane) }) .stall

/-- A 64-bit operand in its space: a scratchpad address is its low word (R294). -/
def copyAddr (sp : CopySpace) (a : Dword) : Dword := if sp == .scratch then a &&& 0xFFFFFFFF#64 else a
/-- R294: DIR. -/
def dirDst (dir : Nat) : CopySpace := if dir = 0 ∨ dir = 3 then .scratch else .global
def dirSrc (dir : Nat) : CopySpace := if dir = 1 ∨ dir = 3 then .scratch else .global

/-- R296. -/
def execCopy (o : CopyFmt) (s : State) : Host.Outcome State Fault Refusal :=
  attempt s fun s r => issueCopies s r fun ls =>
    let c := ls.headD 0
    (readSrc64 s r c o.a).andThen fun a => (readSrc64 s r c o.b).andThen fun b => (readSrc64 s r c o.c).map fun k =>
      let dir := field k 24 2
      let len := field k 44 20
      { lane := c, dstLen := len, srcLen := len, descOk := true, ctl := k
        cmd := { dst := copyAddr (dirDst dir) a, dstSpace := dirDst dir, srcs := [copyAddr (dirSrc dir) b],
                 srcSpace := dirSrc dir, len := len, sync := copySync (field k 27 1 = 1) (field k 28 16),
                 shadow := field k 26 1 = 1, scope := o.sc } }

/-- R297: one source per active thread, in ascending thread index. -/
def execCopyg (o : CopyFmt) (s : State) : Host.Outcome State Fault Refusal :=
  attempt s fun s r => issueCopies s r fun ls =>
    let c := ls.headD 0
    (readSrc64 s r c o.a).andThen fun a => (readSrc64 s r c o.c).andThen fun k =>
      (forLanes ls fun l => readSrc64 s r l o.b).andThen fun bs =>
        let dir := field k 24 2
        let len := field k 44 20
        if len < 4 ∨ 4096 < len then .trap c cMisaligned a 0 else
        .ok { lane := c, dstLen := len * ls.length, srcLen := len, descOk := dir = 0 || dir = 2, ctl := k
              cmd := { dst := copyAddr (dirDst dir) a, dstSpace := dirDst dir,
                       srcs := bs.map fun x => copyAddr (dirSrc dir) x.2, srcSpace := dirSrc dir, len := len,
                       sync := copySync (field k 27 1 = 1) (field k 28 16), shadow := field k 26 1 = 1, scope := o.sc } }

/-- R298: sizes of the two images. -/
def Regroup.hq (g : Regroup) : Nat := (g.h + g.f - 1) / g.f
def Regroup.wq (g : Regroup) : Nat := (g.w + g.f - 1) / g.f
def Regroup.cq (g : Regroup) : Nat := g.c * g.f * g.f
def Regroup.space (g : Regroup) : Nat := g.h * g.w * g.c * g.es
def Regroup.channels (g : Regroup) : Nat := g.hq * g.wq * g.cq * g.es
def Regroup.dstBytes (g : Regroup) : Nat := if g.inv then g.space else g.channels
def Regroup.srcBytes (g : Regroup) : Nat := if g.inv then g.channels else g.space

/-- R298: the regrouped bytes of a source image. -/
def Regroup.apply (g : Regroup) (src : List Byte) : List Byte :=
  if g.inv then
    (List.range (g.h * g.w * g.c)).flatMap fun n =>
      let c := n % g.c
      let x := n / g.c % g.w
      let y := n / g.c / g.w
      let e := ((y / g.f) * g.wq + x / g.f) * g.cq + ((y % g.f) * g.f + x % g.f) * g.c + c
      (src.drop (e * g.es)).take g.es
  else
    (List.range (g.hq * g.wq * g.cq)).flatMap fun n =>
      let cq := n % g.cq
      let xq := n / g.cq % g.wq
      let yq := n / g.cq / g.wq
      let y := yq * g.f + cq / g.c / g.f
      let x := xq * g.f + cq / g.c % g.f
      if y < g.h && x < g.w then (src.drop (((y * g.w + x) * g.c + cq % g.c) * g.es)).take g.es
      else List.replicate g.es 0

/-- R298. -/
def execRegrp (o : CopyFmt) (s : State) : Host.Outcome State Fault Refusal :=
  attempt s fun s r => issueCopies s r fun ls =>
    let c := ls.headD 0
    (readSrc s r c o.a).andThen fun a => (readSrc64 s r c o.b).andThen fun b => (readSrc64 s r c o.c).map fun k =>
      let g : Regroup := { w := field k 52 12, h := field k 40 12, c := field k 34 6, es := 2 ^ field k 32 2,
                           f := field k 29 3 + 1, inv := field k 28 1 = 1 }
      let ok := g.w != 0 && g.h != 0 && g.c != 0 && field k 32 2 != 3
      { lane := c, dstLen := if ok then g.dstBytes else 4, srcLen := g.srcBytes, descOk := ok, ctl := k
        cmd := { dst := a.setWidth 64, dstSpace := .scratch, srcs := [b], srcSpace := .global,
                 len := (g.srcBytes + 3) / 4 * 4, regroup := some g, sync := copySync (field k 27 1 = 1) (field k 11 16),
                 shadow := false, scope := o.sc } }

/-! ## Publication (R141, R182, R299) -/

/-- R299: a V clear, or another context's entry, raises aperture-unmapped; under IL3 a commit comes first, and a PUBLISH that the
atomic log holds is not performed again (R392).
DEDUCED: log entry 31. -/
def execPublish (a : Src) (sc : Scope) (s : State) : Host.Outcome State Fault Refusal :=
  attempt s fun s r =>
    (notInBody s r).andThen fun _ => (readLow s r a).andThen fun w =>
      let e := w.toNat % 256
      let d := if partitioned s then (getTeam s r.team).part else 0
      let w0 := pbar s d (Config.oPublication e)
      if !w0.msb || field w0 16 16 ≠ (teamLaunch s r.team).ctx then .trap r.lowest cAperture 0 0
      else (roomFor s r .st true).andThen fun _ => (needCommit s r true).andThen fun _ =>
        let s := restartWatchdog (spendGrant s r) r.team
        let id := s.nextId
        let f : ItemFields := { addr := BitVec.ofNat 64 e, data := [], mask := 0, scope := scopeNum sc, policy := 0 }
        match replayOut s r.team r.grp r.lowest f with
        | some (some s) => .ok s
        | some none => .trap r.lowest cIntegrity 0 0
        | none =>
          let s := raiseCtr (addOp s r.team r.grp r.pc r.lowest (.publish d e)) r.team r.grp .st
          if hasItems s r.team then
            submit s { team := r.team, grp := r.grp, thr := r.lowest, pc := r.pc, kind := .publish, lead := f, trail := f,
                       act := .go, op := some id, logs := teamIl s r.team == 3 } none
          else .ok s

end Sys2Proof.Machine
end

