-- ==== Sys2Proof/Machine/Fetch.lean ====
section
/-! DEFINITION. Reading code: words, headers and clauses (R105, R206 to R211). -/

namespace Sys2Proof.Machine

/-- R105: the word at a code address, through the launch's translation. -/
def codeWord (s : State) (r : Run) (c : Nat) (va : Dword) : Res (State × Word) :=
  match checkGlobal s (envOf s r) .fetch false false 4 va with
  | .miss page => .miss page
  | .wait => .stall
  | .fault cause a => .trap c cause a 0
  | .ok pa _ =>
    let t := getTeam s r.team
    let line := pa / 128 * 128
    let s := if s.icache.contains (t.core, line) then s else l2Touch s t.part pa 0
    let (s, bs, _) := viewRead s r.team pa 4
    .ok (allocCode s t.core line, BitVec.ofNat 32 (bytesNat bs))

/-- Reads `n` words of code from `va` on. -/
def codeWords (s : State) (r : Run) (c : Nat) : Nat → Dword → Res (State × List Word)
  | 0, _ => .ok (s, [])
  | n + 1, va =>
    (codeWord s r c va).andThen fun (s, w) => (codeWords s r c n (va + 4)).map fun (s, ws) => (s, w :: ws)

/-! ## Clause headers (R207) -/

def hdCount (h : Word) : Nat := field h 28 4
def hdClass (h : Word) : Nat := field h 26 2
def hdEnd (h : Word) : Bool := field h 25 1 = 1
/-- R209, rows 1 and 4: a header that is no header of a clause of this kernel. -/
def hdBad (l : Launch) (at_ : Dword) (h : Word) : Bool :=
  hdCount h == 0 || field h 24 1 == 1 || l.codeEnd < at_.toNat + 4 + 4 * hdCount h

/-- The nearest clause header at or below a code address, within 15 words (R322). -/
def Launch.headerBelow (l : Launch) (pc : Dword) : Option Dword :=
  (List.range 16).findSome? fun i =>
    let a := pc - BitVec.ofNat 64 (4 * i)
    if l.isHeader a then some a else none

/-- R222: the class of an opcode. -/
def opClass (op : Nat) : Nat := if op < 0x40 then 0 else if op < 0x68 then 1 else if op < 0x70 then 2 else 3
def opOf (w : Word) : Nat := field w 25 7

/-- R302, R209: the instructions that end their clause. -/
def mustEnd : Instr → Bool
  | .bra _ | .call _ | .brx _ | .callx _ | .ret | .exit | .eret | .trap _ | .brk _ | .rep _ | .crew _ | .crewend => true
  | _ => false

/-- R313: what a REP may repeat, by its opcode: lane instructions, and those of formats MU, MP, S, A and AS.
DEDUCED: log entry 40. -/
def repeatable (w : Word) : Bool :=
  (match decode w with
   | .ok _ => true
   | .error _ => false) && opOf w ≤ 0x61 && opOf w != 0x4F

/-! ## What an issue counts (R197, R202, R411) -/

/-- R411: an issue of a thread enters the list, from which issues of more than 65,536 clk ago go.
DEDUCED: log entry 50. -/
def noteIssue (l : List Issuer) (g thr now : Nat) (pc : Dword) : List Issuer :=
  let same := fun (x : Issuer) => x.grp == g && x.thr == thr
  let old := ((l.find? same).map (·.times)).getD []
  ⟨g, thr, now :: old.filter (fun x => decide (now < x + 65536)), pc⟩ :: l.filter (fun x => !same x)
/-- R411: threads that issue while another of their group is held or waiting. -/
def noteIssuers (s : State) (r : Run) : State :=
  let g := getGroup s r.team r.grp
  if r.helpers.isSome || !g.threads.any (fun th => th.life == .held || th.life == .waiting) then s else
  modTeam s r.team fun t =>
    { t with issuers := r.lanes.foldl (fun l c => noteIssue l r.grp c s.cycle.toNat r.pc) t.issuers }

/-- R44: an issue clk of a helper set counts for the chunk of each helper that does not wait for the contribution store; the
issue that ends a chunk counts for that one. -/
def Helper.count (h : Helper) : Helper :=
  match h.th.member with
  | none => h
  | some m =>
    if h.th.life == .waiting then h
    else if h.clkChunk = m.chunk then { h with clk := h.clk + 1 } else { h with clk := 0, clkChunk := m.chunk }
/-- R197, R199, R202, R378, R399: a word has issued. DEDUCED: log entries 43, 72. -/
def countWord (s : State) (r : Run) : State :=
  let t := getTeam s r.team
  let s := noteIssuers s r
  let s := perfEvent s t.core (teamLaunch s r.team).ctx 1 1
  let s := modTeam s r.team fun t => { t with issued := t.issued + 1, started := some (t.started.getD s.phcNs) }
  let s := if r.spared then s else modGroup s r.team r.grp fun g => { g with interval := g.interval + 1 }
  match r.helpers with
  | none => s
  | some thr => modCore s r.team fun tc => tc.modCrew r.grp thr fun c => { c with helpers := c.helpers.map Helper.count }

/-- R210. -/
def checkTargetPc (l : Launch) (c : Nat) (t : Dword) : Res Unit :=
  if l.isHeader t then .ok () else .trap c cMisalignedTarget t 0

end Sys2Proof.Machine
end

