-- ==== Sys2Proof/Machine/Control.lean ====
section
/-! DEFINITION. The meanings of the control and system instructions (R302 to R314, R320 to R329). Crews are in
Machine/Crew.lean. -/

namespace Sys2Proof.Machine

/-! ## Transfers (R210, R214, R304 to R306) -/

/-- R214: the target of a B format word: its address plus 4 times the offset. -/
def relTarget (r : Run) (off : BitVec 19) : Dword := r.pc + BitVec.ofInt 64 (4 * off.toInt)
/-- R206: the code base. -/
def codeBase (s : State) (r : Run) : Dword := (teamLaunch s r.team).desc.kernel
/-- R306: an indexed target. -/
def indexTarget (s : State) (r : Run) (v : Word) : Dword := codeBase s r + BitVec.ofNat 64 (4 * v.toNat)

/-- R316: the first header and the CREWEND of the body that a lane is in. -/
def bodyOf (s : State) (r : Run) (c : Nat) : Option (Dword × Dword) :=
  let th := laneTh s r c
  if !th.inBody then none else
  match th.member.bind (·.nested) with
  | some n => some (n.start, n.crewEnd)
  | none => ((getCore s r.team).crew r.grp (r.nameOf c)).map fun cr => (cr.start, cr.crewEnd)

/-- R210, and R316 in a crew body. -/
def laneTarget (s : State) (r : Run) (c : Nat) (t : Dword) : Res Unit :=
  (checkTargetPc (teamLaunch s r.team) c t).andThen fun _ =>
    match bodyOf s r c with
    | some (lo, hi) => if lo.toNat ≤ t.toNat && t.toNat ≤ hi.toNat then .ok () else .trap c cMisalignedTarget t 0
    | none => .ok ()

/-- Sets the counter of each lane: to its target, or to the fall-through (R305). -/
def goTo (s : State) (r : Run) (dest : Nat → Option Dword) : State :=
  let l := teamLaunch s r.team
  signal (modLanes s r fun c th => th.arrive l ((dest c).getD (r.pc + 4))) .jump

/-- The lanes whose guard is true. -/
def guarded (s : State) (r : Run) (g : Guard) : Res (List Nat) :=
  (forLanes r.lanes fun c => guardTrue s r c g).map fun xs => (xs.filter (·.2)).map Prod.fst
/-- The group's taken mask (R389). DEDUCED: log entry 47. -/
def takenMask (lanes : List Nat) : Nat := lanes.foldl (fun m c => m + 2 ^ (c % 32)) 0

/-- R305. -/
def execBra (o : BFmt) (s : State) : Host.Outcome State Fault Refusal :=
  attempt s fun s r =>
    let t := relTarget r o.off
    (forLanes r.lanes fun c => laneTarget s r c t).andThen fun _ => (guarded s r o.g).andThen fun taken =>
      (transferItem s r (takenMask taken) []).map fun s => goTo s r fun c => if taken.contains c then some t else none
/-- R306. -/
def execBrx (a : Src) (s : State) : Host.Outcome State Fault Refusal :=
  attempt s fun s r =>
    (forLanes r.lanes fun c => (readSrc s r c a).andThen fun v =>
      (laneTarget s r c (indexTarget s r v)).map fun _ => indexTarget s r v).andThen fun ts =>
      (transferItem s r (takenMask r.lanes) (ts.flatMap fun x => natBytes 8 x.2.toNat)).map fun s =>
        goTo s r fun c => (ts.find? (·.1 == c)).map (·.2)

/-! ## Meeting addresses (R34, R84, R307, R308) -/

/-- R84: the offset that the meeting stack stores. -/
def meetEntry (base meet : Dword) : Word :=
  if meet = 0xFFFFFFFFFFFFFFFF#64 then 0xFFFFFFFF#32 else BitVec.ofNat 32 ((meet - base).toNat / 4)
def meetOf (base : Dword) (w : Word) : Dword :=
  if w = 0xFFFFFFFF#32 then 0xFFFFFFFFFFFFFFFF#64 else base + BitVec.ofNat 64 (4 * w.toNat)

/-- R307: the depth is checked in the lanes that act, the address in every active lane (R224).
DEDUCED: log entry 124. -/
def execMeet (o : BFmt) (s : State) : Host.Outcome State Fault Refusal :=
  attempt s fun s r =>
    let a := relTarget r o.off
    let base := codeBase s r
    (guarded s r o.g).andThen fun on =>
      (forLanes r.lanes fun c =>
        if on.contains c && (teamLaunch s r.team).kernel.mdepth ≤ (laneTh s r c).meetStk.length then .trap c cMeetingOverflow 0 0
        else if a.toNat < base.toNat ∨ base.toNat + 2 ^ 34 - 4 ≤ a.toNat then .trap c cMisalignedTarget a 0
        else .ok ()).map fun _ =>
        on.foldl (fun s c => modLane s r c fun th =>
          { th with meet := a, meetStk := meetEntry base th.meet :: th.meetStk }) s
/-- R308. -/
def execRejoin (s : State) : Host.Outcome State Fault Refusal :=
  issue s fun s r =>
    let base := codeBase s r
    modLanes s r fun _ th =>
      match th.meetStk with
      | w :: rest => { th with meet := meetOf base w, meetStk := rest }
      | [] => { th with meet := 0xFFFFFFFFFFFFFFFF#64 }

/-! ## Frames and calls (R77, R78, R85, R309 to R311) -/

/-- R309. -/
def execFrame (f : BitVec 6) (s : State) : Host.Outcome State Fault Refusal :=
  attempt s fun s r => (notInBody s r).map fun _ => modLanes s r fun _ th => { th with cf := f.toNat }

/-- The lowest resident stack word of a window base (R78). DEDUCED: log entry 42. -/
def residentLow (stack : Nat) (base : Int) : Nat := (base + 32 - stack).toNat
/-- The words below this index are in local memory. In a handler, words below the interrupted window's resident range
are never named and stay there (R85). DEDUCED: log entry 42. -/
def Thread.spilled (th : Thread) (stack : Nat) : Nat :=
  if th.inTrap then max (residentLow stack th.hidBase) (residentLow stack th.wb) else residentLow stack th.wb

/-- The global address of stack word `i` of lane `c` (R103). -/
def stackAddr (s : State) (r : Run) (c i : Nat) : Dword := localRegion s r c + BitVec.ofNat 64 (4 * i)
/-- R78: the physical places of stack words `lo` to `hi - 1` of lane `c`. -/
def spillPlaces (s : State) (r : Run) (c lo hi : Nat) : Res (List Nat) :=
  (forLanes ((List.range (hi - lo)).map (lo + ·)) fun i =>
    (checkLane s r c .store false false 4 (stackAddr s r c i)).map Prod.fst).map (·.map Prod.snd)
/-- R78: stack words `lo` to `hi - 1` of lane `c` go to local memory. -/
def spillWords (s : State) (r : Run) (c lo hi op : Nat) (whole : List Nat) : Res State :=
  eachDo ((List.range (hi - lo)).map (lo + ·)) s fun s (i : Nat) =>
    (readCell c (stackWord (laneTh s r c) i)).andThen fun w =>
      let va := stackAddr s r c i
      (checkLane s r c .store false false 4 va).andThen fun p =>
        (storeOne s r c va p.1 (natBytes 4 w.toNat) 0 0 false false op whole).map fun s =>
          modLane s r c fun th => setStackWord th i (.word 0)

/-- R78: stack words `lo` to `hi - 1` of lane `c` come back; a poisoned sector is consumed. -/
def fillWords (s : State) (r : Run) (c lo hi : Nat) : Res State :=
  eachDo ((List.range (hi - lo)).map (lo + ·)) s fun s (i : Nat) =>
    let va := stackAddr s r c i
    (checkLane s r c .load false false 4 va).andThen fun p =>
      let (s, bs, po) := readFor s r p.1 4 0
      match po with
      | some sec => .trap c cPoison (sectorAddr va p.1 sec) 0
      | none => .ok (modLane s r c fun th => setStackWord th i (.word (BitVec.ofNat 32 (bytesNat bs))))

/-- R78, R85: the window after a CALL passes the stack region, the link stack is full, or a callee register would fall
on a trap-frame word. -/
def callOverflows (s : State) (r : Run) (c : Nat) : Bool :=
  let th := laneTh s r c
  th.links.length == 64 || decide ((teamLaunch s r.team).desc.l < th.wb + th.cf + 32) ||
  (th.inHandlerFrame && th.cf < 16)

/-- R310: the transferring lanes call; the words that leave the resident range are written first, which counts in STC as one
store (R191) and forces what a store forces (R148). DESIGN CHOICE: log entry 105. -/
def callLanes (s : State) (r : Run) (taken : List Nat) (dest : Nat → Option Dword) (targets : List Byte) : Res State :=
  (forLanes taken fun c => if callOverflows s r c then .trap c cStackOverflow 0 0 else .ok ()).andThen fun _ =>
    let k := (teamLaunch s r.team).kernel
    let ranges := taken.map fun c =>
      let th := laneTh s r c
      (c, th.spilled k.stack, residentLow k.stack (th.wb + th.cf))
    let spills := ranges.any fun x => x.2.1 < x.2.2
    (roomFor s r .st spills).andThen fun _ => (forLanes (List.range ranges.length) fun i =>
      let x := ranges.getD i (0, 0, 0)
      spillPlaces s r x.1 x.2.1 x.2.2).andThen fun places =>
    (needCommit s r (places.any fun x => x.2.any fun pa => uncached s pa 0)).andThen fun _ =>
      let op := s.nextId
      let s := if spills then spendGrant s r else s
      let s := if spills then
          raiseCtr (addOp s r.team r.grp r.pc (r.nameOf r.lowest) (.store [])) r.team r.grp .st
        else s
      let whole := wholeSectors (places.flatMap fun x => x.2.map fun pa => (pa, 4))
      (eachDo ranges s fun s x => spillWords s r x.1 x.2.1 x.2.2 op whole).andThen fun s =>
        let s := if hasItems s r.team then s else cleanSectors s whole
        let s := taken.foldl (fun s c => modLane s r c fun th =>
          { th with links := ⟨r.pc + 4, th.cf⟩ :: th.links, wb := th.wb + th.cf, cf := 32 }) s
        (transferItem s r (takenMask taken) targets).map fun s => goTo s r dest

/-- R310. -/
def execCall (o : BFmt) (s : State) : Host.Outcome State Fault Refusal :=
  attempt s fun s r =>
    (notInBody s r).andThen fun _ =>
      let t := relTarget r o.off
      (forLanes r.lanes fun c => laneTarget s r c t).andThen fun _ => (guarded s r o.g).andThen fun taken =>
        callLanes s r taken (fun c => if taken.contains c then some t else none) []
/-- R310. -/
def execCallx (a : Src) (s : State) : Host.Outcome State Fault Refusal :=
  attempt s fun s r =>
    (notInBody s r).andThen fun _ =>
      (forLanes r.lanes fun c => (readSrc s r c a).andThen fun v =>
        (laneTarget s r c (indexTarget s r v)).map fun _ => indexTarget s r v).andThen fun ts =>
        callLanes s r r.lanes (fun c => (ts.find? (·.1 == c)).map (·.2)) (ts.flatMap fun x => natBytes 8 x.2.toNat)

/-- R311: the checks of every lane, then the fills, then the pops. -/
def execRet (s : State) : Host.Outcome State Fault Refusal :=
  attempt s fun s r =>
    (notInBody s r).andThen fun _ =>
      (forLanes r.lanes fun c => match (laneTh s r c).links with
        | [] => .trap c cReturnUnderflow 0 0
        | k :: _ => (laneTarget s r c k.ret).map fun _ => k).andThen fun ks =>
        let stack := (teamLaunch s r.team).kernel.stack
        (eachDo ks s fun s x =>
          let th := laneTh s r x.1
          let low := residentLow stack (th.wb - x.2.cf)
          fillWords s r x.1 (if th.inTrap then max (residentLow stack th.hidBase) low else low) (th.spilled stack)).andThen
          fun s =>
          let s := ks.foldl (fun s x => modLane s r x.1 fun th =>
            { th with links := th.links.tail, wb := th.wb - x.2.cf, cf := x.2.cf }) s
          (transferItem s r (takenMask r.lanes) (ks.flatMap fun x => natBytes 8 x.2.ret.toNat)).map fun s =>
            goTo s r fun c => (ks.find? (·.1 == c)).map (·.2.ret)

/-! ## Ending and idling (R312) -/

/-- R293: a thread that waits at SYNCM for one that has exited issues again, to fault. -/
def wakeSyncm (s : State) (tid g : Nat) : State :=
  (List.range 32).foldl (fun s t => match (getTh s tid g (.lane t)).syncm with
    | some (_, m, _) =>
      if namesExited s tid g m then modTh s tid g (.lane t) fun th => { th with life := .runnable } else s
    | none => s) s

/-- R312. An EXIT that takes every active thread is a transfer of none, after which R33 selects for the threads that live
(R28). DEDUCED: log entry 106. -/
def execExit (s : State) : Host.Outcome State Fault Refusal :=
  attempt s fun s r =>
    (notInBody s r).andThen fun _ => (Res.unless (!r.lanes.any fun c => (laneTh s r c).hasPend)).map fun _ =>
      match dueReport s r with
      | some (c, d) => raise (spendDue s r c) r c d
      | none =>
        let s := modLanes s r fun _ th => { th with life := .exited, inTrap := false }
        signal (restartWatchdog (wakeSyncm s r.team r.grp) r.team) .jump
/-- R312. -/
def execNop (s : State) : Host.Outcome State Fault Refusal := issue s fun s _ => s

/-! ## Repetition (R313) -/

/-- R313: the repeated instruction stands first in the next clause. A next word that is no clause header, or that lies past the
end of the code, leaves REP without one: illegal-instruction at the REP here, where R209 could give illegal-clause at that word. DESIGN CHOICE: log entry 40. -/
def execRep (o : RepFmt) (s : State) : Host.Outcome State Fault Refusal :=
  attempt s fun s r =>
    if !(teamLaunch s r.team).isHeader (r.pc + 4) then .trap r.lowest cIllegalInstr 0 0 else
    (codeWord s r r.lowest (r.pc + 8)).andThen fun (s, w) =>
      (Res.guard (repeatable w && (o.s == 0 || 0x40 ≤ opOf w)) r.lowest).map fun _ =>
        let s := modLanes s r fun _ th => { th with repc := o.n.setWidth 16 }
        modRun s fun r => { r with rep := some (o.n.toNat, o.s.toInt) }

/-! ## Results of the group (R320) -/

/-- R320. -/
def execPost (a : Src) (s : State) : Host.Outcome State Fault Refusal :=
  attempt s fun s r =>
    (notInBody s r).andThen fun _ => (readLow s r a).andThen fun v =>
      if hasItems s r.team then
        let f : ItemFields := { addr := 0, data := natBytes 4 v.toNat, mask := 15, scope := 0, policy := 0 }
        submit s { team := r.team, grp := r.grp, thr := r.lowest, pc := r.pc, kind := .post, lead := f, trail := f,
                   act := .post v, op := none } none
      else .ok (applyPost s r.team r.grp v)

/-! ## Traps and returning from them (R321, R322) -/

/-- R321: the word issues (R197), and its threads trap at the word after it. -/
def execTrap (b : BitVec 6) (s : State) : Host.Outcome State Fault Refusal :=
  issue s fun s r =>
    let cause := if b.toNat = 63 then cAbort else cSoftTrap
    raise (if r.helpers.isSome then s else countWord s r) r r.lowest { cause := cause, addr := b.setWidth 64, info := 0, epc := r.pc + 4 }

/-- R416: the resumable halt of a debugger's stop, after the halt of a requested dump that is in progress; an IL2 partner stops
too. DEDUCED: log entry 83. -/
def debugStop (s : State) (tid code : Nat) (epc addr : Dword) (thread : Nat) : State :=
  let one := fun (s : State) (tid : Nat) =>
    if (getTeam s tid).halt.any (·.asked) then
      modTeam s tid fun t => { t with halt := t.halt.map fun h => { h with thenStop := true } }
    else
    let s := haltTeam s tid { cause := code, epc := epc, addr := addr, info := 0, thread := thread, items := [], resumable := true }
    modTeam s tid fun t => { t with stopped := true, stepping := none }
  match (getTeam s tid).partner with
  | none => one s tid
  | some p => one (one s tid) p

/-- R321, R416: with DBG set, the team stops for the debugger, to resume at the word after. -/
def execBrk (b : BitVec 6) (s : State) : Host.Outcome State Fault Refusal :=
  issue s fun s r =>
    if (teamLaunch s r.team).desc.dbg && r.helpers.isNone then
      let l := teamLaunch s r.team
      let s := modLanes (countWord s r) r fun _ th => th.arrive l (r.pc + 4)
      debugStop s r.team cBreakpoint (r.pc + 4) (b.setWidth 64) (r.teamThread r.lowest)
    else raise (if r.helpers.isSome then s else countWord s r) r r.lowest { cause := cBreakpoint, addr := b.setWidth 64, info := 0, epc := r.pc + 4 }

/-- R322: the header of the clause that holds a lane's EPC covers it. -/
def eretTarget (s : State) (r : Run) (c : Nat) (epc : Dword) : Res State :=
  let l := teamLaunch s r.team
  match l.headerBelow epc with
  | none => .trap c cMisalignedTarget epc 0
  | some h =>
    if h = epc then .ok s else
    (codeWord s r c h).andThen fun (s, w) =>
      if (epc - h).toNat ≤ 4 * hdCount w then .ok s else .trap c cMisalignedTarget epc 0

/-- R85, R322: what ERET restores in one thread. -/
def Thread.leaveTrap (th : Thread) (l : Launch) : Thread :=
  { th with
    wb := th.hidBase, cf := th.hidCf, links := th.links.drop (th.links.length - th.trapDepth), q := th.tf
    cc := condsOf th.econd, repc := (th.econd >>> 16).setWidth 16, resume := true, inTrap := false }.arrive l th.epc

/-- R322. -/
def execEret (s : State) : Host.Outcome State Fault Refusal :=
  attempt s fun s r =>
    (notInBody s r).andThen fun _ =>
      (forLanes r.lanes fun c => Res.guard (laneTh s r c).inTrap c).andThen fun _ =>
        (Res.unless (!r.lanes.any fun c => (laneTh s r c).hasPend)).andThen fun _ =>
          (eachDo r.lanes s fun s c => eretTarget s r c (laneTh s r c).epc).andThen fun s =>
            let stack := (teamLaunch s r.team).kernel.stack
            (eachDo r.lanes s fun s c =>
              let th := laneTh s r c
              fillWords s r c (residentLow stack th.hidBase) (th.spilled stack)).map fun s =>
              let l := teamLaunch s r.team
              signal (modLanes s r fun _ th => th.leaveTrap l) .jump

/-! ## System registers (R91 to R96, R323, R324, R478) -/

/-- R92. -/
def statusWord (s : State) (r : Run) (c : Nat) : Word :=
  let th := laneTh s r c
  let l := teamLaunch s r.team
  BitVec.ofNat 32 (l.kernel.il * 2 ^ 22 + boolBit l.kernel.det * 2 ^ 21 + boolBit r.helpers.isSome * 2 ^ 20 +
    boolBit th.inCrew * 2 ^ 19 + boolBit th.inTrap * 2 ^ 18 + boolBit th.stepArmed * 2 ^ 17 +
    l.kernel.mdepth * 2 ^ 12 + th.meetStk.length * 2 ^ 8 + l.prio)
/-- R95. -/
def placeWord (t : Team) (g : Group) : Word :=
  BitVec.ofNat 32 (t.core * 2 ^ 20 + t.part * 2 ^ 16 + t.s0 * 2 ^ 13 + t.p0 * 2 ^ 11 + g.sub * 2 ^ 8 + g.port * 2 ^ 6)
/-- R192. -/
def outstWord (g : Group) : Word := BitVec.ofNat 32 (g.tlc * 2 ^ 24 + g.cpc * 2 ^ 16 + g.stc * 2 ^ 8 + g.ldc)

/-- Where a system register belongs (R91). -/
inductive SysScope where
  | thread | group | wide | counter
  deriving DecidableEq, Repr

/-- R91, R478: the scope and the words of an assigned number. -/
def sysReg (n : Nat) : Option (SysScope × Nat) :=
  if n = 0x002 ∨ n = 0x003 ∨ n = 0x008 then some (.thread, 2)
  else if n < 0x009 then some (.thread, 1)
  else if n = 0x009 then some (.wide, 2)
  else if n = 0x00A then some (.group, 1)
  else if n = 0x00B ∨ n = 0x00C then some (.wide, 1)
  else if 0x010 ≤ n ∧ n < 0x020 then some (.group, 1)
  else if n = 0x020 then some (.wide, 2)
  else if n = 0x100 ∨ n = 0x101 ∨ n = 0x105 then some (.counter, 2)
  else if n = 0x102 ∨ n = 0x103 ∨ n = 0x104 ∨ n = 0x106 then some (.counter, 1)
  else if (0x108 ≤ n ∧ n < 0x110) ∨ n = 0x110 then some (.counter, 2)
  else none

/-- The value of a register for a lane. DEDUCED: log entry 43. -/
def sysValue (s : State) (r : Run) (c n : Nat) : Nat :=
  let th := laneTh s r c
  let t := getTeam s r.team
  let g := getGroup s r.team r.grp
  match n with
  | 0x000 => (statusWord s r c).toNat
  | 0x001 => th.cause.toNat
  | 0x002 => th.epc.toNat
  | 0x003 => th.faultAddr.toNat
  | 0x004 => th.faultInfo.toNat
  | 0x005 => th.econd.toNat
  | 0x006 => th.crewStatus.toNat
  | 0x007 => th.repc.toNat
  | 0x008 => th.meet.toNat
  | 0x009 => (teamLaunch s r.team).desc.trap.toNat
  | 0x00A => (placeWord t g).toNat
  | 0x00B => t.ckptId.toNat
  | 0x020 => Config.deviceId.toNat
  | 0x100 => s.cycle.toNat
  | 0x101 => s.phcNs.toNat
  | 0x102 => s.steps.toNat
  | 0x103 => (outstWord g).toNat
  | 0x104 => t.runs.toNat
  | 0x105 => t.issued.toNat
  | 0x106 => t.satTeam.toNat
  | 0x110 => (mapGet 0 s.interf t.core).toNat
  | n =>
    if 0x010 ≤ n ∧ n < 0x020 then (g.k.getD n (.word 0)).plain.toNat
    else if 0x108 ≤ n ∧ n < 0x110 then
      (if (teamLaunch s r.team).desc.perf then (mapGet 0 s.perf (8 * t.core + (n - 0x108))).toNat else 0)
    else 0

/-- A read of SAT_TEAM clears it (R200). -/
def sysReadDone (s : State) (r : Run) (n : Nat) : State :=
  if n = 0x106 then modTeam s r.team fun t => { t with satTeam := 0 } else s

/-- R323: the reading lanes push the register's words; a counter's come later, and count in LDC. -/
def execRdsys (d : Dst) (num : BitVec 12) (s : State) : Host.Outcome State Fault Refusal :=
  attempt s fun s r =>
    let n := num.toNat
    match sysReg n with
    | none => .trap r.lowest cIllegalInstr 0 0
    | some (sc, w) =>
      (Res.guard (w == 1 || d.pairOk) r.lowest).andThen fun _ => (dstAllowed s r d (sc != .thread)).andThen fun _ =>
        if sc == .counter then
          (roomFor s r .ld true).map fun _ =>
            let ws := wordsOf w (sysValue s r r.lowest n)
            let id := s.nextId
            let cells := (List.range w).map (Cell.pend id)
            let kl := kLanes s r d
            let tl := threadLanes s r d
            let s := tl.foldl (fun s c => deliver s r c d cells) s
            let s := if kl.isEmpty then s else writeK s r d cells
            let fillOf := fun (x : Who) => Fill.mk x ws none 0 0 none false
            let fills := tl.map (fun c => fillOf (r.who c)) ++ (if kl.isEmpty then [] else [fillOf .group])
            let s := raiseCtr (addOp s r.team r.grp r.pc (r.nameOf r.lowest) (.load fills)) r.team r.grp .ld
            sysReadDone s r n
        else laneExec s r { d := d, n := w, srcs := [] } fun c => .ok { words := wordsOf w (sysValue s r c n) }

/-- R96: an accepted ERRINJ write. A partner's later write of the same ordinal is ignored. DEDUCED: log entry 48. -/
def writeErrinj (s : State) (tid : Nat) (v : Word) : State :=
  let t := getTeam s tid
  let n := t.errinjCount + 1
  let first : Bool := match t.partner with
    | none => true
    | some p => (getTeam s p).errinjCount < n
  let s := modTeam s tid fun t => { t with errinjCount := n }
  if teamIl s tid < 2 || field v 29 2 == 3 || !first then s else
  let armed : ArmedError := { kind := field v 29 2, side := field v 28 1 = 1, bit := field v 22 6,
                              thread := field v 12 10, skip := field v 8 4 }
  modTeam s (leadOf s tid) fun t => { t with errinj := if v.msb then some armed else none }

/-- R91, R324. DEDUCED: log entry 46. -/
def execWrsys (a : Src) (num : BitVec 12) (s : State) : Host.Outcome State Fault Refusal :=
  attempt s fun s r =>
    let n := num.toNat
    match sysReg n with
    | none => .trap r.lowest cIllegalInstr 0 0
    | some (sc, w) =>
      (Res.guard (w == 1 || a.pairOk) r.lowest).andThen fun _ =>
        (if sc == .group then notInBody s r else .ok ()).andThen fun _ =>
          if n = 0x002 then
            (forLanes r.lanes fun c => readSrc64 s r c a).map fun vs =>
              vs.foldl (fun s x => modLane s r x.1 fun th => { th with epc := x.2 }) s
          else if n = 0x005 then
            (forLanes r.lanes fun c => readSrc s r c a).map fun vs =>
              vs.foldl (fun s x => modLane s r x.1 fun th => { th with econd := x.2 }) s
          else if n = 0x00C then
            (readLow s r a).andThen fun v =>
              if !(teamLaunch s r.team).desc.inj then .trap r.lowest cPrivileged 0 0 else .ok (writeErrinj s r.team v)
          else if 0x010 ≤ n ∧ n < 0x018 then (readLow s r a).map fun v => setGroupK s r n (.word v)
          else .ok s

/-! ## Clock and checkpoints (R325, R326) -/

/-- R325: one sample for every active thread. -/
def execTime (d : Dst) (s : State) : Host.Outcome State Fault Refusal :=
  attempt s fun s r =>
    (dstAllowed s r d true).andThen fun _ => (sampleFor s r s.phcNs).andThen fun (s, v) =>
      laneExec s r { d := d, n := 2, srcs := [] } fun _ => .ok { words := wordsOf 2 v.toNat }

/-- R326: waits for pending entries, then for a team checkpoint under IL2 and IL3; in deterministic mode it is a flush
point. -/
def execCkpt (s : State) : Host.Outcome State Fault Refusal :=
  attempt s fun s r =>
    (notInBody s r).andThen fun _ =>
      let g := getGroup s r.team r.grp
      (Res.unless (!(g.threads.any Thread.hasPend || g.k.any Cell.isPend))).andThen fun _ =>
        match dueReport s r with
        | some (c, d) => .ok (raise (spendDue s r c) r c d)
        | none =>
          let t := getTeam s r.team
          if t.ckptWaiting.contains (32 + r.grp) then
            .ok (modTeam s r.team fun t => { t with ckptWaiting := t.ckptWaiting.filter (· != 32 + r.grp) })
          else
            let s := if (teamLaunch s r.team).kernel.det then flushDet s r.team fun _ => true else s
            if 2 ≤ teamIl s r.team then
              .ok (signal (modTeam s r.team fun t => { t with ckptWaiting := setAdd t.ckptWaiting r.grp }) .stall)
            else .ok s

/-! ## Service groups (R327) -/

/-- R327: the eight words of a request. -/
def svcWords (q : SvcReq) : List Word :=
  [BitVec.ofNat 32 (2 ^ 31 + q.aop * 2 ^ 27 + q.ord * 2 ^ 25 + q.scope * 2 ^ 23 + boolBit q.p * 2 ^ 22 + q.kind * 2 ^ 20),
   BitVec.ofNat 32 q.slot] ++ wordsOf 2 q.pa ++ wordsOf 2 q.value.toNat ++ [0, 0]

/-- R327: the oldest request of the cluster goes to eight registers; V = 0 where there is none.
DEDUCED: log entry 29. -/
def execSvctake (d : Fin 4) (s : State) : Host.Outcome State Fault Refusal :=
  attempt s fun s r =>
    (notInBody s r).andThen fun _ =>
      match (getTeam s r.team).firmware with
      | none => .trap r.lowest cPrivileged 0 0
      | some cl => .ok (r.lanes.foldl (fun s c =>
          let at_ := Dst.n (Fin.ofNat 32 (8 * d.val))
          let mine := fun (q : SvcReq) => q.cluster == cl && !q.taken && !q.waits
          let ws := match s.svc.find? mine with
            | some q => svcWords q
            | none => List.replicate 8 0
          let s := match s.svc.find? mine with
            | some q => { s with svc := admitSvc cl (dropFirst mine s.svc) ++ [{ q with taken := true }] }
            | none => s
          let s := writeDsts s r c at_ 0 (ws.map Cell.word)
          modLane s r c fun th => th.pushAll (ws.map Cell.word)) s)

/-- R327: delivers a value to the request of a return slot, or retires a non-returning one. DEDUCED: log entry 29. -/
def giveOne (s : State) (cl : Nat) (v : Dword) (b : Word) : State :=
  let p := fun (q : SvcReq) => q.taken && q.cluster == cl && q.slot == field b 0 20 && (2 ≤ q.kind) == b.msb
  match s.svc.find? p with
  | none => s
  | some q =>
    let s := { s with svc := dropFirst p s.svc }
    let s := closeLog s q v
    let s := q.reqs.foldl (fun s x => match findOp s x.2.op with
      | none => s
      | some o => atomDone s x.1 o.grp x.2 v) s
    if b.msb then s else
    q.gives.foldl (fun s x => setFill s x.1 x.2 (wordsOf (if q.aop < 11 then 1 else 2) v.toNat) none) s

/-- R327. -/
def execSvcgive (a b : Src) (s : State) : Host.Outcome State Fault Refusal :=
  attempt s fun s r =>
    (notInBody s r).andThen fun _ =>
      match (getTeam s r.team).firmware with
      | none => .trap r.lowest cPrivileged 0 0
      | some cl =>
        (forLanes r.lanes fun c => (readSrc64 s r c a).andThen fun v => (readSrc s r c b).map fun w => (v, w)).map fun xs =>
          xs.foldl (fun s x => giveOne s cl x.2.1 x.2.2) s

/-! ## Translation and diagnostics (R328, R329) -/

/-- R176: an access or entry of a context's page at `va` is named by a range. -/
def shootNames (r : ShootRange) (ctx va size : Nat) : Bool :=
  match r with
  | .pages c a n => c.toNat == ctx && a < va + size && va < a + 4096 * n
  | .context c => c.toNat == ctx
  | .all => true
/-- R176: no TLB holds an entry of the range, and no access an outcome of a walk of it. -/
def purgeTlbs (s : State) (r : ShootRange) : State :=
  let out := fun (x : Nat × TlbEntry) => !shootNames r x.2.ctx x.2.va (2 ^ x.2.bits)
  { s with tlb := s.tlb.filter out, ctlb := s.ctlb.filter out
           outcomes := s.outcomes.filter fun x => !shootNames r x.ctx (x.page * 4096) 4096 }
/-- R176: walks of the range that have begun fill no TLB, and what is issued from now on uses new walks. DEDUCED: log entry 110. -/
def staleWalks (s : State) (r : ShootRange) : State :=
  let s := purgeTlbs s r
  { s with walks := s.walks.map fun w =>
      if w.started && shootNames r w.ctx (w.page * 4096) 4096 then { w with stale := true } else w }

/-- R328: a shoot-down of the issuing context's pages, counted in STC. -/
def execTlbinv (a b : Src) (s : State) : Host.Outcome State Fault Refusal :=
  attempt s fun s r =>
    (notInBody s r).andThen fun _ => (readLow64 s r a).andThen fun va => (readLow s r b).andThen fun n =>
      if 2 ^ 56 ≤ va.toNat then .trap r.lowest cNonCanonical va 0
      else (roomFor s r .st true).map fun _ =>
        let ctx := BitVec.ofNat 16 (teamLaunch s r.team).ctx
        let range := if n = 0 then .context ctx else .pages ctx (va.toNat / 4096 * 4096) n.toNat
        raiseCtr (addOp (staleWalks s range) r.team r.grp r.pc r.lowest (.shootdown range true)) r.team r.grp .st

/-- R329. -/
def execDiagMark (a : Src) (s : State) : Host.Outcome State Fault Refusal :=
  attempt s fun s r => (readLow s r a).map fun v =>
    trace s (getTeam s r.team).part 3 (nameOfLane s r r.lowest) (natWord v.toNat ++ helperIter s r r.lowest)
/-- R329. DEDUCED: log entry 47. -/
def execDiagMask (d : Dst) (s : State) : Host.Outcome State Fault Refusal :=
  attempt s fun s r => (dstAllowed s r d true).andThen fun _ =>
    laneExec s r { d := d, srcs := [] } fun _ => .ok { words := [BitVec.ofNat 32 (takenMask r.lanes)] }

end Sys2Proof.Machine
end

