-- ==== Sys2Proof/Machine/Lane.lean ====
section
/-! DEFINITION. The meanings of the lane-class instructions, opcodes 0x00 to 0x3F (R234 to R267). -/

namespace Sys2Proof.Machine

/-! ## Integer add, subtract and multiply (R240 to R242) -/

/-- R240. -/
def execAdd (o : RFmt) (s : State) : Host.Outcome State Fault Refusal :=
  attempt s fun s r => binary s r o opAdd
/-- R240. -/
def execSub (o : RFmt) (s : State) : Host.Outcome State Fault Refusal :=
  attempt s fun s r => binary s r o opSub
/-- R240: the carry comes from the guard's cc register, even with F clear. DEDUCED: log entry 17. -/
def execAddc (o : RFmt) (s : State) : Host.Outcome State Fault Refusal :=
  attempt s fun s r => laneExec s r { d := o.d, srcs := [o.a, o.b], f := o.f, g := o.g } fun c =>
    (readSrc s r c o.a).andThen fun a => (readSrc s r c o.b).andThen fun b => (readCc s r c o.g.cc).map fun fl =>
      LaneOut.of (opAddc fl.c a b)
/-- R240: the carry comes from the guard's cc register, even with F clear. DEDUCED: log entry 17. -/
def execSubb (o : RFmt) (s : State) : Host.Outcome State Fault Refusal :=
  attempt s fun s r => laneExec s r { d := o.d, srcs := [o.a, o.b], f := o.f, g := o.g } fun c =>
    (readSrc s r c o.a).andThen fun a => (readSrc s r c o.b).andThen fun b => (readCc s r c o.g.cc).map fun fl =>
      LaneOut.of (opSubb fl.c a b)
/-- R241. -/
def execMul (o : RFmt) (s : State) : Host.Outcome State Fault Refusal :=
  attempt s fun s r => binary s r o opMul
/-- R241. -/
def execMulh (o : RFmt) (s : State) : Host.Outcome State Fault Refusal :=
  attempt s fun s r => binary s r o opMulh
/-- R241. -/
def execMulhn (o : RFmt) (s : State) : Host.Outcome State Fault Refusal :=
  attempt s fun s r => binary s r o opMulhn
/-- R241. -/
def execMad (o : TFmt) (s : State) : Host.Outcome State Fault Refusal :=
  attempt s fun s r => ternary s r o.d o.a o.b o.c o.f opMad
/-- R50, R242. -/
def execDiv (o : RFmt) (s : State) : Host.Outcome State Fault Refusal :=
  attempt s fun s r => binaryLong s r o opDiv
/-- R50, R242. -/
def execDivn (o : RFmt) (s : State) : Host.Outcome State Fault Refusal :=
  attempt s fun s r => binaryLong s r o opDivn
/-- R50, R242. -/
def execRem (o : RFmt) (s : State) : Host.Outcome State Fault Refusal :=
  attempt s fun s r => binaryLong s r o opRem
/-- R50, R242. -/
def execRemn (o : RFmt) (s : State) : Host.Outcome State Fault Refusal :=
  attempt s fun s r => binaryLong s r o opRemn

/-! ## Minimum, maximum, absolute value and saturation (R243) -/

/-- R243. -/
def execMin (o : RFmt) (s : State) : Host.Outcome State Fault Refusal :=
  attempt s fun s r => binary s r o fun a b => plain (minI a b)
/-- R243. -/
def execMax (o : RFmt) (s : State) : Host.Outcome State Fault Refusal :=
  attempt s fun s r => binary s r o fun a b => plain (maxI a b)
/-- R243. -/
def execMinn (o : RFmt) (s : State) : Host.Outcome State Fault Refusal :=
  attempt s fun s r => binary s r o fun a b => plain (minN a b)
/-- R243. -/
def execMaxn (o : RFmt) (s : State) : Host.Outcome State Fault Refusal :=
  attempt s fun s r => binary s r o fun a b => plain (maxN a b)
/-- R243. -/
def execAddsat (o : RFmt) (s : State) : Host.Outcome State Fault Refusal :=
  attempt s fun s r => binary s r o opAddsat
/-- R243. -/
def execSubsat (o : RFmt) (s : State) : Host.Outcome State Fault Refusal :=
  attempt s fun s r => binary s r o opSubsat
/-- R245. -/
def execSla (o : RFmt) (s : State) : Host.Outcome State Fault Refusal :=
  attempt s fun s r => binary s r o opSla

/-! ## Logical, shift and bit operations (R244 to R247) -/

/-- R244. -/
def execAnd (o : RFmt) (s : State) : Host.Outcome State Fault Refusal :=
  attempt s fun s r => binary s r o fun a b => plain (a &&& b)
/-- R244. -/
def execOr (o : RFmt) (s : State) : Host.Outcome State Fault Refusal :=
  attempt s fun s r => binary s r o fun a b => plain (a ||| b)
/-- R244. -/
def execXor (o : RFmt) (s : State) : Host.Outcome State Fault Refusal :=
  attempt s fun s r => binary s r o fun a b => plain (a ^^^ b)
/-- R244. -/
def execAndn (o : RFmt) (s : State) : Host.Outcome State Fault Refusal :=
  attempt s fun s r => binary s r o fun a b => plain (a &&& ~~~b)
/-- R247. -/
def execBfx (o : RFmt) (s : State) : Host.Outcome State Fault Refusal :=
  attempt s fun s r => binary s r o fun a b => plain (bfx32 a b)
/-- R245. -/
def execShl (o : RFmt) (s : State) : Host.Outcome State Fault Refusal :=
  attempt s fun s r => binary s r o fun a b => plain (shl32 a b.toNat)
/-- R245. -/
def execShr (o : RFmt) (s : State) : Host.Outcome State Fault Refusal :=
  attempt s fun s r => binary s r o fun a b => plain (shr32 a b.toNat)
/-- R245. -/
def execSar (o : RFmt) (s : State) : Host.Outcome State Fault Refusal :=
  attempt s fun s r => binary s r o fun a b => plain (sar32 a b.toNat)
/-- R245. -/
def execRot (o : RFmt) (s : State) : Host.Outcome State Fault Refusal :=
  attempt s fun s r => binary s r o fun a b => plain (rot32 a b.toNat)

/-! ## Compare, select and move (R248 to R250) -/

/-- R248. -/
def execCmp (o : CmpFmt) (s : State) : Host.Outcome State Fault Refusal :=
  attempt s fun s r => compare s r o.cc o.g fun c =>
    (readSrc s r c o.a).andThen fun a => (readSrc s r c o.b).map fun b => flagsCmp a b
/-- R248. -/
def execCmpn (o : CmpFmt) (s : State) : Host.Outcome State Fault Refusal :=
  attempt s fun s r => compare s r o.cc o.g fun c =>
    (readSrc s r c o.a).andThen fun a => (readSrc s r c o.b).map fun b => flagsCmpn a b
/-- R248. -/
def execTst (o : CmpFmt) (s : State) : Host.Outcome State Fault Refusal :=
  attempt s fun s r => compare s r o.cc o.g fun c =>
    (readSrc s r c o.a).andThen fun a => (readSrc s r c o.b).map fun b => flagsTst a b
/-- R249: the guard field selects; every active thread writes and pushes. -/
def execSel (o : SelFmt) (s : State) : Host.Outcome State Fault Refusal :=
  attempt s fun s r =>
    (dstAllowed s r o.d (o.a.isK && o.b.isK && o.g.cond == .al)).andThen fun _ =>
      laneExec s r { d := o.d, srcs := [o.a, o.b] } fun c =>
        (readSrc s r c o.a).andThen fun a => (readSrc s r c o.b).andThen fun b => (guardTrue s r c o.g).map fun yes =>
          { words := [if yes then a else b] }
/-- R240. -/
def execAddi (o : IFmt) (s : State) : Host.Outcome State Fault Refusal :=
  attempt s fun s r => immediate s r o.d o.a fun a => a + o.imm.signExtend 32
/-- R241. -/
def execMuli (o : IFmt) (s : State) : Host.Outcome State Fault Refusal :=
  attempt s fun s r => immediate s r o.d o.a fun a => a * o.imm.signExtend 32
/-- R244: imm13 is zero-extended (R221). -/
def execAndi (o : IFmt) (s : State) : Host.Outcome State Fault Refusal :=
  attempt s fun s r => immediate s r o.d o.a fun a => a &&& o.imm.setWidth 32
/-- R244: imm13 is zero-extended (R221). -/
def execOri (o : IFmt) (s : State) : Host.Outcome State Fault Refusal :=
  attempt s fun s r => immediate s r o.d o.a fun a => a ||| o.imm.setWidth 32
/-- R244: imm13 is zero-extended (R221). -/
def execXori (o : IFmt) (s : State) : Host.Outcome State Fault Refusal :=
  attempt s fun s r => immediate s r o.d o.a fun a => a ^^^ o.imm.setWidth 32
/-- R245. -/
def execShli (o : ShFmt) (s : State) : Host.Outcome State Fault Refusal :=
  attempt s fun s r => immediate s r o.d o.a fun a => shl32 a o.n.toNat
/-- R245. -/
def execShri (o : ShFmt) (s : State) : Host.Outcome State Fault Refusal :=
  attempt s fun s r => immediate s r o.d o.a fun a => shr32 a o.n.toNat
/-- R245. -/
def execSari (o : ShFmt) (s : State) : Host.Outcome State Fault Refusal :=
  attempt s fun s r => immediate s r o.d o.a fun a => sar32 a o.n.toNat
/-- R245. -/
def execRoti (o : ShFmt) (s : State) : Host.Outcome State Fault Refusal :=
  attempt s fun s r => immediate s r o.d o.a fun a => rot32 a o.n.toNat
/-- R248: unguarded, against sext(imm13, 13). -/
def execCmpi (o : CmpiFmt) (s : State) : Host.Outcome State Fault Refusal :=
  attempt s fun s r => compare s r o.cc noGuard fun c =>
    (readSrc s r c o.a).map fun a => flagsCmp a (o.imm.signExtend 32)
/-- R250. -/
def execMovi (o : MoviFmt) (s : State) : Host.Outcome State Fault Refusal :=
  attempt s fun s r => laneExec s r { d := o.d, srcs := [] } fun _ => .ok { words := [o.imm.signExtend 32] }
/-- R250: imm19 to bits [31:13]. -/
def execLdhi (o : LFmt) (s : State) : Host.Outcome State Fault Refusal :=
  attempt s fun s r => laneExec s r { d := o.d, srcs := [] } fun _ => .ok { words := [o.imm.setWidth 32 <<< 13] }
/-- R240. -/
def execNeg (o : UFmt) (s : State) : Host.Outcome State Fault Refusal :=
  attempt s fun s r => unary s r o opNeg
/-- R243. -/
def execAbs (o : UFmt) (s : State) : Host.Outcome State Fault Refusal :=
  attempt s fun s r => unary s r o opAbs
/-- R244. -/
def execNot (o : UFmt) (s : State) : Host.Outcome State Fault Refusal :=
  attempt s fun s r => unary s r o fun a => plain (~~~a)
/-- R246. -/
def execClz (o : UFmt) (s : State) : Host.Outcome State Fault Refusal :=
  attempt s fun s r => unary s r o fun a => plain (clz32 a)
/-- R246. -/
def execPopc (o : UFmt) (s : State) : Host.Outcome State Fault Refusal :=
  attempt s fun s r => unary s r o fun a => plain (popc32 a)
/-- R246. -/
def execBrev (o : UFmt) (s : State) : Host.Outcome State Fault Refusal :=
  attempt s fun s r => unary s r o fun a => plain (brev32 a)
/-- R250. -/
def execMov (o : UFmt) (s : State) : Host.Outcome State Fault Refusal :=
  attempt s fun s r => unary s r o plain
/-- R247. -/
def execBfi (o : TFmt) (s : State) : Host.Outcome State Fault Refusal :=
  attempt s fun s r => ternary s r o.d o.a o.b o.c o.f fun a b c => plain (bfi32 a b c)
/-- R259. -/
def execDot4 (o : TFmt) (s : State) : Host.Outcome State Fault Refusal :=
  attempt s fun s r => ternary s r o.d o.a o.b o.c o.f opDot4

/-! ## FP32 arithmetic (R251 to R254) -/

/-- R251. -/
def execFadd (o : RFmt) (s : State) : Host.Outcome State Fault Refusal :=
  attempt s fun s r => binary s r o opFadd
/-- R251. -/
def execFsub (o : RFmt) (s : State) : Host.Outcome State Fault Refusal :=
  attempt s fun s r => binary s r o opFsub
/-- R251. -/
def execFmul (o : RFmt) (s : State) : Host.Outcome State Fault Refusal :=
  attempt s fun s r => binary s r o opFmul
/-- R55, R251. -/
def execFdiv (o : RFmt) (s : State) : Host.Outcome State Fault Refusal :=
  attempt s fun s r => binaryLong s r o opFdiv
/-- R252. -/
def execFmin (o : RFmt) (s : State) : Host.Outcome State Fault Refusal :=
  attempt s fun s r => binary s r o opFmin
/-- R252. -/
def execFmax (o : RFmt) (s : State) : Host.Outcome State Fault Refusal :=
  attempt s fun s r => binary s r o opFmax
/-- R252. -/
def execFsgn (o : RFmt) (s : State) : Host.Outcome State Fault Refusal :=
  attempt s fun s r => binary s r o opFsgn
/-- R253. -/
def execFcmp (o : CmpFmt) (s : State) : Host.Outcome State Fault Refusal :=
  attempt s fun s r => compare s r o.cc o.g fun c =>
    (readSrc s r c o.a).andThen fun a => (readSrc s r c o.b).map fun b => flagsFcmp a b
/-- R251. -/
def execFfma (o : TFmt) (s : State) : Host.Outcome State Fault Refusal :=
  attempt s fun s r => ternary s r o.d o.a o.b o.c o.f opFfma
/-- R55, R254. -/
def execFrcp (o : UFmt) (s : State) : Host.Outcome State Fault Refusal :=
  attempt s fun s r => unaryLong s r o opFrcp
/-- R55, R254. -/
def execFsqrt (o : UFmt) (s : State) : Host.Outcome State Fault Refusal :=
  attempt s fun s r => unaryLong s r o opFsqrt
/-- R55, R254. -/
def execFrsq (o : UFmt) (s : State) : Host.Outcome State Fault Refusal :=
  attempt s fun s r => unaryLong s r o opFrsq
/-- R55, R254. -/
def execFexp2 (o : UFmt) (s : State) : Host.Outcome State Fault Refusal :=
  attempt s fun s r => unaryLong s r o opFexp2
/-- R55, R254. -/
def execFlog2 (o : UFmt) (s : State) : Host.Outcome State Fault Refusal :=
  attempt s fun s r => unaryLong s r o opFlog2
/-- R55, R254. -/
def execFsin (o : UFmt) (s : State) : Host.Outcome State Fault Refusal :=
  attempt s fun s r => unaryLong s r o opFsin
/-- R55, R254. -/
def execFcos (o : UFmt) (s : State) : Host.Outcome State Fault Refusal :=
  attempt s fun s r => unaryLong s r o opFcos
/-- R254. -/
def execFclass (o : UFmt) (s : State) : Host.Outcome State Fault Refusal :=
  attempt s fun s r => unary s r o opFclass
/-- R254: the rounding mode is part of the selector. -/
def execFrnd (o : FrndFmt) (s : State) : Host.Outcome State Fault Refusal :=
  attempt s fun s r => laneExec s r { d := o.d, srcs := [o.a], f := o.f, g := o.g } fun c =>
    (readSrc s r c o.a).map fun a => LaneOut.of (opFrnd o.rm a)

/-! ## Packed pairs and conversion (R255, R256) -/

/-- R255. -/
def execPrfmaF16 (o : T0Fmt) (s : State) : Host.Outcome State Fault Refusal :=
  attempt s fun s r => ternary s r o.d o.a o.b o.c false fun a b c => (pairFma fp16 a b c, {})
/-- R255. -/
def execPrfmaB16 (o : T0Fmt) (s : State) : Host.Outcome State Fault Refusal :=
  attempt s fun s r => ternary s r o.d o.a o.b o.c false fun a b c => (pairFma bf16 a b c, {})
/-- R255. -/
def execPradd (o : PrFmt) (s : State) : Host.Outcome State Fault Refusal :=
  attempt s fun s r => pairwise s r o.d o.a o.b (pairOp (halfFmt o.ty) FVal.add)
/-- R255. -/
def execPrsub (o : PrFmt) (s : State) : Host.Outcome State Fault Refusal :=
  attempt s fun s r => pairwise s r o.d o.a o.b (pairOp (halfFmt o.ty) FVal.sub)
/-- R255. -/
def execPrmul (o : PrFmt) (s : State) : Host.Outcome State Fault Refusal :=
  attempt s fun s r => pairwise s r o.d o.a o.b (pairOp (halfFmt o.ty) FVal.mul)
/-- R255. -/
def execPrmin (o : PrFmt) (s : State) : Host.Outcome State Fault Refusal :=
  attempt s fun s r => pairwise s r o.d o.a o.b (pairMinMax (halfFmt o.ty) true)
/-- R255. -/
def execPrmax (o : PrFmt) (s : State) : Host.Outcome State Fault Refusal :=
  attempt s fun s r => pairwise s r o.d o.a o.b (pairMinMax (halfFmt o.ty) false)
/-- R256: 64-bit types take a source pair and give two words. -/
def execCvt (o : VFmt) (s : State) : Host.Outcome State Fault Refusal :=
  attempt s fun s r =>
    let n := if o.dst.is64 then 2 else 1
    laneExec s r { d := o.d, n := n, srcs := [o.a] } fun c =>
      (if o.src.is64 then (readSrc64 s r c o.a).map BitVec.toNat else (readSrc s r c o.a).map BitVec.toNat).map fun v =>
        { words := wordsOf n (cvtValue o.src o.dst o.rm o.sat v).toNat }

/-! ## Narrow and block instructions (R257, R258) -/

/-- R257. -/
def execPack (o : NarFmt) (s : State) : Host.Outcome State Fault Refusal :=
  attempt s fun s r => pairwise s r o.d o.a o.b (packW (widthOf o.w) o.o)
/-- R257. -/
def execUnpk (o : NarFmt) (s : State) : Host.Outcome State Fault Refusal :=
  attempt s fun s r => pairwise s r o.d o.a o.b (unpkW (widthOf o.w) o.o)
/-- R257. -/
def execBfpx (o : NarFmt) (s : State) : Host.Outcome State Fault Refusal :=
  attempt s fun s r => pairwise s r o.d o.a o.b (bfpxW (widthOf o.w) o.o)
/-- The lanes' srcA values, in ascending thread index (R261). -/
def laneValues (s : State) (r : Run) (a : Src) : Res (List (Nat × Word)) := forLanes r.lanes fun c => readSrc s r c a

/-- Writes and pushes one word in every active lane (R261). -/
def crossResult (s : State) (r : Run) (d : Dst) (f : Nat → Word) : State :=
  r.lanes.foldl (fun s c => deliver s r c d [.word (f c)]) s

/-- R261: a cross-thread instruction takes no k destination and stands in no crew body. -/
def crossAllowed (s : State) (r : Run) (d : Dst) : Res Unit :=
  (notInBody s r).andThen fun _ => Res.guard (!d.isK) r.lowest

/-- R258 without .EXP: the block of the 32 threads, inactive ones giving +0. -/
def bfpqGroup (w : Nat) (vals : List (Nat × Word)) : List (Nat × Word) × Nat :=
  let at_ := fun (t : Nat) => ((vals.find? fun x => x.1 == t).map Prod.snd).getD 0
  let (b, c1) := formBlock ((List.range 32).map fun t => valF (at_ t))
  let (ms, c2) := narrowBlock w b
  (vals.map fun x => (x.1, bfpqWord b.e (ms.getD x.1 0)), c1 + c2)

/-- R258: BFPQ.EXP works in each thread alone; BFPQ forms one block across the group. SAT_TEAM counts (R200).
DEDUCED: log entry 19. -/
def execBfpq (o : NarFmt) (s : State) : Host.Outcome State Fault Refusal :=
  attempt s fun s r =>
    if o.o then
      (laneExec s r { d := o.d, srcs := [.n 0] } fun c =>
        (readSrc s r c o.a).andThen fun a => (readSrc s r c o.b).map fun b =>
          { words := [(bfpqExp (widthOf o.w) a b).1] }).andThen fun s' =>
        (forLanes r.lanes fun c => (readSrc s r c o.a).andThen fun a => (readSrc s r c o.b).map fun b =>
          (bfpqExp (widthOf o.w) a b).2).map fun ns => addSat s' r.team ((ns.map Prod.snd).foldl (· + ·) 0)
    else
      (crossAllowed s r o.d).andThen fun _ => (laneValues s r o.a).map fun vals =>
        let (ws, n) := bfpqGroup (widthOf o.w) vals
        addSat (crossResult s r o.d fun c => ((ws.find? fun x => x.1 == c).map Prod.snd).getD 0) r.team n

/-! ## Cross-thread instructions (R260 to R265) -/

/-- The value of thread `t` among the active ones. -/
def valueAt (vals : List (Nat × Word)) (t : Nat) : Option Word := (vals.find? fun x => x.1 == t).map Prod.snd

/-- R262: the giving thread, none where it lies outside the group. -/
def relayGiver (mode : RelayMode) (t : Nat) (b : Word) : Option Nat :=
  match mode with
  | .atThread => some b.toNat
  | .behind => if b.toNat ≤ t then some (t - b.toNat) else none
  | .ahead => some (t + b.toNat)
  | .flip => some (t ^^^ (b.toNat % 32))

/-- R262. -/
def execRelay (o : RelayFmt) (s : State) : Host.Outcome State Fault Refusal :=
  attempt s fun s r =>
    (crossAllowed s r o.d).andThen fun _ => (laneValues s r o.a).andThen fun vals => (laneValues s r o.b).map fun bs =>
      crossResult s r o.d fun c =>
        let own := (valueAt vals c).getD 0
        ((relayGiver o.mode c ((valueAt bs c).getD 0)).bind (valueAt vals)).getD own

/-- A mask with a bit for each listed thread. -/
def maskOf (ts : List Nat) : Word := BitVec.ofNat 32 (ts.foldl (fun n t => n + 2 ^ t) 0)

/-- R263. -/
def censusWord (mode : CensusMode) (vals : List (Nat × Word)) : Word :=
  let hot := (vals.filter fun x => x.2 != 0).map Prod.fst
  match mode with
  | .every => if hot.length = vals.length then 1 else 0
  | .some => if hot.isEmpty then 0 else 1
  | .mask => maskOf hot
  | .live => maskOf (vals.map Prod.fst)

/-- R263: .LIVE reads no source. -/
def execCensus (o : CensusFmt) (s : State) : Host.Outcome State Fault Refusal :=
  attempt s fun s r =>
    (crossAllowed s r o.d).andThen fun _ =>
      (if o.mode == .live then .ok (r.lanes.map fun c => (c, 0)) else laneValues s r o.a).map fun vals =>
        crossResult s r o.d fun _ => censusWord o.mode vals

/-- A value with a NaN made canonical (R52). -/
def canonNan (w : Word) : Word := if isNanW w then 0x7FC00000#32 else w

/-- R264: one step of a combination. -/
def redStep (mode : RedMode) (a b : Word) : Word :=
  match mode with
  | .add => a + b
  | .min => minI a b
  | .max => maxI a b
  | .minn => minN a b
  | .maxn => maxN a b
  | .and => a &&& b
  | .or => a ||| b
  | .fadd => addF a b

/-- R264: the combination in ascending thread index, a first NaN made canonical for .FADD. -/
def redFold (mode : RedMode) : List Word → Word
  | [] => 0
  | v :: rest => rest.foldl (redStep mode) (if mode == .fadd then canonNan v else v)

/-- R264. -/
def execRedg (o : RedFmt) (s : State) : Host.Outcome State Fault Refusal :=
  attempt s fun s r =>
    (crossAllowed s r o.d).andThen fun _ => (laneValues s r o.a).map fun vals =>
      crossResult s r o.d fun _ => redFold o.mode (vals.map Prod.snd)

/-- R264: an inclusive scan. -/
def execScang (o : RedFmt) (s : State) : Host.Outcome State Fault Refusal :=
  attempt s fun s r =>
    (crossAllowed s r o.d).andThen fun _ => (laneValues s r o.a).map fun vals =>
      crossResult s r o.d fun c => redFold o.mode ((vals.filter fun x => x.1 ≤ c).map Prod.snd)

/-- R265. -/
def peersWord (mode : PeersMode) (vals : List (Nat × Word)) (t : Nat) : Word :=
  let own := (valueAt vals t).getD 0
  let same := (vals.filter fun x => x.2 == own).map Prod.fst
  match mode with
  | .eq => maskOf same
  | .uniform => if same.length = vals.length then maskOf (vals.map Prod.fst) else 0

/-- R265. -/
def execPeers (o : PeersFmt) (s : State) : Host.Outcome State Fault Refusal :=
  attempt s fun s r =>
    (crossAllowed s r o.d).andThen fun _ => (laneValues s r o.a).map fun vals =>
      crossResult s r o.d (peersWord o.mode vals)

/-- R265. -/
def execLeader (o : LeaderFmt) (s : State) : Host.Outcome State Fault Refusal :=
  attempt s fun s r =>
    (crossAllowed s r o.d).map fun _ =>
      crossResult s r o.d fun c =>
        match o.mode with
        | .flag => if c = r.lowest then 1 else 0
        | .id => BitVec.ofNat 32 r.lowest

end Sys2Proof.Machine
end

