-- ==== Sys2Proof/Machine/Crew.lean ====
section
/-! DEFINITION. The meanings of CREW, CREWACC and CREWEND, and what crews do between them (R38 to R45, R82, R315 to
R319). -/

namespace Sys2Proof.Machine

/-! ## Combining (R42, R315) -/

/-- R315: the value for no contributions. -/
def combEmpty : Comb → Word
  | .add => 0
  | .min => 0x7FFFFFFF#32
  | .max => 0x80000000#32
  | .minn => 0xFFFFFFFF#32
  | .maxn => 0
  | .fadd => 0
  | .fmin => 0x7F800000#32
  | .fmax => 0xFF800000#32

/-- R52: the first floating-point value, made canonical if a NaN. -/
def combFirst (op : Comb) (v : Word) : Word :=
  match op with
  | .fadd | .fmin | .fmax => canonNan v
  | _ => v
def combStep (op : Comb) (a b : Word) : Word :=
  match op with
  | .add => a + b
  | .min => minI a b
  | .max => maxI a b
  | .minn => minN a b
  | .maxn => maxN a b
  | .fadd => addF a b
  | .fmin => minMaxF true a b
  | .fmax => minMaxF false a b
/-- Folds one more contribution into a crew's value. -/
def combFold (op : Comb) (acc : Option Word) (v : Word) : Option Word :=
  some (match acc with
    | none => combFirst op v
    | some a => combStep op a v)

/-- Inserts a contribution in order of (iteration, order within it). -/
def insertContribution (x : Contribution) : List Contribution → List Contribution
  | [] => [x]
  | y :: rest =>
    if x.iter < y.iter || (x.iter == y.iter && x.seq < y.seq) then x :: y :: rest else y :: insertContribution x rest
/-- R42: the contributions in order. -/
def sortContributions (l : List Contribution) : List Contribution := l.foldl (fun acc x => insertContribution x acc) []
/-- R42: the combined result. -/
def Crew.result (c : Crew) : Word :=
  ((sortContributions c.contrib).foldl (fun acc x => combFold c.comb acc x.value) none).getD (combEmpty c.comb)

/-! ## Chunks (R38, R41, R82) -/

def chunksOf (count : Word) (c : Nat) : Nat := (count.toNat + 2 ^ c - 1) / 2 ^ c
def Crew.chunks (c : Crew) : Nat := chunksOf c.count c.c

/-- The next chunk of the pool in ascending order: a re-pooled one, or the next never claimed. -/
def Crew.nextChunk (c : Crew) : Option Nat :=
  match c.repooled with
  | k :: _ => if k < c.next || c.chunks ≤ c.next then some k else some c.next
  | [] => if c.next < c.chunks then some c.next else none
/-- The crew after chunk `k` is claimed. -/
def Crew.claimed (c : Crew) (k : Nat) : Crew :=
  if c.repooled.contains k then { c with repooled := setDel c.repooled k } else { c with next := k + 1 }

def emptyQ : List Cell := zeroCells 16
def clearCc : List CcCell := List.replicate 4 (.flags {})

/-- R82: a member's registers at the start of a chunk. -/
def Thread.startChunk (th : Thread) (c : Crew) (k : Nat) : Thread :=
  { th with
    pc := c.start, life := .runnable, q := emptyQ, cc := clearCc, repc := 0, meet := 0xFFFFFFFFFFFFFFFF, meetStk := []
    h := .word (c.chunkFirst k) :: zeroCells 7
    member := some { chunk := k, iter := k * 2 ^ c.c, seq := 0, nested := none } }

/-- R319: the registers of a member at the start of a nested chunk, whose first iteration has index `index`. -/
def Thread.startNested (th : Thread) (n : Nested) (index : Word) (m : Member) : Thread :=
  { th with
    pc := n.start, life := .runnable, q := emptyQ, cc := clearCc, repc := 0, meet := 0xFFFFFFFFFFFFFFFF, meetStk := []
    h := .word index :: zeroCells 7, member := some { m with nested := some n } }

/-- R316: only h0 changes at a later iteration. `iter` counts from the crew's lo. -/
def Thread.nextIter (th : Thread) (start : Dword) (index : Word) (m : Member) : Thread :=
  { th with pc := start, life := .runnable, h := listSet th.h 0 (.word index), member := some m }

/-! ## Recruiting (R39, R40, R43, R315) -/

/-- The candidate contexts of a recruiter, free ones first (R39). DEDUCED: log entry 41. -/
def crewCandidates (s : State) (r : Run) (c : Nat) (reach : Bool) : List (Nat × Nat) :=
  let tc := getCore s r.team
  let sub := (tc.group r.grp).sub
  let groups := if reach then (List.range tc.groups.length).filter fun g => (tc.group g).sub == sub else [r.grp]
  let all := groups.flatMap fun g => (List.range (tc.group g).threads.length).map fun t => (g, t)
  let ofLife := fun (l : Life) => all.filter fun x =>
    x != (r.grp, c) && !tc.borrowed x.1 x.2 && (tc.th x.1 (.lane x.2)).life == l
  ofLife .exited ++ ofLife .held

/-- The snapshot buffers of a sub-core that are taken, of its 8 (R40). -/
def buffersTaken (s : State) (core sub : Nat) : Nat :=
  s.teams.foldl (fun n t => if t.core = core ∧ t.holds then
    n + (t.body.crews.filter fun c => c.buffered && (t.body.group c.grp).sub == sub).length else n) 0

/-- R43: the helpers granted and the reason code. -/
def crewGrant (s : State) (r : Run) (c : Nat) (o : CrewFmt) : List (Nat × Nat) × Nat :=
  let t := getTeam s r.team
  if r.helpers.isSome || (laneTh s r c).inBody then ([], 3)
  else if !(teamLaunch s r.team).kernel.crews then ([], 4)
  else
    let cs := crewCandidates s r c o.reach
    if cs.isEmpty then ([], 1)
    else if 8 ≤ buffersTaken s t.core (getGroup s r.team r.grp).sub then ([], 2)
    else (cs.take (2 ^ o.h.val), 0)

/-- R43, R94: CREW's push, c3 and CREW_STATUS. -/
def Thread.noteGrant (th : Thread) (h granted reason : Nat) : Thread :=
  let th := th.push (.word (BitVec.ofNat 32 granted))
  { th with
    cc := listSet th.cc 3 (.flags ⟨false, granted == 0, decide (granted < 2 ^ h), false⟩)
    crewStatus := BitVec.ofNat 32 (2 ^ h * 65536 + granted * 256 + reason) }

def Thread.hold (th : Thread) : Held := ⟨th.q, th.cc, th.repc, th.meet, th.meetStk⟩
def Thread.unhold (th : Thread) (h : Held) : Thread :=
  { th with q := h.q, cc := h.cc, repc := h.repc, meet := h.meet, meetStk := h.meetStk }

/-- R315: the matching CREWEND, among the words that follow: the first that no CREW between pairs with. A word that cannot be
fetched faults the CREW, beside the faults that R43 lists. DESIGN CHOICE: log entry 107. -/
def findCrewEnd (s : State) (r : Run) (c : Nat) : Nat → Nat → Dword → Res (State × Dword)
  | 0, _, _ => .trap c cIllegalInstr 0 0
  | fuel + 1, depth, va =>
    let l := teamLaunch s r.team
    if l.codeEnd ≤ va.toNat then .trap c cIllegalInstr 0 0
    else if l.isHeader va then findCrewEnd s r c fuel depth (va + 4)
    else
      match codeWord s r c va with
      | .ok (s, w) =>
        match decode w with
        | .ok (.crew _) => findCrewEnd s r c fuel (depth + 1) (va + 4)
        | .ok .crewend => if depth = 0 then .ok (s, va) else findCrewEnd s r c fuel (depth - 1) (va + 4)
        | _ => findCrewEnd s r c fuel depth (va + 4)
      | .miss p => .miss p
      | .trap l x a i => .trap l x a i
      | _ => .stall

/-- A helper's registers at recruitment (R40). -/
def helperThread (start : Dword) : Thread := { Thread.fresh start 0 0 with inCrew := true }

/-- The helper set has work from now on (R31). -/
def Crew.touch (c : Crew) (now : Nat) : Crew := if c.since.isNone && !c.helpers.isEmpty then { c with since := some now } else c

/-- R315: one recruiter opens its crew: helpers are granted, the snapshot taken, state held, and chunks claimed in order
by the recruiter and its helpers. A helper that finds no chunk is released. DEDUCED: log entry 32. -/
def openCrew (s : State) (r : Run) (c : Nat) (o : CrewFmt) (lo count : Word) (crewEnd : Dword) : State :=
  let (cs, reason) := crewGrant s r c o
  let s := modLane s r c (·.noteGrant o.h.val cs.length reason)
  let th := laneTh s r c
  let cr : Crew :=
    { grp := r.grp, thr := c, lo := lo, count := count.toNat, c := o.c.val, comb := o.comb, hexp := o.h.val
      reach := o.reach, start := r.pc + 4, crewEnd := crewEnd, buffered := !cs.isEmpty, snap := (List.range 32).map th.n, held := th.hold }
  let th := { th with inCrew := true }
  let (cr, th) := match cr.nextChunk with
    | some k => (cr.claimed k, th.startChunk cr k)
    | none => (cr, { th with pc := crewEnd, life := .runnable, member := none, h := zeroCells 8 })
  let cr := cs.foldl (fun (cr : Crew) x =>
    match cr.nextChunk with
    | none => cr
    | some k =>
      { cr.claimed k with helpers := cr.helpers ++ [{ grp := x.1, thr := x.2, th := (helperThread cr.start).startChunk cr k, clkChunk := k }] }) cr
  modCore (modLane s r c fun _ => th) r.team fun tc => { tc with crews := tc.crews ++ [cr.touch s.cycle.toNat] }

/-- R319: a member opens a nested crew, alone. -/
def openNested (s : State) (r : Run) (c : Nat) (o : CrewFmt) (lo count : Word) (crewEnd : Dword) (m : Member) : State :=
  modLane s r c fun th =>
    let th := th.noteGrant o.h.val 0 3
    let n : Nested := { lo := lo, count := count.toNat, c := o.c.val, comb := o.comb, start := r.pc + 4, crewEnd := crewEnd, iter := 0,
                        fold := none, held := th.hold, h := th.h }
    if count = 0 then { th with pc := crewEnd, life := .runnable, member := some { m with nested := some n } }
    else th.startNested n lo m

/-- R38, R43, R315, R319. -/
def execCrew (o : CrewFmt) (s : State) : Host.Outcome State Fault Refusal :=
  attempt s fun s r =>
    (forLanes r.lanes fun c => (Res.guard (!(laneTh s r c).inBody ||
        (((laneTh s r c).member.map (·.nested.isNone)).getD false)) c).andThen fun _ =>
      (readSrc s r c o.lo).andThen fun lo => (readSrc s r c o.count).map fun n => (lo, n)).andThen fun xs =>
      (findCrewEnd s r r.lowest 4096 0 (r.pc + 4)).map fun (s, e) =>
        signal (xs.foldl (fun s x =>
          match (if (laneTh s r x.1).inBody then (laneTh s r x.1).member else none) with
          | some m => openNested s r x.1 o x.2.1 x.2.2 e m
          | none => openCrew s r x.1 o x.2.1 x.2.2 e) s) .jump

/-! ## Contributions (R42, R317) -/

/-- The iterations that the crew's members have yet to finish: the current one of every member that runs a chunk, and
the first of every chunk that is claimable. -/
def Crew.openIters (cr : Crew) (recruiter : Thread) : List Nat :=
  (recruiter.member.map (·.iter)).toList ++ cr.helpers.filterMap (fun h => h.th.member.map (·.iter)) ++
  cr.repooled.map (· * 2 ^ cr.c) ++ (if cr.next < cr.chunks then [cr.next * 2 ^ cr.c] else [])
/-- The lowest iteration not yet combined. DEDUCED: log entry 34. -/
def Crew.lowIter (cr : Crew) (recruiter : Thread) : Nat := (cr.openIters recruiter).foldl min cr.count
/-- R317: contributions that wait in the store: those of iterations above the lowest unfinished one. -/
def Crew.stored (cr : Crew) (recruiter : Thread) : Nat :=
  let low := cr.lowIter recruiter
  (cr.contrib.filter fun x => low < x.iter).length
/-- R317: a lane's contribution waits in the store: it does not run the lowest iteration of its crew. -/
def stores (s : State) (r : Run) (c : Nat) : Bool :=
  match (laneTh s r c).member, (getCore s r.team).crew r.grp (r.nameOf c) with
  | some m, some cr => m.nested.isNone && m.iter != cr.lowIter (getTh s r.team r.grp (.lane (r.nameOf c)))
  | _, _ => false
/-- R317: the store has no room for `n` more words, for a member whose contribution would wait in it. DEDUCED: log entry 32. -/
def storeFull (s : State) (r : Run) (n c : Nat) : Bool :=
  match (getCore s r.team).crew r.grp (r.nameOf c) with
  | some cr => stores s r c && 1024 < cr.stored (getTh s r.team r.grp (.lane (r.nameOf c))) + n
  | none => false

/-- R317: one member's contribution. DEDUCED: log entry 32. -/
def contribute (s : State) (r : Run) (c : Nat) (v : Word) : State :=
  match (laneTh s r c).member with
  | none => s
  | some m =>
    match m.nested with
    | some n => modLane s r c fun th => { th with member := some { m with nested := some { n with fold := combFold n.comb n.fold v } } }
    | none =>
      let s := modLane s r c fun th => { th with member := some { m with seq := m.seq + 1 } }
      modCore s r.team fun tc => tc.modCrew r.grp (r.nameOf c) fun cr =>
        { cr with contrib := cr.contrib ++ [⟨m.iter, m.seq, m.chunk, v⟩] }

/-- R317: members that find no room in the store wait at the CREWACC, and the others go on; where all wait, the run ends
before its word. Lanes take what room there is in ascending order. -/
def execCrewacc (a : Src) (s : State) : Host.Outcome State Fault Refusal :=
  attempt s fun s r =>
    (forLanes r.lanes fun c => (Res.guard ((laneTh s r c).inBody && (laneTh s r c).member.isSome) c).andThen fun _ =>
      readSrc s r c a).map fun vs =>
      let waiting := r.lanes.filter fun c =>
        storeFull s r (r.lanes.filter fun x => x ≤ c && r.nameOf x == r.nameOf c && stores s r x).length c
      let s := (vs.filter fun x => !waiting.contains x.1).foldl (fun s x => contribute s r x.1 x.2) s
      if waiting.isEmpty then s else
      let s := waiting.foldl (fun s c => modLane s r c fun th => { th with life := .waiting }) s
      let s := modRun s fun r => { r with lanes := r.lanes.filter fun c => !waiting.contains c }
      if (curRun s).lanes.isEmpty then countEnd (dropRun s) r.team else s

/-! ## CREWEND (R41, R44, R45, R318, R319) -/

/-- R41, R45: the recruiter's crew is finished, but for charged faults. -/
def Crew.finished (cr : Crew) : Bool := cr.helpers.isEmpty && cr.nextChunk.isNone && cr.chunks ≤ cr.done.length

/-- R45, R409: the iterations that a charged fault abandons, from the faulting one on. DEDUCED: log entry 34. -/
def Crew.abandoned (cr : Crew) (x : Charged) : Nat × Nat × Dword × Dword :=
  (8, min ((x.chunk + 1) * 2 ^ cr.c) cr.count - (x.iter - cr.lo).toNat, 0, x.iter.setWidth 64)
/-- R318: the report that the final CREWEND raises: helper faults first, then overruns. -/
def Crew.report (cr : Crew) (pc : Dword) : Option TrapDue :=
  let lowest := fun (l : List Charged) => l.foldl (fun (acc : Option Charged) x =>
    match acc with
    | none => some x
    | some y => if (x.iter - cr.lo).toNat < (y.iter - cr.lo).toNat then some x else some y) none
  match lowest cr.charged, lowest cr.overruns with
  | some f, _ => some { cause := f.cause, addr := f.addr, info := f.iter, epc := pc, charged := true,
                         others := cr.charged.length - 1, items := cr.charged.map cr.abandoned }
  | none, some f => some { cause := f.cause, addr := 0, info := f.iter, epc := pc, charged := true,
                           others := cr.overruns.length - 1 }
  | none, none => none

/-- R44, R45, R46, R326: a helper leaves at a chunk boundary instead of claiming another. -/
def releaseDue (s : State) (r : Run) (h : Helper) (thr : Nat) : Bool :=
  let t := getTeam s r.team
  h.leaving || (t.body.th h.grp (.lane h.thr)).life == .runnable || (t.body.th r.grp (.lane thr)).inTrap ||
  t.life == .stopping || il2Due s r.team || (teamIl s r.team == 3 && il3Due s (pairOf t.core))

/-- R318: the recruiter's crew completes. -/
def closeCrew (s : State) (r : Run) (c : Nat) (cr : Crew) : State :=
  let l := teamLaunch s r.team
  let s := modLane s r c fun th =>
    ({ th.unhold cr.held with inCrew := false, member := none, h := zeroCells 8 }.push (.word cr.result)).arrive l (r.pc + 4)
  restartWatchdog (modCore s r.team fun tc => { tc with crews := tc.crews.filter fun x => !(x.grp == r.grp && x.thr == c) })
    r.team

/-- R318, R319: the end of an iteration in one member; the answer tells a completed nested crew too. -/
def endIteration (s : State) (r : Run) (c : Nat) (cr : Crew) : State :=
  let th := laneTh s r c
  match th.member with
  | some m =>
    match m.nested with
    | some n =>
      if n.iter + 1 < n.count then
        let index := n.lo + BitVec.ofNat 32 (n.iter + 1)
        let n := { n with iter := n.iter + 1 }
        if n.iter % 2 ^ n.c = 0 then modLane s r c fun th => th.startNested n index m
        else modLane s r c fun th => th.nextIter n.start index { m with nested := some n }
      else
        let l := teamLaunch s r.team
        let s := restartWatchdog s r.team
        modLane s r c fun th =>
          ({ th.unhold n.held with h := n.h, member := some { m with nested := none } }.push
            (.word (n.fold.getD (combEmpty n.comb)))).arrive l (r.pc + 4)
    | none =>
      let last := m.chunk * 2 ^ cr.c + cr.chunkSize m.chunk
      if m.iter + 1 < last then
        modLane s r c fun th => th.nextIter cr.start (cr.lo + BitVec.ofNat 32 (m.iter + 1)) { m with iter := m.iter + 1, seq := 0 }
      else
        let cr := { cr with done := setAdd cr.done m.chunk }
        let due := match r.helpers with
          | none => false
          | some thr => cr.helpers.any fun h => 32 * h.grp + h.thr == c && releaseDue s r h thr
        let s := if r.helpers.isSome then
            perfEvent s (getTeam s r.team).core (teamLaunch s r.team).ctx 6 1 else s
        match (if due then none else cr.nextChunk) with
        | some k =>
          let s := modCore s r.team fun tc => tc.modCrew r.grp (r.nameOf c) fun x =>
            let x := { x with done := setAdd x.done m.chunk }.claimed k
            { x with helpers := x.helpers.map fun h =>
              if r.helpers.isSome && 32 * h.grp + h.thr = c then { h with effects := [] } else h }
          modLane s r c fun th => th.startChunk cr k
        | none =>
          let s := modCore s r.team fun tc => tc.modCrew r.grp (r.nameOf c) fun x => { x with done := setAdd x.done m.chunk }
          if r.helpers.isSome then modCore s r.team fun tc => tc.dropHelper r.grp (r.nameOf c) c
          else modLane s r c fun th => { th with member := none, pc := r.pc, life := .waiting }
  | none => s

/-- R318: the recruiter that has run its last chunk: its crew completes, or the thread waits. -/
def finalEnd (s : State) (r : Run) (c : Nat) : State :=
  match (getCore s r.team).crew r.grp (r.nameOf c) with
  | none => s
  | some cr =>
    if (laneTh s r c).member.isNone && r.helpers.isNone then
      (if cr.finished then
        (if (cr.report r.pc).isSome then modLane s r c fun th => { th with life := .runnable } else closeCrew s r c cr)
       else
        match cr.nextChunk with
        | some k =>
          modLane (modCore s r.team fun tc => tc.modCrew r.grp c fun x => x.claimed k) r c fun th => th.startChunk cr k
        | none => modLane s r c fun th => { th with life := .waiting })
    else s

/-- The lane's step of CREWEND. DEDUCED: log entry 33. -/
def crewEndLane (s : State) (r : Run) (c : Nat) : State :=
  match (getCore s r.team).crew r.grp (r.nameOf c) with
  | none => s
  | some cr => if (laneTh s r c).member.isSome then endIteration s r c cr else s

/-- A charged fault is due in a recruiter that ends its crew with this CREWEND (R45, R318). -/
def chargedDue (s : State) (r : Run) (c : Nat) : Option TrapDue :=
  if r.helpers.isSome then none else
  match (getCore s r.team).crew r.grp c with
  | none => none
  | some cr =>
    if (laneTh s r c).member.isNone && cr.finished then cr.report r.pc else none

/-- R318: blocking; a charged fault is raised with no effect in any lane. The trap entry spends it (`Crew.spendCharge`), so
that a report which is taken first leaves it charged. -/
def execCrewend (s : State) : Host.Outcome State Fault Refusal :=
  attempt s fun s r =>
    (forLanes r.lanes fun c => Res.guard (laneTh s r c).inBody c).map fun _ =>
      match r.lanes.findSome? fun c => (chargedDue s r c).map fun x => (c, x) with
      | some (c, d) => raise s r c d
      | none =>
        let atEnd := r.lanes.filter fun c => (laneTh s r c).member.isNone
        let s := r.lanes.foldl (fun s c => crewEndLane s r c) s
        let s := r.lanes.foldl (fun s c =>
          if atEnd.contains c || (laneTh s r c).life == .waiting then finalEnd s r c else s) s
        signal s .block

/-- R29, R318: a group waits at the CREWEND of a recruiter whose chunks have yet to finish, unless a member of it has
more work. DEDUCED: log entry 33. -/
def crewWaits (g : Group) : Bool :=
  g.threads.any (fun th => th.life == .waiting && th.inBody && th.member.isNone) &&
  !g.threads.any fun th => th.life == .runnable && th.inBody && th.member.isSome

end Sys2Proof.Machine
end

