-- ==== Sys2Proof/Machine/Matrix.lean ====
section
/-! DEFINITION. The meanings of the matrix-class instructions (R332 to R360), and the operands that an MMA fetches
(R106 to R108, R335 to R339). -/

namespace Sys2Proof.Machine

/-! ## Records (R334 to R338, R479) -/

/-- Word `i` of a record. -/
def recWord (ws : List Word) (i : Nat) : Word := ws.getD i 0
def recOf (g : Group) (x : Nat) : List Word := (List.range 8).map fun j => mapGet 0 g.x (8 * x + j)
def setRecWord (g : Group) (x j : Nat) (v : Word) : Group := { g with x := mapSet 0 g.x (8 * x + j) v }
def setRec (g : Group) (x : Nat) (ws : List Word) : Group :=
  (List.range 8).foldl (fun g j => setRecWord g x j (recWord ws j)) g

def recKind (ws : List Word) : Nat := field (recWord ws 0) 28 4
def recFmt (ws : List Word) : Nat := field (recWord ws 0) 24 4
def recW (ws : List Word) : Nat := field (recWord ws 0) 20 4
def recK (ws : List Word) : Nat := field (recWord ws 0) 10 10
def recOuter (ws : List Word) : Nat := field (recWord ws 0) 4 6
/-- The sparse count N, 0 where SPN is unassigned. -/
def recSpn (ws : List Word) : Nat :=
  match field (recWord ws 0) 2 2 with
  | 0 => 8
  | 1 => 16
  | 2 => 32
  | _ => 0
/-- The record's data lies in scratchpad. -/
def recScratch (ws : List Word) : Bool :=
  recKind ws == 2 || ((recKind ws == 3 || recKind ws == 4) && field (recWord ws 0) 1 1 == 1)
def recBase (ws : List Word) : Nat :=
  (recWord ws 1).toNat + (if recScratch ws then 0 else field (recWord ws 2) 0 24 * 2 ^ 32)
def recEbase (ws : List Word) : Nat :=
  (recWord ws 3).toNat + (if recScratch ws then 0 else field (recWord ws 4) 0 24 * 2 ^ 32)
/-- OSTR, and PSTR in a window record. -/
def recOstr (ws : List Word) : Nat := (recWord ws 5).toNat

/-- R479: the bits of word `j` that a record of a kind stores. -/
def recMask (kind j : Nat) : Word :=
  if j = 0 then 0xFFFFFFFE#32
  else if kind = 1 ∨ kind = 2 then (if j = 2 ∨ j = 4 then 0xFFFFFF#32 else 0xFFFFFFFF#32)
  else if kind = 3 then (if j = 2 then 0xFFFFFF#32 else if j = 1 ∨ j = 5 then 0xFFFFFFFF#32 else 0)
  else if kind = 4 then (if j = 7 then 0xFFFFFFF0#32 else 0xFFFFFFFF#32)
  else if kind = 5 then (if 4 ≤ j then 0 else if j = 3 then 7 else 0xFFFFFFFF#32)
  else 0xFFFFFFFF#32

/-! ## Window geometry (R337) -/

structure Window where
  tap : Nat
  s : Nat
  pad : Nat
  ih : Nat
  iw : Nat
  fh : Nat
  fw : Nat
  p0 : Nat
  dl : Nat
  deriving DecidableEq, Repr

def windowOf (ws : List Word) : Window :=
  { tap := field (recWord ws 2) 24 8, s := field (recWord ws 4) 28 4, pad := field (recWord ws 4) 24 4
    ih := field (recWord ws 6) 20 12, iw := field (recWord ws 6) 8 12, fh := field (recWord ws 6) 4 4
    fw := field (recWord ws 6) 0 4, p0 := field (recWord ws 7) 8 24, dl := field (recWord ws 7) 4 4 }

/-- R337: output pixels along an axis. -/
def outSize (i pad f s dl : Nat) : Nat :=
  (max 0 (((i : Int) + 2 * pad - ((f - 1) * dl + 1 : Nat)) / (s : Int) + 1)).toNat

/-- Where operand row `r` reads: none where it does not exist; no pixel where it is padding. -/
def Window.row (w : Window) (r : Nat) : Option (Option Nat) :=
  let oh := outSize w.ih w.pad w.fh w.s w.dl
  let ow := outSize w.iw w.pad w.fw w.s w.dl
  let p := w.p0 + r
  if oh * ow ≤ p then none else
  let iy : Int := ((p / ow * w.s : Nat) : Int) - w.pad + ((w.tap / w.fw * w.dl : Nat) : Int)
  let ix : Int := ((p % ow * w.s : Nat) : Int) - w.pad + ((w.tap % w.fw * w.dl : Nat) : Int)
  if iy < 0 || (w.ih : Int) ≤ iy || ix < 0 || (w.iw : Int) ≤ ix then some none
  else some (some (iy.toNat * w.iw + ix.toNat))

/-! ## Generators (R343, R68 to R72) -/

def genKindNum (g : GenReg) : Nat := field g.w2 12 4
/-- R343: the output kind, none where it is unassigned or its parameter is out of range. -/
def genKind (g : GenReg) : Option GenKind :=
  let p := field g.w3 16 16
  match genKindNum g with
  | 0 => some .sign
  | 1 => some .uniform
  | 2 => some .gaussian
  | 3 => some .rotary
  | 4 => some .causal
  | 5 => some (.band p)
  | 6 => if 1 ≤ p && p ≤ 64 then some (.random p) else none
  | _ => none

/-- R69: the effective seed of a generator for a group. -/
def genSeed (s : State) (tid grp : Nat) (g : GenReg) : Dword :=
  seedEff g.seed (field g.w2 10 2) (teamLaunch s tid).desc.salt.toNat (getTeam s tid).idx grp

/-- The frequency table of generator `gi` of a group. -/
def freqOf (g : Group) (gi : Nat) : List Word := (List.range 64).map fun i => mapGet 0 g.freq (64 * gi + i)

def genParams (s : State) (tid grp : Nat) (g : GenReg) (gi : Nat) : GenParams :=
  { kind := (genKind g).getD .causal, seed := genSeed s tid grp g, stream := field g.w2 16 16
    freq := freqOf (getGroup s tid grp) gi }

/-- The generator that a generator record names. -/
def recGen (ws : List Word) : Nat := field (recWord ws 3) 0 2
/-- R338: the canonical coordinates of operand element (row, col). -/
def canonical (ws : List Word) (row col : Nat) : Word × Word :=
  let i0 := recWord ws 1
  let j0 := recWord ws 2
  if field (recWord ws 3) 2 1 = 1 then (i0 + BitVec.ofNat 32 col, j0 + BitVec.ofNat 32 row)
  else (i0 + BitVec.ofNat 32 row, j0 + BitVec.ofNat 32 col)

/-! ## Footprints (R106, R335 to R337) -/

/-- Data bytes of `k` elements along K. -/
def lineBytes (ws : List Word) : Nat :=
  match recFmt ws with
  | 0 | 1 => recK ws * recW ws / 8
  | 2 | 3 => 2 * recK ws
  | _ => recK ws

/-- R336: bytes of a sparse group record. -/
def groupBytes (ws : List Word) : Nat := 16 + 8 * ((recSpn ws * recW ws + 63) / 64)

/-- An address of a record's space: wrap64 or wrap32 (R335). -/
def recAddr (ws : List Word) (a : Nat) : Nat := if recScratch ws then a % 2 ^ 32 else a % 2 ^ 64

/-- The bytes that line `r` reads: data, then exponents or masks. Empty for padding and for a row that does not exist. -/
def linePieces (ws : List Word) (tb r : Nat) : List (Nat × Nat) :=
  let k := recK ws
  match recKind ws with
  | 1 | 2 =>
    (recAddr ws (recBase ws + tb * (recWord ws 7).toNat + r * recOstr ws), lineBytes ws) ::
    (if recFmt ws = 0 then
      [(recAddr ws (recEbase ws + tb * field (recWord ws 6) 0 16 + r * field (recWord ws 6) 16 16), k / 32)] else [])
  | 3 =>
    (List.range (k / 64)).flatMap fun g =>
      let at_ := recAddr ws (recBase ws + r * recOstr ws + g * groupBytes ws)
      [(at_, if recFmt ws = 0 then 10 else 8), (recAddr ws (at_ + 16), recSpn ws * recW ws / 8)]
  | 4 =>
    match (windowOf ws).row r with
    | some (some q) =>
      (recAddr ws (recBase ws + q * recOstr ws), lineBytes ws) ::
      (if recFmt ws = 0 then [(recAddr ws (recEbase ws + q * (k / 32)), k / 32)] else [])
    | _ => []
  | _ => []

def recPieces (ws : List Word) (tb : Nat) : List (Nat × Nat) :=
  if recKind ws = 5 then [] else (List.range (recOuter ws)).flatMap (linePieces ws tb)

/-- Adds the new elements of a list to another that has no repeats. -/
def addNew (acc : List Nat) : List Nat → List Nat
  | [] => acc
  | x :: rest => addNew (if acc.contains x then acc else x :: acc) rest
/-- The 128-byte lines that pieces touch, the line touched last first. DEDUCED: log entry 39. -/
def pieceLines (ps : List (Nat × Nat)) : List Nat := ps.foldl (fun acc p => addNew acc (linesOf p.1 p.2)) []

/-! ## The checks of an MMA (R339, R347) -/

/-- The three opcodes (R339). -/
inductive MmaOp where
  | mma | mmas | mmat
  deriving DecidableEq, Repr

/-- R339, check 1. -/
def recKindOk (op : MmaOp) (b : Bool) (ws : List Word) : Bool :=
  let k := recKind ws
  (if b then (match op with
      | .mmat => k == 1 || k == 2 || k == 5
      | _ => k == 1 || k == 2 || k == 5)
    else (match op with
      | .mma => k == 1 || k == 2 || k == 5
      | .mmas => k == 3
      | .mmat => k == 4)) &&
  (k == 5 || k == 1 || recFmt ws != 4)

def fmtAlign (f : Nat) : Nat := if f ≤ 1 then 4 else if f ≤ 3 then 2 else 32
def widthOk (ws : List Word) : Bool := 1 < recFmt ws || (2 ≤ recW ws && recW ws ≤ 8)

/-- Check 2: fields, ranges and alignments (R334 to R338, R343). -/
def recFieldOk (b : Bool) (gen : GenReg) (ws : List Word) : Bool :=
  let k := recK ws
  let outer := recOuter ws
  let common := 32 ≤ k && k ≤ 512 && k % 32 == 0 && 1 ≤ outer && outer ≤ (if b then 16 else 32)
  let aligned := fun (n : Nat) => recBase ws % n == 0 && recOstr ws % n == 0
  common &&
  (match recKind ws with
   | 1 | 2 => recFmt ws ≤ 4 && widthOk ws && aligned (fmtAlign (recFmt ws))
   | 3 => recFmt ws ≤ 1 && widthOk ws && k % 64 == 0 && recSpn ws != 0 && aligned 8
   | 4 =>
     let w := windowOf ws
     recFmt ws ≤ 3 && widthOk ws && aligned (fmtAlign (recFmt ws)) && w.s != 0 && w.ih != 0 && w.iw != 0 && w.fh != 0 &&
     w.fw != 0 && w.dl != 0 && w.tap < w.fh * w.fw
   | 5 => (genKind gen).isSome
   | _ => false)

/-- R347: the extents of a scratchpad operand: offset and length, data then exponents. -/
def recExtents (ws : List Word) (tb : Nat) : List (Nat × Nat) :=
  let k := recK ws
  match recKind ws with
  | 2 =>
    (recAddr ws (recBase ws + tb * (recWord ws 7).toNat), (recOuter ws - 1) * recOstr ws + lineBytes ws) ::
    (if recFmt ws = 0 then
      [(recAddr ws (recEbase ws + tb * field (recWord ws 6) 0 16),
        (recOuter ws - 1) * field (recWord ws 6) 16 16 + k / 32)] else [])
  | 3 => [(recBase ws, (recOuter ws - 1) * recOstr ws + k / 64 * groupBytes ws)]
  | 4 =>
    let w := windowOf ws
    (recBase ws, w.ih * w.iw * recOstr ws) :: (if recFmt ws = 0 then [(recEbase ws, w.ih * w.iw * (k / 32))] else [])
  | _ => []

/-- R339: the operand is integer. -/
def recInteger (ws : List Word) (gen : GenReg) : Bool :=
  if recKind ws = 5 then
    (match genKind gen with
     | some .sign | some .causal | some (.band _) | some (.random _) => true
     | _ => false)
  else recFmt ws == 1

/-- Check 5 of one global operand: every line's page, and for FMT 4 its aperture. The answer adds to the pages known.
DEDUCED: log entry 39. -/
def checkOperand (s : State) (r : Run) (which : Nat) (ws : List Word) (ps : List (Nat × Nat)) (known : List (Nat × Nat)) :
    Res (List (Nat × Nat)) :=
  if recScratch ws then .ok known else
  ((pieceLines ps).reverse.foldl (fun acc line => acc.andThen fun known =>
    match checkGlobal s (envOf s r) .operand false false 1 (BitVec.ofNat 64 line) with
    | .miss p => .miss p
    | .wait => .stall
    | .fault c a => .trap r.lowest c a (BitVec.ofNat 32 which)
    | .ok pa _ =>
      if recFmt ws = 4 ∧ targetOf s pa ≠ .aperture then .trap r.lowest cAperture (BitVec.ofNat 64 line) (BitVec.ofNat 32 which)
      else .ok (if known.any (·.1 == line / 4096) then known else (line / 4096, pa / 4096) :: known)) (.ok known))

/-- The lines of an operand as an operand-buffer share names them: physical lines, or scratchpad lines of the team. -/
def shareLines (tid : Nat) (ws : List Word) (ps : List (Nat × Nat)) (xlat : List (Nat × Nat)) : List Nat :=
  (pieceLines ps).map fun l =>
    if recScratch ws then scratchKey tid l
    else ((xlat.find? (·.1 == l / 4096)).map (·.2)).getD 0 * 4096 + l % 4096

/-- R107, R348: the lines of a sub-core's share that its matrix operations in flight have reserved or pinned. -/
def mmaLines (s : State) (core sub : Nat) : List Nat :=
  s.ops.flatMap fun o => match o.kind with
    | .mma m => if (getTeam s o.team).core == core && (getGroup s o.team o.grp).sub == sub then m.lines else []
    | _ => []
/-- R349: matrix operations of a sub-core that have not started. -/
def mmaWaiting (s : State) (core sub : Nat) : Nat :=
  (s.ops.filter fun o => match o.kind with
    | .mma m => m.stage != .started && (getTeam s o.team).core == core && (getGroup s o.team o.grp).sub == sub
    | _ => false).length

/-- Operations of a group in flight that have raised a slot of a mask (R349). -/
def slotOps (s : State) (tid g : Nat) (mask : BitVec 8) : List Nat :=
  s.ops.filterMap fun o =>
    if o.team ≠ tid ∨ o.grp ≠ g then none else
    match o.kind with
    | .mma m => if mask.getLsbD m.slot then some o.id else none
    | .accst _ slot => if mask.getLsbD slot then some o.id else none
    | _ => none

/-- R81: the accumulator number. -/
def accOk (s : State) (r : Run) (acc : Nat) : Res Unit :=
  (notInBody s r).andThen fun _ => Res.guard (decide (acc < (teamLaunch s r.team).kernel.accum)) r.lowest
/-- R81: no MMA in flight on the accumulator. -/
def accFree (s : State) (r : Run) (acc : Nat) : Bool :=
  !s.ops.any fun o => o.team == r.team && o.grp == r.grp && (match o.kind with
    | .mma m => m.acc == acc
    | _ => false)
/-- R351: a report of an MMA on one of the accumulators is taken at an instruction that reads or writes it. -/
def tileReport (s : State) (r : Run) (accs : List Nat) : Option (Nat × Report) :=
  reportFor s r fun a => match a with
    | .tile _ acc => accs.contains acc
    | _ => false
/-- An instruction on accumulators: its number checked, the scoreboard clear, no report due, then its effect. -/
def onAcc (s : State) (r : Run) (accs : List Nat) (f : Unit → Res State) : Res State :=
  (accs.foldl (fun (acc : Res Unit) a => acc.andThen fun _ => accOk s r a) (.ok ())).andThen fun _ =>
    (Res.unless (accs.all (accFree s r))).andThen fun _ =>
      match tileReport s r accs with
      | some (c, rp) => .ok (takeReport s r c rp)
      | none => f ()

/-- R347, R348: MMA, MMAS and MMAT. -/
def issueMma (op : MmaOp) (o : XFmt) (s : State) (r : Run) : Res State :=
  (accOk s r o.acc.val).andThen fun _ =>
    match tileReport s r [o.acc.val] with
    | some (c, rp) => .ok (takeReport s r c rp)
    | none =>
      let g := getGroup s r.team r.grp
      let core := (getTeam s r.team).core
      let ra := recOf g o.ra.val
      let rb := recOf g o.rb.val
      let ga := g.gens.getD (recGen ra) {}
      let gb := g.gens.getD (recGen rb) {}
      let tb := if op == .mmat && recKind rb != 5 then (windowOf ra).tap else 0
      let low := r.lowest
      if !recKindOk op false ra then .trap low cRecordKind 0 0
      else if !recKindOk op true rb then .trap low cRecordKind 0 1
      else if !recFieldOk false ga ra then .trap low cRecordField 0 0
      else if !recFieldOk true gb rb then .trap low cRecordField 0 1
      else if recK ra ≠ recK rb then .trap low cInnerDim 0 0
      else
        let alloc := (teamLaunch s r.team).kernel.scratch
        let past := fun (ws : List Word) (tb : Nat) =>
          if recScratch ws then (recExtents ws tb).find? fun e => decide (alloc < e.1 + e.2) else none
        match past ra 0, past rb tb with
        | some e, _ => .trap low cOperandBounds (BitVec.ofNat 64 e.1) 0
        | none, some e => .trap low cOperandBounds (BitVec.ofNat 64 e.1) 1
        | none, none =>
          let pa := recPieces ra 0
          let pb := recPieces rb tb
          (checkOperand s r 0 ra pa []).andThen fun x => (checkOperand s r 1 rb pb x).andThen fun xlat =>
            let lines := addNew (addNew [] (shareLines r.team ra pa xlat)) (shareLines r.team rb pb xlat)
            if 512 < lines.length then .trap low cOperandLarge 0 (BitVec.ofNat 32 lines.length)
            else
              let reserved := addNew lines (mmaLines s core g.sub)
              (Res.unless (reserved.length ≤ 512 && mmaWaiting s core g.sub < 16 && g.tlc < 63 &&
                  g.d.getD o.set.val 0 < 63)).andThen fun _ =>
                let stashed := (if recScratch ra then pa else []) ++ (if recScratch rb then pb else [])
                (eachDo stashed s fun s p => touchStashRange s r low p.1 p.2).map fun s =>
                  let id := s.nextId
                  let m : MmaCmd :=
                    { acc := o.acc.val, ra := ra, rb := rb, ga := ga, gb := gb, tap := tb, sparse := op == .mmas
                      integer := recInteger ra ga && recInteger rb gb, lanes := r.lanes, z := o.z, slot := o.set.val
                      waits := slotOps s r.team r.grp o.wait, xlat := xlat, lines := lines }
                  let s := { s with shares := s.shares.map fun x =>
                    if x.core = core && x.sub = g.sub && x.valid && lines.contains x.line then { x with pins := setAdd x.pins id } else x }
                  raiseSlot (raiseCtr (addOp s r.team r.grp r.pc low (.mma m)) r.team r.grp .tl) r.team r.grp o.set.val

/-- R347, R348. -/
def execMma (o : XFmt) (s : State) : Host.Outcome State Fault Refusal := attempt s (issueMma .mma o)
/-- R347, R348. -/
def execMmas (o : XFmt) (s : State) : Host.Outcome State Fault Refusal := attempt s (issueMma .mmas o)
/-- R347, R348, R352. -/
def execMmat (o : XFmt) (s : State) : Host.Outcome State Fault Refusal := attempt s (issueMma .mmat o)

/-! ## Fetching operands (R108, R335 to R338, R348, R351) -/

/-- A fetch in progress: the machine, which its reads change (snoops, re-splits), and what it has met: the lowest poisoned
sector and the lowest failing mask (R351), and clamps (R64). -/
structure FetchLog where
  s : State
  poison : Option Nat := none
  mask : Option Nat := none
  sat : Nat := 0
  deriving DecidableEq, Repr

def lowerOf (a : Option Nat) (b : Nat) : Option Nat :=
  match a with
  | none => some b
  | some x => some (min x b)

/-- The physical address of a global byte of an operand, through the pages translated at issue (R349). -/
def MmaCmd.place (m : MmaCmd) (va : Nat) : Nat :=
  ((m.xlat.find? (·.1 == va / 4096)).map (·.2)).getD 0 * 4096 + va % 4096

/-- The bytes of an operand at an address in its space, with its poisoned sectors. A window address reaches the buffer that
is front now (R141). -/
def operandBytes (s : State) (tid : Nat) (m : MmaCmd) (ws : List Word) (a n : Nat) : State × List Byte × List Nat :=
  if recScratch ws then
    let tc := getCore s tid
    (s, scratchBytes tc a n, (sectorsOf a n).filter (tc.scratchPoison.contains ·))
  else
    let (s, xs) := (List.range n).foldl (fun (x : State × List (Byte × Bool)) i =>
      let (s, bs, p) := viewRead x.1 tid (m.place (a + i)) 1
      (s, x.2 ++ [(bs.getD 0 0, p.isSome)])) (s, [])
    (s, xs.map Prod.fst, (sectorsOf a n).filter fun sec =>
      (List.range 32).any fun i => a ≤ 32 * sec + i && 32 * sec + i < a + n && ((xs.getD (32 * sec + i - a) (0, false)).2))

/-- Reads bytes, noting the poisoned sectors. -/
def fetchBytes (tid : Nat) (m : MmaCmd) (ws : List Word) (lg : FetchLog) (a n : Nat) : List Byte × FetchLog :=
  let (s, bs, bad) := operandBytes lg.s tid m ws a n
  let lg := { lg with s := s }
  (bs, match bad with
    | [] => lg
    | sec :: _ => { lg with poison := lowerOf lg.poison (32 * sec) })

/-- R116: the exponent and the width in the side tag of the aperture block at an address. -/
def sideTag (s : State) (m : MmaCmd) (a : Nat) : Nat × Nat :=
  match holdLine s (m.place a) with
  | some (_, l) => (l.exps.getD (m.place a % 128 / 32) 0, l.width)
  | none => (0, 8)

def fpOfBytes (fmt : Nat) (bs : List Byte) : List FVal :=
  (List.range (bs.length / 2)).map fun i =>
    unpackF (if fmt = 2 then fp16 else bf16) (bytesNat ((bs.drop (2 * i)).take 2))

/-- The blocks of a dense line: data at `a`, exponents at `ea` (R335). -/
def denseBlocks (tid : Nat) (m : MmaCmd) (ws : List Word) (lg : FetchLog) (a ea : Nat) : List Block × FetchLog :=
  let nb := recK ws / 32
  let w := recW ws
  let (bs, lg) := fetchBytes tid m ws lg a (lineBytes ws)
  match recFmt ws with
  | 0 =>
    let (es, lg) := fetchBytes tid m ws lg ea nb
    let v := bytesNat bs
    ((List.range nb).map fun kb =>
      ⟨(es.getD kb 0).toNat, (List.range 32).map fun e => streamField w v (32 * kb + e) * 2 ^ (8 - w)⟩, lg)
  | 1 =>
    let v := bytesNat bs
    ((List.range nb).map fun kb =>
      ⟨126 + w, (List.range 32).map fun e => streamField w v (32 * kb + e) * 2 ^ (8 - w)⟩, lg)
  | 4 =>
    ((List.range nb).map fun kb =>
      ⟨(sideTag lg.s m (a + 32 * kb)).1, (List.range 32).map fun e => (bs.getD (32 * kb + e) 0).toInt⟩, lg)
  | f =>
    (List.range nb).foldl (fun (x : List Block × FetchLog) kb =>
      let (b, n) := formBlock (fpOfBytes f ((bs.drop (64 * kb)).take 64))
      (x.1 ++ [b], { x.2 with sat := x.2.sat + n })) ([], lg)

/-- R63, R336: the two blocks of each group of a sparse line. -/
def sparseBlocks (tid : Nat) (m : MmaCmd) (ws : List Word) (lg : FetchLog) (r : Nat) : List Block × FetchLog :=
  let w := recW ws
  let n := recSpn ws
  (List.range (recK ws / 64)).foldl (fun (x : List Block × FetchLog) g =>
    let at_ := recAddr ws (recBase ws + r * recOstr ws + g * groupBytes ws)
    let (hd, lg) := fetchBytes tid m ws x.2 at_ (if recFmt ws = 0 then 10 else 8)
    let (ms, lg) := fetchBytes tid m ws lg (recAddr ws (at_ + 16)) (n * w / 8)
    let mask := bytesNat (hd.take 8)
    let v := bytesNat ms
    let lg := if popcount 64 mask = n then lg else { lg with mask := lowerOf lg.mask at_ }
    let elem := fun (j : Nat) =>
      if mask / 2 ^ j % 2 = 1 then streamField w v (popcount 64 (mask % 2 ^ j)) * 2 ^ (8 - w) else 0
    let blk := fun (h : Nat) =>
      ⟨if recFmt ws = 0 then (hd.getD (8 + h) 0).toNat else 126 + w, (List.range 32).map fun e => elem (32 * h + e)⟩
    (x.1 ++ [blk 0, blk 1], lg)) ([], lg)

/-- R338: the blocks of a generated line: row `r` of A, or column `r` of B. -/
def genBlocks (p : GenParams) (ws : List Word) (b : Bool) (r : Nat) : List Block :=
  (List.range (recK ws / 32)).map fun kb =>
    ⟨genExp p.kind, (List.range 32).map fun e =>
      let k := 32 * kb + e
      let ij := if b then canonical ws k r else canonical ws r k
      genM8 p ij.1 ij.2⟩

/-- The blocks of line `r` of an operand; none where the row does not exist. -/
def operandLine (tid grp : Nat) (m : MmaCmd) (b : Bool) (lg : FetchLog) (r : Nat) :
    Option (List Block) × FetchLog :=
  let ws := if b then m.rb else m.ra
  let tb := if b then m.tap else 0
  match recKind ws with
  | 3 => let (bs, lg) := sparseBlocks tid m ws lg r; (some bs, lg)
  | 4 =>
    match (windowOf ws).row r with
    | none => (none, lg)
    | some none => (some (List.replicate (recK ws / 32) zeroBlock), lg)
    | some (some q) =>
      let (bs, lg) := denseBlocks tid m ws lg (recAddr ws (recBase ws + q * recOstr ws))
        (recAddr ws (recEbase ws + q * (recK ws / 32)))
      (some bs, lg)
  | 5 => (some (genBlocks (genParams lg.s tid grp (if b then m.gb else m.ga) (recGen ws)) ws b r), lg)
  | _ =>
    let (bs, lg) := denseBlocks tid m ws lg
      (recAddr ws (recBase ws + tb * (recWord ws 7).toNat + r * recOstr ws))
      (recAddr ws (recEbase ws + tb * field (recWord ws 6) 0 16 + r * field (recWord ws 6) 16 16))
    (some bs, lg)

/-- Fetches lines 0 to `n - 1` of an operand. -/
def operandLines (tid grp : Nat) (m : MmaCmd) (b : Bool) (n : Nat) (lg : FetchLog) :
    List (Option (List Block)) × FetchLog :=
  (List.range n).foldl (fun (x : List (Option (List Block)) × FetchLog) r =>
    let (l, lg) := operandLine tid grp m b x.2 r
    (x.1 ++ [l], lg)) ([], lg)

/-- R350: the effective width of B along K, for each of its blocks: the widest of its columns where side tags give it.
DEDUCED: log entry 39. -/
def blockWidths (s : State) (m : MmaCmd) : List Nat :=
  (List.range (recK m.rb / 32)).map fun kb =>
    match recKind m.rb, recFmt m.rb with
    | 5, _ => ((genKind m.gb).map genWidth).getD 0
    | _, 0 | _, 1 => recW m.rb
    | _, 4 => (List.range (recOuter m.rb)).foldl (fun w n =>
        max w (sideTag s m (recAddr m.rb (recBase m.rb + m.tap * (recWord m.rb 7).toNat + n * recOstr m.rb) + 32 * kb)).2) 0
    | _, _ => 8

/-- R108, R351: the operands at the fetch point, with the machine after their reads and the clamps (R64); poison goes before a
failing mask. -/
def fetchMma (s : State) (tid grp : Nat) (m : MmaCmd) : State × MmaCmd × Nat :=
  let (rows, lg) := operandLines tid grp m false (recOuter m.ra) { s := s }
  let (cols, lg) := operandLines tid grp m true (recOuter m.rb) lg
  let fault := match lg.poison, lg.mask with
    | some a, _ => some (cPoison, BitVec.ofNat 64 a)
    | none, some a => some (cSparse, BitVec.ofNat 64 a)
    | none, none => none
  (lg.s, { m with stage := .fetched, rows := rows, cols := cols.map (·.getD []), widths := blockWidths lg.s m, fault := fault }, lg.sat)

/-- R348: one accumulator word over all block pairs. -/
def accumulate (integer : Bool) : Word → List Block → List Block → Word
  | acc, a :: as, b :: bs => accumulate integer (if integer then accStepI acc a b else accStepF acc a b) as bs
  | acc, _, _ => acc

/-- R348: the rows that an MMA writes in one thread. -/
def accRow (m : MmaCmd) (acc : SMap Word) (row : List Block) : SMap Word :=
  (List.range m.cols.length).foldl (fun acc n =>
    let old := if m.z then 0 else mapGet 0 acc (16 * m.acc + n)
    mapSet 0 acc (16 * m.acc + n) (accumulate m.integer old row (m.cols.getD n []))) acc

/-- R348: the products of an MMA, in the threads that were active at issue and whose row exists. -/
def performMma (s : State) (tid grp : Nat) (m : MmaCmd) : State :=
  if m.fault.isSome then s else
  m.lanes.foldl (fun s t =>
    match m.rows.getD t none with
    | none => s
    | some row => modTh s tid grp (.lane t) fun th => { th with acc := accRow m th.acc row }) s

/-! ## Record instructions (R340 to R342) -/

/-- The words of a record image, reserved bits zero (R479). -/
def imageWords (bs : List Byte) : List Word :=
  let ws := (List.range 8).map fun j => (BitVec.ofNat 32 (bytesNat ((bs.drop (4 * j)).take 4)) : Word)
  (List.range 8).map fun j => recWord ws j &&& recMask (recKind ws) j

/-- R340. -/
def execRecld (x : Fin 16) (b : Src) (scratch : Bool) (s : State) : Host.Outcome State Fault Refusal :=
  attempt s fun s r =>
    (notInBody s r).andThen fun _ =>
      let put := fun (s : State) (bs : List Byte) => modGroup s r.team r.grp fun g => setRec g x.val (imageWords bs)
      if scratch then
        (readLow s r b).andThen fun off => (checkScratch s r r.lowest off.toNat 32 32).andThen fun _ =>
          (touchStashRange s r r.lowest off.toNat 32).andThen fun s =>
            let (bs, p) := scratchLoad s r off.toNat 32
            match p with
            | some a => .trap r.lowest cPoison a 0
            | none => .ok (put s bs)
      else
        (readLow64 s r b).andThen fun a => (checkLane s r r.lowest .load false false 32 a).andThen fun p =>
          let (s, bs, po) := readFor s r p.1 32 0
          match po with
          | some sec => .trap r.lowest cPoison (sectorAddr a p.1 sec) 0
          | none => .ok (put s bs)

/-- R341, R479. -/
def execRecset (x : Fin 16) (w : Fin 8) (c : Src) (s : State) : Host.Outcome State Fault Refusal :=
  attempt s fun s r =>
    (notInBody s r).andThen fun _ => (readLow s r c).map fun v =>
      modGroup s r.team r.grp fun g =>
        let kind := if w.val = 0 then field v 28 4 else recKind (recOf g x.val)
        setRecWord g x.val w.val (v &&& recMask kind w.val)

/-- Adds to a base held in two words: 56 bits, or 32 in scratchpad (R342). -/
def bumpBase (ws : List Word) (j : Nat) (d : Int) : List Word :=
  let lo := recWord ws j
  if recScratch ws then listSet ws j (lo + BitVec.ofInt 32 d)
  else
    let hi := recWord ws (j + 1)
    let v := (((lo.toNat + field hi 0 24 * 2 ^ 32 : Nat) : Int) + d) % (2 ^ 56 : Int)
    let n := v.toNat
    listSet (listSet ws j (BitVec.ofNat 32 n)) (j + 1) (BitVec.ofNat 32 (hi.toNat / 2 ^ 24 * 2 ^ 24 + n / 2 ^ 32))

/-- R342: the adjusted record, or its fault. -/
def adjust (ws : List Word) (mode : AdjMode) (b : Word) : Except Nat (List Word) :=
  let kind := recKind ws
  let w := windowOf ws
  if kind = 0 ∨ 5 < kind then .error cRecordKind else
  match mode with
  | .tap =>
    if kind ≠ 4 then .error cRecordKind
    else if w.fh = 0 ∨ w.fw = 0 then .error cRecordField
    else .ok (listSet ws 2 (BitVec.ofNat 32 ((w.tap + b.toNat) % (w.fh * w.fw) * 2 ^ 24 + field (recWord ws 2) 0 24)))
  | .outer =>
    match kind with
    | 1 | 2 => .ok (bumpBase (bumpBase ws 1 (b.toInt * recOstr ws)) 3 (b.toInt * field (recWord ws 6) 16 16))
    | 3 => .ok (bumpBase ws 1 (b.toInt * recOstr ws))
    | 4 =>
      let p := (((w.p0 : Int) + b.toInt) % (2 ^ 24 : Int)).toNat
      .ok (listSet ws 7 (BitVec.ofNat 32 (p * 256 + field (recWord ws 7) 0 8)))
    | _ => .ok (listSet ws 1 (recWord ws 1 + b))
  | .kstep =>
    match kind with
    | 1 | 2 =>
      if 4 < recFmt ws ∨ !widthOk ws then .error cRecordField else
      let step : Nat := if recFmt ws ≤ 1 then 4 * recW ws else if recFmt ws ≤ 3 then 64 else 32
      .ok (bumpBase (bumpBase ws 1 (b.toInt * step)) 3 b.toInt)
    | 3 =>
      if 1 < recFmt ws ∨ !widthOk ws ∨ recSpn ws = 0 then .error cRecordField
      else .ok (bumpBase ws 1 (b.toInt * groupBytes ws))
    | 4 => .error cRecordKind
    | _ => .ok (listSet ws 2 (recWord ws 2 + b))

/-- R342. -/
def execRecadj (x : Fin 16) (b : Src) (mode : AdjMode) (s : State) : Host.Outcome State Fault Refusal :=
  attempt s fun s r =>
    (notInBody s r).andThen fun _ => (readLow s r b).andThen fun v =>
      match adjust (recOf (getGroup s r.team r.grp) x.val) mode v with
      | .error cause => .trap r.lowest cause 0 0
      | .ok ws => .ok (modGroup s r.team r.grp fun g => setRec g x.val ws)

/-! ## Generator instructions (R343 to R346) -/

def modGen (s : State) (r : Run) (gi : Nat) (f : GenReg → GenReg) : State :=
  modGroup s r.team r.grp fun g => { g with gens := listMod g.gens gi f }

/-- R344. -/
def execGensetSeed (gi : Fin 4) (b : Src) (s : State) : Host.Outcome State Fault Refusal :=
  attempt s fun s r =>
    (notInBody s r).andThen fun _ => (readLow64 s r b).map fun v => modGen s r gi.val fun g => { g with seed := v }
/-- R344: reserved bits are stored as zero (R343). -/
def execGensetCtl (gi : Fin 4) (b c : Src) (s : State) : Host.Outcome State Fault Refusal :=
  attempt s fun s r =>
    (notInBody s r).andThen fun _ => (readLow s r b).andThen fun v => (readLow s r c).map fun w =>
      modGen s r gi.val fun g => { g with w2 := v &&& 0xFFFFFC00#32, w3 := w &&& 0xFFFF0000#32 }
/-- An MMA of the group that names the generator has not passed its fetch point (R344). -/
def genNamed (s : State) (r : Run) (gi : Nat) : Bool :=
  s.ops.any fun o => o.team == r.team && o.grp == r.grp && (match o.kind with
    | .mma m => m.stage == .queued && ((recKind m.ra == 5 && recGen m.ra == gi) || (recKind m.rb == 5 && recGen m.rb == gi))
    | _ => false)
/-- R344: entry i of a frequency table from bytes 4i on. -/
def loadFreq (m : SMap Word) (gi : Nat) (bs : List Byte) : SMap Word :=
  (List.range 64).foldl (fun m i => mapSet 0 m (64 * gi + i) (BitVec.ofNat 32 (bytesNat ((bs.drop (4 * i)).take 4)))) m
/-- R344: the table comes from scratchpad. -/
def execGensetFreq (gi : Fin 4) (b : Src) (s : State) : Host.Outcome State Fault Refusal :=
  attempt s fun s r =>
    (notInBody s r).andThen fun _ => (readLow s r b).andThen fun off =>
      (checkScratch s r r.lowest off.toNat 256 4).andThen fun _ => (Res.unless (!genNamed s r gi.val)).andThen fun _ =>
        (touchStashRange s r r.lowest off.toNat 256).andThen fun s =>
          let (bs, p) := scratchLoad s r off.toNat 256
          match p with
          | some a => .trap r.lowest cPoison a 0
          | none => .ok (modGroup s r.team r.grp fun g => { g with freq := loadFreq g.freq gi.val bs })
/-- R345. -/
def execGenadvStream (gi : Fin 4) (b : Src) (s : State) : Host.Outcome State Fault Refusal :=
  attempt s fun s r =>
    (notInBody s r).andThen fun _ => (readLow s r b).map fun v => modGen s r gi.val fun g =>
      { g with w2 := BitVec.ofNat 32 ((field g.w2 16 16 + v.toNat) % 2 ^ 16 * 2 ^ 16 + field g.w2 0 16) }
/-- R345: the new seed carries the scope. -/
def execGenadvSeed (gi : Fin 4) (b : Src) (s : State) : Host.Outcome State Fault Refusal :=
  attempt s fun s r =>
    (notInBody s r).andThen fun _ => (readLow s r b).map fun v =>
      modGen s r gi.val fun g => { g with seed := fin64 (genSeed s r.team r.grp g ^^^ v.setWidth 64),
                                          w2 := g.w2 &&& 0xFFFFF3FF#32 }
/-- R346. -/
def execGenrd (d : Dst) (x : Fin 16) (c : Src) (s : State) : Host.Outcome State Fault Refusal :=
  attempt s fun s r =>
    (dstAllowed s r d false).andThen fun _ =>
      let g := getGroup s r.team r.grp
      let ws := recOf g x.val
      let gen := g.gens.getD (recGen ws) {}
      if recKind ws ≠ 5 then .trap r.lowest cRecordKind 0 0
      else if (genKind gen).isNone then .trap r.lowest cRecordField 0 0
      else
        let p := genParams s r.team r.grp gen (recGen ws)
        laneExec s r { d := d, srcs := [c] } fun l => (readSrc s r l c).map fun v =>
          let ij := canonical ws (field v 0 16) (field v 16 16)
          { words := [genWord p ij.1 ij.2] }

/-! ## Accumulators (R354, R355) -/

def accWord (th : Thread) (acc col : Nat) : Word := mapGet 0 th.acc (16 * acc + col)
def setAccWord (th : Thread) (acc col : Nat) (v : Word) : Thread := { th with acc := mapSet 0 th.acc (16 * acc + col) v }
def accWords (th : Thread) (acc : Nat) : List Word := (List.range 16).map (accWord th acc)
def setAccWords (th : Thread) (acc : Nat) (ws : List Word) : Thread :=
  (List.range 16).foldl (fun th i => setAccWord th acc i (ws.getD i 0)) th

/-- R354. -/
def execAccrd (d : Dst) (acc : Fin 4) (c : Src) (s : State) : Host.Outcome State Fault Refusal :=
  attempt s fun s r => onAcc s r [acc.val] fun _ =>
    laneExec s r { d := d, srcs := [c] } fun l => (readSrc s r l c).map fun v =>
      { words := [accWord (laneTh s r l) acc.val (field v 0 4)] }
/-- R354. -/
def execAccwr (acc : Fin 4) (b c : Src) (s : State) : Host.Outcome State Fault Refusal :=
  attempt s fun s r => onAcc s r [acc.val] fun _ =>
    (forLanes r.lanes fun l => (readSrc s r l b).andThen fun i => (readSrc s r l c).map fun v => (i, v)).map fun xs =>
      xs.foldl (fun s x => modLane s r x.1 fun th => setAccWord th acc.val (field x.2.1 0 4) x.2.2) s
/-- R354. -/
def execAccclr (acc : Fin 4) (s : State) : Host.Outcome State Fault Refusal :=
  attempt s fun s r => onAcc s r [acc.val] fun _ =>
    .ok (modLanes s r fun _ th => setAccWords th acc.val [])

/-- R355: sixteen FP32 words as eight packed pairs. -/
def packHalves (f : FloatFmt) (ws : List Word) : List Word :=
  (List.range 8).map fun i =>
    BitVec.ofNat 32 (roundF f .rne (valF (ws.getD (2 * i) 0)) + roundF f .rne (valF (ws.getD (2 * i + 1) 0)) * 65536)

/-- R355: a block of 32 FP32 words narrowed to `w` bits: its exponent, mantissas and saturations. -/
def bfpRow (w : Nat) (ws : List Word) : Nat × List Int × Nat :=
  let (b, n1) := formBlock (ws.map valF)
  let (ms, n2) := narrowBlock w b
  (b.e, ms, n1 + n2)

/-- The accumulators that a format reads (R355). -/
def cvtAccs (acc : Nat) : AccFmt → List Nat
  | .bfp _ => [acc, acc + 1]
  | _ => [acc]

/-- R355: the new row, and saturations. -/
def cvtRow (th : Thread) (acc : Nat) : AccFmt → List Word × Nat
  | .fp16 => (packHalves fp16 (accWords th acc), 0)
  | .bf16 => (packHalves bf16 (accWords th acc), 0)
  | .bfp w =>
    let n := widthOf w
    let (e, ms, k) := bfpRow n (accWords th acc ++ accWords th (acc + 1))
    let stream := wordsOf n (streamNat n ms)
    ((List.range 16).map fun i => if i < n then stream.getD i 0 else if i = 8 then BitVec.ofNat 32 e else 0, k)

/-- R355. -/
def execAcccvt (acc : Fin 4) (fmt : AccFmt) (s : State) : Host.Outcome State Fault Refusal :=
  attempt s fun s r => onAcc s r (cvtAccs acc.val fmt) fun _ =>
    let rows := r.lanes.map fun l => (l, cvtRow (laneTh s r l) acc.val fmt)
    let s := rows.foldl (fun s x => modLane s r x.1 fun th => setAccWords th acc.val x.2.1) s
    .ok (addSat s r.team (rows.foldl (fun n x => n + x.2.2) 0))

/-! ## ACCST (R356, R357) -/

/-- What one row stores: bytes, exponent, saturations; `m8` for an aperture block. -/
def accstBytes (th : Thread) (acc : Nat) (mode : StMode) (aperture : Bool) : List Byte × Nat × Nat :=
  let words := fun (n : Nat) (ws : List Word) => (ws.take n).flatMap fun w => natBytes 4 w.toNat
  match mode with
  | .w32 => (words 16 (accWords th acc), 0, 0)
  | .w16 => (words 8 (accWords th acc), 0, 0)
  | .fp16 => (words 8 (packHalves fp16 (accWords th acc)), 0, 0)
  | .bf16 => (words 8 (packHalves bf16 (accWords th acc)), 0, 0)
  | .bfp w =>
    let n := widthOf w
    let (e, ms, k) := bfpRow n (accWords th acc ++ accWords th (acc + 1))
    (if aperture then ms.map fun m => BitVec.ofInt 8 (m * 2 ^ (8 - n)) else natBytes (4 * n) (streamNat n ms), e, k)

def isBfp : StMode → Bool
  | .bfp _ => true
  | _ => false

/-- R357: a part of a row at `a`, whose physical byte is `pa`: a shadow row lies in a window, and one of a mode other than .BFP and
.W16 in no aperture. -/
def accstPlace (s : State) (c : Nat) (o : AccstFmt) (a : Dword) (pa : Nat) : Res Unit :=
  let t := targetOf s pa
  if (o.shadow && t != .window) || (t == .aperture && !(isBfp o.mode || o.mode == .w16)) then .trap c cAperture a 0 else .ok ()
/-- The checks of one thread's row: its parts, split where it crosses a page, and its saturations (R357). -/
def accstRow (s : State) (r : Run) (o : AccstFmt) (c : Nat) : Res (List AccstRow × Nat) :=
  (readSrc64 s r c o.a).andThen fun a =>
    (checkLane s r c .accst false o.shadow (if isBfp o.mode then 4 else 16) a).andThen fun p =>
      (accstPlace s c o a p.1).andThen fun _ =>
      let ap := targetOf s p.1 == .aperture
      if ap && isBfp o.mode && a.toNat % 32 != 0 then .trap c cMisaligned a 0
      else
        let (bs, e, k) := accstBytes (laneTh s r c) o.acc.val o.mode (ap && isBfp o.mode)
        (if isBfp o.mode && !ap then
          (readSrc64 s r c o.b).andThen fun b => (checkLane s r c .accst false o.shadow 1 b).map fun q => some (b, q.1)
         else .ok none).andThen fun expPa =>
          let head := 4096 - a.toNat % 4096
          let row := fun (va : Dword) (pa : Nat) (bs : List Byte) (x : Option (Dword × Nat)) =>
            AccstRow.mk c va pa bs (x.map Prod.snd) e (ap && isBfp o.mode) o.shadow ((x.map Prod.fst).getD 0)
          if bs.length ≤ head then .ok ([row a p.1 bs expPa], k)
          else
            let a2 := a + BitVec.ofNat 64 head
            (checkLane s r c .accst false o.shadow 1 a2).andThen fun q => (accstPlace s c o a2 q.1).map fun _ =>
              ([row a p.1 (bs.take head) expPa, row a2 q.1 (bs.drop head) none], k)

/-- The cells that a row's parts write. -/
def AccstRow.cells (x : AccstRow) : List Host.Cell :=
  cellsAt x.pa x.bytes ++ (match x.expPa with
    | some p => [(p, BitVec.ofNat 8 x.exp)]
    | none => [])

/-- R117: an aperture block's exponent goes to the side tag. -/
def setTag (s : State) (pa e : Nat) : State :=
  match holdLine s pa with
  | none => s
  | some (s, l) => { s with aper := s.aper.map fun x =>
      if x.line = l.line then { x with exps := listSet x.exps (pa % 128 / 32) e, dirty := true } else x }

/-- The rows written at the completion of an ACCST that no comparator or buffer performs (R357). The L2 holds a shadow row's line
under its buffer's address (R180). -/
def writeRow (s : State) (part : Nat) (x : AccstRow) : State :=
  let s := writeCells ((linesOf x.pa x.bytes.length).foldl (fun s l =>
    l2Touch s part (if x.shadow then (landing s l).getD l else l) 0) s) none x.cells []
  if x.aperture then setTag s x.pa x.exp else s

/-- The pages that the parts of rows lie in. -/
def rowPages (parts : List AccstRow) : List Dword := parts.flatMap fun y => y.addr :: (y.expPa.map fun _ => y.expVa).toList
/-- R356, R357, R389, R398. Rows to a location that no L2 caches are performed once, after a commit (R148, R392). -/
def execAccst (o : AccstFmt) (s : State) : Host.Outcome State Fault Refusal :=
  attempt s fun s r => onAcc s r (if isBfp o.mode then [o.acc.val, o.acc.val + 1] else [o.acc.val]) fun _ =>
    (forLanes r.lanes (accstRow s r o)).andThen fun rows =>
      let g := getGroup s r.team r.grp
      let core := (getTeam s r.team).core
      let queued := (s.ops.filter fun x => match x.kind with
        | .accst _ _ => (getTeam s x.team).core == core && (getGroup s x.team x.grp).sub == g.sub
        | _ => false).length
      (Res.unless (queued < 16 && g.tlc < 63 && g.d.getD o.slot.val 0 < 63)).andThen fun _ =>
        let parts := rows.flatMap fun x => x.2.1
        (needCommit s r (parts.any fun y => uncached s y.pa 0)).andThen fun _ =>
        let id := s.nextId
        let s := usePages (if parts.any fun y => uncached s y.pa 0 then spendGrant s r else s) (envOf s r) (rowPages parts)
        let s := addSat s r.team (rows.foldl (fun n x => n + x.2.2) 0)
        let s := addOp s r.team r.grp r.pc r.lowest (.accst parts o.slot.val)
        let s := raiseSlot (raiseCtr s r.team r.grp .tl) r.team r.grp o.slot.val
        if !hasItems s r.team then .ok s else
        eachDo rows s fun s x =>
          let (s, err) := errEvent s r.team (r.teamThread x.1) false
          let bs := x.2.1.flatMap (·.bytes)
          let exp := if isBfp o.mode then (x.2.1.take 1).map fun p => (BitVec.ofNat 8 p.exp : Byte) else []
          let f : ItemFields := { addr := (x.2.1.head?.map (·.addr)).getD 0, data := bs ++ exp, mask := 2 ^ bs.length - 1,
                                  scope := scopeNum o.sc, policy := 0 }
          let once := x.2.1.any fun y => uncached s y.pa 0
          let cs := x.2.1.flatMap AccstRow.cells
          match (if once then replayOut s r.team r.grp x.1 f else none) with
          | some (some s) => .ok s
          | some none => .trap x.1 cIntegrity f.addr 0
          | none =>
            submit s { team := r.team, grp := r.grp, thr := x.1, pc := r.pc, kind := .store, lead := f, trail := f,
                       act := if once then .once cs else .write cs, op := some id, unit := x.1 } err

/-! ## STAMP (R358, R359) -/

def u32At (bs : List Byte) (off : Nat) : Nat := bytesNat ((bs.drop off).take 4)
def manifestPut (bs : List Byte) (off : Nat) (v : List Byte) : List Byte := bs.take off ++ v ++ bs.drop (off + v.length)

/-- R359: the field of a stage. -/
def stageField : Stage → Option Nat
  | .cin => some 0x20
  | .opw => some 0x24
  | .mma => some 0x28
  | .cout => some 0x2C
  | .opn | .retire => none

/-- R358, R359: a manifest at .OPEN. -/
def openManifest (s : State) (r : Run) (tile : Word) (now ptp : Dword) : List Byte :=
  let l := teamLaunch s r.team
  natWord tile.toNat ++ natWord l.num ++ natWord (getTeam s r.team).idx ++ natWord (l.ctx * 65536 + r.grp) ++
  natDword now.toNat ++ natDword now.toNat ++ List.replicate 24 0 ++ natDword ptp.toNat

/-- R359: a later stamp. -/
def stampManifest (bs : List Byte) (stage : Stage) (now : Dword) : List Byte :=
  let last : Dword := BitVec.ofNat 64 (bytesNat ((bs.drop 0x18).take 8))
  let delta := (now - last).toNat
  let bs := match stageField stage with
    | some f => manifestPut bs f (natWord (min (u32At bs f + delta) 0xFFFFFFFF))
    | none => bs
  let bs := manifestPut bs 0x18 (natDword now.toNat)
  manifestPut bs 0x30 (natBytes 2 (min (bytesNat ((bs.drop 0x30).take 2) + 1) 0xFFFF))

/-- R359. DEDUCED: log entry 45. -/
def execStamp (a b : Src) (stage : Stage) (s : State) : Host.Outcome State Fault Refusal :=
  attempt s fun s r =>
    (notInBody s r).andThen fun _ => (readLow s r a).andThen fun off =>
      (readLow s r (if stage == .opn then b else a)).andThen fun tile =>
        (checkScratch s r r.lowest off.toNat 64 64).andThen fun _ =>
          (touchStashRange s r r.lowest off.toNat 64).andThen fun s =>
            (sampleFor s r s.cycle).andThen fun (s, now) =>
              if stage == .opn then
                (sampleFor s r s.phcNs).map fun (s, ptp) =>
                  writeScratch s r.team off.toNat (openManifest s r tile now ptp)
              else
                let (bs, _) := scratchLoad s r off.toNat 64
                let new := stampManifest bs stage now
                let s := writeScratch s r.team off.toNat new
                .ok (if stage == .retire then trace s (getTeam s r.team).part 4 (nameOfLane s r r.lowest) new else s)

end Sys2Proof.Machine
end

