-- ==== Sys2Proof/Machine/Runs.lean ====
section
/-! DEFINITION. What surrounds the issue of one word: the clause and its header (R105, R207 to R209), the checks of a
word (R224), the resumption of a REP (R314), and what follows a word in its run (R28 to R36, R83, R211). -/

namespace Sys2Proof.Machine

/-! ## Clauses -/

/-- The word of a clause at `pc`, and whether it is the first and the last. -/
def Clause.at_ (c : Clause) (pc : Dword) : Option (Word × Bool × Bool) :=
  let d := (pc - c.addr).toNat
  if d = 0 || d % 4 != 0 then none
  else (c.words[d / 4 - 1]?).map fun w => (w, d == 4, d / 4 == c.words.length)

/-- R105, R209: the clause whose header stands at `h`, for the run's next word. -/
def fetchClause (s : State) (r : Run) (h : Dword) : Res (State × Clause) :=
  (codeWord s r r.lowest h).andThen fun (s, hd) =>
    if hdBad (teamLaunch s r.team) h hd then .trap r.lowest cIllegalClause 0 0
    else (codeWords s r r.lowest (hdCount hd) (h + 4)).map fun (s, ws) => (s, ⟨h, hd, ws⟩)

/-- R105: the header that the run has fetched, where it stands at it. -/
def keptHeader (r : Run) (h : Dword) : Option Clause := r.clause.filter fun c => c.addr == h
/-- R105: the clause of the run's next word: the one already fetched, or the one whose header precedes it, its header kept
where the run has it. -/
def clauseOf (s : State) (r : Run) : Res (State × Clause) :=
  match r.clause.bind fun c => (c.at_ r.pc).map fun _ => c with
  | some c => .ok (s, c)
  | none =>
    let l := teamLaunch s r.team
    if r.pc.toNat < l.codeStart || l.codeEnd ≤ r.pc.toNat then .trap r.lowest cIllegalClause 0 0 else
    match l.headerBelow r.pc with
    | none => .trap r.lowest cIllegalClause 0 0
    | some h =>
      (match keptHeader r h with
       | some c => (codeWords s r r.lowest (hdCount c.header) (h + 4)).map fun x => (x.1, { c with words := x.2 })
       | none => fetchClause s r h).andThen fun (s, c) =>
        if (c.at_ r.pc).isSome then .ok (s, c) else .trap r.lowest cIllegalClause 0 0

/-- R105: the clause whose header is at `h`, as far as it can be fetched: without words where one of them faults, which its
first word then raises. -/
def headerAt (s : State) (r : Run) (h : Dword) : Res (State × Clause) :=
  match keptHeader r h with
  | some c => .ok (s, c)
  | none =>
    (codeWord s r r.lowest h).andThen fun (s, hd) =>
      if hdBad (teamLaunch s r.team) h hd then .ok (s, ⟨h, hd, []⟩)
      else match codeWords s r r.lowest (hdCount hd) (h + 4) with
        | .ok (s, ws) => .ok (s, ⟨h, hd, ws⟩)
        | .miss p => .miss p
        | .trap _ _ _ _ => .ok (s, ⟨h, hd, []⟩)
        | _ => .stall

/-! ## Headers (R208, R270, R351) -/

/-- R270, R351: the reports that a clause header takes. -/
def headerTakes (hd : Word) : ReportAt → Bool
  | .stc => field hd 16 4 != 15
  | .cpc => field hd 12 4 != 15
  | .tile slot _ => field hd 8 4 != 15 || field hd slot 1 == 1

/-- The run goes to `pc`, with its lanes. DEDUCED: log entry 93. -/
def runTo (s : State) (r : Run) (pc : Dword) : State :=
  modRun (modLanes s r fun _ th => { th with pc := pc }) fun r => { r with pc := pc }

/-- The run stands at a header: its clause is fetched, once (R105); then its waits hold, then the reports that it takes are
taken at its first word. The answer is the state after, with the run past the header, unless it stalls or faults.
DEDUCED: log entry 93. -/
def passHeader (s : State) (r : Run) : State :=
  let past := { r with pc := r.pc + 4 }
  match headerAt s r r.pc with
  | .ok (s, c) =>
    let s := modRun s fun r => { r with clause := some c }
    if hdBad (teamLaunch s r.team) r.pc c.header then raise s r r.lowest (faultDue s r cIllegalClause 0 0)
    else if !(getGroup s r.team r.grp).waitsHold c.header then signal s .stall
    else
      let s := runTo s r (r.pc + 4)
      (match reportFor s past (headerTakes c.header) with
       | some (c, rp) => takeReport s past c rp
       | none => s)
  | .miss page => missed s r page
  | .trap lane cause addr _ => raise (runTo s r (r.pc + 4)) past lane (faultDue s past cause addr 0)
  | _ => signal s .stall

/-! ## Repetition after a trap or a restore (R314) -/

/-- R314: the count and stride of the REP that stands 8 bytes below the first word of a clause. A word that cannot be fetched
is none. DEDUCED: log entry 25. -/
def repBelow (s : State) (r : Run) : Res (Option (Nat × Int)) :=
  let l := teamLaunch s r.team
  let at_ := r.pc - 8
  if at_.toNat < l.codeStart || l.isHeader at_ then .ok none else
  match codeWord s r r.lowest at_ with
  | .ok (_, w) =>
    match decode w with
    | .ok (.rep o) => .ok (some (o.n.toNat, o.s.toInt))
    | _ => .ok none
  | .miss p => .miss p
  | .stall => .stall
  | _ => .ok none

/-- The repetitions that a lane resumes with. -/
def Thread.left (th : Thread) : Half := if th.resume then th.repc else 0
/-- R314: after ERET, a restore or a stop between repetitions, lanes with repetitions left resume their REP, those of the
lowest lane's count; where no REP stands below, their REPC is cleared. DEDUCED: log entry 25. -/
def resumeRep (s : State) (r : Run) (first : Bool) : Res State :=
  let due := r.lanes.filter fun c => (laneTh s r c).resume
  if due.isEmpty then .ok s else
  (if first && due.any (fun c => (laneTh s r c).repc != 0) then repBelow s r else .ok none).map fun below =>
    match below with
    | none => modLanes s { r with lanes := due } fun _ th => { th with resume := false, repc := 0 }
    | some x =>
      let n := (laneTh s r r.lowest).left
      let stay := r.lanes.filter fun c => (laneTh s r c).left == n
      let s := modLanes s { r with lanes := due.filter stay.contains } fun _ th => { th with resume := false }
      modRun s fun r => { r with lanes := stay, rep := if n = 0 then none else some x }

/-! ## The checks of a word (R224, R235) -/

/-- R209: the words that end their clause, by opcode and function. -/
def endsClause (w : Word) : Bool :=
  let op := opOf w
  let fn := field w 3 4
  op == 0x70 || op == 0x71 || op == 0x73 || op == 0x75 || (op == 0x78 && (fn < 4 || fn == 7)) ||
  (op == 0x79 && (fn == 2 || fn == 3 || fn == 5))

/-- R224, row 1: the run's next word is its 25th. -/
def runFull (r : Run) : Bool := 24 ≤ r.words && !(r.rep.isSome && r.repWord)
/-- R224, rows 2 to 4: the fault of a word, or the instruction that it is. -/
def checkWord (c : Clause) (w : Word) (last : Bool) : Except Nat Instr :=
  if opClass (opOf w) != hdClass c.header || (endsClause w && !last) then .error cIllegalClause
  else
    match decode w with
    | .ok i => .ok i
    | .error _ => .error cIllegalInstr

/-- R235: a k register waits for the result of a long-latency instruction of the group. -/
def kLong (s : State) (r : Run) : Bool :=
  r.helpers.isNone && (getGroup s r.team r.grp).k.any fun x => match x with
    | .pend op _ =>
      match findOp s op with
      | some o => (match o.kind with
        | .lane _ => true
        | _ => false)
      | none => false
    | _ => false

/-- What the head run does next: nothing but the change to the state, or the issue of an instruction. -/
inductive Prep where
  | done (s : State)
  | run (i : Instr) (s : State)

/-! ## Words that wait for the group's atomics (R132, R133, R137, R138, R162) -/

/-- The operations of a group. -/
def groupOps (s : State) (tid g : Nat) : List Nat := (s.ops.filter fun o => o.team == tid && o.grp == g).map (·.id)
/-- An atomic of the group waits in a service group's queue (R162). -/
def owesService (s : State) (r : Run) : Bool := s.svc.any fun q => q.ops.any (groupOps s r.team r.grp).contains
/-- An item that holds an atomic. -/
def Item.isAtomic (i : Item) : Bool :=
  match i.act with
  | .atomic _ => true
  | _ => false
/-- An atomic of the group, or drained for the team (R401), waits to be accepted or matched. -/
def owesItem (s : State) (r : Run) : Bool :=
  let t := getTeam s r.team
  let det := (teamLaunch s r.team).kernel.det
  !t.detOut.isEmpty || (t.entries ++ (s.pairs.getD (pairOf t.core) {}).items).any fun i =>
    i.team == r.team && (det || i.grp == r.grp) && i.isAtomic
/-- The stores that order nothing, which stay behind an atomic of their group in the order of its items. -/
def plainStore : Instr → Bool
  | .stbMu _ | .sthMu _ | .stwMu _ | .stdMu _ | .stqMu _ | .stbMp _ | .sthMp _ | .stwMp _ | .stdMp _ | .stqMp _ | .stl _ => true
  | _ => false
/-- R132, R133, R137, R138: a memory word stalls while an atomic of its group, issued before it, has not been performed; the
atomics themselves keep their order in their queue. A fence of kind SC waits for every item of its team that its core pair
has not matched, since its reads may have shown any of them (R138). DESIGN CHOICE: log entry 108. -/
def mustWait (s : State) (r : Run) (i : Instr) : Bool :=
  (match i with
   | .wait _ => false
   | .atom o => owesService s r && o.ord != .none
   | .cas o => owesService s r && o.ord != .none
   | .red o => owesService s r && o.rel
   | i => owesService s r || (owesItem s r && !plainStore i)) ||
  (match i with
   | .fence .sc sc => 1 ≤ scopeNum sc && (getTeam s r.team).entries.any (·.kind != .writeback)
   | _ => false)
/-- The word is of the memory class (R222). -/
def memoryWord (c : Clause) : Bool := hdClass c.header == 1

/-- R44: a helper of the set has used its budget up, and stops before any further word. -/
def budgetSpent (s : State) (r : Run) : Bool :=
  match r.helpers with
  | none => false
  | some thr =>
    match (getCore s r.team).crew r.grp thr with
    | none => false
    | some c => c.helpers.any fun h => 512 ≤ h.clk && r.lanes.contains (32 * h.grp + h.thr)

/-- The head run's next word, up to its issue. -/
def prepare (s : State) : Prep :=
  let r := curRun s
  if s.runs.isEmpty then .done s
  else if r.due.isSome then .done (tryTrap (signal s .word))
  else if budgetSpent s r then .done (signal s .stall)
  else if (teamLaunch s r.team).isHeader r.pc then .done (passHeader (signal s .word) r)
  else if runFull r then .done (raise s r r.lowest (faultDue s r cIllegalRun 0 0))
  else
    match (clauseOf s r).andThen fun (s, c) =>
        let first := ((c.at_ r.pc).map (·.2.1)).getD false
        (resumeRep (modRun s fun r => { r with clause := some c }) r first).map fun s => (s, c) with
    | .ok (s, c) =>
      let r := curRun s
      match c.at_ r.pc with
      | none => .done (raise s r r.lowest (faultDue s r cIllegalClause 0 0))
      | some (w, _, last) =>
        match checkWord c w last with
        | .error cause => .done (raise s r r.lowest (faultDue s r cause 0 0))
        | .ok i => if kLong s r || (memoryWord c && mustWait s r i) then .done (signal s .stall) else .run i s
    | x => .done (conclude s r (x.map Prod.fst))

/-! ## After a word -/

/-- R376, R399: the run issues in the handler of hold-overrun. -/
def handlesHold (s : State) (r : Run) : Bool :=
  let th := laneTh s r r.lowest
  th.inTrap && field th.cause 0 8 == cHoldOverrun
/-- The head run ends, its words issued (R28, R197); a REP that has repetitions left resumes later (R314).
DEDUCED: log entries 25, 49. -/
def endRun (s : State) (r : Run) : State :=
  let s := if r.rep.isSome then modLanes s r fun _ th => { th with resume := th.repc != 0 } else s
  countEnd (dropRun s) r.team

/-- R36: the count is cleared when the lowest-numbered runnable thread is in the active set. -/
def clearProgress (s : State) (r : Run) (lanes : List Nat) : State :=
  if r.helpers.isSome then s else
  let tc := getCore s r.team
  match (tc.considered r.grp none).filter (tc.runnable r.grp none) with
  | low :: _ => if lanes.contains low then modGroup s r.team r.grp fun g => { g with progress := 0 } else s
  | [] => s

/-- The run goes on with an active set at the next word. -/
def continueRun (s : State) (r : Run) (pc : Dword) (lanes : List Nat) : State :=
  modRun (clearProgress s r lanes) fun r =>
    { r with pc := pc, lanes := lanes, rep := (if r.repWord then none else r.rep), repWord := false }

/-- R28, R33: the run goes on where the group selects the next word, and ends elsewhere. A REP repeats for the threads that it
acted in alone (R313). -/
def selectOn (s : State) (r : Run) (next : Dword) : State :=
  match selectAt s r.team r.grp r.helpers with
  | (s, some (pc, lanes)) =>
    if pc = next then continueRun s r pc (if r.rep.isSome && !r.repWord then lanes.filter r.lanes.contains else lanes)
    else endRun s r
  | (s, none) => endRun s r

/-- The head run stops at an instruction boundary: a debugger's step is done (R416), a group has caught up with its
partner (R399), or a checkpoint or a stop is due between two repetitions (R32, R46, R390). -/
def stopsHere (s : State) (r : Run) (repeating : Bool) : Bool :=
  let t := getTeam s r.team
  t.stepping.isSome ||
  (r.catching && !(laneTh s r r.lowest).inTrap && (match t.partner with
    | some p => (getGroup s r.team r.grp).interval == (getGroup s p r.grp).interval
    | none => false)) ||
  (repeating && !bufferHolds s r.team &&
    ((teamIl s r.team == 3 && (thePair s r.team).request) || (t.life == .stopping && t.action == .save)))

/-- A repetition is complete (R83, R313): the same word is next, or the word after it. -/
def nextRepetition (s : State) (r : Run) : State × Bool :=
  let s := modLanes s r fun _ th => { th with repc := th.repc - 1 }
  (modRun s fun r => { r with repWord := true }, (laneTh s r r.lowest).repc != 0)

/-- Sequential flow to the next word: threads that wait at a header join, or are held there (R33, R35). -/
def flowOn (s : State) (r : Run) : State :=
  let l := teamLaunch s r.team
  let next := r.pc + 4
  let s := modLanes s r fun _ th => th.arrive l next
  let heldOnes := r.lanes.any fun c => (laneTh s r c).life == .held
  if heldOnes then selectOn s r next
  else if l.isHeader next && (r.rep.isNone || r.repWord) then
    let tc := getCore s r.team
    let join := (tc.considered r.grp r.helpers).filter fun c =>
      tc.runnable r.grp r.helpers c && (tc.th r.grp (laneWho r.helpers c)).pc == next
    continueRun s r next join
  else continueRun s r next r.lanes

/-- R28: the word just issued ends a clause whose header has E set. -/
def endsRun (r : Run) : Bool :=
  match r.clause with
  | none => false
  | some c =>
    match c.at_ r.pc with
    | some (_, _, last) => last && hdEnd c.header
    | none => false

/-- What follows the issue of a word in its run, which was `r0` before it. -/
def finish (r0 : Run) (s : State) : State :=
  let r := curRun s
  if s.runs.isEmpty || r.team != r0.team || r.grp != r0.grp || r.helpers != r0.helpers then s else
  match r.sig with
  | .stall | .ended => s
  | .block => endRun (stepDone (countWord s r0) r) r
  | .jump =>
    let s := modRun (countWord s r0) fun r => { r with words := r.words + 1 }
    let r := curRun s
    let stop := stopsHere s r false
    let s := stepDone s r
    if stop || r.progress || endsRun r then endRun s r else selectOn s r (r.pc + 4)
  | .word =>
    let s := modRun (countWord s r0) fun r => { r with words := if r0.rep.isSome && r.repWord then r.words else r.words + 1 }
    let r := curRun s
    let (s, again) := if r0.rep.isSome then nextRepetition s r else (s, false)
    let r := curRun s
    let stop := stopsHere s r again
    let s := stepDone s r
    if again then (if stop then endRun s r else s)
    else if stop || endsRun r then
      endRun (modLanes s r fun _ th => th.arrive (teamLaunch s r.team) (r.pc + 4)) r
    else flowOn s r

end Sys2Proof.Machine
end

