-- ==== Sys2Proof/Machine/Sched.lean ====
section
/-! DEFINITION. Which groups and helper sets are ready, which of them a port takes next, and the events of runs (R31, R36,
R44, R85, R376, R384, R411). -/

namespace Sys2Proof.Machine

/-! ## Ports (R21, R31) -/

/-- A port as its events name it: 32·core + 4·sub-core + port. -/
def portNum (t : Team) (g : Group) : Nat := 32 * t.core + 4 * g.sub + g.port
def runPort (s : State) (r : Run) : Nat := portNum (getTeam s r.team) (getGroup s r.team r.grp)
def runOn (s : State) (port : Nat) : Option Run := s.runs.find? fun r => runPort s r == port
/-- The same run comes to the head. -/
def toHead (s : State) (r : Run) : State :=
  let same := fun (x : Run) => x.team == r.team && x.grp == r.grp && x.helpers == r.helpers
  { s with runs := s.runs.filter same ++ s.runs.filter fun x => !same x }

/-! ## Who may run (R23, R46, R390, R391, R399, R413, R416) -/

/-- R399: the group has issued fewer words than its partner's, which has stopped. -/
def catchesUp (s : State) (tid g : Nat) : Bool :=
  match (getTeam s tid).partner with
  | none => false
  | some p => atRest s p g && (getGroup s tid g).interval.toNat < (getGroup s p g).interval.toNat

/-- R401: an atomic buffer of a team or of its partner holds what a checkpoint waits for. DEDUCED: log entry 69. -/
def pairHolds (s : State) (tid : Nat) : Bool :=
  bufferHolds s tid || (match (getTeam s tid).partner with
    | some p => bufferHolds s p
    | none => false)
/-- R433, R386: a pair on which IL3 teams issue. -/
def pairRuns (s : State) (tid : Nat) : Bool :=
  match (thePair s tid).mode with
  | .paired | .unpair => true
  | _ => false

/-- R392: an item of the group that is performed once stands before the comparator; the checkpoint that follows it is taken
at the run end. -/
def owesOnce (s : State) (tid g : Nat) : Bool :=
  (thePair s tid).items.any fun i => i.team == tid && i.grp == g && match i.act with
    | .once _ | .atomic _ => true
    | _ => false

/-- The group, or a helper set of it, may begin a run as far as its team goes. -/
def teamMayRun (s : State) (tid g : Nat) (hs : Option Nat) : Bool :=
  let t := getTeam s tid
  let il := teamIl s tid
  (t.life == .resident || (t.life == .stopping &&
    (t.action == .drain || hs.isSome || (t.action == .save && (bufferHolds s tid || (il == 2 && il2Due s tid)))))) &&
  t.halt.isNone && !t.stopped &&
  (match t.stepping with
   | none => true
   | some l => hs.isNone && l.contains g) &&
  (il != 3 || (pairRuns s tid && !owesOnce s tid g &&
    (!il3Due s (pairOf t.core) || ((hs.isSome || bufferHolds s tid) && !(thePair s tid).forced.contains (tid, g))))) &&
  (il != 2 || t.side == .single || hs.isSome || !il2Due s tid || groupTrapped s tid g || catchesUp s tid g || pairHolds s tid)

/-! ## Readiness (R31, R208) -/

/-- Where the next run of a group or helper set would begin, with whom, and whether it is a progress run (R33, R36). -/
def pick (s : State) (tid g : Nat) (hs : Option Nat) : Option (Dword × List Nat × Bool) :=
  let tc := ((getCore s tid).release g hs).1
  let normal := (tc.active g hs).map fun x => (x.1, x.2, false)
  if hs.isSome || (tc.group g).progress < 64 then normal else
  let run := (tc.considered g none).filter (tc.runnable g none)
  match run with
  | [] => none
  | low :: _ =>
    let pc := (tc.th g (.lane low)).pc
    some (pc, run.filter (fun c => (tc.th g (.lane c)).pc == pc), true)

/-- The header at which a run would begin, as it can be read now. -/
def headerNow (s : State) (tid g : Nat) (hs : Option Nat) (pc : Dword) (lanes : List Nat) : Res (State × Word) :=
  codeWord s { team := tid, grp := g, helpers := hs, lanes := lanes, pc := pc } (lanes.headD 0) pc
/-- R208: a run that would begin at a header whose waits do not hold, or that is yet to be read, is not ready. -/
def headerReady (s : State) (tid g : Nat) (hs : Option Nat) (pc : Dword) (lanes : List Nat) : Bool :=
  if !(teamLaunch s tid).isHeader pc then true else
  match headerNow s tid g hs pc lanes with
  | .ok (_, hd) => hdBad (teamLaunch s tid) pc hd || (getGroup s tid g).waitsHold hd
  | .miss _ | .stall => false
  | _ => true

/-- A blocking instruction holds the group or helper set. -/
def blocked (s : State) (tid g : Nat) (hs : Option Nat) : Bool :=
  match hs with
  | none => (getGroup s tid g).wait.isSome || crewWaits (getGroup s tid g)
  | some thr => (((getCore s tid).crew g thr).bind (·.wait)).isSome

/-- Nothing but its next header keeps a group or helper set from being ready. -/
def mayBegin (s : State) (tid g : Nat) (hs : Option Nat) : Bool :=
  teamMayRun s tid g hs && !(getGroup s tid g).retired && !blocked s tid g hs &&
  !(s.runs.any fun r => r.team == tid && r.grp == g && r.helpers == hs)
def isReady (s : State) (tid g : Nat) (hs : Option Nat) : Bool :=
  mayBegin s tid g hs &&
  (match pick s tid g hs with
   | none => false
   | some (pc, lanes, _) => headerReady s tid g hs pc lanes)
/-- R174, R208: the page of the header at which the next run would begin is asked for before the run begins. -/
def askHeader (s : State) (tid g : Nat) (hs : Option Nat) : State :=
  if !mayBegin s tid g hs then s else
  match pick s tid g hs with
  | none => s
  | some (pc, lanes, _) =>
    if !(teamLaunch s tid).isHeader pc then s else
    match headerNow s tid g hs pc lanes with
    | .miss page => requestWalk s (envOf s { team := tid, grp := g, helpers := hs, lanes := lanes, pc := pc }) page
    | _ => s

/-- The helper sets of a team, empty ones too: group and recruiter. -/
def helperSets (tc : TeamCore) : List (Nat × Nat) := tc.crews.map fun c => (c.grp, c.thr)

/-- The age mark of an entry that is ready, or not, at `now` (R31). DEDUCED: log entry 49. -/
def ageMark (now : Nat) (ready : Bool) (old : Option Nat) : Option Nat := if ready then some (old.getD now) else none

/-- Ages of every group and helper set, as they are ready or not now. DEDUCED: log entry 49. -/
def updateReady (s : State) : State :=
  let now := s.cycle.toNat
  (List.range s.teams.length).foldl (fun s tid =>
    let t := getTeam s tid
    if !(t.life == .resident || t.life == .stopping) then s else
    let s := (List.range t.body.groups.length).foldl (fun s g => askHeader s tid g none) s
    let s := (helperSets t.body).foldl (fun s x => askHeader s tid x.1 (some x.2)) s
    let s := (List.range t.body.groups.length).foldl (fun s g =>
      let r := isReady s tid g none
      modGroup s tid g fun gr => { gr with readyAt := ageMark now r gr.readyAt }) s
    (helperSets t.body).foldl (fun s x =>
      let r := isReady s tid x.1 (some x.2)
      modCore s tid fun tc => tc.modCrew x.1 x.2 fun c => { c with since := ageMark now r c.since }) s) s

/-! ## Arbitration (R31) -/

/-- A ready entry of a port and its key: priority, age, team index, group and helper rank. -/
structure Entry where
  team : Nat
  grp : Nat
  helpers : Option Nat
  key : List Nat
  deriving DecidableEq, Repr

/-- The ready entries of a port. -/
def entriesOf (s : State) (port : Nat) : List Entry :=
  (List.range s.teams.length).flatMap fun tid =>
    let t := getTeam s tid
    let prio := (teamLaunch s tid).prio
    let groups := (List.range t.body.groups.length).filterMap fun g =>
      let gr := t.body.group g
      match (if portNum t gr = port then gr.readyAt else none) with
      | none => none
      | some a => some (Entry.mk tid g none [prio, a, t.idx, g, 0, tid])
    let sets := t.body.crews.filterMap fun c =>
      match (if portNum t (t.body.group c.grp) = port then c.since else none) with
      | none => none
      | some a => some (Entry.mk tid c.grp (some c.thr) [prio, a, t.idx, c.grp, c.thr + 1, tid])
    groups ++ sets

def keyLt : List Nat → List Nat → Bool
  | x :: xs, y :: ys => x < y || (x == y && keyLt xs ys)
  | [], _ :: _ => true
  | _, [] => false

/-- R31: the entry that a free port takes. -/
def chosen (s : State) (port : Nat) : Option Entry :=
  (entriesOf s port).foldl (fun acc e =>
    match acc with
    | none => some e
    | some b => if keyLt e.key b.key then some e else some b) none

/-- R36: the count of a group at the start of a run. -/
def countProgress (s : State) (e : Entry) (lanes : List Nat) (progress : Bool) : State :=
  if e.helpers.isSome then s else
  let tc := getCore s e.team
  match (tc.considered e.grp none).filter (tc.runnable e.grp none) with
  | [] => s
  | low :: _ => modGroup s e.team e.grp fun g =>
      { g with progress := if progress || lanes.contains low then 0 else g.progress + 1 }

/-- The run of an entry begins. -/
def beginRun (s : State) (e : Entry) : State :=
  match pick s e.team e.grp e.helpers with
  | none => s
  | some (pc, lanes, progress) =>
    let s := (selectAt s e.team e.grp e.helpers).1
    let catching := teamIl s e.team == 2 && il2Due s e.team && !groupTrapped s e.team e.grp
    let s := countProgress s e lanes progress
    let s := modGroup s e.team e.grp fun g => if e.helpers.isNone then { g with readyAt := none } else g
    let s := match e.helpers with
      | none => s
      | some thr => modCore s e.team fun tc => tc.modCrew e.grp thr fun c => { c with since := none }
    { s with runs := s.runs ++ [{ team := e.team, grp := e.grp, helpers := e.helpers, lanes := lanes, pc := pc,
                                  progress := progress, since := s.cycle, catching := catching }] }

/-- The entry that begins a run on a port now, if the run is a progress run as `progress` says. -/
def startable (s : State) (port : Nat) (progress : Bool) : Option Entry :=
  if (runOn s port).isSome then none else
  (chosen s port).bind fun e =>
    match pick s e.team e.grp e.helpers with
    | some (_, _, p) => if p = progress then some e else none
    | none => none

/-- R31. -/
def execRunStart (port : Nat) (s : State) : Host.Outcome State Fault Refusal :=
  .next (match startable s port false with
    | some e => beginRun s e
    | none => s)
/-- R36. -/
def execProgressRun (port : Nat) (s : State) : Host.Outcome State Fault Refusal :=
  .next (match startable s port true with
    | some e => beginRun s e
    | none => s)

/-! ## Traps that have waited (R85) -/

/-- A due trap whose threads wait for no value. -/
def trapReady (s : State) (r : Run) : Bool := r.due.isSome && !r.lanes.any fun c => (laneTh s r c).hasPend
/-- R75, R85. -/
def execTrapEntry (port : Nat) (s : State) : Host.Outcome State Fault Refusal :=
  .next (match runOn s port with
    | none => s
    | some r => if trapReady s r then tryTrap (toHead s r) else s)

/-! ## Helpers that stop early (R44, R376) -/

/-- Takes a lane out of the helper set's run, which ends when it is empty. -/
def dropLane (s : State) (tid g thr code : Nat) : State :=
  let mine := fun (r : Run) => r.team == tid && r.grp == g && r.helpers == some thr
  let n := s.runs.length
  let cut := s.runs.map (fun r => if mine r then { r with lanes := r.lanes.filter (· != code) } else r)
  let s := { s with runs := cut.filter (fun r => !(mine r && r.lanes.isEmpty)) }
  if s.runs.length < n then countEnd s tid else s

/-- R44: a helper stops at once: released, its chunk re-pooled, a kind 2 record written. `charge` tells an overrun. -/
def stopHelper (s : State) (tid g thr : Nat) (h : Helper) (cause : Nat) (epc : Dword) (charge : Bool) : State :=
  let code := 32 * h.grp + h.thr
  let s := dropLane s tid g thr code
  match (getCore s tid).crew g thr, h.th.member with
  | some c, some m =>
    let iter := c.lo + BitVec.ofNat 32 m.iter
    let s := modCore s tid fun tc => (tc.dropHelper g thr code).modCrew g thr fun c =>
      let c := c.repool m
      if charge then { c with overruns := c.overruns ++ [⟨cause, iter, 0, m.chunk⟩] } else c
    faultRecord s (getTeam s tid).part
      { teamRec s tid 2 cause with thread := 32 * g + thr, epc := epc, info := if charge then iter else 0,
                                   iter := (c.chunkFirst m.chunk).toNat, items := h.effects }
  | some _, none => modCore s tid fun tc => tc.dropHelper g thr code
  | none, _ => s

def findHelper (s : State) (tid g thr code : Nat) : Option Helper :=
  ((getCore s tid).crew g thr).bind fun c => c.helpers.find? fun h => 32 * h.grp + h.thr == code

/-- R44: a helper has used its budget. DEDUCED: log entry 35. -/
def overBudget (h : Helper) : Bool := 512 ≤ h.clk
/-- R44. DEDUCED: log entry 35. -/
def execCrewBudgetOverrun (team grp thr helper : Nat) (s : State) : Host.Outcome State Fault Refusal :=
  .next (match findHelper s team grp thr helper, (getCore s team).crew grp thr with
    | some h, some c => if overBudget h then stopHelper s team grp thr h cCrewOverrun c.crewEnd true else s
    | _, _ => s)

/-! ## Holding a port too long (R376) -/

/-- R376: the run has cause to give up its port. -/
def holdCause (s : State) (r : Run) : Bool :=
  let t := getTeam s r.team
  let prio := (teamLaunch s r.team).prio
  t.life == .stopping ||
  (entriesOf s (runPort s r)).any fun e => (teamLaunch s e.team).prio < prio

/-- The moments since which runs have had cause. -/
def updateCause (s : State) : State :=
  { s with runs := s.runs.map fun r => { r with cause := if holdCause s r then some (r.cause.getD s.cycle) else none } }

/-- DESIGN CHOICE: log entry 11. -/
def holdExpired (s : State) (r : Run) : Bool :=
  r.sig == .stall && r.due.isNone &&
  (match r.cause with
   | none => false
   | some c => (pbar s (getTeam s r.team).part Config.oHoldLimit).toNat < (s.cycle - c).toNat)

/-- R376. -/
def execHoldOverrun (port : Nat) (s : State) : Host.Outcome State Fault Refusal :=
  .next (match runOn s port with
    | none => s
    | some r =>
      if !holdExpired s r then s else
      match r.helpers with
      | none =>
        let s := signal (toHead s r) .word
        raise s (curRun s) r.lowest { cause := cHoldOverrun, addr := 0, info := 0, epc := r.pc }
      | some thr => r.lanes.foldl (fun s c =>
          match findHelper s r.team r.grp thr c with
          | some h => stopHelper s r.team r.grp thr h cHoldOverrun r.pc false
          | none => s) s)

/-! ## Watchdog and duration (R384, R411) -/

/-- A group waits at a CHSEND that has all it needs but its item's place in the compare buffer (R398). -/
def sendStands (s : State) (tid g : Nat) : Bool :=
  match (getGroup s tid g).wait with
  | some ⟨.chsend _ ch, _⟩ =>
    (match channelDecl s tid ch.val with
     | some d => (match teamByIdx s tid d.receiver with
       | some rt => (getTeam s rt).life == .resident || (getTeam s rt).life == .stopping
       | none => false)
     | none => false) && creditOf (getCore s tid) ch.val != 0
  | _ => false
/-- R398: a group of the team stands in a slack stall. -/
def inSlackStall (s : State) (tid : Nat) : Bool :=
  (getTeam s tid).side != .single &&
  ((s.runs.any fun r => r.team == tid && r.slack == some (r.pc, r.words)) ||
   (List.range (getCore s tid).groups.length).any (sendStands s tid))

/-- R411: the watchdog of a team counts, also while a checkpoint waits for a flush point of its atomic buffer (R401), and in the
halt of a requested dump (R412). -/
def wdCounts (s : State) (tid : Nat) : Bool :=
  let t := getTeam s tid
  (t.life == .resident || t.life == .stopping) && t.halt.all (·.resumable) && !t.stopped && !inSlackStall s tid && (pairHolds s tid ||
    (!(teamIl s tid == 2 && il2Due s tid) &&
     !(teamIl s tid == 3 && (il3Due s (pairOf t.core) || (thePair s tid).mode == .rollback))))

/-- DESIGN CHOICE: log entry 11. -/
def updateWatchdogs (s : State) : State :=
  { s with teams := (List.range s.teams.length).map fun i =>
      let t := getTeam s i
      if wdCounts s i then { t with wd := t.wd + 1 } else t }

/-- WD_LIMIT in clk at the present clock. -/
def wdClk (s : State) (d : Nat) : Nat := (pbar s d Config.oWdLimit).toNat * s.khz.toNat / 1000
def wdExpired (s : State) (tid : Nat) : Bool :=
  let t := getTeam s tid
  (t.life == .resident || t.life == .stopping) && t.halt.all (·.resumable) && !t.stopped && wdClk s t.part < t.wd

/-- R411: the type 13 items, in logical order. DEDUCED: log entry 50. -/
def wdItems (s : State) (tid : Nat) : List (Nat × Nat × Dword × Dword) :=
  let now := s.cycle.toNat
  let l := (getTeam s tid).issuers
  (List.range 32).flatMap fun g => (List.range 32).flatMap fun t =>
    (l.filter fun x => x.grp == g && x.thr == t).filterMap fun x =>
      let n := (x.times.filter fun c => decide (now < c + 65536)).length
      if n = 0 then none else some (13, n, BitVec.ofNat 64 (32 * g + t), x.pc)

/-- R411. -/
def execWatchdogExpiry (team : Nat) (s : State) : Host.Outcome State Fault Refusal :=
  .next (if wdExpired s team then failTeamWith s team cWatchdog 0 0 0 0 (wdItems s team) else s)

/-- R384: a team of IL1 or above has run past twice its declared duration. -/
def pastDuration (s : State) (tid : Nat) : Bool :=
  let t := getTeam s tid
  let k := (teamLaunch s tid).kernel
  1 ≤ k.il && k.duration != 0 && t.halt.isNone && (t.life == .resident || t.life == .stopping) &&
  (match t.started with
   | none => false
   | some x => 2 * k.duration < (s.phcNs - x).toNat)
/-- R384. -/
def execDurationOverrun (team : Nat) (s : State) : Host.Outcome State Fault Refusal :=
  .next (if pastDuration s team then failTeam s team cDuration 0 0 0 0 else s)

end Sys2Proof.Machine
end

