-- ==== Sys2Proof/Machine/Complete.lean ====
section
/-! DEFINITION. The completions of operations in flight: values that arrive (R75, R236, R271), stores performed (R191),
page walks (R173 to R175), copies (R139, R163, R195, R294 to R298), matrix operations (R107, R348 to R351, R357), messages
and credits (R160), publication swaps (R182), shoot-downs (R176) and merge-buffer lines (R145). An event that names an
operation which cannot complete now changes nothing. -/

namespace Sys2Proof.Machine

/-! ## Values (R75, R236, R271) -/

/-- A pending cell of operation `op` takes its word, or a poison mark. -/
def Cell.fill (op : Nat) (f : Fill) : Cell → Cell
  | .pend o part =>
    if o = op then (match f.poison with
      | some a => .mark op a
      | none => .word (f.words.getD part 0))
    else .pend o part
  | c => c
def CcCell.fill (op : Nat) (f : Fill) : CcCell → CcCell
  | .pend o => if o = op then .flags ((f.flags.map Prod.snd).getD {}) else .pend o
  | c => c
def Held.fill (op : Nat) (f : Fill) (h : Held) : Held := { h with q := h.q.map (Cell.fill op f), cc := h.cc.map (CcCell.fill op f) }
def Member.fill (op : Nat) (f : Fill) (m : Member) : Member :=
  { m with nested := m.nested.map fun n => { n with held := n.held.fill op f, h := n.h.map (Cell.fill op f) } }

/-- R75: the value goes wherever the pending entries of the thread have got to. DEDUCED: log entry 23. -/
def Thread.fill (op : Nat) (f : Fill) (th : Thread) : Thread :=
  { th with
    q := th.q.map (Cell.fill op f), stk := th.stk.map (fun x => (x.1, x.2.fill op f)), h := th.h.map (Cell.fill op f)
    tf := th.tf.map (Cell.fill op f), cc := th.cc.map (CcCell.fill op f), member := th.member.map (Member.fill op f)
    marks := match f.poison with
      | some a => th.marks ++ [(op, a)]
      | none => th.marks }

/-- Zero words of a register stack are not listed. -/
def Thread.tidy (th : Thread) : Thread := { th with stk := th.stk.filter fun x => x.2 != .word 0 }

/-- One receiver's part of an operation is filled: the thread, the snapshot and held state of its crew, or k registers, whose
mark is due in the issuing thread `rep` (R270, R271). DEDUCED: log entry 23. -/
def fillOne (s : State) (tid g rep op : Nat) (f : Fill) : State :=
  match f.who with
  | .lane t =>
    let s := modTh s tid g (.lane t) fun th => (th.fill op f).tidy
    modCore s tid fun tc => tc.modCrew g t fun c => { c with snap := c.snap.map (Cell.fill op f), held := c.held.fill op f }
  | .helper thr hg ht => modTh s tid g (.helper thr hg ht) fun th => (th.fill op f).tidy
  | .group =>
    let s := modGroup s tid g fun gr => { gr with k := gr.k.map (Cell.fill op f) }
    match f.poison with
    | some a => modTh s tid g (reporterWho rep) fun th => { th with marks := th.marks ++ [(op, a)] }
    | none => s

def fillAll (s : State) (o : Op) (fs : List Fill) : State := fs.foldl (fun s f => fillOne s o.team o.grp o.reporter o.id f) s

/-- The values of an operation have all arrived. -/
def valuesIn (fs : List Fill) : Bool := fs.all fun f => !f.words.isEmpty

def loadReady (s : State) (o : Op) : Bool :=
  match o.kind with
  | .load fs => valuesIn fs && !opHeld s o.id
  | _ => false
/-- R75, R191: the values of operation `op`, if all have come, fill the entries that wait for them. -/
def landLoad (s : State) (op : Nat) : State :=
  match findOp s op with
  | none => s
  | some o =>
    match o.kind with
    | .load fs =>
      if loadReady s o then
        let s := { s with window := s.window.filter fun x => !(x.op == op && x.who.isSome) }
        lowerCtr (dropOp (fillAll s o fs) op) o.team o.grp .ld
      else s
    | _ => s
/-- R75, R191. -/
def execLoadFill (op : Nat) (s : State) : Host.Outcome State Fault Refusal := .next (landLoad s op)

/-- R236. -/
def execLongLatencyResult (op : Nat) (s : State) : Host.Outcome State Fault Refusal :=
  .next (match findOp s op with
    | none => s
    | some o =>
      match o.kind with
      | .lane fs => dropOp (fillAll s o fs) op
      | _ => s)

/-- R191, R401: nothing of a store or non-returning atomic remains to be performed; under IL3 it has been accepted.
DEDUCED: log entry 53. -/
def storeReady (s : State) (o : Op) : Bool :=
  match o.kind with
  | .store _ =>
    !opHeld s o.id && !(s.svc.any fun q => q.ops.contains o.id) &&
    (teamIl s o.team == 3 || !(((getTeam s o.team).det ++ (getTeam s o.team).detOut).any fun e => e.ops.contains o.id))
  | _ => false
/-- R191. -/
def execStorePerformed (op : Nat) (s : State) : Host.Outcome State Fault Refusal :=
  .next (match findOp s op with
    | none => s
    | some o =>
      if storeReady s o then lowerCtr (dropOp (performWindow s fun x => x.op == op) op) o.team o.grp .st else s)

/-! ## Page walks (R173 to R175) -/

/-- The cluster that tracks a walk's miss: its first requester's (R175). -/
def Walk.cluster (w : Walk) : Nat := ((w.by_.head?).map (·.core / 4)).getD 0
/-- R175: the oldest of the 128 misses that each cluster tracks which has not begun takes a free walker of 64. -/
def nextWalk (s : State) : Option Walk :=
  if 64 ≤ (s.walks.filter (·.started)).length then none
  else s.walks.find? fun w => !w.started && (s.walks.filter fun x => x.id < w.id && x.cluster == w.cluster).length < 128
/-- R175. -/
def execTlbWalkStart (s : State) : Host.Outcome State Fault Refusal :=
  .next (match nextWalk s with
    | none => s
    | some w => { s with walks := s.walks.map fun x => if x.id = w.id then { x with started := true } else x })

/-- Stalled runs try again. -/
def wakeRuns (s : State) : State :=
  { s with runs := s.runs.map fun r => if r.sig == .stall then { r with sig := .ended } else r }

/-- R173 to R176: the outcome of a walk fills the TLBs, and reaches every access attached to it; where it faults, or every access
through it would, the TLBs that asked hold nothing of its page. A stale walk's attached accesses walk again. -/
def finishWalk (s : State) (w : Walk) : State :=
  let s := { s with walks := s.walks.filter (·.id != w.id) }
  if w.stale then s else
  let (s, res) := walkPage s w.ctx w.part (w.page * 4096)
  let s := { s with outcomes := w.by_.map (fun b => ⟨b, w.ctx, w.page, res⟩) ++ s.outcomes }
  let without := w.by_.foldl (fun s b => { s with
    tlb := tlbDrop s.tlb b.core w.ctx (w.page * 4096), ctlb := tlbDrop s.ctlb (b.core / 4) w.ctx (w.page * 4096) }) s
  match res with
  | .fault _ => without
  | .page e =>
    if frameFaults s w.part (e.pa + (w.page * 4096 - e.va)) then without else
    w.by_.foldl (fun s b => { s with tlb := tlbFill tlbSize s.tlb b.core e, ctlb := tlbFill clusterTlbSize s.ctlb (b.core / 4) e }) s
/-- R175. -/
def execTlbWalkComplete (walk : Nat) (s : State) : Host.Outcome State Fault Refusal :=
  .next (match s.walks.find? fun w => w.id == walk && w.started with
    | none => s
    | some w => finishWalk s w)

/-! ## Copies -/

/-- The accesses of an engine on behalf of an operation: a requester of its own. -/
def engineRun (o : Op) : Run := { team := o.team, grp := o.grp + 64, lanes := [o.reporter % 1024], pc := o.pc }

/-- Why an engine does not go on: it waits, for a walk of a page or at a page or range that is held (R122, R178); or a check
has failed. -/
inductive EngineStop where
  | wait (page : Option Nat)
  | fault (cause : Nat) (addr : Dword)
  deriving DecidableEq, Repr

/-- The check of an engine's address, through the first-level TLB, then the cluster TLB (R174). -/
def engineCheck (s : State) (o : Op) (k : AccKind) (shadow : Bool) (va : Dword) : State × Except EngineStop Nat :=
  let env := envOf s (engineRun o)
  let ask : State → Except EngineStop Nat := fun s => match checkGlobal s env k false shadow 1 va with
    | .ok pa _ => .ok pa
    | .miss page => .error (.wait (some page))
    | .wait => .error (.wait none)
    | .fault c a => .error (.fault c a)
  match ask s with
  | .error (.wait (some page)) =>
    if (clusterHit s env page).isSome then (let s := requestWalk s env page; (s, ask s)) else (s, .error (.wait (some page)))
  | .ok pa => (usePage s env va, .ok pa)
  | x => (s, x)

/-- Stash lines of [off, off+n) are filled for an engine, or why not (R114, R115). -/
def engineTouch (s : State) (o : Op) (off n : Nat) : State × Option EngineStop :=
  (linesOf off n).foldl (fun (x : State × Option EngineStop) line =>
    if x.2.isSome then x else
    match touchStash x.1 (engineRun o) 0 (max off line) with
    | .ok s => (s, none)
    | .trap _ c a _ => (x.1, some (.fault c a))
    | .miss page =>
      let env := envOf x.1 (engineRun o)
      if (clusterHit x.1 env page).isNone then (x.1, some (.wait (some page))) else
      (match touchStash (requestWalk x.1 env page) (engineRun o) 0 (max off line) with
       | .ok s => (s, none)
       | .trap _ c a _ => (x.1, some (.fault c a))
       | .miss page => (x.1, some (.wait (some page)))
       | _ => (x.1, some (.wait none)))
    | _ => (x.1, some (.wait none))) (s, none)

/-- A word of a copy's source: four bytes, whether each is poisoned, or why there is none. -/
def copyWord (s : State) (o : Op) (sp : CopySpace) (a : Dword) (first : Bool) :
    State × Except EngineStop (List (Byte × Bool)) :=
  match sp with
  | .scratch =>
    match engineTouch s o a.toNat 4 with
    | (s, some f) => (s, .error f)
    | (s, none) =>
      let tc := getCore s o.team
      let bad := tc.scratchPoison.contains (a.toNat / 32)
      (s, .ok ((scratchBytes tc a.toNat 4).map fun b => (b, bad)))
  | .global =>
    match engineCheck s o .copySrc false a with
    | (s, .ok pa) =>
      let s := if first || pa % 128 == 0 then l2Touch s (getTeam s o.team).part pa 0 else s
      let (s, bs, p) := viewRead s o.team pa 4
      (s, .ok (bs.map fun b => (b, p.isSome)))
    | (s, .error x) => (s, .error x)

/-- Reads the words at `addrs` in order, up to the first that gives none. -/
def copyWords (s : State) (o : Op) (sp : CopySpace) (addrs : List (Dword × Bool)) :
    State × List (Byte × Bool) × Option EngineStop :=
  addrs.foldl (fun (x : State × List (Byte × Bool) × Option EngineStop) a =>
    if x.2.2.isSome then x else
    match copyWord x.1 o sp a.1 a.2 with
    | (s, .ok bs) => (s, x.2.1 ++ bs, none)
    | (s, .error f) => (s, x.2.1, some f)) (s, [], none)

/-- Source addresses of a copy, a word at a time, row by row (R296, R297), each with whether it begins its row. -/
def copySources (c : CopyCmd) : List (Dword × Bool) :=
  c.srcs.flatMap fun a => (List.range (c.len / 4)).map fun i => (a + BitVec.ofNat 64 (4 * i), i == 0)

/-- Pieces of at most 128 bytes (R195), none across a multiple of 128, so that no aligned word is torn (R129); `n` bounds their
number. DEDUCED: log entry 9. -/
def cutPieces (dst : Dword) : Nat → List (Byte × Bool) → List Piece
  | 0, _ => []
  | n + 1, bs =>
    if bs.isEmpty then [] else
    let k := 128 - dst.toNat % 128
    let h := bs.take k
    ⟨dst, h.map Prod.fst, (List.range h.length).filter fun i => (h.getD i (0, false)).2⟩ ::
      cutPieces (dst + BitVec.ofNat 64 k) n (bs.drop k)

/-- An engine that waits for a page asks for its walk, or attaches to it (R175). -/
def engineWaits (s : State) (o : Op) (page : Option Nat) : State :=
  match page with
  | none => s
  | some p => requestWalk s (envOf s (engineRun o)) p
/-- The walk outcomes that an engine has received are spent. -/
def engineWent (s : State) (o : Op) : State :=
  let req := (envOf s (engineRun o)).req
  { s with outcomes := s.outcomes.filter fun x => !(x.to_ == req) }

/-- The bytes of the whole pieces among the first `n` bytes of a copy. -/
def wholePieces (dst : Dword) (n : Nat) : Nat :=
  let first := 128 - dst.toNat % 128
  if n < first then 0 else first + (n - first) / 128 * 128
/-- R296, R298: a copy reads its whole source, then writes its destination piece by piece. A piece whose source was
not wholly read is not written. An engine that must wait begins anew. -/
def beginCopy (s : State) (o : Op) (c : CopyCmd) : State :=
  let (t, bs, f) := copyWords s o c.srcSpace (copySources c)
  let go := fun (failed : Option (Nat × Dword)) =>
    let out := match c.regroup with
      | none => if failed.isSome then bs.take (wholePieces c.dst bs.length) else bs
      | some g =>
        if failed.isSome then [] else
        (g.apply (bs.map Prod.fst)).zip ((g.apply (bs.map fun x => if x.2 then 1 else 0)).map (· != 0))
    setOpKind (engineWent t o) o.id (.copy { c with started := true, pieces := cutPieces c.dst (out.length / 128 + 2) out, failed := failed })
  match f with
  | some (.wait page) => engineWaits s o page
  | some (.fault cause a) => go (some (cause, a))
  | none => go none

/-- R163: the copy that a core's engine begins next, unless an item of it is yet to be accepted. -/
def nextCopy (s : State) (core : Nat) : Option (Op × CopyCmd) :=
  match s.ops.filterMap fun o => (match o.kind with
      | .copy c => if !c.started && (getTeam s o.team).core == core then some (o, c) else none
      | _ => none) with
  | (o, c) :: _ => if opHeld s o.id then none else some (o, c)
  | [] => none
/-- R163. -/
def execCopyStart (core : Nat) (s : State) : Host.Outcome State Fault Refusal :=
  .next (match nextCopy s core with
    | none => s
    | some (o, c) => beginCopy s o c)

/-- R195: an arrival of `n` bytes at a sync word. -/
def arriveSync (tc : TeamCore) (off n : Nat) : TeamCore :=
  let target := (syncWordAt tc off 0).toNat
  let count := ((syncWordAt tc off 1).toNat + n) % 2 ^ 32
  let gen := (syncWordAt tc off 2).toNat
  let (count, gen) := if target = 0 then (count, gen) else (count % target, (gen + count / target) % 2 ^ 32)
  scratchWrite tc (off + 4) (natBytes 4 count ++ natBytes 4 gen)

/-! ## Provisional lines (R390) -/

/-- The lines of the partition's pairs that hold provisional ways of the set of `line`. -/
def waysTaken (s : State) (part line : Nat) : List Nat :=
  ((List.range 8).flatMap fun p => if corePart s (8 * p) = part then (s.pairs.getD p {}).ways else []).filter fun l =>
    homeOf s part l == homeOf s part line
/-- R390: a line of pair `p` takes a provisional way of its set, or goes to the overflow area where other lines hold both, and the
pair then asks for a checkpoint. -/
def takeWay (s : State) (p line : Nat) : State :=
  if (s.pairs.getD p {}).ways.contains line then s
  else
    let free := (waysTaken s (corePart s (8 * p)) line).length < 2
    { s with pairs := listMod s.pairs p fun q =>
        if free then { q with ways := q.ways ++ [line] } else { q with request := true } }

/-- What accepted writes of a team say of the poison of their sectors, newest first; `whole` names those that the threads of an
instruction together overwrite (R124). -/
def provMarks (tid : Nat) (cells : List Host.Cell) (bad whole : List Nat) : List (Nat × Nat × Bool) :=
  bad.map (tid, ·, true) ++ whole.map (tid, ·, false) ++ (cellRuns cells).flatMap fun x =>
    (sectorsOf x.1 x.2.length).filterMap fun sec =>
      if x.1 ≤ 32 * sec && 32 * sec + 32 ≤ x.1 + x.2.length then some (tid, sec, false) else none
/-- R105, R107: copies of a provisionally written line in instruction caches and operand-buffer shares are invalid. -/
def dropStale (s : State) (line : Nat) : State :=
  { s with icache := s.icache.filter (·.2 != line), shares := staleShares [line] s.shares }
/-- R390: accepted bytes, some of whose sectors are poison, become provisional; a write that overflows asks for a checkpoint.
A shadow write goes to the buffer that is back now (R180). -/
def provide (s : State) (p tid : Nat) (addr : Dword) (cells : List Host.Cell) (bad whole : List Nat) : State :=
  let cells := cells.map fun c => if c.1 / 2 ^ 54 % 2 = 1 then ((landing s c.1).getD c.1, c.2) else c
  let s := ((cells.map fun c => c.1 / 128 * 128).eraseDups).foldl (fun s l => takeWay (dropStale s l) p l) s
  { s with pairs := listMod s.pairs p fun q => { q with
    prov := q.prov ++ cells.map fun c => (tid, c)
    provBad := provMarks tid cells bad whole ++ q.provBad
    accepted := q.accepted ++ [(tid, addr, cells.length)] } }

/-! ## Pieces of a copy (R195, R296) -/

/-- The places of the words of a piece, as far as their checks pass, with why they end. -/
def piecePlaces (s : State) (o : Op) (c : CopyCmd) (p : Piece) : State × List Nat × Option EngineStop :=
  (List.range ((p.bytes.length + 3) / 4)).foldl (fun (x : State × List Nat × Option EngineStop) i =>
    if x.2.2.isSome then x else
    match engineCheck x.1 o .copyDst c.shadow (p.dst + BitVec.ofNat 64 (4 * i)) with
    | (s, .ok pa) => (s, x.2.1 ++ [pa], none)
    | (s, .error f) => (s, x.2.1, some f)) (s, [], none)

/-- The team's halt ends it. -/
def teamEnding (s : State) (tid : Nat) : Bool :=
  match (getTeam s tid).halt with
  | some h => !h.resumable
  | none => false

/-- Words of a piece are written at their places. Under IL3 those at places that an L2 caches are provisional, and those of a team that
has failed reach nothing (R147, R396); the trailing team of IL2 writes nothing global. -/
def writeWords (s : State) (o : Op) (c : CopyCmd) (p : Piece) (pas : List Nat) : State :=
  let cells := (List.range pas.length).flatMap fun i =>
    cellsAt (pas.getD i 0) ((p.bytes.drop (4 * i)).take 4)
  let bad := (p.poison.filter (· / 4 < pas.length)).map fun j => sectorOf (pas.getD (j / 4) 0 + j % 4)
  let part := (getTeam s o.team).part
  if c.mute then s
  else
    let s := (pas.map (· / 128 * 128)).eraseDups.foldl (fun s l => l2Touch s part ((landing s l).getD l) 0) s
    if teamIl s o.team = 3 then
      (if teamEnding s o.team then s else
        let (out, cells) := cells.partition fun x => uncached s x.1 0
        let s := if c.again then s else writeCells s none out []
        let s := ((cells.map fun x => x.1 / 128 * 128).eraseDups).foldl (fun s l => snoopStash s l none) s
        if cells.isEmpty then s else provide s (pairOf (getTeam s o.team).core) o.team p.dst cells bad [])
    else writeCells s none cells bad

/-- Writes a piece up to the first word whose check fails; the answer counts the bytes written.
DEDUCED: log entry 9. -/
def copyPiece (s : State) (o : Op) (c : CopyCmd) (p : Piece) : State × Nat × Option EngineStop :=
  match c.dstSpace with
  | .scratch =>
    match engineTouch s o p.dst.toNat p.bytes.length with
    | (s, some f) => (s, 0, some f)
    | (s, none) => (modCore (writeScratch s o.team p.dst.toNat p.bytes) o.team fun tc =>
        { tc with scratchPoison := (p.poison.map fun j => (p.dst.toNat + j) / 32).foldl setAdd tc.scratchPoison }, p.bytes.length, none)
  | .global =>
    match piecePlaces s o c p with
    | (s, pas, some (.fault x a)) => (writeWords s o c p pas, 4 * pas.length, some (.fault x a))
    | (s, _, some (.wait page)) => (s, 0, some (.wait page))
    | (s, pas, none) => (writeWords s o c p pas, p.bytes.length, none)

/-- R139: the piece of a copy of a trailing team that writes nothing global waits until the leading team's copy has written it. -/
def twinBehind (s : State) (c : CopyCmd) : Bool :=
  c.mute && match c.twin.bind (findOp s) with
    | none => false
    | some o => (match o.kind with
      | .copy d => d.written ≤ c.written
      | _ => false)
/-- R114, R195: a piece is written, and the stash line of the sync word that it announces itself on is filled. -/
def pieceAndSync (s : State) (o : Op) (c : CopyCmd) (p : Piece) : State × Nat × Option EngineStop :=
  match c.sync with
  | none => copyPiece s o c p
  | some off =>
    match engineTouch s o off 16 with
    | (s, some f) => (s, 0, some f)
    | (s, none) => copyPiece s o c p
/-- R195, R296: the next piece of a copy lands, or waits. -/
def landPiece (s : State) (o : Op) (c : CopyCmd) : State :=
  if twinBehind s c then s else
  match c.pieces[c.written]? with
  | none => s
  | some p =>
    let (t, n, f) := pieceAndSync s o c p
    let d := { c with bytesDone := c.bytesDone + n }
    match f with
    | some (.wait page) => engineWaits s o page
    | some (.fault x a) => setOpKind (engineWent t o) o.id (.copy { d with pieces := d.pieces.take d.written, failed := some (x, a) })
    | none =>
      let t := match c.sync with
        | some off => dropScratch (modCore t o.team fun tc => arriveSync tc off p.bytes.length) o.team off 16
        | none => t
      setOpKind (engineWent t o) o.id (.copy { d with written := d.written + 1 })
/-- R195. -/
def execCopyPieceArrival (op : Nat) (s : State) : Host.Outcome State Fault Refusal :=
  .next (match findOp s op with
    | none => s
    | some o =>
      match o.kind with
      | .copy c => if c.started then landPiece s o c else s
      | _ => s)

/-- A copy waits for a walk in flight, or at a page or range that is held. -/
def copyWaits (s : State) (o : Op) (c : CopyCmd) : Bool :=
  let stop := if c.started then (match c.pieces[c.written]? with
      | none => none
      | some p => if twinBehind s c then some (.wait none) else (pieceAndSync s o c p).2.2) else (copyWords s o c.srcSpace (copySources c)).2.2
  match stop with
  | some (.wait none) => true
  | some (.wait (some page)) =>
    let env := envOf s (engineRun o)
    s.walks.any fun w => w.ctx == env.ctx && w.page == page && w.by_.contains env.req
  | _ => false

/-- R413: a copy that ends during a halt is listed. -/
def listCopy (s : State) (tid : Nat) (item : Nat × Nat × Dword × Dword) : State :=
  modTeam s tid fun t => { t with halt := t.halt.map fun h => { h with items := h.items ++ [item] } }

/-- A started copy has written all its pieces; the answer tells how it ends. -/
def copyEnd (s : State) (op : Nat) : Option (Op × CopyCmd) :=
  (findOp s op).bind fun o =>
    match o.kind with
    | .copy c => if c.started && c.pieces.length ≤ c.written then some (o, c) else none
    | _ => none

/-- R296. -/
def execCopyComplete (op : Nat) (s : State) : Host.Outcome State Fault Refusal :=
  .next (match copyEnd s op with
    | none => s
    | some (o, c) =>
      if c.failed.isSome then s else
      listCopy (lowerCtr (dropOp s op) o.team o.grp .cp) o.team (14, c.bytesDone, c.srcs.headD 0, 0))

/-- R296, R413: in a team that is ending, the failure is listed and no report is due. -/
def execCopyFail (op : Nat) (s : State) : Host.Outcome State Fault Refusal :=
  .next (match copyEnd s op with
    | none => s
    | some (o, c) =>
      match c.failed with
      | none => s
      | some (cause, a) =>
        let s := lowerCtr (dropOp s op) o.team o.grp .cp
        let ending := teamEnding s o.team
        let s := listCopy s o.team (5, c.bytesDone, c.srcs.headD 0, BitVec.ofNat 64 cause)
        if ending then s
        else addReport s o.team o.grp o.reporter
          ⟨cCopyFailed, a, BitVec.ofNat 32 (cause * 2 ^ 24 + o.pc.toNat % 2 ^ 24), .cpc⟩)

/-! ## Matrix operations -/

def opMma (s : State) (op : Nat) : Option (Op × MmaCmd) :=
  (findOp s op).bind fun o =>
    match o.kind with
    | .mma m => some (o, m)
    | _ => none

/-- The sub-core that an operation runs on. -/
def subCoreOf (s : State) (o : Op) : Nat × Nat := ((getTeam s o.team).core, (getGroup s o.team o.grp).sub)

/-- The lines of a share that operations other than `op` pin. -/
def pinned (s : State) (at_ : Nat × Nat) : List Nat :=
  (s.shares.filter fun x => x.core == at_.1 && x.sub == at_.2 && !x.pins.isEmpty).map (·.line)

/-- R377: a stop for a discard removes the team's MMAs that have not started. -/
def discarding (s : State) (tid : Nat) : Bool :=
  let t := getTeam s tid
  t.life == .stopping && t.action == .discard && t.halt.isNone
/-- R107: the wait mask is clear, and the footprint fits beside the pinned lines. -/
def fetchReady (s : State) (o : Op) (m : MmaCmd) : Bool :=
  m.stage == .queued && !discarding s o.team && !(s.ops.any fun x => m.waits.contains x.id) &&
  (addNew (pinned s (subCoreOf s o)) m.lines).length ≤ 512

/-- R107: the lines of a footprint are valid in the share and pinned; unpinned lines leave, oldest first, where the
share is full. A line of a peer serves one MMA alone, since it is cached nowhere here (R438). -/
def pinLines (s : State) (at_ : Nat × Nat) (op : Nat) (lines : List Nat) : State :=
  let mine := s.shares.filter fun x => x.core == at_.1 && x.sub == at_.2
  let others := s.shares.filter fun x => !(x.core == at_.1 && x.sub == at_.2)
  let now := lines.map fun l =>
    ⟨at_.1, at_.2, l, setAdd (((mine.find? (·.line == l)).map (·.pins)).getD []) op, cachedTarget (targetOf s l)⟩
  let keep := mine.filter fun x => !lines.contains x.line
  let stay := keep.filter (fun x => !x.pins.isEmpty)
  let free := (keep.filter (·.pins.isEmpty)).take (512 - now.length - stay.length)
  { s with shares := now ++ stay ++ free ++ others }

/-- R107, R108, R202. Every FP16 and BF16 line of an operand counts its clamps at each MMA's fetch point (R64). DESIGN CHOICE: log entry 109. -/
def execMmaFetchPoint (op : Nat) (s : State) : Host.Outcome State Fault Refusal :=
  .next (match opMma s op with
    | none => s
    | some (o, m) =>
      if !fetchReady s o m then s else
      let at_ := subCoreOf s o
      let have_ := (s.shares.filter fun x => x.core == at_.1 && x.sub == at_.2 && x.valid).map (·.line)
      let fetched := m.lines.filter fun l => !have_.contains l
      let s := perfEvent s at_.1 (teamLaunch s o.team).ctx 4 fetched.length
      let s := (fetched.filter (· < 2 ^ 64)).foldl (fun s l => l2Touch s (getTeam s o.team).part l 0) s
      let (s, m, n) := fetchMma s o.team o.grp m
      let s := pinLines (addSat s o.team n) at_ op m.lines
      setOpKind s op (.mma { m with fetchedAt := s.cycle.toNat }))

/-- R349: matrix operations of a sub-core that could start: fetched, with no earlier one of their group unfinished. -/
def startableMmas (s : State) (at_ : Nat × Nat) : List (Op × MmaCmd) :=
  s.ops.filterMap fun o =>
    match o.kind with
    | .mma m =>
      let earlier := s.ops.any fun x => x.team == o.team && x.grp == o.grp && x.id < o.id && (match x.kind with
        | .mma _ => true
        | _ => false)
      if m.stage == .fetched && !discarding s o.team && subCoreOf s o == at_ && !earlier then some (o, m) else none
    | _ => none
def engineBusy (s : State) (at_ : Nat × Nat) : Bool :=
  s.ops.any fun o => match o.kind with
    | .mma m => m.stage == .started && subCoreOf s o == at_
    | _ => false
/-- R349: the one that starts next, the earliest fetched, then the earliest issued. DEDUCED: log entry 54. -/
def nextMma (s : State) (at_ : Nat × Nat) : Option (Op × MmaCmd) :=
  if engineBusy s at_ then none else
  (startableMmas s at_).foldl (fun acc x =>
    match acc with
    | none => some x
    | some y => if x.2.fetchedAt < y.2.fetchedAt then some x else some y) none
/-- R349. -/
def execMmaStart (op : Nat) (s : State) : Host.Outcome State Fault Refusal :=
  .next (match (findOp s op).bind fun o => nextMma s (subCoreOf s o) with
    | none => s
    | some (o, m) => if o.id = op then setOpKind s op (.mma { m with stage := .started }) else s)

/-- Elements of a list two at a time, by their larger one. -/
def pairMax : List Nat → List Nat
  | a :: b :: rest => max a b :: pairMax rest
  | l => l
/-- R350: the clk of an MMA at full rate. -/
def mmaClk (m : MmaCmd) : Nat :=
  if m.sparse then (pairMax m.widths).foldl (fun n w => n + (w * recSpn m.ra + 15) / 16) 0
  else m.widths.foldl (fun n w => n + 2 * w) 0

/-- R348, R351. -/
def execMmaComplete (op : Nat) (s : State) : Host.Outcome State Fault Refusal :=
  .next (match opMma s op with
    | none => s
    | some (o, m) =>
      if m.stage != .started then s else
      let s := perfEvent s (getTeam s o.team).core (teamLaunch s o.team).ctx 5 (mmaClk m)
      let s := unpin (dropOp (performMma s o.team o.grp m) op) [op]
      let s := lowerSlot (lowerCtr s o.team o.grp .tl) o.team o.grp m.slot
      match m.fault with
      | none => s
      | some (cause, a) => addReport s o.team o.grp o.reporter ⟨cause, a, o.pc.setWidth 32, .tile m.slot m.acc⟩)

/-- R357, R398: the rows of an ACCST have been accepted or matched, where they must be. -/
def accstReady (s : State) (o : Op) (rows : List AccstRow) : Bool :=
  match (getTeam s o.team).side with
  | .lead _ => !(rows.any (·.aperture)) || !opHeld s o.id
  | _ => !opHeld s o.id
/-- R357, R117: rows that no comparator or buffer performs are written now; the exponents of an IL2 team's aperture
blocks follow their rows. -/
def execAccstComplete (op : Nat) (s : State) : Host.Outcome State Fault Refusal :=
  .next (match findOp s op with
    | none => s
    | some o =>
      match o.kind with
      | .accst rows slot =>
        if !accstReady s o rows then s else
        let s :=
          if !hasItems s o.team then rows.foldl (fun s x => writeRow s (getTeam s o.team).part x) s
          else match (getTeam s o.team).side with
            | .lead _ => (rows.filter (·.aperture)).foldl (fun s x => setTag s x.pa x.exp) s
            | _ => s
        lowerSlot (lowerCtr (dropOp s op) o.team o.grp .tl) o.team o.grp slot
      | _ => s)

/-! ## Channels (R160, R161) -/

/-- R160: messages of one group arrive in its program order. -/
def messageReady (s : State) (o : Op) : Bool :=
  !opHeld s o.id && !(s.ops.any fun x => x.team == o.team && x.grp == o.grp && x.id < o.id && (match x.kind with
    | .message _ _ => true
    | _ => false))

def teamEnded (t : Team) : Bool := t.life == .done || t.life == .failed
/-- R158, R161: what a team that has ended leaves behind. -/
def addResidue (s : State) (li n : Nat) : State := modLaunch s li fun l => { l with residue := l.residue + n }
/-- R161, R398: a message that is discarded; the two teams of a core pair send it once. -/
def discardMessage (s : State) (tid : Nat) : State :=
  match (getTeam s tid).side with
  | .trail _ => s
  | _ => addResidue s (getTeam s tid).launch 1

/-- R160, R161. -/
def execChannelMessageArrival (op : Nat) (s : State) : Host.Outcome State Fault Refusal :=
  .next (match findOp s op with
    | none => s
    | some o =>
      match o.kind with
      | .message ch bs =>
        if !messageReady s o then s else
        let to_ := (channelDecl s o.team ch).bind fun d => teamByIdx s o.team d.receiver
        let s := dropOp s op
        match to_ with
        | some rt =>
          if teamEnded (getTeam s rt) then discardMessage s o.team
          else modCore s rt fun tc => setBox tc ch (boxMsgs tc ch ++ [bs]) 0
        | none => discardMessage s o.team
      | _ => s)

/-- R160. -/
def execChannelCreditReturn (op : Nat) (s : State) : Host.Outcome State Fault Refusal :=
  .next (match findOp s op with
    | none => s
    | some o =>
      match o.kind with
      | .credit ch =>
        let to_ := (channelDecl s o.team ch).bind fun d => teamByIdx s o.team d.sender
        let s := dropOp s op
        match to_ with
        | some st => modCore s st fun tc => setCredit tc ch (creditOf tc ch + 1)
        | none => s
      | _ => s)

/-! ## Publication (R141, R182) -/

/-- R182, step 1: no shadow write that the group issued before is in flight. -/
def publishReady (s : State) (o : Op) : Bool :=
  !opHeld s o.id && !(s.ops.any fun x => x.team == o.team && x.grp == o.grp && x.id < o.id && (match x.kind with
    | .copy c => c.shadow
    | .accst rows _ => rows.any (·.shadow)
    | _ => false))

/-- R182, step 4. -/
def invertFront (s : State) (d e : Nat) : State :=
  let at_ := Config.oPublication e
  let w0 := pbar s d at_
  let s := setPbar s d at_ (setField w0 62 1 (1 - field w0 62 1))
  setPbar s d (at_ + 0x18) (BitVec.ofNat 64 (((pbar s d (at_ + 0x18)).toNat + 1) % 2 ^ 32))
/-- The address is the window's, as caches hold it (R180). -/
def inWindow (s : State) (d e pa : Nat) : Bool :=
  targetOf s pa == .window && pa / 2 ^ 52 % 4 == (if partitioned s then d else 0) && (windowEntry pa).1 == e
/-- Stash lines of a window line become lines of the buffer that is front now, which their write-back reaches. -/
def landStash (s : State) (line : Nat) : State :=
  { s with teams := s.teams.map fun t => { t with body := { t.body with stashLines := t.body.stashLines.map fun l =>
      if l.pa = line then { l with pa := (landing s line).getD line } else l } } }
/-- R182, steps 3 and 4: dirty window lines go to the old front buffer, cached copies leave, and the buffers change places. -/
def swapWindow (s : State) (d e : Nat) : State :=
  let mine := inWindow s d e
  let held := (s.teams.flatMap fun t => (t.body.stashLines.map (·.pa)).filter mine).eraseDups
  let s := held.foldl (fun s l => snoopStash (landStash s l) ((landing s l).getD l) none) s
  let gone := (s.dcache.map (·.line) ++ s.icache.map Prod.snd ++ s.shares.map (·.line)).filter mine
  let s := gone.eraseDups.foldl (fun s l => dropCopies s l 128 none) s
  invertFront { s with l2 := s.l2.filter fun x => !mine x.line } d e

/-- A PUBLISH of a partition's entry is in flight (R182). -/
def swapPending (s : State) (d e : Nat) : Bool := s.ops.any (·.kind == .publish d e)
/-- R181: V of an entry is clear from now on. -/
def clearPublication (s : State) (d e : Nat) : State :=
  setPbar s d (Config.oPublication e) (setField (pbar s d (Config.oPublication e)) 63 1 0)
/-- R182, R299. -/
def execPublishSwap (op : Nat) (s : State) : Host.Outcome State Fault Refusal :=
  .next (match findOp s op with
    | none => s
    | some o =>
      match o.kind with
      | .publish d e =>
        if !publishReady s o then s else
        let mute := match (getTeam s o.team).side with
          | .trail _ => true
          | _ => false
        restartWatchdog (lowerCtr (dropOp (if mute then s else swapWindow s d e) op) o.team o.grp .st) o.team
      | _ => s)

/-! ## Shoot-downs (R176) -/

/-- R176: walks that began before the request have ended, and accesses with old translations have been performed. A pair's
own TLBINV does not wait for its provisional writes (R391). DEDUCED: log entry 110. -/
def shootReady (s : State) (o : Op) (r : ShootRange) (counted : Bool) : Bool :=
  let named := fun (tid : Nat) (va n : Nat) => shootNames r (teamLaunch s tid).ctx va n
  !(s.walks.any fun w => w.stale && shootNames r w.ctx (w.page * 4096) 4096) &&
  !(s.ops.any fun x => x.id < o.id && (match x.kind with
    | .mma m => m.stage == .queued && m.xlat.any fun p => named x.team (p.1 * 4096) 4096
    | .accst rows _ => rows.any fun y => named x.team y.addr.toNat y.bytes.length || (y.expPa.isSome && named x.team y.expVa.toNat 1)
    | .load fs | .store fs | .held fs => s.svc.any (·.ops.contains x.id) && fs.any fun f => named x.team f.addr.toNat f.bytes
    | _ => false)) &&
  !((List.range s.teams.length).any fun tid =>
    ((getTeam s tid).det ++ (getTeam s tid).detOut).any fun e => e.req.op < o.id && named tid e.req.va.toNat (aopBytes e.req.aop)) &&
  !((s.pairs.flatMap (·.items) ++ s.teams.flatMap (·.entries)).any fun i =>
    named i.team i.lead.addr.toNat i.lead.data.length && (match i.act with
      | .write _ | .once _ | .atomic _ => true
      | _ => false)) &&
  !((List.range 8).any fun p => !(counted && p == pairOf (getTeam s o.team).core) &&
    (s.pairs.getD p {}).accepted.any fun x => named x.1 x.2.1.toNat x.2.2)

/-- R176: a shoot-down waits for provisional writes: their pairs take a checkpoint. DEDUCED: log entry 110. -/
def askShoot (s : State) : State :=
  s.ops.foldl (fun s o => match o.kind with
    | .shootdown r counted => (List.range 8).foldl (fun s p =>
        if counted && p == pairOf (getTeam s o.team).core then s else
        { s with pairs := listMod s.pairs p fun q =>
            if (q.accepted.any fun x => shootNames r (teamLaunch s x.1).ctx x.2.1.toNat x.2.2) then { q with request := true } else q }) s
    | _ => s) s

/-- R176: no TLB holds an entry of the range, and writes to the port B window have been performed. -/
def shootTlbs (s : State) (r : ShootRange) : State := purgeTlbs (performWindow s fun _ => true) r

/-- R176, R328: in a team's STC where a TLBINV asked for it. -/
def execShootdownComplete (op : Nat) (s : State) : Host.Outcome State Fault Refusal :=
  .next (match findOp s op with
    | none => s
    | some o =>
      match o.kind with
      | .shootdown r counted =>
        if !shootReady s o r counted then s else
        let s := dropOp (shootTlbs s r) op
        if counted then lowerCtr s o.team o.grp .st else s
      | _ => s)

/-- A shoot-down that the driver or the device asks for. -/
def requestShoot (s : State) (r : ShootRange) : State := addOp (staleWalks s r) s.teams.length 0 0 0 (.shootdown r false)
/-- R176. -/
def execShootdownRequest (r : ShootRange) (s : State) : Host.Outcome State Fault Refusal := .next (requestShoot s r)

/-! ## Merge buffers (R145) -/

/-- R145: the service group of a cluster gives up the line of its oldest atomic. -/
def execMergeOwnershipRelease (cluster : Nat) (s : State) : Host.Outcome State Fault Refusal :=
  .next { s with merge := dropFirst (fun x => x.1 == cluster) s.merge }

end Sys2Proof.Machine
end

