-- ==== Sys2Proof/Machine/Dump.lean ====
section
/-! DEFINITION. Core dumps (R412, R414, R415, R480): the sections of a dump and its header. -/

namespace Sys2Proof.Machine

/-! ## Bytes of a dump

A byte carries the cause and the address of the nested fault that its read meets, if any (R415). -/

abbrev DumpByte := Byte × Option (Nat × Dword)

def clean (bs : List Byte) : List DumpByte := bs.map fun b => (b, none)
def dNat (n v : Nat) : List DumpByte := clean (natBytes n v)
/-- `n` zero bytes. -/
def dZero (n : Nat) : List DumpByte := List.replicate n (0, none)
def dCell (c : Cell) : List DumpByte :=
  match c with
  | .mark _ a => List.replicate 4 (0, some (cPoison, a))
  | c => dNat 4 c.plain.toNat
def dCells (cs : List Cell) : List DumpByte := cs.flatMap dCell
/-- Zeros up to a multiple of `n` bytes. -/
def padTo (n : Nat) (bs : List DumpByte) : List DumpByte := bs ++ dZero ((n - bs.length % n) % n)
/-- A 32-bit two's complement number. -/
def dInt (x : Int) : List DumpByte := dNat 4 (BitVec.ofInt 32 x).toNat

/-! ## Registers (type 1) -/

/-- R480: a group entry. -/
def dumpGroup (s : State) (g : Group) : List DumpByte :=
  let age := match g.readyAt with
    | none => 0
    | some a => min (s.cycle.toNat - a) 0xFFFFFFFF
  let gens := (List.range 4).flatMap fun i =>
    let x := g.gens.getD i {}
    dNat 8 x.seed.toNat ++ dNat 4 x.w2.toNat ++ dNat 4 x.w3.toNat
  dCells ((List.range 32).map fun i => g.k.getD i (.word 0)) ++
  (List.range 128).flatMap (fun i => dNat 4 (mapGet 0 g.x i).toNat) ++ gens ++
  (List.range 256).flatMap (fun i => dNat 4 (mapGet 0 g.freq i).toNat) ++
  dNat 4 g.progress ++ dNat 4 age ++ (List.range 8).flatMap (fun i => dNat 1 (g.d.getD i 0)) ++
  dNat 4 (outstWord g).toNat ++ dZero 300

/-- R24, as a number: a thread whose group waits is waiting, and so is an owner whose context is still lent (R44). -/
def lifeNum (tc : TeamCore) (g t : Nat) (th : Thread) : Nat :=
  match th.life with
  | .exited => 3
  | .held => 1
  | .waiting => 2
  | .runnable => if (tc.group g).wait.isSome || crewWaits (tc.group g) || tc.borrowed g t then 2 else 0

/-- R480: the 192-byte control block. Outside a handler ECOND is the one that the last trap saved (R93). -/
def dumpControl (s : State) (tid gi t : Nat) (th : Thread) : List DumpByte :=
  let r : Run := { team := tid, grp := gi, lanes := [t], pc := th.pc }
  let arr := match th.arrival with
    | none => 0
    | some (b, gen) => 2 ^ 31 + b % 2048 * 2 ^ 16 + gen % 2 ^ 16
  let (sa, sm, sv) := match th.syncm with
    | none => (0, 0, 0)
    | some (a, m, _) => (a.toNat, m.toNat, 1)
  dNat 8 th.pc.toNat ++ dCells ((List.range 16).map fun i => th.q.getD i (.word 0)) ++ dNat 8 th.meet.toNat ++
  dNat 8 th.epc.toNat ++ dNat 8 th.faultAddr.toNat ++ dNat 8 sa ++
  dNat 4 th.econd.toNat ++ dNat 4 (statusWord s r t).toNat ++
  dNat 4 th.cause.toNat ++ dNat 4 th.faultInfo.toNat ++ dInt th.wb ++ dInt th.hidBase ++
  dNat 4 (lifeNum (getCore s tid) gi t th + th.meetStk.length * 2 ^ 8 + th.cf * 2 ^ 16 + th.links.length * 2 ^ 24) ++ dNat 4 th.hidCf ++
  dNat 4 arr ++ dNat 4 sm ++ dNat 4 sv ++ dZero 44

/-- R480: a thread entry. DEDUCED: log entry 59. -/
def dumpThread (s : State) (tid gi t : Nat) (th : Thread) : List DumpByte :=
  let l := teamLaunch s tid
  let low : Int := th.wb + 32 - l.kernel.stack
  let meets := th.meetStk.reverse
  dumpControl s tid gi t th ++
  dCells ((List.range l.kernel.stack).map fun (i : Nat) => stackWord th (low + (i : Int))) ++
  dCells ((List.range l.kernel.mdepth).map fun i => .word (meets.getD i 0)) ++
  dCells ((List.range 16).map fun i => th.tf.getD i (.word 0)) ++
  th.links.reverse.flatMap fun k =>
    dNat 8 ((k.ret - l.desc.kernel).toNat / 4 % 2 ^ 32 + k.cf * 2 ^ 32)

def dumpRegisters (s : State) (tid : Nat) : List DumpByte :=
  let t := getTeam s tid
  let gs := List.range t.body.groups.length
  gs.flatMap (fun g => dumpGroup s (t.body.group g)) ++
  gs.flatMap (fun g =>
    let gr := t.body.group g
    (List.range gr.threads.length).flatMap fun i => dumpThread s tid g i (gr.threads.getD i Thread.empty)) ++
  padTo 64 (gs.flatMap fun g => dNat 4 (placeWord t (t.body.group g)).toNat)

/-! ## Scratchpad, barriers and queues (types 2 to 4) -/

/-- The channels that team `idx` receives, in ascending number. -/
def Kernel.received (k : Kernel) (idx : Nat) : List ChannelDecl :=
  (List.range 16).filterMap fun n => k.channels.find? fun d => d.ch == n && d.receiver == idx
/-- The offset of a queue's ring, and of a channel's slots, in the Scratchpad section. DEDUCED: log entry 58. -/
def Kernel.ringAt (k : Kernel) (q : Nat) : Nat :=
  k.scratch + ((List.range q).foldl (fun n i => n + 4 * ((k.queues.getD i (i, 0)).2)) 0)
/-- DEDUCED: log entry 58. -/
def Kernel.slotsAt (k : Kernel) (d : ChannelDecl) : Nat :=
  k.ringAt k.queues.length +
    ((k.received d.receiver).filter (·.ch < d.ch)).foldl (fun n x => n + 64 * x.slots) 0

/-- A ring's slots: item `j` of the oldest first stands in slot (head + j) mod depth. DEDUCED: log entry 58. -/
def ringSlots {α : Type} (empty : α) (depth head : Nat) (items : List α) : List α :=
  (List.range depth).map fun i => items.getD ((i + depth - head % max 1 depth) % max 1 depth) empty

def dumpScratch (s : State) (tid : Nat) : List DumpByte :=
  let t := getTeam s tid
  let k := (teamLaunch s tid).kernel
  let image := (List.range k.scratch).map fun i => (mapGet (0 : Byte) t.body.scratch i, none)
  let rings := t.body.queues.flatMap fun q =>
    (ringSlots ((0 : Word), 0) q.depth q.head q.ring).flatMap fun x => dNat 4 x.1.toNat
  let slots := (k.received t.idx).flatMap fun d =>
    let removed := ((t.body.boxes.find? (·.ch == d.ch)).map (·.removed)).getD 0
    (ringSlots [] d.slots (removed % max 1 d.slots) (boxMsgs t.body d.ch)).flatMap fun m =>
      clean ((m ++ List.replicate 64 0).take 64)
  (image ++ rings ++ slots).mapIdx fun (i : Nat) (x : DumpByte) =>
    (x.1, if t.body.scratchPoison.contains (i / 32) then some (cPoison, BitVec.ofNat 64 (i / 32 * 32)) else none)

def dumpBarriers (s : State) (tid : Nat) : List DumpByte :=
  (getCore s tid).barriers.flatMap fun b => dNat 8 (b.gen % 2 ^ 16 + b.arr * 2 ^ 16 + b.exp * 2 ^ 32)

def dumpQueues (s : State) (tid : Nat) : List DumpByte :=
  let t := getTeam s tid
  let k := (teamLaunch s tid).kernel
  let queues := (List.range t.body.queues.length).flatMap fun i =>
    let q := t.body.queue i
    dNat 8 (q.depth + q.head * 2 ^ 8 + q.ring.length * 2 ^ 16) ++ dNat 8 (k.ringAt i) ++
    (List.range 32).flatMap (fun g => dNat 1 (q.allow.getD g 0)) ++
    padTo 8 ((ringSlots ((0 : Word), 0) q.depth q.head q.ring).flatMap fun x => dNat 1 x.2)
  let channels := (List.range 16).flatMap fun n =>
    match k.channels.find? (·.ch == n) with
    | none => []
    | some d =>
      let rt := teamByIdx s tid d.receiver
      let removed := ((t.body.boxes.find? (·.ch == n)).map (·.removed)).getD 0
      dNat 4 (d.slots + creditOf t.body n * 2 ^ 8 + (boxMsgs t.body n).length * 2 ^ 16 + removed % max 1 d.slots * 2 ^ 24) ++
      dNat 4 d.sender ++ dNat 4 d.receiver ++ dNat 4 ((rt.map fun i => (getTeam s i).core).getD 0) ++ dNat 8 (k.slotsAt d) ++
      dZero 8
  queues ++ channels

/-! ## TLB and crews (types 5 and 6) -/

def dumpTlb (s : State) (tid : Nat) : List DumpByte :=
  let core := (getTeam s tid).core
  let ctx := (teamLaunch s tid).ctx
  (s.tlb.filter fun x => x.1 == core && x.2.ctx == ctx).flatMap fun x =>
    let e := x.2
    let size := if e.bits = 12 then 0 else if e.bits = 16 then 1 else if e.bits = 21 then 2 else 3
    dNat 8 (e.va + size * 2 ^ 10 + boolBit e.sa * 2 ^ 5 + boolBit e.x * 2 ^ 4 + boolBit e.w * 2 ^ 3 + boolBit e.r * 2 ^ 2 + 1) ++
    dNat 8 e.pa

/-- R480: a held state. DEDUCED: log entry 59. -/
def dumpHeld (mdepth : Nat) (h : Held) : List DumpByte :=
  let meets := h.meetStk.reverse
  padTo 8 (dCells ((List.range 16).map fun i => h.q.getD i (.word 0)) ++ dNat 4 (econdWord h.cc h.repc).toNat ++
    dNat 8 h.meet.toNat ++ (List.range mdepth).flatMap fun i => dNat 4 (meets.getD i 0).toNat)

/-- The contributions below `low` folded, and those held. -/
def Crew.folded (c : Crew) (low : Nat) : Word :=
  Crew.result { c with contrib := c.contrib.filter fun x => x.iter ≤ low }
def Crew.heldIn (c : Crew) (low : Nat) : List Contribution := sortContributions (c.contrib.filter fun x => low < x.iter)

def combNum : Comb → Nat
  | .add => 0
  | .min => 1
  | .max => 2
  | .minn => 3
  | .maxn => 4
  | .fadd => 5
  | .fmin => 6
  | .fmax => 7

/-- R480: one record per open crew. The snapshot of one without a buffer is its recruiter's n0–n31, of the interrupted window
while the recruiter is in a handler (R40, R85). -/
def dumpCrew (s : State) (tid : Nat) (c : Crew) : List DumpByte :=
  let th := getTh s tid c.grp (.lane c.thr)
  let mdepth := (teamLaunch s tid).kernel.mdepth
  let low := c.lowIter th
  let nested := th.member.bind (·.nested)
  let (cause, others, iter, addr) := match c.report 0 with
    | none => (0, 0, (0 : Word), (0 : Dword))
    | some d => (d.cause, d.others, d.info, d.addr)
  dNat 4 (32 * c.grp + c.thr) ++ dNat 4 c.lo.toNat ++ dNat 4 c.count ++
  dNat 4 (c.c + c.hexp * 2 ^ 4 + boolBit c.reach * 2 ^ 7 + combNum c.comb * 2 ^ 8 + boolBit c.buffered * 2 ^ 16 +
    boolBit nested.isSome * 2 ^ 20) ++
  dNat 4 c.next ++ dNat 4 (c.lo + BitVec.ofNat 32 low).toNat ++ dNat 4 (c.folded low).toNat ++
  dNat 4 (c.heldIn low).length ++ dNat 4 (cause + min others 255 * 2 ^ 8) ++ dNat 4 iter.toNat ++ dNat 8 addr.toNat ++
  dZero 16 ++
  dCells (if c.buffered then (List.range 32).map fun i => c.snap.getD i (.word 0) else (List.range 32).map fun (i : Nat) => stackWord th ((if th.inTrap then th.hidBase else th.wb) + (i : Int))) ++
  dumpHeld mdepth c.held ++
  (match nested, th.member with
   | some n, some m => padTo 8 (dumpHeld mdepth n.held ++ dCells ((List.range 8).map fun i => n.h.getD i (.word 0)) ++
       dNat 4 (c.lo + BitVec.ofNat 32 m.iter).toNat)
   | _, _ => []) ++
  (c.heldIn low).flatMap fun x => dNat 4 (c.lo + BitVec.ofNat 32 x.iter).toNat ++ dNat 4 x.value.toNat

/-- DEDUCED: log entry 59. -/
def dumpCrews (s : State) (tid : Nat) : List DumpByte :=
  let cs := (getCore s tid).crews
  (List.range 32).flatMap fun g => (List.range 32).flatMap fun t =>
    (cs.filter fun c => c.grp == g && c.thr == t).flatMap (dumpCrew s tid)

/-- R183: the team's stash-map entries: V and GBASE, then LEN and SBASE. R414 gives them no section: the type 8 and this layout are
the model's, and a team without entries has none (R476). DESIGN CHOICE: log entry 115. -/
def dumpStash (s : State) (tid : Nat) : List DumpByte :=
  (getCore s tid).stash.flatMap fun e => dNat 8 (2 ^ 63 + e.gbase.toNat % 2 ^ 56) ++ dNat 8 (e.len * 2 ^ 32 + e.sbase)

/-! ## The dump as a whole (R414, R415) -/

/-- A section: its type, bytes, whether it is damaged or cut, and its damaged sectors' addresses. -/
structure Section where
  kind : Nat
  bytes : List Byte
  damaged : Bool
  bad : List (Nat × Dword)
  deriving DecidableEq, Repr

/-- R415: 32-byte sectors that hold a poisoned byte are written as zeros, and the offset of the first follows the
section. -/
def makeSection (kind : Nat) (bs : List DumpByte) : Section :=
  let n := (bs.length + 31) / 32
  let sect := fun (i : Nat) => (bs.drop (32 * i)).take 32
  let bad := (List.range n).filterMap fun i => ((sect i).findSome? Prod.snd).map fun a => (i, a)
  let body := (List.range n).flatMap fun i =>
    if bad.any (·.1 == i) then (sect i).map fun _ => (0 : Byte) else (sect i).map Prod.fst
  match bad with
  | [] => ⟨kind, body, false, []⟩
  | (i, _) :: _ => ⟨kind, body ++ natBytes 8 (32 * i), true, bad.map Prod.snd⟩

/-- R161: the words and messages that a team leaves in its queues and channels. -/
def residueOf (tc : TeamCore) : Nat :=
  tc.queues.foldl (fun n q => n + q.ring.length) 0 + tc.boxes.foldl (fun n b => n + b.msgs.length) 0
/-- R409, R414: the items of a halt: what was in flight, and what a team that ends leaves. -/
def haltList (s : State) (tid : Nat) (h : Halt) : List (Nat × Nat × Dword × Dword) :=
  let residue := residueOf (getTeam s tid).body
  if h.resumable || residue = 0 then h.items else h.items ++ [(9, residue, 0, 0)]

/-- R415: register words whose storage has failed since the halt; which they are is the free choice of each event. -/
def struckWords (struck : List Nat) (bs : List DumpByte) : List DumpByte :=
  struck.foldl (fun bs n =>
    let w := Config.victim n 256 0 % max 1 (bs.length / 4)
    bs.mapIdx fun (i : Nat) (x : DumpByte) => if i / 4 = w then (0, some (cRegStorage, 0)) else x) bs

/-- The sections of a team's dump. -/
def dumpSections (s : State) (tid : Nat) (h : Halt) : List Section :=
  [makeSection 1 (struckWords h.struck (dumpRegisters s tid)), makeSection 2 (dumpScratch s tid), makeSection 3 (dumpBarriers s tid),
   makeSection 4 (dumpQueues s tid), makeSection 5 (dumpTlb s tid), makeSection 6 (dumpCrews s tid),
   makeSection 7 (clean ((haltList s tid h).flatMap itemBytes))] ++
  (if (getCore s tid).stash.isEmpty then [] else [makeSection 8 (dumpStash s tid)])

/-- R475: the next 64-byte boundary. -/
def boundary (n : Nat) : Nat := (n + 63) / 64 * 64
/-- R414, R415, R475: lays sections out from `at_` on within `size` bytes, each at a 64-byte boundary: the bytes of their
descriptors, and each section's offset and bytes. The bytes between two sections are not written (DESIGN CHOICE, log entry 16). -/
def laySections (size : Nat) : Nat → Bool → List Section → List Byte × List (Nat × List Byte)
  | _, _, [] => ([], [])
  | at_, cut, x :: rest =>
    let at_ := boundary at_
    let body := x.bytes.take (if cut then 0 else size - at_)
    let trunc := !cut && body.length < x.bytes.length
    let desc := natDword body.length ++
      natDword (x.kind * 2 ^ 56 + (boolBit x.damaged + 2 * boolBit trunc) * 2 ^ 48 + at_ % 2 ^ 48)
    let (ds, bs) := laySections size (at_ + body.length) (cut || trunc) rest
    (desc ++ ds, (at_, body) :: bs)

/-- R414: the parts of a whole dump of at most `size` bytes: the header, and each section, with their offsets. -/
def dumpParts (s : State) (tid size : Nat) (h : Halt) : List (Nat × List Byte) :=
  let l := teamLaunch s tid
  let secs := dumpSections s tid h
  let (descs, body) := laySections size 256 false secs
  let bad := secs.flatMap (·.bad)
  let total := body.foldl (fun n x => if x.2.isEmpty then n else x.1 + x.2.length) 256
  (0, natWord 0x4B374455 ++ natWord total ++
    natDword (l.ctx * 2 ^ 48 + (getTeam s tid).idx % 2 ^ 24 * 2 ^ 24 + l.num % 2 ^ 24) ++
    natDword h.cycle.toNat ++ natDword h.ptp.toNat ++
    natBytes 1 h.cause ++ natBytes 1 (min bad.length 255) ++ natBytes 1 (bad.headD (0, 0)).1 ++
    natBytes 1 secs.length ++ List.replicate 4 0 ++ natDword (bad.headD (0, 0)).2.toNat ++
    descs ++ List.replicate (208 - descs.length) 0) :: body

/-- R412: a dump can be taken. -/
def dumpRoom (s : State) (d : Nat) : Bool := 256 ≤ (pbar s d Config.oDumpSize).toNat
/-- R412: BUSY: a dump of the partition is being written, or one that was asked for is under way. DEDUCED: log entry 84. -/
def dumpBusy (s : State) (d : Nat) : Bool := s.dumps.any (·.part == d)

/-- Writes a team's dump to DUMP_BASE. DESIGN CHOICE: log entry 16. -/
def writeDump (s : State) (d tid : Nat) (h : Halt) : State :=
  (dumpParts s tid (pbar s d Config.oDumpSize).toNat h).foldl (fun s x =>
    if x.2.isEmpty then s else deviceWrite s ((pbar s d Config.oDumpBase).toNat + x.1) x.2) s

end Sys2Proof.Machine
end

