-- ==== Sys2Proof/Machine/Submit.lean ====
section
/-! DEFINITION. From descriptor to admitted launch: queue registrations (R164, R363), descriptors and kernel headers (R227
to R229, R365, R366), resources (R22), dispatch traces (R188), the admission test (R368) and completion records (R165). -/

namespace Sys2Proof.Machine

/-! ## Fields of byte strings -/

/-- The `n` bytes from `off` on, as a little-endian number. -/
def bytesAt (bs : List Byte) (off n : Nat) : Nat := bytesNat ((bs.drop off).take n)
/-- Bits [lo+n-1:lo] of a number. -/
def bitsOf (v lo n : Nat) : Nat := v / 2 ^ lo % 2 ^ n

/-! ## Queue registrations (R363) -/

def qWord (s : State) (q i : Nat) : Dword := bar s (Config.oQueueReg q + 8 * i)
def qValid (s : State) (q : Nat) : Bool := (qWord s q 0).msb
def qPrio (s : State) (q : Nat) : Nat := field (qWord s q 0) 60 3
def qTT (s : State) (q : Nat) : Bool := field (qWord s q 0) 59 1 = 1
def qHeader (s : State) (q : Nat) : Nat := field (qWord s q 0) 7 45 * 128
def qCtx (s : State) (q : Nat) : Nat := field (qWord s q 1) 48 16
def qBacklog (s : State) (q : Nat) : Nat := field (qWord s q 1) 0 32
def qCores (s : State) (q : Nat) : Dword := qWord s q 2
def findWatch (s : State) (q : Nat) : Option QueueWatch := s.watches.find? (·.q == q)
def modWatch (s : State) (q : Nat) (f : QueueWatch → QueueWatch) : State :=
  { s with watches := s.watches.map fun w => if w.q = q then f w else w }
/-- R364: the cores that registrations reserve. -/
def reservedMask (s : State) : Dword :=
  (List.range 64).foldl (fun m q => if qValid s q then m ||| qCores s q else m) 0
/-- The queue that reserves a core. -/
def coreOwner (s : State) (core : Nat) : Option Nat :=
  (List.range 64).find? fun q => qValid s q && (qCores s q).getLsbD core
/-- R372: the time-triggered queue of a context. -/
def ttQueue (s : State) (ctx : Nat) : Option Nat := (List.range 64).find? fun q => qValid s q && qTT s q && qCtx s q == ctx

/-! ## The command processor's accesses in a context (R173, R229, R366) -/

/-- The physical address behind a virtual one, where the page grants the access. -/
def cpAddr (s : State) (ctx part : Nat) (k : AccKind) (va : Nat) : State × Option Nat :=
  if 2 ^ 56 ≤ va then (s, none) else
  match walkPage s ctx part (va / 4096 * 4096) with
  | (s, .fault _) => (s, none)
  | (s, .page e) =>
    let env : AccEnv := { ctx := ctx, part := part, req := ⟨0, 0, 0⟩, bounded := false, il := 0 }
    match checkTarget s env k false false e (BitVec.ofNat 64 va) (e.pa + (va - e.va)) with
    | .ok pa _ => (s, some pa)
    | .wait => (s, some (e.pa + (va - e.va)))
    | _ => (s, none)

/-- Reads `len` bytes from `va` on, a page at a time; the first argument bounds the pages. -/
def cpRead (ctx part : Nat) : Nat → State → Nat → Nat → State × Option (List Byte)
  | 0, s, _, len => (s, if len = 0 then some [] else none)
  | f + 1, s, va, len =>
    if len = 0 then (s, some []) else
    let m := min len (4096 - va % 4096)
    match cpAddr s ctx part .load va with
    | (s, none) => (s, none)
    | (s, some pa) =>
      let (s, bs) := deviceRead s pa m
      match cpRead ctx part f s (va + m) (len - m) with
      | (s, none) => (s, none)
      | (s, some rest) => (s, some (bs ++ rest))
def readCtx (s : State) (ctx va len : Nat) : State × Option (List Byte) :=
  cpRead ctx (ctxPart s ctx) (len / 4096 + 2) s va len

/-- Writes bytes from `va` on; none where a page does not grant it. -/
def cpWrite (ctx part : Nat) : Nat → State → Nat → List Byte → Option State
  | 0, s, _, bs => if bs.isEmpty then some s else none
  | f + 1, s, va, bs =>
    if bs.isEmpty then some s else
    let m := min bs.length (4096 - va % 4096)
    match cpAddr s ctx part .store va with
    | (_, none) => none
    | (s, some pa) => cpWrite ctx part f (deviceWrite s pa (bs.take m)) (va + m) (bs.drop m)
def writeCtx (s : State) (ctx va : Nat) (bs : List Byte) : Option State :=
  cpWrite ctx (ctxPart s ctx) (bs.length / 4096 + 2) s va bs

/-- Every page of [va, va+len) grants a write. -/
def writableCtx (s : State) (ctx va len : Nat) : Bool :=
  (List.range (len / 4096 + 2)).all fun i =>
    let a := if i = 0 then va else (va / 4096 + i) * 4096
    va + len ≤ a || (cpAddr s ctx (ctxPart s ctx) .store a).2.isSome

/-! ## Launch descriptors (R365) -/

def parseDesc (bs : List Byte) : Descriptor :=
  let w := fun i => bytesAt bs (8 * i) 8
  { kernel := BitVec.ofNat 64 (w 0), args := BitVec.ofNat 64 (w 1), localBase := BitVec.ofNat 64 (w 2)
    trap := BitVec.ofNat 64 (w 3), teams := bitsOf (w 4) 32 32, salt := BitVec.ofNat 32 (w 4)
    l := bitsOf (w 5) 40 24, ld := bitsOf (w 5) 16 24, lstart := bitsOf (w 6) 32 32, deadline := bitsOf (w 6) 0 32
    rop := bitsOf (w 7) 13 3, trace := bitsOf (w 7) 11 2, bounded := bitsOf (w 7) 10 1 = 1, inj := bitsOf (w 7) 9 1 = 1
    perf := bitsOf (w 7) 8 1 = 1, dbg := bitsOf (w 7) 7 1 = 1, taddr := BitVec.ofNat 64 (w 8) }

/-- R366, step 1, without the ARGS block. -/
def descFieldsOk (bs : List Byte) : Bool :=
  let d := parseDesc bs
  let w := fun i => bytesAt bs (8 * i) 8
  bitsOf (w 5) 0 16 == 0 && bitsOf (w 7) 16 48 == 0 && bitsOf (w 7) 0 7 == 0 && (bs.drop 72).all (· == 0) &&
  1 ≤ d.teams && d.teams < 2 ^ 24 && d.rop ≤ 4 && d.trace ≤ 2 && d.ld % 8 == 0 &&
  d.kernel.toNat < 2 ^ 56 && d.kernel.toNat % 128 == 0 && d.args.toNat < 2 ^ 56 && d.args.toNat % 32 == 0 &&
  d.localBase.toNat < 2 ^ 56 && d.localBase.toNat % 4096 == 0 && (d.trace == 0 || d.taddr.toNat < 2 ^ 56)

/-! ## Kernel headers (R227 to R229) -/

/-- The declarations of a block of records, or none where one is invalid in itself. -/
structure Decls where
  bars : List (Nat × Nat × Nat) := []
  queues : List (Nat × Nat) := []
  allows : List (Nat × Nat × Nat) := []
  channels : List ChannelDecl := []
  deriving DecidableEq, Repr

/-- R228: one record added to the declarations. -/
def addDecl (d : Decls) (r : Nat) : Option Decls :=
  match bitsOf r 60 4 with
  | 1 =>
    if bitsOf r 11 25 = 0 ∧ 1 ≤ bitsOf r 36 12 ∧ bitsOf r 36 12 ≤ 2048 ∧ 1 ≤ bitsOf r 0 11 ∧ bitsOf r 0 11 ≤ 1024 then
      some { d with bars := d.bars ++ [(bitsOf r 48 12, bitsOf r 36 12, bitsOf r 0 11)] } else none
  | 2 =>
    if bitsOf r 0 49 = 0 ∧ 1 ≤ bitsOf r 49 7 ∧ bitsOf r 49 7 ≤ 64 then
      some { d with queues := d.queues ++ [(bitsOf r 56 4, bitsOf r 49 7)] } else none
  | 3 =>
    if bitsOf r 7 44 = 0 ∧ bitsOf r 0 7 ≤ 64 then
      some { d with allows := d.allows ++ [(bitsOf r 56 4, bitsOf r 51 5, bitsOf r 0 7)] } else none
  | 4 =>
    if bitsOf r 48 1 = 0 ∧ 1 ≤ bitsOf r 49 7 ∧ bitsOf r 49 7 ≤ 64 then
      some { d with channels := d.channels ++ [⟨bitsOf r 56 4, bitsOf r 49 7, bitsOf r 24 24, bitsOf r 0 24⟩] } else none
  | _ => none

def parseDecls (bs : List Byte) (n : Nat) : Option Decls :=
  (List.range n).foldl (fun d i => d.bind fun d => addDecl d (bytesAt bs (8 * i) 8)) (some {})

/-- No two entries of a list have the same key. -/
def noRepeat : List Nat → Bool
  | [] => true
  | x :: rest => !rest.contains x && noRepeat rest

/-- No two ranges of barriers overlap. -/
def barsApart : List (Nat × Nat × Nat) → Bool
  | [] => true
  | (f, n, _) :: rest => rest.all (fun y => f + n ≤ y.1 || y.1 + y.2.1 ≤ f) && barsApart rest

/-- R229, R155: the declarations agree with the header and the launch. -/
def declsOk (d : Decls) (barriers queues channels groups teams : Nat) : Bool :=
  d.bars.all (fun b => b.1 + b.2.1 ≤ barriers) && barsApart d.bars &&
  d.queues.all (fun q => q.1 < queues) && noRepeat (d.queues.map Prod.fst) && d.queues.length == queues &&
  d.allows.all (fun a => a.1 < queues && a.2.1 < groups) && noRepeat (d.allows.map fun a => 32 * a.1 + a.2.1) &&
  d.channels.all (fun c => c.ch < channels && c.sender < teams && c.receiver < teams) &&
  noRepeat (d.channels.map (·.ch)) && d.channels.length == channels &&
  d.queues.all fun q => ((d.allows.filter (·.1 == q.1)).foldl (fun n a => n + a.2.2) 0) ≤ q.2

/-- A kernel header's fields, from its 64 bytes, without its clause map and declarations. -/
def headerFields (bs : List Byte) : Kernel :=
  let a := bytesAt bs 0x18 4
  let c := bytesAt bs 0x24 4
  { codeSize := bytesAt bs 8 4, entry := bytesAt bs 0x2C 4, stack := bitsOf a 22 10, groups := bitsOf a 16 6
    mdepth := bitsOf a 12 4, accum := bitsOf a 9 3, scratch := bytesAt bs 0x1C 4, barriers := bitsOf (bytesAt bs 0x20 4) 0 12
    il := bitsOf c 4 2, det := bitsOf c 3 1 = 1, crews := bitsOf c 2 1 = 1, restart := bitsOf c 1 1 = 1
    duration := bytesAt bs 0x28 4 }

/-- R229: the header's own fields are in range. -/
def headerOk (bs : List Byte) : Bool :=
  let k := headerFields bs
  let q := bytesAt bs 0x20 4
  let c := bytesAt bs 0x24 4
  let declOff := bytesAt bs 0x10 4
  let declN := bytesAt bs 0x14 4
  bytesAt bs 0 4 == 0x4B374844 && bytesAt bs 4 2 == 0x40 && bytesAt bs 6 2 == 1 &&
  k.codeSize != 0 && k.codeSize % 4 == 0 && declOff % 8 == 0 && declN ≤ 4096 && (declOff != 0 || declN == 0) &&
  32 ≤ k.stack && k.stack ≤ 1023 && 1 ≤ k.groups && k.groups ≤ 32 && k.accum ≤ 4 && bitsOf (bytesAt bs 0x18 4) 0 9 == 0 &&
  k.scratch ≤ 1048576 && bitsOf q 21 11 == 0 && bitsOf q 16 5 ≤ 16 && bitsOf q 12 4 == 0 && k.barriers ≤ 2048 &&
  bitsOf c 21 11 == 0 && bitsOf c 16 5 ≤ 16 && bitsOf c 6 10 == 0 && bitsOf c 0 1 == 0 &&
  0x40 ≤ k.entry && k.entry % 4 == 0 && (bs.drop 0x38).all (· == 0)

/-- The bits of a clause map: the word indexes that are headers. -/
def mapBits (bs : List Byte) (words : Nat) : List Nat :=
  (List.range words).filter fun i => (bs.getD (i / 8) 0).getLsbD (i % 8)

/-- R227 to R229: the kernel of a launch; none for the reason 1 of R366. -/
def readKernel (s : State) (ctx base teams : Nat) : State × Option Kernel :=
  match readCtx s ctx base 64 with
  | (s, none) => (s, none)
  | (s, some bs) =>
    if !headerOk bs then (s, none) else
    let k := headerFields bs
    let n := bytesAt bs 0x14 4
    match readCtx s ctx (base + bytesAt bs 0xC 4) ((k.codeSize + 31) / 32) with
    | (s, none) => (s, none)
    | (s, some m) =>
      let map := mapBits m (k.codeSize / 4)
      match readCtx s ctx (base + bytesAt bs 0x10 4) (8 * n) with
      | (s, none) => (s, none)
      | (s, some ds) =>
        match parseDecls ds n with
        | none => (s, none)
        | some d =>
          let queues := bitsOf (bytesAt bs 0x20 4) 16 5
          let channels := bitsOf (bytesAt bs 0x24 4) 16 5
          if map.head? == some 0 && declsOk d k.barriers queues channels k.groups teams then
            (s, some { k with
              map := map, barrierExp := d.bars, allows := d.allows
              queues := (List.range queues).filterMap fun q => d.queues.find? (·.1 == q)
              channels := (List.range 16).filterMap fun c => d.channels.find? (·.ch == c) })
          else (s, none)

/-! ## Resources (R22) -/

/-- Scratchpad bytes of a team with its queues and the channels it receives (R22, R155, R159). DEDUCED: log entry 58. -/
def Kernel.need (k : Kernel) (idx : Nat) : Nat :=
  (k.scratch + 4095) / 4096 * 4096 + k.queues.foldl (fun n q => n + (4 * q.2 + 16)) 0 + (k.received idx).foldl (fun n d => n + 64 * d.slots) 0
/-- R21: the sub-core and port of a group. -/
def bindSub (g s0 : Nat) : Nat := (g + s0) % 8
def bindPort (g p0 : Nat) : Nat := (g / 8 + p0) % 4
/-- Groups of a team on a sub-core. -/
def Kernel.groupsOn (k : Kernel) (s0 sub : Nat) : Nat := ((List.range k.groups).filter fun g => bindSub g s0 == sub).length
/-- Groups of a team on a port. -/
def Kernel.groupsAt (k : Kernel) (s0 p0 sub port : Nat) : Nat :=
  ((List.range k.groups).filter fun g => bindSub g s0 == sub && bindPort g p0 == port).length
/-- Named-register bytes of a group. -/
def Kernel.regBytes (k : Kernel) : Nat := 128 * (k.stack + k.mdepth + 16)

/-- What teams take of a core: kernel, team index, s0 and p0 of each. -/
abbrev Load := List (Kernel × Nat × Nat × Nat)
def sumBy {α : Type} (f : α → Nat) (l : List α) : Nat := l.foldl (fun n x => n + f x) 0
/-- R22: the teams fit one core together, beside `stash` bytes of mapped stash. -/
def loadFits (l : Load) (stash : Nat) : Bool :=
  (List.range 8).all (fun sub =>
    sumBy (fun x => x.1.regBytes * x.1.groupsOn x.2.2.1 sub) l ≤ 196608 &&
    sumBy (fun x => x.1.accum * x.1.groupsOn x.2.2.1 sub) l ≤ 32 &&
    (List.range 4).all fun port => sumBy (fun x => x.1.groupsAt x.2.2.1 x.2.2.2 sub port) l ≤ 16) &&
  sumBy (fun x => x.1.need x.2.1) l + stash ≤ 1048576 && sumBy (fun x => x.1.barriers) l ≤ 2048

/-- R366, step 3: every team of the launch fits a core that holds nothing else. -/
def Kernel.fitsCore (k : Kernel) : Bool :=
  let idxs := (k.channels.map (·.receiver)) ++ [0]
  idxs.all fun i => loadFits [(k, i, 0, 0)] 0

/-! ## Dispatch traces (R188, R375) -/

/-- The records of a trace that binds a launch, or none for a trace mismatch. DEDUCED: log entry 60. -/
def readTrace (s : State) (ctx : Nat) (d : Descriptor) (usable : Nat → Bool) :
    State × Option (List (Nat × Nat × Nat × Nat)) :=
  match readCtx s ctx d.taddr.toNat (64 + 8 * d.teams) with
  | (s, none) => (s, none)
  | (s, some bs) =>
    let recs := (List.range d.teams).map fun i =>
      let r := bytesAt bs (64 + 8 * i) 8
      (bitsOf r 32 32, bitsOf r 20 6, bitsOf r 13 3, bitsOf r 11 2)
    if bytesAt bs 8 4 == d.teams && bytesAt bs 12 4 == d.teams && noRepeat (recs.map Prod.fst) &&
       recs.all (fun r => r.1 < d.teams && usable r.2.1) then (s, some recs) else (s, none)

/-! ## The admission test (R368) -/

/-- The lowest F' among the reserved cores, ties to the lower index. -/
def lowestFree (cores : List Nat) (f : SMap Nat) : Option Nat :=
  cores.foldl (fun acc c =>
    match acc with
    | none => some c
    | some b => if mapGet 0 f c < mapGet 0 f b then some c else some b) none

/-- Places `n` teams on cores in team order: the cores chosen, and F' after. -/
def modelPlaces (cores : List Nat) (charge : Nat) : Nat → SMap Nat → List Nat × SMap Nat
  | 0, f => ([], f)
  | n + 1, f =>
    match lowestFree cores f with
    | none => ([], f)
    | some c =>
      let (rest, f) := modelPlaces cores charge n (mapSet 0 f c (mapGet 0 f c + charge))
      (c :: rest, f)

/-- R368: the cores of the teams and the new free times, where the launch is accepted. DEDUCED: log entry 63. -/
def admissionTest (s : State) (cores : List Nat) (d : Descriptor) (duration backlog now : Nat) :
    Option (List Nat × SMap Nat) :=
  let f0 : SMap Nat := cores.foldl (fun f c => mapSet 0 f c (max (mapGet 0 s.freeTime c).toNat now)) []
  let first := ((lowestFree cores f0).map (mapGet 0 f0)).getD now
  let (cs, f) := modelPlaces cores (duration + 1000) d.teams f0
  let last := cs.foldl (fun m c => max m (mapGet 0 f c)) 0
  if (d.lstart == 0 || first ≤ now + d.lstart) && (d.deadline == 0 || last ≤ now + d.deadline) &&
     last ≤ now + 1000 * backlog && duration != 0 then some (cs, f) else none

/-! ## Completion records (R165) -/

/-- Line 0 of a watched queue's header: the copy held, or the bytes in memory while none has been read since the queue was
registered. -/
def headerLine (s : State) (w : QueueWatch) : State × List Byte :=
  if w.line.isEmpty then deviceRead s w.header 128 else (s, w.line)

/-- A completion record in the ring of a queue, after which COMPL_HEAD advances. -/
def completionRecord (s : State) (q ctx num status failed done residue : Nat) (result : Word) : State :=
  match findWatch s q with
  | none => s
  | some w =>
    let (s, line) := headerLine s w
    let size := 2 ^ bytesAt line 8 1
    let at_ := bytesAt line 0x18 8 + 32 * (w.complHead % size)
    let bs := natDword (num % 2 ^ 32 * 2 ^ 32 + ctx * 2 ^ 16 + status) ++ natWord done ++ natWord failed ++
      natWord result.toNat ++ natWord residue ++ natDword s.phcNs.toNat
    let s := deviceWrite s at_ bs
    let s := deviceWrite s (w.header + 0x88) (natDword (w.complHead + 1))
    modWatch s q fun w => { w with complHead := w.complHead + 1 }

/-! ## Admission (R366) -/

/-- The cores that a launch of a queue may use (R375): its reserved cores, or shared cores of its partition. -/
def usableCore (s : State) (cores : Dword) (part core : Nat) : Bool :=
  if cores = 0 then !(reservedMask s).getLsbD core && corePart s core == part else cores.getLsbD core

/-- R366: the checks of a descriptor of queue `q`, in their order: a reason, or the launch that is accepted and the
admission model after it. DEDUCED: log entry 60. -/
def checkDesc (s : State) (q ctx num : Nat) (bs : List Byte) (now : Dword) : State × Except Nat (Launch × Option (SMap Nat)) :=
  let d := parseDesc bs
  let part := ctxPart s ctx
  let cores := qCores s q
  if !descFieldsOk bs then (s, .error 6) else
  match readCtx s ctx d.args.toNat 96 with
  | (s, none) => (s, .error 6)
  | (s, some args) =>
  match readKernel s ctx d.kernel.toNat d.teams with
  | (s, none) => (s, .error 1)
  | (s, some k) =>
  let l : Launch :=
    { ctx := ctx, num := num, queue := q, desc := d, kernel := k, prio := qPrio s q, cores := cores, now := now
      args := (List.range 24).map fun i => BitVec.ofNat 32 (bytesAt args (4 * i) 4) }
  if d.l < k.stack || !(d.trap == 0 || l.isHeader d.trap) then (s, .error 6)
  else if !k.fitsCore then (s, .error 2)
  else if d.trace = 1 && !writableCtx s ctx d.taddr.toNat (64 + 8 * d.teams) then (s, .error 5) else
  match (if d.trace = 2 then readTrace s ctx d (usableCore s cores part) else (s, some [])) with
  | (s, none) => (s, .error 5)
  | (s, some places) =>
    let l := { l with places := places }
    if cores = 0 then
      (if d.lstart != 0 || d.deadline != 0 then (s, .error 4) else (s, .ok (l, none)))
    else
      match admissionTest s ((List.range 64).filter fun c => cores.getLsbD c) d k.duration (qBacklog s q) now.toNat with
      | none => (s, .error 3)
      | some (cs, f) => (s, .ok ({ l with assigned := cs }, some f))

/-- R366, R368, R188: a descriptor takes its number, and is admitted or rejected; the answer is the index of its launch.
DEDUCED: log entry 99. -/
def admitLaunch (s : State) (q ctx : Nat) (bs : List Byte) (now : Dword) (traversal : Option Nat) : State × Option Nat :=
  let num := mapGet 0 s.nextLaunch ctx
  let s := { s with nextLaunch := mapSet 0 s.nextLaunch ctx (num + 1) }
  match checkDesc s q ctx num bs now with
  | (s, .error reason) =>
    let s := { s with jobFailed := mapSet 0 s.jobFailed ctx (mapGet 0 s.jobFailed ctx + 1) }
    (completionRecord s q ctx num 2 0 0 0 (BitVec.ofNat 32 reason), none)
  | (s, .ok (l, f)) =>
    let li := s.launches.length
    let s := match f with
      | none => s
      | some f =>
        { s with freeTime := f.foldl (fun m (x : Nat × Nat) => mapSet 0 m x.1 (BitVec.ofNat 64 x.2)) s.freeTime
                 lastCommit := (List.range l.assigned.length).foldl (fun lc i =>
                   let c := l.assigned.getD i 0
                   (c, li, i) :: lc.filter (·.1 != c)) s.lastCommit }
    let s := { s with launches := s.launches ++ [{ l with traversal := traversal }] }
    let s := if l.desc.trace = 1 then
        (writeCtx s ctx l.desc.taddr.toNat (natDword l.desc.kernel.toNat ++ natWord l.desc.teams ++ List.replicate 52 0)).getD s
      else s
    (s, some li)

/-! ## Launch queues (R164, R366, R367) -/

/-- Sets and clears bits of the header's line 1 at +0x90. -/
def setQueueStatus (s : State) (header on off : Nat) : State :=
  let (s, bs) := deviceRead s (header + 0x90) 8
  let v : Dword := BitVec.ofNat 64 (bytesNat bs)
  deviceWrite s (header + 0x90) (natDword (((v ||| BitVec.ofNat 64 on) &&& ~~~(BitVec.ofNat 64 off))).toNat)

/-- R16: a range of addresses reaches into port B's, whatever its link does. -/
def onPortB (pa len : Nat) : Bool := pa < 0xE000000000000 && 0xD000000000000 < pa + len
/-- The ring's size and TAIL, as the held copy of line 0 gives them. -/
def QueueWatch.size (w : QueueWatch) : Nat := 2 ^ bytesAt w.line 8 1
def QueueWatch.tail (w : QueueWatch) : Nat := bytesAt w.line 0x10 8
def QueueWatch.complRead (w : QueueWatch) : Nat := bytesAt w.line 0x20 8
/-- R164: LOG2_SIZE is 4 to 12, and reserved fields are zero. -/
def QueueWatch.configOk (w : QueueWatch) : Bool :=
  4 ≤ bytesAt w.line 8 1 && bytesAt w.line 8 1 ≤ 12 && (w.line.drop 9).take 7 == List.replicate 7 0 &&
  (w.line.drop 0x28).all (· == 0)
/-- R16: neither ring of the queue lies in port B's window. DESIGN CHOICE: log entry 116. -/
def QueueWatch.offPortB (w : QueueWatch) : Bool :=
  !(onPortB (bytesAt w.line 0 8) (128 * w.size) || onPortB (bytesAt w.line 0x18 8) (32 * w.size))
/-- R164: TAIL is no less than HEAD and no more than the size above it. -/
def QueueWatch.pointersOk (w : QueueWatch) : Bool := w.head ≤ w.tail && w.tail - w.head ≤ w.size

/-- The command processor watches a queue whose line 0 it does not hold. -/
def mustRead (s : State) (w : QueueWatch) : Bool := w.watching && qValid s w.q && !w.lineHeld

/-- R164: the command processor reads line 0, and stops the queue where it is bad. R16: a queue on port B is bad too. -/
def readHeader (s : State) (w : QueueWatch) : State :=
  let (s, bs) := deviceRead s w.header 128
  let w' := { w with line := bs, lineHeld := true }
  if !w'.configOk || !w'.offPortB then setQueueStatus (modWatch s w.q fun _ => { w' with watching := false }) w.header 2 1
  else if !w'.pointersOk then setQueueStatus (modWatch s w.q fun _ => { w' with watching := false }) w.header 4 1
  else modWatch s w.q fun _ => w'

/-- R164. -/
def execHostQueueLineInvalidate (queue : Nat) (s : State) : Host.Outcome State Fault Refusal :=
  .next (match findWatch s queue with
    | none => s
    | some w => if mustRead s w then readHeader s w else s)

/-- R164: a descriptor of the queue can be consumed. -/
def arrivalReady (s : State) (w : QueueWatch) : Bool :=
  w.watching && qValid s w.q && w.lineHeld && w.head < w.tail && w.head - w.complRead < w.size

/-- R366: the next descriptor of a queue is consumed, and HEAD advances. DEDUCED: log entry 57. -/
def consume (s : State) (w : QueueWatch) : State :=
  let (s, bs) := deviceRead s (bytesAt w.line 0 8 + 128 * (w.head % w.size)) 128
  let (s, _) := admitLaunch s w.q (qCtx s w.q) bs s.phcNs none
  let s := modWatch s w.q fun w => { w with head := w.head + 1 }
  deviceWrite s (w.header + 0x80) (natDword (w.head + 1))

/-- R366. -/
def execLaunchArrival (queue : Nat) (s : State) : Host.Outcome State Fault Refusal :=
  .next (match findWatch s queue with
    | none => s
    | some w => if arrivalReady s w then consume s w else s)

end Sys2Proof.Machine
end

