-- ==== Sys2Proof/Machine/Ends.lean ====
section
/-! DEFINITION. How groups, teams, launches, graphs and phases end (R25, R158, R161, R186, R187, R197, R198, R320, R368,
R372, R373, R396, R407, R413, R415). -/

namespace Sys2Proof.Machine

/-! ## Launches and traversals (R198, R320, R373) -/

def phaseKey (part phase : Nat) : Nat := 64 * part + phase
def modTraversal (s : State) (v : Nat) (f : Traversal → Traversal) : State := { s with traversals := listMod s.traversals v f }
def getTraversal (s : State) (v : Nat) : Traversal := s.traversals.getD v ⟨0, 0, 0, 0, 0, [], 0, 0, false, 0⟩

/-- R198: a graph of a firing counts as done or failed. R198 does not say in which firing a traversal counts that is still running
when its phase fires again: here it counts when it ends, in the counts of the firing then in force.
DESIGN CHOICE: log entry 123. -/
def countGraph (s : State) (part phase : Nat) (failed : Bool) : State :=
  let k := phaseKey part phase
  if failed then { s with phaseFailed := mapSet 0 s.phaseFailed k (mapGet 0 s.phaseFailed k + 1) }
  else { s with phaseDone := mapSet 0 s.phaseDone k (mapGet 0 s.phaseDone k + 1) }

/-- A traversal ends. -/
def endTraversal (s : State) (v : Nat) (failed : Bool) : State :=
  let t := getTraversal s v
  if !t.running then s else
  countGraph (modTraversal s v fun t => { t with running := false }) t.part t.phase (failed || t.failed != 0)

/-- R187: the predicate of a node word. -/
def predicate (w : Dword) (result : Word) (failed : Bool) : Bool :=
  let c := field w 32 32
  match field w 27 3 with
  | 0 => true
  | 1 => result.toNat == c
  | 2 => result.toNat != c
  | 3 => result.toNat < c
  | 4 => c ≤ result.toNat
  | 5 => result &&& BitVec.ofNat 32 c != 0
  | 6 => failed
  | _ => false

/-- R187: the successor that a node's word, as read at its start, gives it, or none where the traversal ends. -/
def successor (w : Dword) (result : Word) (failed : Bool) : Option Nat :=
  if predicate w result failed then (if field w 31 1 = 1 then none else some (field w 12 12))
  else (if field w 30 1 = 1 then none else some (field w 0 12))

/-- R187, R373: a node is read, and its launch is admitted under the context's time-triggered queue; a rejected one goes on to its
successor at once, admitted at this moment. The first argument is how many node launches the traversal has left. DEDUCED: log entries 57, 64. -/
def startNode : Nat → State → Nat → Nat → Dword → State
  | 0, s, v, _, _ => endTraversal s v true
  | n + 1, s, v, node, now =>
    let t := getTraversal s v
    let desc := field (pbar s t.part (Config.oNode node)) 7 57 * 128
    let word := pbar s t.part (Config.oNode node + 8)
    match ttQueue s t.ctx with
    | none => endTraversal s v true
    | some q =>
      if desc = 0 then endTraversal s v true else
      let (s, bs) := deviceRead s desc 128
      let num := mapGet 0 s.nextLaunch t.ctx
      let s := modTraversal s v fun t => { t with node := node, word := word, launches := t.launches + 1, nums := t.nums ++ [num] }
      match admitLaunch s q t.ctx bs now (some v) with
      | (s, some _) => s
      | (s, none) =>
        match successor word 0 true with
        | none => endTraversal s v false
        | some x => startNode n s v x s.phcNs

/-- R373: a node's launch has ended. -/
def nodeEnded (s : State) (v : Nat) (result : Word) (failed : Bool) : State :=
  let t := getTraversal s v
  let s := modTraversal s v fun t => if failed then { t with failed := t.failed + 1 } else { t with done := t.done + 1 }
  if !t.running then s else
  match successor t.word (if failed then 0 else result) failed with
  | none => endTraversal s v false
  | some x => startNode (4096 - t.launches) s v x s.phcNs

/-- R320: the teams' post words in ascending team index, combined. -/
def launchResult (l : Launch) : Word :=
  let ws := (List.range (l.desc.teams + 1)).filterMap fun i => (l.posts.find? (·.1 == i)).map Prod.snd
  match ws with
  | [] => 0
  | w :: rest => rest.foldl (ropCombine l.desc.rop) w

/-- R165, R198, R373: a launch has ended. The traversal of a cancelled one admits no successor (R383).
DEDUCED: log entry 64. -/
def completeLaunch (s : State) (li : Nat) : State :=
  let l := s.launches.getD li Launch.empty
  let cancelled := l.status == .cancelled
  let failed := l.failed != 0
  let result := launchResult l
  let s := modLaunch s li fun l => if cancelled then l else { l with status := if failed then .failed else .done }
  let s := if failed then { s with jobFailed := mapSet 0 s.jobFailed l.ctx (mapGet 0 s.jobFailed l.ctx + 1) }
    else { s with jobDone := mapSet 0 s.jobDone l.ctx (mapGet 0 s.jobDone l.ctx + 1) }
  let s := completionRecord s l.queue l.ctx l.num (if cancelled then 3 else if failed then 1 else 0) l.failed l.done
    l.residue result
  match l.traversal with
  | none => s
  | some v =>
    if cancelled then endTraversal (modTraversal s v fun t => { t with failed := t.failed + 1 }) v true
    else nodeEnded s v result failed

/-- R161, R165: messages of a launch whose teams have all ended are discarded as residue before its record is written; the two
teams of a core pair send a message once (R398). -/
def dropMessages (s : State) (li : Nat) : State :=
  let mine := fun (o : Op) => (getTeam s o.team).launch == li && o.team < s.teams.length && match o.kind with
    | .message _ _ => true
    | _ => false
  let once := fun (o : Op) => mine o && match (getTeam s o.team).side with
    | .trail _ => false
    | _ => true
  let s' := modLaunch s li fun l => { l with residue := l.residue + (s.ops.filter once).length }
  { s' with ops := s'.ops.filter fun o => !mine o }

/-- R198: `n` teams of a launch are counted done or failed. -/
def countTeams (s : State) (li n : Nat) (failed : Bool) : State :=
  if n = 0 then s else
  let s := modLaunch s li fun l => if failed then { l with failed := l.failed + n } else { l with done := l.done + n }
  let l := s.launches.getD li Launch.empty
  if l.done + l.failed = l.desc.teams then completeLaunch (dropMessages s li) li else s

/-! ## Phases (R186, R372) -/

def phaseWord (s : State) (part n i : Nat) : Dword := pbar s part (Config.oPhase n + 8 * i)
def phaseOn (s : State) (part n : Nat) : Bool := (phaseWord s part n 2).msb
def phaseNext (s : State) (part n : Nat) : Nat := (phaseWord s part n 3).toNat
/-- R433, R436: the device is ready, and the partition exists. -/
def partLive (s : State) (part : Nat) : Bool :=
  field (bar s Config.oBootStatus) 0 8 == 0x80 && (part == 0 || partitioned s) && !s.resets.any (·.part == part)

/-- R372: the firing time has come. -/
def phaseDue (s : State) (part n : Nat) : Bool := partLive s part && phaseOn s part n && phaseNext s part n ≤ s.phcNs.toNat
/-- R372: 2 µs ahead of a firing. -/
def prefetchDue (s : State) (part n : Nat) : Bool :=
  partLive s part && phaseOn s part n && phaseNext s part n ≤ s.phcNs.toNat + 2000 && !s.prefetched.contains (part, n)

/-- R372: the command processor has read the root descriptor and kernel header. DEDUCED: log entry 61. -/
def execPhasePrefetch (part phase : Nat) (s : State) : Host.Outcome State Fault Refusal :=
  .next (if prefetchDue s part phase then { s with prefetched := (part, phase) :: s.prefetched } else s)

/-- R372: the first firing time after the present, and the latest that has come. -/
def firingTimes (next period now : Nat) : Nat × Nat :=
  if period = 0 then (next, next) else
  let k := (now - next) / period
  (next + k * period, next + (k + 1) * period)

/-- R372, R198: the firing moves NEXT past the present, clears EN of a phase without a period and restarts its counts. -/
def fired (s : State) (part n : Nat) : State :=
  let w2 := phaseWord s part n 2
  let period := (phaseWord s part n 1).toNat
  let s' := setPbar s part (Config.oPhase n + 0x18) (BitVec.ofNat 64 (firingTimes (phaseNext s part n) period s.phcNs.toNat).2)
  let s' := if period = 0 then setPbar s' part (Config.oPhase n + 0x10) (setField w2 63 1 0) else s'
  let k := phaseKey part n
  { s' with
    phaseDone := mapSet 0 s'.phaseDone k 0
    phaseFailed := mapSet 0 s'.phaseFailed k 0
    prefetched := s'.prefetched.filter (· != (part, n)) }

/-- R372: a firing. -/
def firePhase (s : State) (part n : Nat) : State :=
  let w2 := phaseWord s part n 2
  let ctx := field w2 16 16
  let graph := pbar s part (Config.oGraph (field w2 0 8))
  let at_ := (firingTimes (phaseNext s part n) (phaseWord s part n 1).toNat s.phcNs.toNat).1
  let s := fired s part n
  if (ttQueue s ctx).isNone || !graph.msb || field graph 16 16 != ctx then countGraph s part n true
  else
    let v := s.traversals.length
    let s := { s with traversals := s.traversals ++ [⟨part, n, ctx, field graph 0 12, 0, [], 0, 0, true, 0⟩] }
    startNode 4096 s v (field graph 0 12) (BitVec.ofNat 64 at_)

/-- R372. -/
def execPhaseFiring (part phase : Nat) (s : State) : Host.Outcome State Fault Refusal :=
  .next (if phaseDue s part phase then firePhase s part phase else s)

/-! ## Reports and marks at a save or checkpoint (R270, R271) -/

/-- A group's wait without thread `t`. -/
def waitWithout (w : Option Wait) (t : Nat) : Option Wait :=
  match w with
  | none => none
  | some w =>
    let ls := w.lanes.filter (· != t)
    if ls.isEmpty then none else some { w with lanes := ls }
/-- R271: no mark of a thread is left in its registers or its group's. -/
def spendMarks (s : State) (tid g t : Nat) : State :=
  (getTh s tid g (.lane t)).marks.foldl (fun s m =>
    modGroup (modTh s tid g (.lane t) fun th => th.spend m.1) tid g fun gr => { gr with k := gr.k.map (Cell.spend m.1) }) s
/-- A thread outside any run takes its report or mark as a trap at its program counter; further marks of it are spent with it,
as no save area and no snapshot holds one. DEDUCED: log entry 27. -/
def takeAt (s : State) (tid g t : Nat) : State :=
  let th := getTh s tid g (.lane t)
  let r : Run := { team := tid, grp := g, lanes := [t], pc := th.pc }
  if th.life == .exited then s else
  match dueReport s r with
  | none => s
  | some (c, d) =>
    let s := spendMarks (spendDue s r c) tid g t
    if th.inTrap then
      failTeam s tid cDoubleTrap d.epc d.addr (BitVec.ofNat 32 (field th.cause 0 8 * 256 + d.cause)) (32 * g + t)
    else if (teamLaunch s tid).desc.trap = 0 then failTeam s tid d.cause d.epc d.addr d.info (32 * g + t)
    else
      let base := (teamLaunch s tid).desc.trap
      let s := modGroup s tid g fun gr => { gr with wait := waitWithout gr.wait t }
      modLane s r t fun th => { th.enterTrap base d with life := .runnable }

/-- Every thread of the team takes what is due. DEDUCED: log entry 27. -/
def takeDue (s : State) (tid : Nat) : State :=
  (List.range (getCore s tid).groups.length).foldl (fun s g => (List.range 32).foldl (fun s t =>
    if (getTeam s tid).halt.isSome then s else takeAt s tid g t) s) s

/-! ## Ends of groups and teams (R25) -/

/-- R25. -/
def groupDone (s : State) (tid g : Nat) : Bool :=
  let tc := getCore s tid
  let gr := tc.group g
  !gr.retired && gr.allExited && !((List.range 32).any fun t => tc.borrowed g t) && gr.ldc == 0 && gr.stc == 0 &&
  gr.cpc == 0 && gr.tlc == 0 && gr.d.all (· == 0) && !s.runs.any (fun r => r.team == tid && r.grp == g) &&
  g < tc.groups.length
/-- The team may retire groups. -/
def mayRetire (t : Team) : Bool :=
  (t.life == .resident || (t.life == .stopping && t.action == .drain)) && t.halt.isNone && !t.stopped
/-- R25, R411. -/
def execGroupRetire (team grp : Nat) (s : State) : Host.Outcome State Fault Refusal :=
  .next (if groupDone s team grp && mayRetire (getTeam s team) then
      restartWatchdog (modGroup s team grp fun g => { g with retired := true }) team
    else s)

/-- All groups have retired, and the copies of the team are complete. -/
def teamDrained (s : State) (tid : Nat) : Bool :=
  let t := getTeam s tid
  mayRetire t && t.body.groups.all (·.retired) &&
  !s.ops.any fun o => o.team == tid && match o.kind with
    | .copy _ | .publish _ _ | .shootdown _ _ => true
    | _ => false

/-- R368: a team that retires before its charged end, last on its core, lowers F to now. -/
def lowerFree (s : State) (tid : Nat) : State :=
  let t := getTeam s tid
  if s.lastCommit.contains (t.core, t.launch, t.idx) && s.phcNs.toNat < (mapGet 0 s.freeTime t.core).toNat then
    { s with freeTime := mapSet 0 s.freeTime t.core s.phcNs }
  else s

/-- R124: poison stays in the storage of a scratchpad allocation when its team leaves the core. DESIGN CHOICE: log entry 121. -/
def leavePoison (s : State) (tid : Nat) : State :=
  let t := getTeam s tid
  if !t.holds then s else
  let left := t.body.scratchPoison.map fun x => (t.core, x)
  { s with scratchBad := s.scratchBad.filter (fun x => !left.contains x) ++ left }
/-- R124: a team takes the poison that its allocation holds; a restore writes its sectors whole. DESIGN CHOICE: log entry 121. -/
def meetPoison (s : State) (tid : Nat) (restored : Bool) : State :=
  let mine := s.scratchBad.filter fun x => x.1 == (getTeam s tid).core && 32 * x.2 < (teamLaunch s tid).kernel.scratch
  let s := { s with scratchBad := s.scratchBad.filter fun x => !mine.contains x }
  if restored then s else modCore s tid fun tc => { tc with scratchPoison := mine.map Prod.snd }

/-- The team ends: its resources are freed in one step, and it is counted, an IL2 pair once. -/
def endTeam (s : State) (tid : Nat) (failed : Bool) : State :=
  let t := getTeam s tid
  let s := endTeamRuns (if failed then s else lowerFree s tid) tid
  let s := modTeam (forgetShares (leavePoison s tid) tid) tid fun t => { t with
    life := if failed then .failed else .done, halt := none, stopped := false, stepping := none
    body := { t.body with stash := [], stashLines := [], crews := [] } }
  let alone := match t.partner with
    | none => true
    | some p => let u := getTeam s p; teamEnded u
  if !alone then s else
  let lead := leadOf s tid
  let b := (getTeam s lead).body
  let s := modLaunch s t.launch fun l => { l with
    residue := l.residue + residueOf b
    ended := setAdd l.ended t.idx
    posts := match b.post with
      | some (w, _) => l.posts ++ [(t.idx, w)]
      | none => l.posts }
  countTeams s t.launch 1 failed

/-- R115, R125: the stash lines of a team that its end writes back: those that are dirty or hold poison. -/
def backLines (t : Team) : List StashLine := t.body.stashLines.filter fun l => l.dirty || !(stashBad t.body l).isEmpty
/-- R389, R398: what a team's stash has to write back: by line, the bytes and poisoned sectors of the write-backs that wait to be
compared, and of its lines after them. DEDUCED: log entry 100. -/
def backsOf (t : Team) : SMap (List Byte × List Nat × List Host.Cell) :=
  let waiting := (t.entries.filter (·.kind == .writeback)).map fun e => (e.lead.addr.toNat, e.lead.data, e.bad, match e.act with
    | .write cs => cs
    | _ => [])
  let lines := (backLines t).map fun l =>
    (l.pa, stashBytes t.body l, (stashBad t.body l).map (l.pa / 32 + ·), cellsAt l.pa (stashBytes t.body l))
  (waiting ++ lines).foldl (fun m x => mapSet ([], [], []) m x.1 x.2) []
/-- A team's stash lines are clean, and no write-back of them waits. -/
def cleanStash (s : State) (tid : Nat) : State :=
  modTeam s tid fun t => { t with
    entries := t.entries.filter (·.kind != .writeback)
    body := { t.body with stashLines := t.body.stashLines.map fun l => { l with dirty := false, mask := 0 } } }
/-- The stash of a team that is no part of a core pair is written back; that of an IL3 team has been, by the commit that its
end or save asked for. -/
def backAll (s : State) (tid : Nat) : State :=
  if teamIl s tid = 3 then s else (backLines (getTeam s tid)).foldl (fun s l => stashWriteBack s tid l) s
/-- The write-backs of a core pair, which agree, are performed once (R398). -/
def writeBacks (s : State) (lead p : Nat) : State :=
  let s := (backsOf (getTeam s lead)).foldl (fun s x => writeCells s none x.2.2.2 x.2.2.1) s
  cleanStash (cleanStash s lead) p
/-- Items other than stash write-backs wait for their partners (R398). -/
def openItems (t : Team) : Bool := t.entries.any (·.kind != .writeback)

/-- R399, R25: the compare of a core pair at the end of its teams agrees. -/
def il2EndAgrees (s : State) (lead p : Nat) : Bool :=
  let a := getTeam s lead
  let b := getTeam s p
  !openItems a && a.detOut.isEmpty && b.detOut.isEmpty &&
  (List.range a.body.groups.length).all (fun g => a.sigs.getD g 0 == b.sigs.getD g 0) && backsOf a == backsOf b

/-- R394: what a core pair's record says of a compare at a checkpoint or an end that does not agree: an unpaired item of the first
group whose counts differ, or which leads; the signatures of the first group whose signatures differ, in which only taken masks
can; or the first stash line that differs. DEDUCED: log entry 120. -/
def endMismatch (s : State) (lead p : Nat) : Mismatch :=
  let a := getTeam s lead
  let b := getTeam s p
  let gs := List.range a.body.groups.length
  match gs.find? fun g => (a.body.group g).interval != (b.body.group g).interval with
  | some g => { team := lead, grp := g, thread := 0, kind := 6 }
  | none =>
  match a.entries.find? (·.kind != .writeback) with
  | some e => unpaired e
  | none =>
  match gs.find? fun g => a.sigs.getD g 0 != b.sigs.getD g 0 with
  | some g => { team := lead, grp := g, thread := 0xFF, kind := 4, lead := (a.sigs.getD g 0).toNat, trail := (b.sigs.getD g 0).toNat }
  | none =>
    let line := ((backsOf a).find? fun x => !(backsOf b).contains x).getD (0, [], [], [])
    { team := lead, grp := 0, thread := 0, kind := 0, addr := BitVec.ofNat 64 line.1, lead := bytesNat (line.2.1.take 8)
      trail := bytesNat ((mapGet ([], [], []) (backsOf b) line.1).1.take 8) }

/-- R25: the team may end now: an IL2 team with its partner, named by the leading one, once no checkpoint of theirs is due (R399); an IL3 team after the commit of
its end (R148). -/
def retireReady (s : State) (tid : Nat) : Bool :=
  let t := getTeam s tid
  teamDrained s tid &&
  (match t.side with
   | .single => teamIl s tid != 3 || (thePair s tid).granted.contains (tid, 32)
   | .lead p => teamDrained s p && !il2Due s tid
   | .trail _ => false)

/-- R25, R115, R399, R401: what a team does at its end. -/
def retireTeam (s : State) (tid : Nat) : State :=
  let t := getTeam s tid
  match t.side with
  | .trail _ => s
  | .single =>
    let s := flushDet s tid fun _ => true
    endTeam (backAll s tid) tid false
  | .lead p =>
    if !il2EndAgrees s tid p then il2Mismatch s tid (endMismatch s tid p)
    else endTeam (endTeam (writeBacks s tid p) p false) tid false

/-- R25: a RESIDENT team becomes DONE. -/
def execTeamRetire (team : Nat) (s : State) : Host.Outcome State Fault Refusal :=
  .next (if retireReady s team && (getTeam s team).life == .resident then retireTeam s team else s)
/-- R23: a STOPPING team that drains becomes DONE. -/
def execDrainComplete (team : Nat) (s : State) : Host.Outcome State Fault Refusal :=
  .next (if retireReady s team && (getTeam s team).life == .stopping then retireTeam s team else s)

/-- R392, R148: an IL3 team that has retired its groups asks for the commit of its end. DEDUCED: log entry 37. -/
def askEndCommit (s : State) (tid : Nat) : State :=
  let p := thePair s tid
  if teamIl s tid == 3 && p.mode != .rollback && teamDrained s tid && !p.granted.contains (tid, 32) && !p.forced.contains (tid, 32) then
    { s with pairs := listMod s.pairs (pairOf (getTeam s tid).core) fun p =>
        { p with request := true, forced := p.forced ++ [(tid, 32)] } }
  else s
/-- R401: when every thread of a team has exited, its atomic buffer drains; a discard drops it. -/
def askEndFlush (s : State) (tid : Nat) : State :=
  let t := getTeam s tid
  if !t.det.isEmpty && (t.life == .resident || (t.life == .stopping && t.action != .discard)) && t.halt.isNone && !t.stopped &&
      t.body.groups.all Group.allExited then flushDet s tid fun _ => true else s

/-! ## The end of a halt (R407, R412 to R415) -/

/-- R413: nothing that the halt lets finish is in flight. -/
def haltQuiet (s : State) (tid : Nat) (h : Halt) : Bool :=
  !s.ops.any fun o => o.team == tid && match o.kind with
    | .copy _ => true
    | .load _ | .lane _ | .mma _ | .accst _ _ => h.resumable
    | _ => false

/-- R412: a dump of a halted team could begin now. -/
def dumpFree (s : State) (d tid : Nat) : Bool := !s.dumps.any fun j => j.part == d && (j.team != tid || j.writing)

/-- R413: the drain of a halted team is complete, and what follows need not wait for another dump. -/
def haltDone (s : State) (tid : Nat) : Bool :=
  let t := getTeam s tid
  match t.halt with
  | none => false
  | some h =>
    haltQuiet s tid h && !s.dumps.any (fun j => j.team == tid && j.writing) &&
    (!h.resumable || h.asked || !dumpRoom s t.part || dumpFree s t.part tid)

/-- The fault record of a halted team. -/
def haltRecord (s : State) (tid kind : Nat) (h : Halt) (dump : Nat) : FaultRec :=
  let items := if h.asked then h.items.filter (fun i => i.1 == 14 || i.1 == 5) else haltList s tid h
  { teamRec s tid kind h.cause with thread := h.thread, epc := h.epc, addr := h.addr, info := h.info, items := items, dump := dump }

/-- R407: the failed team ends. DEDUCED: log entries 94, 97. -/
def failHalted (s : State) (tid kind : Nat) (h : Halt) (dump : Nat) : State :=
  endTeam (faultRecord s (getTeam s tid).part (haltRecord s tid kind h dump)) tid true

/-- A team that was halted goes on, or stays stopped for the debugger, or stops for it now (R416). -/
def resumeHalted (s : State) (tid : Nat) : State :=
  let then_ := (getTeam s tid).halt.any (·.thenStop)
  let s := modTeam s tid fun t => { t with halt := none }
  if then_ then debugStop s tid 0 0 0 0 else s

/-- The team that a context, a launch and a team number name together, RESIDENT (R412, R416); one that a halt ends is RESIDENT no
more (R23). DEDUCED: log entry 84. -/
def namedTeam (s : State) (part ctx launch team : Nat) : Option Nat :=
  (List.range s.teams.length).find? fun i =>
    let t := getTeam s i
    let l := teamLaunch s i
    t.part == part && t.idx == team && l.ctx == ctx && l.num == launch && t.halt.all (·.resumable) &&
    t.life == .resident && (match t.side with
      | .trail _ => false
      | _ => true)

/-- R412: a dump request: the named team halts, or NOTEAM is set. It waits while a debugger's stop of the team is in progress.
DEDUCED: log entry 84. -/
def requestDump (s : State) (d ctx launch team : Nat) : State :=
  match namedTeam s d ctx launch team with
  | none => setPbar s d Config.oDumpCtl (setField (pbar s d Config.oDumpCtl) 3 1 1)
  | some tid =>
    if !dumpRoom s d then s
    else if (getTeam s tid).halt.isSome then { s with dumpWaits := s.dumpWaits ++ [(d, ctx, launch, team)] } else
    let s := haltTeam s tid { cause := 0, epc := 0, addr := 0, info := 0, thread := 0, items := [], resumable := true, asked := true }
    { s with dumps := s.dumps ++ [⟨d, tid, false⟩] }

/-- R412: the next request of a partition, once BUSY has cleared. -/
def nextDump (s : State) (d : Nat) : State :=
  if dumpBusy s d then s else
  match s.dumpWaits.find? (·.1 == d) with
  | none => s
  | some x => requestDump { s with dumpWaits := dropFirst (· == x) s.dumpWaits } d x.2.1 x.2.2.1 x.2.2.2

/-- R413: the halt of a team is complete: its dump is written where one is due, or its record.
DEDUCED: log entries 94, 97. -/
def finishHalt (s : State) (tid : Nat) (h : Halt) : State :=
  let t := getTeam s tid
  let d := t.part
  let begin_ := fun (s : State) =>
    let s := writeDump s d tid h
    { s with dumps := s.dumps.filter (fun j => !(j.team == tid)) ++ [⟨d, tid, true⟩] }
  if h.resumable then
    (if h.asked || dumpRoom s d then begin_ s
     else nextDump (resumeHalted (faultRecord s d (haltRecord s tid 4 h 0)) tid) d)
  else
    let s := { s with dumps := s.dumps.filter fun j => !(j.team == tid && !j.writing) }
    if field (pbar s d Config.oDumpCtl) 0 1 = 1 && dumpRoom s d && !dumpBusy s d then begin_ s
    else nextDump (failHalted s tid 1 h 0) d

/-- R413. -/
def execHaltDrainDone (team : Nat) (s : State) : Host.Outcome State Fault Refusal :=
  .next (match (getTeam s team).halt with
    | none => s
    | some h => if haltDone s team then finishHalt s team h else s)

/-- R415: the dump that a partition writes is complete. -/
def execDumpComplete (part : Nat) (s : State) : Host.Outcome State Fault Refusal :=
  .next (match s.dumps.find? (fun j => j.part == part && j.writing) with
    | none => s
    | some j =>
      let s := { s with dumps := s.dumps.filter (· != j) }
      let base := (pbar s part Config.oDumpBase).toNat
      let s := match (getTeam s j.team).halt with
        | none => s
        | some h =>
          if h.resumable then
            resumeHalted (faultRecord s part (haltRecord s j.team (if h.asked then 3 else 4) h base)) j.team
          else failHalted s j.team 3 h base
      nextDump s part)

end Sys2Proof.Machine
end

