-- ==== Sys2Proof/Machine/Place.lean ====
section
/-! DEFINITION. Placement, restoring and pre-emption of teams (R20 to R23, R46, R47, R88, R89, R95, R155, R159 to R161,
R184, R370, R371, R374, R377 to R379, R385, R397, R399, R400, R410). -/

namespace Sys2Proof.Machine

/-! ## What a core holds (R22) -/

/-- The teams that hold resources of a core. -/
def holdersOf (s : State) (core : Nat) : List Nat :=
  (List.range s.teams.length).filter fun i => let t := getTeam s i; t.core == core && t.holds
/-- What given teams take of their core. -/
def loadOf (s : State) (tids : List Nat) : Load :=
  tids.map fun i => let t := getTeam s i; ((teamLaunch s i).kernel, t.idx, t.s0, t.p0)
def mappedBytes (t : Team) : Nat := sumBy (·.len) t.body.stash
/-- A team of a kernel fits a core beside the given teams. -/
def fitsBeside (s : State) (k : Kernel) (idx stash : Nat) (spot : Spot) (others : List Nat) : Bool :=
  loadFits (loadOf s others ++ [(k, idx, spot.s0, spot.p0)]) (stash + sumBy (fun i => mappedBytes (getTeam s i)) others)

/-- R397: the partner of a core. -/
def partnerCore (s : State) (core : Nat) : Nat := if partitioned s then core ^^^ 8 else core ^^^ 32

/-! ## Who may be placed where (R20, R46, R368, R371, R374, R385) -/

/-- R20: the lowest team of a launch that is PENDING. -/
def nextPending (l : Launch) : Option Nat :=
  if l.status != .active then none else
  let rest := if l.nextTeam < l.desc.teams then [l.nextTeam] else []
  (l.again ++ rest).foldl (fun acc i => match acc with
    | none => some i
    | some j => some (min i j)) none
/-- The teams of a launch that are PENDING. -/
def pendingTeams (l : Launch) : List Nat :=
  if l.status != .active then [] else l.again ++ ((List.range l.desc.teams).drop l.nextTeam)
/-- R20: the lowest team of a launch that is SAVED, an IL2 pair named by its leading team. -/
def nextSaved (s : State) (li : Nat) : Option Nat :=
  let mine := (List.range s.teams.length).filter fun i =>
    let t := getTeam s i
    t.launch == li && t.life == .saved && (match t.side with
      | .trail _ => false
      | _ => true)
  mine.foldl (fun acc i => match acc with
    | none => some i
    | some j => if (getTeam s i).idx < (getTeam s j).idx then some i else some j) none

/-- R374, R368: the core that a team is bound to: its trace record's, or the model's. -/
def boundCore (l : Launch) (idx : Nat) : Option Nat :=
  match l.places.find? (·.1 == idx) with
  | some p => some p.2.1
  | none => l.assigned[idx]?

/-- R368: an earlier launch of the queue has a team to come on the core. -/
def earlierOn (s : State) (li core : Nat) : Bool :=
  let l := s.launches.getD li Launch.empty
  (List.range li).any fun j =>
    let x := s.launches.getD j Launch.empty
    x.queue == l.queue && x.status == .active && x.cores != 0 &&
    ((List.range x.desc.teams).any fun i => (x.nextTeam ≤ i || x.again.contains i) && boundCore x i == some core)

/-- The queue that owns a core has a team to come on it. -/
def ownerWaits (s : State) (q core : Nat) : Bool :=
  s.launches.any fun x => x.queue == q && x.cores != 0 && (pendingTeams x).any fun i => boundCore x i == some core

/-- R385: the integrity level of a launch may use a core. -/
def levelAllows (s : State) (l : Launch) (core : Nat) : Bool :=
  let mode := (s.pairs.getD (pairOf core) {}).mode
  if l.kernel.il = 3 then
    mode == .paired && field (bar s (Config.oPairCtl (pairOf core))) 16 16 == l.ctx && core % 8 < 4
  else mode == .independent

/-- A core of the launch's partition that its queue, level and stops in progress leave open to team `idx`, the teams
`gone` not counted. -/
def coreOpen (s : State) (li idx core : Nat) (gone : List Nat) : Bool :=
  let l := s.launches.getD li Launch.empty
  let part := ctxPart s l.ctx
  let held := (holdersOf s core).filter fun i => !gone.contains i
  let queueOf := fun (i : Nat) => (teamLaunch s i).queue
  core < 64 && partLive s part && corePart s core == part && levelAllows s l core &&
  !(held.any fun i => (getTeam s i).launch == li && (getTeam s i).life == .stopping && (getTeam s i).action == .drain) &&
  (match l.places.find? (·.1 == idx) with
   | some p => p.2.1 == core || l.kernel.il == 2
   | none => true) &&
  (if l.cores = 0 then
    (match coreOwner s core with
     | none => true
     | some q => l.desc.bounded && l.kernel.restart && !(held.any fun i => queueOf i == q) && !ownerWaits s q core)
   else
    l.cores.getLsbD core && !(held.any fun i => queueOf i == l.queue || coreOwner s core == some l.queue) &&
    !earlierOn s li core && (boundCore l idx == some core || l.kernel.il == 2))

/-- The cores that a team takes at a spot: its own, and under IL2 its partner's (R397). -/
def spotCores (s : State) (l : Launch) (spot : Spot) : List Nat :=
  if l.kernel.il = 2 then [spot.core, partnerCore s spot.core] else [spot.core]

/-- Team `idx` of a launch can take a spot once the teams `gone` have left. -/
def canTake (s : State) (li idx stash : Nat) (spot : Spot) (gone : List Nat) : Bool :=
  let l := s.launches.getD li Launch.empty
  spot.s0 < 8 && spot.p0 < 4 &&
  (match l.places.find? (·.1 == idx) with
   | some p => p.2.1 == spot.core && p.2.2.1 == spot.s0 && p.2.2.2 == spot.p0
   | none => l.cores == 0 || boundCore l idx == some spot.core) &&
  (spotCores s l spot).all fun c => coreOpen s li idx c gone &&
    fitsBeside s l.kernel idx stash spot ((holdersOf s c).filter fun i => !gone.contains i)

/-- The first spot of a core that a team can take. -/
def spotOn (s : State) (li idx stash core : Nat) (gone : List Nat) : Option Spot :=
  if !coreOpen s li idx core gone then none else
  (List.range 32).findSome? fun i =>
    let spot : Spot := ⟨core, i / 4, i % 4⟩
    if canTake s li idx stash spot gone then some spot else none
/-- R370: the cores in the order in which they are tried: those that no queue reserves, then those that may be lent (R371). -/
def coreOrder (s : State) : List Nat :=
  (List.range 64).filter (fun c => (coreOwner s c).isNone) ++ (List.range 64).filter fun c => (coreOwner s c).isSome
/-- R21: the spot that the command processor takes. The manual does not say which of those that fit: the model takes the lowest
core, then the lowest s0, then the lowest p0. DESIGN CHOICE: log entry 111. -/
def findSpot (s : State) (li idx stash : Nat) : Option Spot := (coreOrder s).findSome? fun c => spotOn s li idx stash c []

/-! ## A team's initial state (R73, R88, R89, R155, R193) -/

/-- R89. -/
def launchInfo (l : Launch) (idx g : Nat) : List Word :=
  let k := l.kernel
  [BitVec.ofNat 32 idx, BitVec.ofNat 32 l.desc.teams, BitVec.ofNat 32 g, BitVec.ofNat 32 k.groups, BitVec.ofNat 32 l.num,
   BitVec.ofNat 32 (boolBit k.det * 2 ^ 24 + k.il * 2 ^ 20 + l.prio * 2 ^ 16 + l.ctx), BitVec.ofNat 32 k.scratch, l.desc.salt]

def freshGroup (l : Launch) (idx : Nat) (spot : Spot) (g : Nat) : Group :=
  let pc : Dword := BitVec.ofNat 64 l.codeStart
  Group.fresh ((List.range 32).map fun t => Thread.fresh pc (BitVec.ofNat 32 (32 * g + t)) (BitVec.ofNat 32 idx))
    (((List.range 24).map fun i => Cell.word (l.args.getD i 0)) ++ (launchInfo l idx g).map Cell.word)
    (bindSub g spot.s0) (bindPort g spot.p0)

/-- R193: the expected count of barrier `b`. -/
def barrierExp (k : Kernel) (b : Nat) : Nat :=
  match k.barrierExp.find? fun x => x.1 ≤ b && b < x.1 + x.2.1 with
  | some x => x.2.2
  | none => 32 * k.groups
/-- R155: a queue's allowances by group. -/
def queueAllow (k : Kernel) (q : Nat) : List Nat :=
  (List.range k.groups).map fun g => ((k.allows.find? fun a => a.1 == q && a.2.1 == g).map (·.2.2)).getD 0

def freshCore (l : Launch) (idx : Nat) (spot : Spot) : TeamCore :=
  let k := l.kernel
  { groups := (List.range k.groups).map (freshGroup l idx spot)
    barriers := (List.range k.barriers).map fun b => { exp := barrierExp k b }
    queues := k.queues.map fun q => { depth := q.2, allow := queueAllow k q.1, initial := queueAllow k q.1 } }

/-- The entry of a new team: that of a discarded one of its index and side is written again. DEDUCED: log entry 99. -/
def putTeam (s : State) (t : Team) : State :=
  let trailing := match t.side with
    | .trail _ => true
    | _ => false
  match (List.range s.teams.length).find? fun i =>
      let u := getTeam s i
      u.launch == t.launch && u.idx == t.idx && u.life == .pending && (match u.side with
        | .trail _ => trailing
        | _ => !trailing) with
  | some i => modTeam s i fun u => { t with side := u.side, satTeam := u.satTeam }
  | none => { s with teams := s.teams ++ [t] }

/-! ## Dispatch traces (R374) -/

/-- R374, R188: the record of a team's first placement, and the record count. DEDUCED: log entry 67. -/
def recordPlace (s : State) (li idx : Nat) (spot : Spot) : State :=
  let l := s.launches.getD li Launch.empty
  if l.desc.trace != 1 || l.again.contains idx then s else
  let word := natDword (idx * 2 ^ 32 + spot.core * 2 ^ 20 + spot.s0 * 2 ^ 13 + spot.p0 * 2 ^ 11)
  let s := (writeCtx s l.ctx (l.desc.taddr.toNat + 64 + 8 * l.recorded) word).getD s
  let s := (writeCtx s l.ctx (l.desc.taddr.toNat + 12) (natWord (l.recorded + 1))).getD s
  modLaunch s li fun l => { l with recorded := l.recorded + 1 }

/-! ## TEAM_PLACE and TEAM_LOAD_COMPLETE -/

/-- R22, R327: groups take the lowest free slots of their ports, `used` being sub-core, port and slot of those taken. -/
def takeSlots : List (Nat × Nat × Nat) → List Group → List Group
  | _, [] => []
  | used, g :: rest =>
    let slot := ((List.range 16).find? fun i => !used.contains (g.sub, g.port, i)).getD 0
    { g with slot := slot } :: takeSlots ((g.sub, g.port, slot) :: used) rest
/-- The groups of a team take slots beside those of the other teams of its core. -/
def giveSlots (s : State) (tid : Nat) : State :=
  let t := getTeam s tid
  let used := ((holdersOf s t.core).filter (· != tid)).flatMap fun i =>
    (getCore s i).groups.map fun g => (g.sub, g.port, g.slot)
  modCore s tid fun tc => { tc with groups := takeSlots used tc.groups }

/-- R20 to R23: a PENDING team takes its place. -/
def placeTeam (s : State) (li idx : Nat) (spot : Spot) : State :=
  let l := s.launches.getD li Launch.empty
  let s := recordPlace s li idx spot
  let s := modLaunch s li fun l =>
    if l.again.contains idx then { l with again := l.again.filter (· != idx) } else { l with nextTeam := l.nextTeam + 1 }
  let t : Team := { launch := li, idx := idx, core := spot.core, s0 := spot.s0, p0 := spot.p0, part := ctxPart s l.ctx,
                    body := freshCore l idx spot }
  if l.kernel.il = 2 then
    let n := s.teams.length
    putTeam (putTeam s { t with side := .lead (n + 1) }) { t with side := .trail n, core := partnerCore s spot.core }
  else putTeam s t
/-- The slots of every team that is LOADING. -/
def slotLoading (s : State) : State :=
  (List.range s.teams.length).foldl (fun s i => if (getTeam s i).life == .loading then giveSlots s i else s) s

/-- R20 to R23. -/
def execTeamPlace (launch : Nat) (spot : Spot) (s : State) : Host.Outcome State Fault Refusal :=
  .next (match nextPending (s.launches.getD launch Launch.empty) with
    | none => s
    | some idx => if canTake s launch idx 0 spot [] then slotLoading (placeTeam s launch idx spot) else s)

/-- R159, R160: the credits that a team's first becoming RESIDENT gives: to the senders of the channels it receives, and
to it where a receiver is already there, or is being restored, less the messages held there and the credits on their way.
DEDUCED: log entry 71. -/
def giveCredits (s : State) (tid : Nat) : State :=
  let t := getTeam s tid
  (teamLaunch s tid).kernel.channels.foldl (fun s d =>
    let s := if d.receiver != t.idx then s else
      match teamByIdx s tid d.sender with
      | some st => modCore s st fun tc => setCredit tc d.ch d.slots
      | none => s
    if d.sender != t.idx || d.receiver == t.idx then s else
    match teamByIdx s tid d.receiver with
    | some rt =>
      let u := getTeam s rt
      let coming := (s.ops.filter fun o => o.team == rt && o.kind == .credit d.ch).length
      let back := u.life == .loading && (getTeam s (leadOf s rt)).area.isSome
      if u.life == .resident || u.life == .stopping || u.life == .saved || back then
        modCore s tid fun tc => setCredit tc d.ch (d.slots - (boxMsgs u.body d.ch).length - coming)
      else s
    | none => s) s

/-- R367: the first 256 bytes of code from ENTRY come into the core's instruction cache. -/
def warmCode (s : State) (tid : Nat) : State :=
  let t := getTeam s tid
  let l := teamLaunch s tid
  (linesOf l.codeStart 256).foldl (fun s va =>
    match cpAddr s l.ctx t.part .fetch (max va l.codeStart) with
    | (s, some pa) => allocCode (l2Touch s t.part pa 0) t.core (pa / 128 * 128)
    | (s, none) => s) s

/-- R47: the ready ages go on from where a save stopped them. -/
def restoreAges (now : Nat) (ages : List (Option Nat)) (tc : TeamCore) : TeamCore :=
  { tc with groups := (List.range tc.groups.length).map fun g =>
      { tc.group g with readyAt := (ages.getD g none).map (now - ·) } }

/-- R23: one team becomes RESIDENT, for the first time or restored. -/
def loadTeam (s : State) (tid : Nat) (restored : Bool) : State :=
  let s := meetPoison (warmCode s tid) tid restored
  let now := s.cycle.toNat
  let il := teamIl s tid
  let s := modTeam s tid fun t =>
    let b := restoreAges now t.ages t.body
    { t with life := .resident, area := none, ages := [], body := b, starting := il == 3
             snap := if 2 ≤ il then some b else t.snap, snapResv := t.resv, snapDet := t.det, snapServed := [] }
  let s := if restored then s else giveCredits s tid
  if il = 3 then { s with pairs := listMod s.pairs (pairOf (getTeam s tid).core) fun p => { p with request := true } } else s

/-- A team is loading. -/
def loadDue (t : Team) : Bool := t.life == .loading && t.halt.isNone
/-- R23, R391, R399: an IL2 pair together. -/
def execTeamLoadComplete (team : Nat) (s : State) : Host.Outcome State Fault Refusal :=
  .next (if !loadDue (getTeam s team) then s else
    let restored := (getTeam s (leadOf s team)).area.isSome
    match (getTeam s team).partner with
    | none => loadTeam s team restored
    | some p => loadTeam (loadTeam s team restored) p restored)

/-! ## Restoring (R20, R47, R399, R400, R410) -/

/-- The team's groups are bound anew; a REP with repetitions left resumes as its threads say (R314). -/
def rebind (t : Team) (core : Nat) (spot : Spot) : Team :=
  { t with
    core := core, s0 := spot.s0, p0 := spot.p0, life := .loading
    body := { t.body with groups := (List.range t.body.groups.length).map fun g =>
      let gr := t.body.group g
      { gr with sub := bindSub g spot.s0, port := bindPort g spot.p0 } } }
/-- R40: the open crews of a restored team take snapshot buffers while their sub-cores have them; the recruiter of another reads
its own registers, which are the same. DESIGN CHOICE: log entry 112. -/
def rebuffer (s : State) (tid : Nat) : State :=
  (getCore s tid).crews.foldl (fun s c =>
    if !c.buffered || buffersTaken s (getTeam s tid).core (getGroup s tid c.grp).sub ≤ 8 then s
    else modCore s tid fun tc => tc.modCrew c.grp c.thr fun c => { c with buffered := false }) s
/-- R183: the stash maps of the teams on a core hold at most 32 entries. DESIGN CHOICE: log entry 113. -/
def stashFits (s : State) (tid core : Nat) : Bool :=
  sumBy (fun i => (getCore s i).stash.length) (holdersOf s core) + (getCore s tid).stash.length ≤ 32
/-- The SAVED team can be restored at a spot. -/
def canRestore (s : State) (tid : Nat) (spot : Spot) : Bool :=
  let t := getTeam s tid
  nextSaved s t.launch == some tid && canTake s t.launch t.idx (mappedBytes t) spot [] &&
  (spotCores s (teamLaunch s tid) spot).all (stashFits s tid)
/-- R20, R47. A save area that the host wrote to fails the team (R410). DESIGN CHOICE: log entry 10. -/
def execRestorePlace (team : Nat) (spot : Spot) (s : State) : Host.Outcome State Fault Refusal :=
  .next (if !canRestore s team spot then s else
    let spoiled := (getTeam s team).areaSpoiled
    let s := modTeam s team fun t => rebind t spot.core spot
    let s := match (getTeam s team).partner with
      | none => s
      | some p => rebuffer (modTeam s p fun t => rebind t (partnerCore s spot.core) spot) p
    let s := slotLoading (rebuffer s team)
    if spoiled then failTeam s team cCancelled 0 0 0 0 else s)

/-! ## Costs and the choice of an action (R378, R410) -/

/-- Clk in a number of ns at the present clock. -/
def clkOfNs (s : State) (ns : Nat) : Nat := ns * s.khz.toNat / 1000000
/-- Bytes of a team's save area (R410), `deep` counting every thread at the full link depth. DEDUCED: log entry 68. -/
def saveBytes (s : State) (tid : Nat) (deep : Bool) : Nat :=
  let t := getTeam s tid
  let k := (teamLaunch s tid).kernel
  let chans := (k.channels.filter fun d => d.sender == t.idx || d.receiver == t.idx).length
  let pools := sumBy (fun c => 64 + 4 * c.contrib.length) t.body.crews
  let links := if deep then 64 * 32 * k.groups else sumBy (fun g => sumBy (fun th => th.links.length) g.threads) t.body.groups
  256 + 8 * k.barriers + 64 * k.queues.length + 32 * chans + 16 * t.body.stash.length + pools + 2048 * k.groups +
  (192 + 4 * (k.stack + k.mdepth + 16)) * 32 * k.groups + 8 * links + 2048 * k.accum * k.groups + k.need t.idx

/-- R378: the clk since the team's first instruction. A PHC step moves `started` with the clock. -/
def elapsedCost (s : State) (tid : Nat) : Nat :=
  match (getTeam s tid).started with
  | none => 0
  | some x => clkOfNs s (s.phcNs - x).toNat
def drainCost (s : State) (tid : Nat) : Nat := clkOfNs s (teamLaunch s tid).kernel.duration - elapsedCost s tid
def saveCost (s : State) (tid : Nat) : Nat :=
  let queued := (s.ops.filter fun o => o.team == tid && match o.kind with
    | .mma m => m.stage != .started
    | _ => false).length
  64 + (pbar s (getTeam s tid).part Config.oHoldLimit).toNat + 320 + 268 * (queued + 1) + saveBytes s tid false / 1024

/-- The first gap of the save pool that holds `n` bytes, among the areas in use (R410). DEDUCED: log entry 68. -/
def carveArea (s : State) (part n : Nat) : Option Nat :=
  let base := (pbar s part Config.oSaveBase).toNat
  let size := (pbar s part Config.oSaveSize).toNat
  let used := (s.teams.filter fun t => t.part == part && (t.holds || t.life == .saved)).filterMap (·.area)
  let starts := base :: used.map fun x => x.1 + x.2
  let free := starts.filter fun a => base ≤ a && a + n ≤ base + size && !used.any fun x => x.1 < a + n && a < x.1 + x.2
  free.foldl (fun acc a => match acc with
    | none => some a
    | some b => some (min a b)) none

/-- R410: the save areas of a team and of its partner, which has one of its own. DEDUCED: log entry 68. -/
def carveAreas (s : State) (lead : Nat) : Option ((Nat × Nat) × Option (Nat × Nat)) :=
  let t := getTeam s lead
  let n := saveBytes s lead true
  (carveArea s t.part n).bind fun a =>
    match t.partner with
    | none => some ((a, n), none)
    | some p =>
      let m := saveBytes s p true
      let s := modTeam s lead fun t => { t with area := some (a, n) }
      (carveArea s t.part m).map fun b => ((a, n), some (b, m))

/-- R378: the action for a team, and for an IL2 pair by its leading team. DEDUCED: log entry 66. -/
def chooseAction (s : State) (lead slack : Nat) (lent : Bool) : StopAction :=
  let l := teamLaunch s lead
  let t := getTeam s lead
  if !l.desc.bounded then .drain
  else if lent then .discard
  else if t.runs == 0 && l.kernel.restart then .discard
  else if drainCost s lead ≤ slack then .drain
  else if l.kernel.restart && elapsedCost s lead ≤ saveCost s lead then .discard
  else if (carveAreas s lead).isSome then .save else .drain
/-- What stopping a team is estimated to cost. -/
def stopCost (s : State) (lead slack : Nat) (lent : Bool) : Nat :=
  match chooseAction s lead slack lent with
  | .drain => drainCost s lead
  | .discard => elapsedCost s lead
  | .save => saveCost s lead

/-! ## PREEMPTION_REQUEST (R46, R370, R399, R421) -/

/-- R46, R47: a team is asked to stop. The manual does not say when the ready ages that a save keeps are taken: the model takes
them at the request, none for a group that is in a run then. DESIGN CHOICE: log entry 114. -/
def startStop (s : State) (tid : Nat) (a : StopAction) (area : Option (Nat × Nat)) : State :=
  let now := s.cycle.toNat
  modTeam s tid fun t => { t with
    life := .stopping, action := a, area := area, asked := now
    ages := if a = .save then t.body.groups.map fun g => g.readyAt.map (now - ·) else [] }

/-- R23: the team and its partner are RESIDENT, and no debugger or halt holds them (R421). -/
def canStop (s : State) (tid : Nat) : Bool :=
  let ok := fun (t : Team) => t.life == .resident && t.halt.isNone && !t.stopped && t.stepping.isNone
  ok (getTeam s tid) && (match (getTeam s tid).partner with
    | none => true
    | some p => ok (getTeam s p))

/-- R46, R378, R399: a team is stopped, an IL2 pair as one unit; a save of a pair goes through a common checkpoint. -/
def stopTeam (s : State) (tid slack : Nat) (lent : Bool) : State :=
  if !canStop s tid then s else
  let lead := leadOf s tid
  let a := chooseAction s lead slack lent
  let areas := if a = .save then carveAreas s lead else none
  let s := startStop s lead a (areas.map Prod.fst)
  match (getTeam s lead).partner with
  | none => s
  | some p =>
    let s := startStop s p a (areas.bind Prod.snd)
    if a = .save then modTeam s lead fun t => { t with ckptRequest := true } else s
/-- R370. -/
def execPreemptionRequest (team slack : Nat) (lent : Bool) (s : State) : Host.Outcome State Fault Refusal :=
  .next (stopTeam s team slack lent)

/-! ## DISCARD_COMPLETE (R46, R377, R400) -/

/-- The ends of a team's channels at other teams have nothing in flight to it (R161). -/
def channelsQuiet (s : State) (tid : Nat) : Bool :=
  let t := getTeam s tid
  !s.ops.any fun o => (getTeam s o.team).launch == t.launch && (match o.kind with
    | .message ch _ => ((channelDecl s o.team ch).bind fun d => teamByIdx s o.team d.receiver) == some tid
    | .credit ch => ((channelDecl s o.team ch).bind fun d => teamByIdx s o.team d.sender) == some tid
    | _ => false)

/-- A discard drops an operation of its team: an MMA that has not started, or an atomic or item that waits. -/
def dropsAtDiscard (s : State) (o : Op) : Bool :=
  (match o.kind with
   | .mma m => m.stage != .started
   | _ => false) || opHeld s o.id || (getTeam s o.team).det.any fun e => e.ops.contains o.id

/-- The team stands still, and everything that a discard lets end has ended. -/
def discardStill (s : State) (tid : Nat) : Bool :=
  let t := getTeam s tid
  t.life == .stopping && t.action == .discard && t.halt.isNone && !s.runs.any (·.team == tid) &&
  t.body.crews.all (·.helpers.isEmpty) &&
  !(s.ops.any fun o => o.team == tid && !dropsAtDiscard s o) && channelsQuiet s tid &&
  !(thePair s tid).items.any (·.team == tid)
def discardReady (s : State) (tid : Nat) : Bool :=
  discardStill s tid && (match (getTeam s tid).side with
    | .single => true
    | .lead p => discardStill s p
    | .trail _ => false)

/-- R46, R197: the team is PENDING again, and has nothing. DEDUCED: log entry 72. -/
def discardTeam (s : State) (tid : Nat) : State :=
  let s := forgetShares (leavePoison (dropOps s fun o => o.team == tid) tid) tid
  let s := { s with pairs := s.pairs.map fun p =>
    let prov := p.prov.filter (·.1 != tid)
    { p with prov := prov, provBad := p.provBad.filter (·.1 != tid), accepted := p.accepted.filter (·.1 != tid)
             ways := p.ways.filter fun l => prov.any fun x => x.2.1 / 128 * 128 == l
             log := p.log.filter (·.team != tid), forced := p.forced.filter (·.1 != tid)
             granted := p.granted.filter (·.1 != tid) } }
  modTeam s tid fun t => { Team.empty with
    launch := t.launch, idx := t.idx, core := t.core, s0 := t.s0, p0 := t.p0, part := t.part, side := t.side
    satTeam := t.satTeam, life := .pending }
/-- R46. -/
def execDiscardComplete (team : Nat) (s : State) : Host.Outcome State Fault Refusal :=
  .next (if !discardReady s team then s else
    let t := getTeam s team
    let s := modLaunch s t.launch fun l => { l with again := setAdd l.again t.idx }
    match t.partner with
    | none => discardTeam s team
    | some p => discardTeam (discardTeam s team) p)

/-! ## SAVE_COMPLETE (R46, R47, R161, R379, R399, R400, R410) -/

/-- R379, R383: at most two saves of a partition go on at once, those asked for first. -/
def saveTurn (s : State) (tid : Nat) : Bool :=
  let me := getTeam s tid
  ((List.range s.teams.length).filter fun i =>
    let t := getTeam s i
    i != tid && t.part == me.part && t.life == .stopping && t.action == .save && (match t.side with
      | .trail _ => false
      | _ => true) && (t.asked < me.asked || (t.asked == me.asked && i < tid))).length < 2
/-- R122, R410: the team's save area lies in no page that a migration blocks. -/
def areaOpen (s : State) (tid : Nat) : Bool :=
  (getTeam s tid).area.all fun a => s.migrations.all fun m => !rangesMeet a (m.src, m.size)

/-- R46, R75, R191: everything that the team has in flight is complete, its counters zero and no entry pending. -/
def saveStill (s : State) (tid : Nat) : Bool :=
  let t := getTeam s tid
  t.life == .stopping && t.action == .save && t.halt.isNone && !s.runs.any (·.team == tid) &&
  t.body.crews.all (·.helpers.isEmpty) &&
  !(s.ops.any fun o => o.team == tid) && t.detOut.isEmpty && channelsQuiet s tid &&
  !(thePair s tid).items.any (·.team == tid)

/-- The core pair stands at its common checkpoint: nothing has issued since. -/
def atCheckpoint (s : State) (tid p : Nat) : Bool :=
  let zero := fun (i : Nat) => (getCore s i).groups.all (·.interval == 0)
  zero tid && zero p && !il2Due s tid

def saveReady (s : State) (tid : Nat) : Bool :=
  saveStill s tid && saveTurn s tid && areaOpen s tid && (match (getTeam s tid).side with
    | .single => teamIl s tid != 3 || (thePair s tid).granted.contains (tid, 33)
    | .lead p => saveStill s p && areaOpen s p && atCheckpoint s tid p && il2EndAgrees s tid p
    | .trail _ => false)

/-- R158: an ENQ or DEQ at which a group waits runs again after the restore. -/
def savedWait (w : Option Wait) : Option Wait :=
  match w with
  | some ⟨.enq _ _, _⟩ | some ⟨.deq _ _, _⟩ => none
  | _ => w
/-- R410: the header of a team's save area: what R410 lists, in its order, from MAGIC on; of the places it gives MAGIC's alone.
DESIGN CHOICE: log entry 10. -/
def saveHeader (s : State) (tid : Nat) : List Byte :=
  let t := getTeam s tid
  let l := teamLaunch s tid
  let k := l.kernel
  let teamSize := 8 * k.barriers + 64 * k.queues.length +
    32 * (k.channels.filter fun d => d.sender == t.idx || d.receiver == t.idx).length + 16 * t.body.stash.length +
    sumBy (fun c => 64 + 4 * c.contrib.length) t.body.crews
  let links := sumBy (fun g => sumBy (fun th => th.links.length) g.threads) t.body.groups
  let groups := 256 + teamSize
  let threads := groups + 2048 * k.groups
  let accs := threads + (192 + 4 * (k.stack + k.mdepth + 16)) * 32 * k.groups + 8 * links
  let bs := natWord 0x4B375341 ++ natWord l.ctx ++ natWord l.num ++ natWord t.idx ++
    natWord k.groups ++ natWord k.stack ++ natWord k.mdepth ++ natWord k.accum ++ natWord k.il ++ natWord (boolBit k.det) ++
    natWord t.runs.toNat ++ natDword t.issued.toNat ++ natWord t.ckptId.toNat ++ natDword s.phcNs.toNat ++
    natDword 256 ++ natDword groups ++ natDword threads ++ natDword accs ++ natDword (accs + 2048 * k.accum * k.groups)
  bs ++ List.replicate (256 - bs.length) 0
/-- R46, R47: the team is SAVED; its stash map is restored unfilled. DESIGN CHOICE: log entry 10. DEDUCED: log entry 69. -/
def saveTeam (s : State) (tid : Nat) : State :=
  let s := match (getTeam s tid).area with
    | some a =>
      let s := homeWrite s a.1 (saveHeader s tid) none none
      modTeam s tid fun t => { t with area := some (a.1, saveBytes s tid false) }
    | none => s
  let s := { forgetShares (leavePoison s tid) tid with pairs := s.pairs.map fun p => { p with granted := p.granted.filter (· != (tid, 33)) } }
  modTeam s tid fun t => { t with life := .saved, body := { t.body with
    stashLines := [], groups := t.body.groups.map fun g => { g with wait := savedWait g.wait } } }

/-- R46, R270, R271: reports and marks that are due are taken before the save, and the stash is written back (R115).
DESIGN CHOICE: log entry 10. -/
def execSaveComplete (team : Nat) (s : State) : Host.Outcome State Fault Refusal :=
  .next (if !saveReady s team then s else
    let s := takeDue s team
    match (getTeam s team).partner with
    | none => if (getTeam s team).halt.isSome then s else saveTeam (backAll s team) team
    | some p =>
      let s := takeDue s p
      if (getTeam s team).halt.isSome || (getTeam s p).halt.isSome then s
      else saveTeam (saveTeam (writeBacks s team p) team) p)

/-- R399, R400: what a save of a pair's team still has to ask for: a commit, or a common checkpoint. -/
def askSave (s : State) (tid : Nat) : State :=
  if !saveStill s tid then s else
  let p := thePair s tid
  match (getTeam s tid).side with
  | .single =>
    if teamIl s tid == 3 && p.mode != .rollback && !p.granted.contains (tid, 33) && !p.forced.contains (tid, 33) then
      { s with pairs := listMod s.pairs (pairOf (getTeam s tid).core) fun p =>
          { p with request := true, forced := p.forced ++ [(tid, 33)] } }
    else s
  | .lead q => if atCheckpoint s tid q || il2Due s tid then s else modTeam s tid fun t => { t with ckptRequest := true }
  | .trail _ => s

/-! ## What the command processor does next (R370, R371) -/

/-- R378: the slack of a launch, in clk: the time left to its latest start, less 84; 0 where none is given.
DEDUCED: log entry 66. -/
def slackOf (s : State) (l : Launch) : Nat :=
  if l.desc.lstart = 0 then 0 else clkOfNs s (l.now.toNat + l.desc.lstart - s.phcNs.toNat) - 84

/-- R371: a borrower that stands on a reserved core whose owner's launch has a team to come. -/
def borrowerEvent (s : State) (l : Launch) : Option Instr :=
  if l.cores = 0 then none else
  let waits := (pendingTeams l).filterMap (boundCore l)
  (List.range 64).findSome? fun c =>
    if !waits.contains c || coreOwner s c != some l.queue then none else
    ((holdersOf s c).find? fun i =>
      let b := teamLaunch s i
      b.queue != l.queue && b.desc.bounded && b.kernel.restart && canStop s i).map fun i => .preemptionRequest i 0 true

/-- R370: the teams whose stop would make room on a core for a team of priority `prio`, and what it costs. -/
def roomCost (s : State) (li idx core : Nat) : Option (Nat × List Nat) :=
  let l := s.launches.getD li Launch.empty
  let cores := spotCores s l ⟨core, 0, 0⟩
  let held := cores.flatMap (holdersOf s)
  let lowest := held.foldl (fun m i => max m (teamLaunch s i).prio) 0
  let out := held.filter fun i => (teamLaunch s i).prio == lowest
  let gone := out ++ out.filterMap fun i => (getTeam s i).partner
  if lowest ≤ l.prio || out.isEmpty || cores.any (fun c => (coreOwner s c).isSome) then none
  else if (spotOn s li idx 0 core gone).isNone then none
  else
    let cost := sumBy (fun i => if (getTeam s i).life == .stopping then 0 else stopCost s i (slackOf s l) false)
      (out.map (leadOf s)).eraseDups
    some (cost, out)

/-- R370: the team to stop next, on the core where room costs least. -/
def preemptEvent (s : State) (li idx : Nat) : Option Instr :=
  let l := s.launches.getD li Launch.empty
  if l.cores != 0 then none else
  let best := (List.range 64).foldl (fun (acc : Option (Nat × List Nat)) c =>
    match acc, roomCost s li idx c with
    | some a, some b => if b.1 < a.1 then some b else some a
    | none, x => x
    | acc, none => acc) none
  best.bind fun b => (b.2.find? (canStop s)).map fun i => .preemptionRequest i (slackOf s l) false

/-- What a launch's next team to come needs: its place, a restore, or room. -/
def launchEvent (s : State) (li : Nat) : Option Instr :=
  let l := s.launches.getD li Launch.empty
  let restore := (nextSaved s li).bind fun tid =>
    ((coreOrder s).findSome? fun c => (List.range 32).findSome? fun i =>
      let spot : Spot := ⟨c, i / 4, i % 4⟩
      if canRestore s tid spot then some spot else none).map fun spot => Instr.restorePlace tid spot
  match borrowerEvent s l with
  | some e => some e
  | none =>
  match restore with
  | some e => some e
  | none =>
    (nextPending l).bind fun idx =>
      match findSpot s li idx 0 with
      | some spot => some (.teamPlace li spot)
      | none => preemptEvent s li idx

/-- R370: highest priority first, then order of admission. -/
def placeEvent (s : State) : Option Instr :=
  (List.range 8).findSome? fun p => (List.range s.launches.length).findSome? fun li =>
    let l := s.launches.getD li Launch.empty
    if l.prio == p && l.status == .active then launchEvent s li else none

/-- What a team that is loading, ending or stopping does next. -/
def teamEvent (s : State) : Option Instr :=
  (List.range s.teams.length).findSome? fun tid =>
    let t := getTeam s tid
    if haltDone s tid then some (Instr.haltDrainDone tid)
    else if !t.holds then none
    else if loadDue t then some (Instr.teamLoadComplete tid)
    else if retireReady s tid then some (if t.life == .resident then Instr.teamRetire tid else Instr.drainComplete tid)
    else if discardReady s tid then some (Instr.discardComplete tid)
    else if saveReady s tid then some (Instr.saveComplete tid)
    else ((List.range t.body.groups.length).find? fun g => groupDone s tid g && mayRetire t).map fun g => Instr.groupRetire tid g

end Sys2Proof.Machine
end

