-- ==== Sys2Proof/Machine/Pairs.lean ====
section
/-! DEFINITION. Checked pairs and core pairs: mode changes (R386, R387), the comparator (R388 to R390), checkpoints (R391,
R392, R399), mismatches and rollbacks (R393 to R395, R398). -/

namespace Sys2Proof.Machine

def getPair (s : State) (p : Nat) : Pair := s.pairs.getD p {}
def modPair (s : State) (p : Nat) (f : Pair → Pair) : State := { s with pairs := listMod s.pairs p f }
def pairCtl (s : State) (p : Nat) : Dword := bar s (Config.oPairCtl p)
/-- DEDUCED: log entry 70. -/
def setPairErr (s : State) (p e : Nat) : State := setBar s (Config.oPairCtl p) (setField (pairCtl s p) 40 8 e)
/-- The partition of a pair's clusters. -/
def pairPart (s : State) (p : Nat) : Nat := corePart s (8 * p)
/-- The teams that hold resources of a pair's 8 cores. -/
def pairHolders (s : State) (p : Nat) : List Nat :=
  (List.range s.teams.length).filter fun i => pairOf (getTeam s i).core == p && (getTeam s i).holds

/-! ## Mode changes (R386, R387) -/

/-- R387: stops every resident team of a pair, with a slack of 0. -/
def stopPair (s : State) (p : Nat) : State := (pairHolders s p).foldl (fun s i => stopTeam s i 0 false) s

/-- R386: INTEG_AREA names a granule of the partition's device memory. -/
def integOk (s : State) (d : Nat) : Bool :=
  let a := pbar s d Config.oIntegArea
  let pa := field a 30 22 * 2 ^ 30
  a.msb && targetOf s pa == .device && (!partitioned s || ownerPart s pa == some d)

/-- R386: WAKE and CONTEXT of a write while the pair is INDEPENDENT, WAKE within its bounds. -/
def writePairFields (s : State) (p : Nat) (v : Dword) : State :=
  if (getPair s p).mode != .independent then s else
  let w := setField (pairCtl s p) 32 8 (max 16 (min 64 (field v 32 8)))
  setBar s (Config.oPairCtl p) (setField w 16 16 (field v 16 16))

/-- R387: a write of PAIR_CTL with REQ = 1. DEDUCED: log entry 70. -/
def requestPair (s : State) (pair : Nat) (value : Dword) : State :=
  let s := writePairFields s pair value
  if (getPair s pair).mode != .independent then setPairErr s pair 3
  else if !integOk s (pairPart s pair) then setPairErr s pair 1
  else
    let ctx := field (pairCtl s pair) 16 16
    if (ctxEntry s ctx).isNone || ctxPart s ctx != pairPart s pair then setPairErr s pair 2
    else stopPair (setMode s pair .quiesce) pair
/-- R387. -/
def execPairRequest (pair : Nat) (value : BitVec 64) (s : State) : Host.Outcome State Fault Refusal :=
  .next (if pair < 8 then requestPair s pair value else s)

/-- R387: a request to end a checked pair. -/
def requestUnpair (s : State) (pair : Nat) : State :=
  match (getPair s pair).mode with
  | .quiesce => setMode s pair .independent
  | .paired => stopPair (setMode s pair .unpair) pair
  | .rollback => modPair s pair fun q => { q with unpairHeld := true }
  | _ => setPairErr s pair 3
/-- R387. -/
def execUnpairRequest (pair : Nat) (s : State) : Host.Outcome State Fault Refusal :=
  .next (if pair < 8 then requestUnpair s pair else s)

/-- No operation of a kind that QUIESCE waits for remains on a pair's cores. -/
def pairStill (s : State) (p : Nat) : Bool :=
  (pairHolders s p).isEmpty && !s.ops.any fun o => pairOf (getTeam s o.team).core == p && o.team < s.teams.length &&
    match o.kind with
    | .copy _ | .mma _ | .accst _ _ => true
    | _ => false
def quiesceDue (s : State) (p : Nat) : Bool := (getPair s p).mode == .quiesce && pairStill s p

/-- R387, FLUSH step (1): caches and operand-buffer shares of a pair's cores are invalid. -/
def flushCaches (s : State) (p : Nat) : State :=
  { s with dcache := s.dcache.filter (fun x => pairOf x.core != p), icache := s.icache.filter (fun x => pairOf x.1 != p)
           shares := s.shares.filter fun x => pairOf x.core != p }
/-- R110: the ordinary lines of ways 14 and 15 of one set are invalid. Which lines stand there is the K7's: at most two, and no
fewer than those above 14. DESIGN CHOICE: log entry 22. -/
def reserveSet (s : State) (set : Nat × Nat × Nat) : State :=
  let mine := fun (x : L2Line) => (x.part, homeOf s x.part x.line) == set && !pinnedLine s x.line
  let n := (s.l2.filter mine).length
  let held := (s.l2.filter fun x => (x.part, homeOf s x.part x.line) == set).length
  let pick := fun (i : Nat) => Config.victim s.cycle.toNat (192 + i) (64 * set.2.2 + set.2.1)
  let k := min n (max (held - 14) (pick 0 % 3))
  { s with l2 := (List.range k).foldl (fun l i => dropNth mine (pick (i + 1) % (n - i)) l) s.l2 }
/-- R387, FLUSH step (2): ways 14 and 15 of a partition's sets are reserved, if no other pair has done so (R110). -/
def reserveWays (s : State) (part : Nat) : State :=
  if plainWays s part < 16 then s else
  (((s.l2.filter (·.part == part)).map fun x => (part, homeOf s part x.line)).eraseDups).foldl reserveSet s
/-- R387. -/
def execQuiesceDone (pair : Nat) (s : State) : Host.Outcome State Fault Refusal :=
  .next (if quiesceDue s pair then setMode (reserveWays (flushCaches s pair) (pairPart s pair)) pair .flush else s)

/-- R387, FLUSH step (3): every write of the pair's cores has been performed. -/
def flushDue (s : State) (p : Nat) : Bool :=
  (getPair s p).mode == .flush &&
  !s.ops.any fun o => pairOf (getTeam s o.team).core == p && o.team < s.teams.length
/-- R387, ALIGN: TLBs and the comparator are cleared. -/
def alignPair (s : State) (p : Nat) : State :=
  modPair (clearTlbs s p) p fun _ => { mode := .align }
/-- R387. -/
def execFlushDone (pair : Nat) (s : State) : Host.Outcome State Fault Refusal :=
  .next (if flushDue s pair then setMode (alignPair s pair) pair .align else s)
/-- R387. -/
def execAlignDone (pair : Nat) (s : State) : Host.Outcome State Fault Refusal :=
  .next (if (getPair s pair).mode == .align then setMode s pair .paired else s)

/-- R387: no resident team, and no provisional line of the pair. -/
def unpairDue (s : State) (p : Nat) : Bool :=
  (getPair s p).mode == .unpair && pairStill s p && (getPair s p).prov.isEmpty
/-- R388: until its pair ends, the trailing cluster holds what the leading one does: its TLBs, its instruction caches and the lines
that both may share. DEDUCED: log entry 98. -/
def mirrorPair (s : State) (p : Nat) : State :=
  let lead := fun (core : Nat) => core / 4 == 2 * p
  let trail := fun (core : Nat) => core / 4 == 2 * p + 1
  { s with
    tlb := s.tlb.filter (fun x => !trail x.1) ++ (s.tlb.filter fun x => lead x.1).map fun x => (x.1 + 4, x.2)
    ctlb := s.ctlb.filter (fun x => x.1 != 2 * p + 1) ++ (s.ctlb.filter fun x => x.1 == 2 * p).map fun x => (x.1 + 1, x.2)
    icache := s.icache.filter (fun x => !trail x.1) ++ (s.icache.filter fun x => lead x.1).map fun x => (x.1 + 4, x.2)
    dcache := s.dcache.filter (fun x => !trail x.core) ++ (s.dcache.filter fun x => lead x.core && x.st == .shared).map fun x =>
      { x with core := x.core + 4 } }
/-- R387, R388. -/
def execUnpairDone (pair : Nat) (s : State) : Host.Outcome State Fault Refusal :=
  .next (if unpairDue s pair then setMode (modPair (mirrorPair s pair) pair fun _ => {}) pair .independent else s)

/-! ## Mismatches (R393, R394) -/

/-- R393, R394: a mismatch of a pair is recorded and leads to a rollback; the third of an interval fails its team. -/
def pairMismatch (s : State) (p : Nat) (m : Mismatch) : State :=
  let n := (getPair s p).mismatches + 1
  let s := modPair (countHist (recordMismatch s m p n) (histMismatch p)) p fun q => { q with mismatches := n }
  if n < 3 then startRollback s p
  else failTeam (countHist s (histFailed p)) m.team cIntegrity 0 0 0 0

/-! ## The comparator (R389, R390, R392) -/

/-- R389, R392: an accepted item. A write becomes provisional; what is performed once enters the log, and a checkpoint
follows. -/
def acceptItem (s : State) (p : Nat) (i : Item) : State :=
  let log : List LogEntry := [{ team := i.team, grp := i.grp, thr := i.thr, fields := i.lead, value := 0, used := true, op := none }]
  match i.act with
  | .write cs => provide (releaseDone s i) p i.team i.lead.addr cs i.bad i.whole
  | .once _ => let (s, v) := performItem s i; enterLog s log v.1
  | .atomic q =>
    if served s q then serveLogged s i.team i.grp i.thr q [q.op] [] log
    else
      let (s, v) := performItem s i
      enterLog s log v.1 v.2
  | .go => if i.logs then enterLog s (log.map fun e => { e with op := i.op }) 0 else s
  | .post _ | .sample _ => (performItem s i).1

/-- The item that entered a pair's compare buffer first (R451). -/
def firstItem : List Item → Option Item
  | [] => none
  | i :: rest =>
    match firstItem rest with
    | none => some i
    | some j => some (if i.clk.toNat ≤ j.clk.toNat then i else j)
/-- The parts of the oldest item that a pair's comparator holds. -/
def oldestItem (q : Pair) : List Item :=
  match firstItem q.items with
  | none => []
  | some i => q.items.filter (sameItem i)
/-- R388, R389: the comparator holds an item that the trailing cluster, WAKE clk behind the leading one, has issued.
DESIGN CHOICE: log entry 11. -/
def compareDue (s : State) (p : Nat) : Bool :=
  let q := getPair s p
  (q.mode == .paired || q.mode == .unpair) && match firstItem q.items with
    | none => false
    | some i => i.clk.toNat + field (bar s (Config.oPairCtl p)) 32 8 ≤ s.cycle.toNat
/-- R389, R393. -/
def compareOldest (s : State) (p : Nat) : State :=
  let q := getPair s p
  let is := oldestItem q
  let s := modPair s p fun q => { q with items := q.items.filter fun i => !is.contains i }
  match is.find? fun i => i.lead != i.trail with
  | some i => pairMismatch s p (itemMismatch i)
  | none => is.foldl (fun s i => acceptItem s p i) s
/-- R389, R393. -/
def execComparatorCompare (pair : Nat) (s : State) : Host.Outcome State Fault Refusal :=
  .next (if compareDue s pair then compareOldest s pair else s)

/-! ## Rollback (R395) -/

/-- R395, R387: the snapshots are restored; a request to unpair that was held is acted on. -/
def execRollbackDone (pair : Nat) (s : State) : Host.Outcome State Fault Refusal :=
  .next (if (getPair s pair).mode != .rollback then s else
    let held := (getPair s pair).unpairHeld
    let s := modPair (restorePair s pair) pair fun q => { q with unpairHeld := false }
    if held then stopPair (setMode s pair .unpair) pair else setMode s pair .paired)

/-! ## Checkpoints of a pair (R391, R392) -/

/-- R75, R391 step 3: everything that a team has in flight is complete, but for the atomics that this checkpoint commits before it
performs them (R149). DEDUCED: log entry 69. -/
def opsDone (s : State) (tid : Nat) : Bool :=
  !(s.ops.any fun o => o.team == tid && !(getTeam s tid).detOut.any fun e => e.ops.contains o.id)
/-- R391, steps 1 to 3, for one team: no group runs, but for one that holds its port at a CKPT, or at a trap that waits for the
values of drained atomics; helpers have left, but where their group waits for the checkpoint. -/
def teamAtStop (s : State) (p tid : Nat) : Bool :=
  let t := getTeam s tid
  opsDone s tid && s.runs.all (fun r => r.team != tid || (r.helpers.isNone && t.ckptWaiting.contains r.grp) ||
    (r.due.isSome && !t.detOut.isEmpty)) &&
  t.body.crews.all fun c => c.helpers.isEmpty || !t.detOut.isEmpty || (getPair s p).forced.contains (tid, c.grp)
/-- R392: a group retires at its run end without a stop for the checkpoint. -/
def retiresFirst (s : State) (tid : Nat) : Bool :=
  mayRetire (getTeam s tid) && (List.range (getCore s tid).groups.length).any (groupDone s tid)
/-- R391, R392. -/
def checkpointDue (s : State) (p : Nat) : Bool :=
  let q := getPair s p
  !(memberTeams s p).any (retiresFirst s) &&
  (q.mode == .paired || q.mode == .unpair) && il3Due s p && q.items.isEmpty && (memberTeams s p).all (teamAtStop s p) &&
  !(pairTeams s p).any fun i => match (getTeam s i).halt with
    | some h => !h.resumable
    | none => false

/-- The lowest group of a team at a CKPT. -/
def firstCkpt (t : Team) : Option Nat := (List.range 32).find? t.ckptWaiting.contains

/-- A team's snapshot is written (R391 step 4, R399), and a CKPT of group `g` has been served; the watchdog starts again (R411).
DEDUCED: log entries 37, 44. -/
def snapTeam (s : State) (tid : Nat) (g : Option Nat) : State :=
  modTeam s tid fun t =>
    let served := match g with
      | some g => setAdd (setDel t.ckptWaiting g) (32 + g)
      | none => t.ckptWaiting
    let b := { t.body with groups := t.body.groups.map fun x => { x with interval := 0 } }
    { t with body := b, snap := some b, snapResv := t.resv, snapDet := t.det, ckptWaiting := served
             snapServed := served.filter (32 ≤ ·)
             ckptId := if t.starting then t.ckptId else t.ckptId + 1
             starting := false, wd := 0 }

/-- R124: the sectors that provisional bytes reach and that are poison once these are ordinary. -/
def provPoison (s : State) (q : Pair) : List Nat :=
  let touched := (q.prov.map fun x => sectorOf x.2.1).eraseDups
  touched.filter fun sec => match q.provBad.find? (·.2.1 == sec) with
    | some x => x.2.2
    | none => (homeRead s (32 * sec) 1 none).2.2.isSome
/-- Provisional bytes in order, those of one team that stand together at a time. -/
def provRuns : List (Nat × Host.Cell) → List (Nat × List Host.Cell)
  | [] => []
  | x :: rest =>
    match provRuns rest with
    | (t, cs) :: more => if t = x.1 then (t, x.2 :: cs) :: more else (x.1, [x.2]) :: (t, cs) :: more
    | [] => [(x.1, [x.2])]
/-- R391, step 5: provisional bytes become ordinary in one step. A team's own stash lines have met its writes before (R115). -/
def commitPair (s : State) (p : Nat) : State :=
  let q := getPair s p
  let bad := provPoison s q
  let s := poisonSectors ((provRuns q.prov).foldl (fun s x => writeCells s none x.2 [] (some x.1)) s) bad
  modPair s p fun q => { q with
    prov := [], provBad := [], ways := [], accepted := [], log := q.log.filter (!·.used), mismatches := 0, request := false, forced := []
    granted := (q.forced ++ q.granted).filter fun x => (getTeam s x.1).holds }

/-- R401: a drained atomic is performed right after the commit: its value fills the entries that wait for it, and its operation
ends. One that firmware serves is in the atomic log until its answer comes. DEDUCED: log entries 69, 104. -/
def drainCommitted (s : State) (tid : Nat) (e : DetEntry) : State :=
  if served s e.req then
    serveLogged s tid e.grp e.thr e.req e.ops []
      [{ team := tid, grp := e.grp, thr := e.thr, fields := (detItem tid e).lead, value := 0, used := true, op := none }]
  else
    (performReq s tid e.grp e.req).1
/-- R149, R391, R401: the drained atomics of a team are performed in their order, and what waited for them is filled. -/
def drainAll (s : State) (tid : Nat) : State :=
  let es := (getTeam s tid).detOut
  let s := es.foldl (fun s e => drainCommitted s tid e) (modTeam s tid fun t => { t with detOut := [] })
  (es.flatMap (·.ops)).foldl landLoad s

/-- R46, R389, R391: the stash lines of a team that hold what memory does not become items, which the comparator accepts before the
checkpoint; a poisoned line is not held any more. DEDUCED: log entry 69. -/
def submitBacks (s : State) (tid : Nat) : State :=
  (backLines (getTeam s tid)).foldl (fun s l =>
    let bad := !(stashBad (getCore s tid) l).isEmpty
    let s := stashWriteBack s tid l
    if bad then modCore s tid fun tc => { tc with stashLines := tc.stashLines.filter (·.off != l.off) } else s) s
/-- A team-ending halt of one of the teams is in progress. -/
def anyEnding (s : State) (ts : List Nat) : Bool :=
  ts.any fun i => match (getTeam s i).halt with
    | some h => !h.resumable
    | none => false
/-- The snapshots of the teams of a pair are written (R391 step 4); one CKPT has been served. -/
def snapAll (s : State) (ts : List Nat) : State :=
  let first := ts.find? fun i => (firstCkpt (getTeam s i)).isSome
  ts.foldl (fun s i => snapTeam s i (if first = some i then firstCkpt (getTeam s i) else none)) s
/-- R391. DEDUCED: log entries 44, 69. -/
def takeCheckpoint (s : State) (p : Nat) : State :=
  let ts := memberTeams s p
  if ts.any fun i => !(backLines (getTeam s i)).isEmpty then ts.foldl submitBacks s else
  let s := ts.foldl takeDue s
  if anyEnding s ts then s else
  let s := ts.foldl drainAll (commitPair s p)
  let t := ts.foldl takeDue s
  if anyEnding t ts then ts.foldl takeDue (snapAll s ts) else snapAll t ts
/-- R391. -/
def execCheckpoint (pair : Nat) (s : State) : Host.Outcome State Fault Refusal :=
  .next (if checkpointDue s pair then takeCheckpoint s pair else s)

/-! ## Checkpoints of a core pair (R399) -/

/-- Groups of a core pair stand at rest (R399). -/
def pairAtRest (s : State) (lead p : Nat) : Bool :=
  (List.range (getCore s lead).groups.length).all fun g => atRest s lead g && atRest s p g
/-- The counts of group `g` agree. -/
def countsAgree (s : State) (lead p g : Nat) : Bool := (getGroup s lead g).interval == (getGroup s p g).interval
/-- Group `g` can no longer reach the count of its partner's: all its threads have exited. DEDUCED: log entry 36. -/
def cannotCatch (s : State) (lead p g : Nat) : Bool :=
  let a := getGroup s lead g
  let b := getGroup s p g
  (a.interval.toNat < b.interval.toNat && a.allExited) || (b.interval.toNat < a.interval.toNat && b.allExited)

def il2Live (t : Team) : Bool := (t.life == .resident || t.life == .stopping) && t.halt.isNone
/-- R399: a checkpoint of the core pair can be taken, or shows an unpaired item. -/
def il2CheckpointDue (s : State) (lead : Nat) : Bool :=
  match (getTeam s lead).side with
  | .lead p =>
    let gs := List.range (getCore s lead).groups.length
    let a := getTeam s lead
    let b := getTeam s p
    il2Due s lead && !bufferHolds s lead && !bufferHolds s p && il2Live a && il2Live b && pairAtRest s lead p && a.body.crews.all (·.helpers.isEmpty) &&
    b.body.crews.all (·.helpers.isEmpty) && b.detOut.isEmpty &&
    (gs.any (cannotCatch s lead p) || (gs.all (countsAgree s lead p) &&
      (if a.detOut.isEmpty then openItems a || (opsDone s lead && opsDone s p) else openItems a)))
  | _ => false

/-- R399: a snapshot of both teams, or a mismatch. -/
def takeIl2Checkpoint (s : State) (lead p : Nat) : State :=
  let gs := List.range (getCore s lead).groups.length
  if !gs.all (countsAgree s lead p) || !il2EndAgrees s lead p then il2Mismatch s lead (endMismatch s lead p) else
  let s := takeDue (takeDue s lead) p
  if (getTeam s lead).halt.isSome then s else
  let s := writeBacks s lead p
  let g := match firstCkpt (getTeam s lead), firstCkpt (getTeam s p) with
    | some a, some b => some (min a b)
    | some a, none => some a
    | none, x => x
  let s := modTeam s lead fun t => { t with ckptRequest := false, retries := 0, log := t.log.filter (!·.used) }
  snapTeam (snapTeam s lead g) p g
/-- R399. -/
def execIl2Checkpoint (team : Nat) (s : State) : Host.Outcome State Fault Refusal :=
  .next (match (getTeam s team).side with
    | .lead p => if il2CheckpointDue s team then takeIl2Checkpoint s team p else s
    | _ => s)

/-! ## What pairs do next -/

def pairEvent (s : State) : Option Instr :=
  (List.range 8).findSome? fun p =>
    match (getPair s p).mode with
    | .independent => none
    | .quiesce =>
      if quiesceDue s p then some (Instr.quiesceDone p)
      else ((pairHolders s p).find? (canStop s)).map fun i => .preemptionRequest i 0 false
    | .flush => if flushDue s p then some (.flushDone p) else none
    | .align => some (.alignDone p)
    | .rollback => some (.rollbackDone p)
    | .paired =>
      if compareDue s p then some (.comparatorCompare p) else if checkpointDue s p then some (.checkpoint p) else none
    | .unpair =>
      if compareDue s p then some (.comparatorCompare p)
      else if checkpointDue s p then some (.checkpoint p)
      else if unpairDue s p then some (.unpairDone p)
      else ((pairHolders s p).find? (canStop s)).map fun i => .preemptionRequest i 0 false
def il2Event (s : State) : Option Instr :=
  ((List.range s.teams.length).find? (il2CheckpointDue s)).map Instr.il2Checkpoint

end Sys2Proof.Machine
end

