-- ==== Sys2Proof/Machine/Tables.lean ====
section
/-! DEFINITION. Host writes to the tables of the management window: contexts (R169), format ranges (R119, R177, R178),
retention ranges (R179), publication entries (R181), the partition table (R185), queue registrations (R363) and token
buckets (R428). Reserved bits are not written (R5). -/

namespace Sys2Proof.Machine

/-! ## The management window (R5, R425, R433) -/

/-- BOOT_STATUS[7:0]. -/
def stage (s : State) : Nat := field (bar s Config.oBootStatus) 0 8
/-- R433: a BAR0 offset answers: all of BAR0 from stage 0x05 on, the device block in recovery. -/
def barLive (s : State) (off : Nat) : Bool :=
  stage s == 0x05 || stage s == 0x80 || (stage s == 0x0F && off < 0x100000)
/-- A host access to a register that answers. -/
def onBar (s : State) (off : Nat) (f : State → State) : State := if barLive s off then f s else s
/-- `old` with the fields (low bit, width) taken from `v`. -/
def takeFields (old v : Dword) (fs : List (Nat × Nat)) : Dword :=
  fs.foldl (fun o f => setField o f.1 f.2 (field v f.1 f.2)) old
/-- A value within bounds. -/
def clampNat (lo hi n : Nat) : Nat := max lo (min hi n)

/-! ## Contexts (R169) -/

/-- Another valid entry holds the context. -/
def ctxTaken (s : State) (entry ctx : Nat) : Bool :=
  (List.range 64).any fun e => e != entry && (bar s (Config.oContext e)).msb && field (bar s (Config.oContext e)) 0 16 == ctx
/-- The context has a launch with teams that have not ended. -/
def ctxBusy (s : State) (ctx : Nat) : Bool := s.launches.any fun l => l.ctx == ctx && l.done + l.failed < l.desc.teams

/-- R169, R198: a write to a context entry for which no earlier write waits. DEDUCED: log entry 96. -/
def writeContext (s : State) (e w : Nat) (v : Dword) : State :=
  if w = 1 then setBar s (Config.oContext e + 8) (takeFields 0 v [(12, 40)]) else
  let old := bar s (Config.oContext e)
  let new := takeFields 0 v [(63, 1), (16, 2), (0, 16)]
  let ctx := field new 0 16
  if new.msb && ctxTaken s e ctx then s
  else if old.msb && !new.msb then { s with ctxWrites := s.ctxWrites ++ [(e, 0, new)] }
  else
    let s := setBar s (Config.oContext e) new
    if new.msb && !old.msb then
      { s with jobDone := mapSet 0 s.jobDone ctx 0, jobFailed := mapSet 0 s.jobFailed ctx 0 }
    else s
/-- A write to an entry waits behind a clear of its V. DEDUCED: log entry 76. -/
def contextWrite (s : State) (x : Nat × Nat × Dword) : State :=
  if s.ctxWrites.any (·.1 == x.1) then { s with ctxWrites := s.ctxWrites ++ [x] } else writeContext s x.1 x.2.1 x.2.2
/-- R169. -/
def execContextEntryWrite (entry word : Nat) (value : BitVec 64) (s : State) : Host.Outcome State Fault Refusal :=
  .next (onBar s (Config.oContext entry) fun s =>
    if entry < 64 && word < 2 then contextWrite s (entry, word, value) else s)

/-- The clear of an entry's V waits no longer. -/
def clearDue (s : State) (e : Nat) : Bool :=
  s.ctxWrites.any (·.1 == e) && !ctxBusy s (field (bar s (Config.oContext e)) 0 16)
/-- R169, R176: the clear completes, and the writes behind it follow. DEDUCED: log entry 76. -/
def clearContext (s : State) (e : Nat) : State :=
  match s.ctxWrites.filter (·.1 == e) with
  | [] => s
  | x :: rest =>
    let ctx := (bar s (Config.oContext e)).setWidth 16
    let s := setBar { s with ctxWrites := s.ctxWrites.filter (·.1 != e) } (Config.oContext e) x.2.2
    rest.foldl contextWrite (requestShoot s (.context ctx))
/-- R169. -/
def execContextClearComplete (entry : Nat) (s : State) : Host.Outcome State Fault Refusal :=
  .next (if clearDue s entry then clearContext s entry else s)

/-! ## Format ranges (R119, R177, R178) -/

def AperRange.aperture (r : AperRange) : Nat × Nat := (r.base, r.limit - r.base)
def AperRange.backings (r : AperRange) : List (Nat × Nat) := [(r.mant, r.mantBytes), (r.exp, r.expBytes)]

/-- R178: the width, the limit and the places of the backings allow an enable. -/
def formatValid (r : AperRange) : Bool :=
  2 ≤ r.width && r.width ≤ 8 && r.base + 4096 ≤ r.limit &&
  r.backings.all fun b => b.2 == 0 || b.1 + b.2 ≤ 0x3000000000
/-- R119: the range overlaps another enabled one. -/
def formatConflict (s : State) (f : Nat) (r : AperRange) : Bool :=
  (List.range 16).any fun g =>
    let o := formatFields s g
    g != f && aperEnabled s g &&
    (rangesMeet r.aperture o.aperture ||
     r.backings.any fun b => rangesMeet b o.aperture || o.backings.any (rangesMeet b))

/-- R177, R178: a write to a format range. ERR of a disabled range stays until a write that sets EN. DEDUCED: log entry 77. -/
def writeFormat (s : State) (f w : Nat) (v : Dword) : State :=
  let at_ := Config.oFormat f
  if aperEnabled s f then
    (if w = 0 && !v.msb then { s with fmtDisables := setAdd s.fmtDisables f } else s)
  else match w with
  | 0 =>
    let s := setBar s at_ (takeFields (bar s at_) v [(60, 1), (56, 4), (12, 35)])
    if !v.msb then s else
    let r := formatFields s f
    let err := if !formatValid r then 2 else if formatConflict s f r then 1 else 0
    setBar s at_ (setField (setField (bar s at_) 61 2 err) 63 1 (if err = 0 then 1 else 0))
  | 1 => setBar s (at_ + 8) (takeFields 0 v [(12, 35)])
  | 2 => setBar s (at_ + 0x10) (takeFields 0 v [(7, 45)])
  | _ => setBar s (at_ + 0x18) (takeFields 0 v [(7, 45)])
/-- R178. -/
def execFormatRangeWrite (range word : Nat) (value : BitVec 64) (s : State) : Host.Outcome State Fault Refusal :=
  .next (onBar s (Config.oFormat range) fun s => if range < 16 && word < 4 then writeFormat s range word value else s)

/-- A line lies in an aperture. -/
def AperRange.holds (r : AperRange) (line : Nat) : Bool := r.base ≤ line && line < r.limit
/-- R115, R119: stash lines of an aperture that is being disabled are written back and invalid. -/
def clearAperture (s : State) (r : AperRange) : State :=
  let lines := (s.teams.flatMap fun t => t.body.stashLines.map (·.pa)).filter r.holds
  lines.foldl (fun s l => snoopStash s l none) s
/-- R178: accesses of an aperture that were made before the write that disables it are yet to be performed: an MMA's operands, an
ACCST's rows, an atomic, or an item. DEDUCED: log entry 77. -/
def apertureBusy (s : State) (r : AperRange) : Bool :=
  s.ops.any (fun o => match o.kind with
    | .mma m => m.stage == .queued && m.xlat.any fun p => r.holds (p.2 * 4096)
    | .accst rows _ => rows.any fun y => r.holds y.pa || y.expPa.any r.holds
    | _ => false) ||
  s.svc.any (fun q => r.holds q.pa) || s.teams.any (fun t => (t.det ++ t.detOut).any fun e => r.holds e.req.pa) ||
  (s.pairs.flatMap (·.items) ++ s.teams.flatMap (·.entries)).any fun i => match i.act with
    | .write cs | .once cs => cs.any fun c => r.holds c.1
    | .atomic q => r.holds q.pa
    | _ => false
/-- R178: no line of the aperture is pinned, and no earlier access of it is left. -/
def disableDue (s : State) (f : Nat) : Bool :=
  let r := formatFields s f
  s.fmtDisables.contains f && !(s.shares.any fun x => r.holds x.line && !x.pins.isEmpty) && !apertureBusy s r
/-- R119: dirty lines are re-split, every line of the aperture is invalid, and the range is disabled. -/
def disableFormat (s : State) (f : Nat) : State :=
  let r := formatFields s f
  let s := clearAperture s r
  let s := (s.aper.filter fun l => r.holds l.line && l.dirty).foldl resplit s
  let s := { s with
    aper := s.aper.filter fun l => !r.holds l.line
    dcache := s.dcache.filter fun x => !r.holds x.line
    icache := s.icache.filter fun x => !r.holds x.2
    l2 := s.l2.filter fun x => !r.holds x.line
    shares := s.shares.filter fun x => !r.holds x.line
    fmtDisables := setDel s.fmtDisables f }
  setBar s (Config.oFormat f) (setField (bar s (Config.oFormat f)) 63 1 0)
/-- R178. -/
def execFormatRangeDisableDone (range : Nat) (s : State) : Host.Outcome State Fault Refusal :=
  .next (if disableDue s range then disableFormat s range else s)

/-! ## Retention ranges and publication entries (R111, R179, R181) -/

/-- R110, R111, R125: lines of the retained class that no enabled range covers any more, or that are more than the ways which the
class now has in their set, are ordinary lines from then on; the least recently used are the ones too many. -/
def trimKept (s : State) (d : Nat) : List L2Line :=
  s.l2.foldl (fun acc x =>
    let n := (acc.filter fun y => y.part == d && y.kept && homeOf s d y.line == homeOf s d x.line).length
    acc ++ [if x.part == d && x.kept && (retainedWays s d ≤ n || (retentionRange s d x.line).isNone) then { x with kept := false }
            else x]) []
/-- R179: any write clears the range's access counter. -/
def writeRetention (s : State) (d r w : Nat) (v : Dword) : State :=
  let new := if w = 0 then
      setField (setField (takeFields 0 v [(63, 1), (12, 40)]) 8 4 (min 8 (field v 8 4))) 0 5 (min 16 (field v 0 5))
    else takeFields 0 v [(12, 40)]
  let s := setPbar { s with retention := mapSet 0 s.retention (16 * d + r) 0 } d (Config.oRetention r + 8 * w) new
  { s with l2 := trimKept s d }
/-- R179. -/
def execRetentionRangeWrite (part range word : Nat) (value : BitVec 64) (s : State) : Host.Outcome State Fault Refusal :=
  .next (onBar s (Config.oPart part) fun s =>
    if part < 4 && range < 16 && word < 2 then writeRetention s part range word value else s)

/-- R181, R189: a clear of V waits for the swaps in progress. -/
def writePublication (s : State) (d e w : Nat) (v : Dword) : State :=
  let at_ := Config.oPublication e
  let w0 := pbar s d at_
  if w0.msb then
    (if w != 0 || v.msb then s
     else if swapPending s d e then { s with pubClears := (d, e) :: s.pubClears } else clearPublication s d e)
  else match w with
  | 0 =>
    let new := takeFields w0 v [(56, 6), (16, 16)]
    let ok := v.msb && 12 ≤ field v 56 6 && field v 56 6 ≤ 30
    setPbar s d at_ (setField new 63 1 (if ok then 1 else 0))
  | 1 => setPbar s d (at_ + 8) (takeFields 0 v [(12, 40)])
  | 2 => setPbar s d (at_ + 0x10) (takeFields 0 v [(12, 40)])
  | _ => s
/-- R181. -/
def execPublicationEntryWrite (part entry word : Nat) (value : BitVec 64) (s : State) : Host.Outcome State Fault Refusal :=
  .next (onBar s (Config.oPart part) fun s =>
    if part < 4 && entry < 256 && word < 4 then writePublication s part entry word value else s)

/-! ## The partition table (R185) -/

/-- A physical address lies in a granule of device memory. -/
def inGranule (g pa : Nat) : Bool := pa / 2 ^ 30 == g
/-- The stash lines of a granule are snooped, and the pairs that have provisional bytes in it take a checkpoint. -/
def clearGranule (s : State) (g : Nat) : State :=
  let lines := (s.teams.flatMap fun t => t.body.stashLines.map (·.pa)).filter (inGranule g)
  let s := lines.foldl (fun s l => snoopStash s l none) s
  { s with pairs := s.pairs.map fun p =>
      if p.prov.any (fun x => inGranule g x.2.1) then { p with request := true } else p }
/-- R176, R185: an access of the granule with a translation made before is yet to be performed, or a line of it is pinned. -/
def granuleBusy (s : State) (g : Nat) : Bool :=
  let inside := inGranule g
  s.ops.any (fun o => match o.kind with
    | .mma m => m.stage == .queued && m.xlat.any fun p => inside (p.2 * 4096)
    | .accst rows _ => rows.any fun y => inside y.pa || y.expPa.any inside
    | _ => false) ||
  s.svc.any (fun q => inside q.pa) || s.shares.any (fun x => inside x.line && !x.pins.isEmpty) ||
  s.teams.any (fun t => (t.det ++ t.detOut).any fun e => inside e.req.pa) ||
  (s.pairs.flatMap (·.items) ++ s.teams.flatMap (·.entries)).any (fun i => match i.act with
    | .write cs | .once cs => cs.any fun c => inside c.1
    | .atomic q => inside q.pa
    | _ => false) ||
  s.pairs.any fun p => p.prov.any fun x => inside x.2.1
/-- R185: the lines of a granule that leaves partition `old` are written back and invalid, and no translation of a
context of that partition names it. -/
def moveGranule (s : State) (g old : Nat) : State :=
  let inside := inGranule g
  let s := reachBacking s (g * 2 ^ 30) (2 ^ 30) false
  let gone := fun (x : Nat × TlbEntry) =>
    ctxPart s x.2.ctx == old && x.2.pa < (g + 1) * 2 ^ 30 && g * 2 ^ 30 < x.2.pa + 2 ^ x.2.bits
  { s with
    dcache := s.dcache.filter fun x => !inside x.line
    icache := s.icache.filter fun x => !inside x.2
    l2 := s.l2.filter fun x => !inside x.line
    shares := s.shares.filter fun x => !inside x.line
    merge := s.merge.filter fun x => !inside x.2
    tlb := s.tlb.filter fun x => !gone x
    ctlb := s.ctlb.filter fun x => !gone x
    walks := s.walks.map fun w => if w.part = old && w.started then { w with stale := true } else w }

/-- The granules of word `i` whose PART a value changes. -/
def granulesMoved (s : State) (i : Nat) (v : Dword) : List Nat :=
  if !partitioned s then [] else
  (List.range 8).filter fun b => field (bar s (Config.oPartition i)) (8 * b) 2 != field v (8 * b) 2
/-- R185: a granule word is written, and the granules that move leave their old partition. -/
def setGranules (s : State) (i : Nat) (v : Dword) : State :=
  let old := bar s (Config.oPartition i)
  let s := (granulesMoved s i v).foldl (fun s b => moveGranule s (8 * i + b) (field old (8 * b) 2)) s
  setBar s (Config.oPartition i) (takeFields 0 v ((List.range 8).flatMap fun b => [(8 * b + 7, 1), (8 * b, 2)]))
/-- R185: a write to the partition table: a granule word that moves granules waits for what is in flight in them.
DEDUCED: log entry 81. -/
def writePartTable (s : State) (i : Nat) (v : Dword) : State :=
  if 24 ≤ i then
    setBar s (Config.oPartition i) (if i % 2 = 0 then takeFields 0 v [(63, 1), (12, 40), (0, 2)] else takeFields 0 v [(12, 40)])
  else if s.partWrites.any (·.1 == i) || !(granulesMoved s i v).isEmpty then { s with partWrites := s.partWrites ++ [(i, v)] }
  else setGranules s i v
/-- R185: the oldest waiting write to the partition table takes effect once nothing is in flight in its granules. -/
def settleTable (s : State) : State :=
  match s.partWrites with
  | [] => s
  | (i, v) :: rest =>
    let gs := (granulesMoved s i v).map (8 * i + ·)
    let s := gs.foldl clearGranule s
    if gs.any (granuleBusy s) then s else setGranules { s with partWrites := rest } i v
/-- R185. -/
def execPartitionTableWrite (index : Nat) (value : BitVec 64) (s : State) : Host.Outcome State Fault Refusal :=
  .next (onBar s (Config.oPartition index) fun s => if index < 56 then writePartTable s index value else s)

/-! ## Queue registrations (R164, R363) -/

/-- R363: why a registration fails: 1, 2, or 0. `v` is the word that sets V. R16: no queue on port B.
DEDUCED: log entry 79. DESIGN CHOICE: log entry 116. -/
def queueErr (s : State) (q : Nat) (v : Dword) : Nat :=
  let ctx := qCtx s q
  let others := (List.range 64).filter fun i => i != q && qValid s i
  if others.any (fun i => qCores s i &&& qCores s q != 0) then 1
  else if (ctxEntry s ctx).isNone || field v 52 7 != 0 || field v 0 7 != 0 || onPortB (field v 7 45 * 128) 256 then 2
  else if (List.range 64).any (fun c => (qCores s q).getLsbD c && corePart s c != ctxPart s ctx) then 1
  else if field v 59 1 == 1 && others.any (fun i => qTT s i && qCtx s i == ctx) then 2
  else 0

/-- R164, R363: the command processor watches a queue from the pointers that its header holds. DEDUCED: log entry 79. -/
def startWatch (s : State) (q : Nat) : State :=
  let h := qHeader s q
  let (s, a) := deviceRead s (h + 0x80) 16
  let s := setQueueStatus s h 1 6
  { s with watches := s.watches.filter (·.q != q) ++
      [{ q := q, header := h, head := bytesAt a 0 8, complHead := bytesAt a 8 8 }] }
/-- R363: the watching of a queue stops. DEDUCED: log entry 79. -/
def stopWatch (s : State) (q : Nat) : State :=
  match findWatch s q with
  | none => s
  | some w => setQueueStatus (modWatch s q fun w => { w with watching := false, lineHeld := false }) w.header 0 1
/-- R363: V is cleared. -/
def unregister (s : State) (q : Nat) : State :=
  if !qValid s q then s else
  stopWatch (setBar s (Config.oQueueReg q) (setField (qWord s q 0) 63 1 0)) q

/-- R363. -/
def writeQueue (s : State) (q w : Nat) (v : Dword) : State :=
  let at_ := Config.oQueueReg q
  if qValid s q then (if w = 0 && !v.msb then unregister s q else s)
  else match w with
  | 0 =>
    let s := setBar s at_ (takeFields 0 v [(60, 3), (59, 1), (7, 45)])
    if !v.msb then s else
    let err := queueErr s q v
    let s := setBar s (at_ + 8) (setField (qWord s q 1) 38 2 err)
    if err != 0 then s else startWatch (setBar s at_ (setField (qWord s q 0) 63 1 1)) q
  | 1 => setBar s (at_ + 8) (takeFields (qWord s q 1) v [(48, 16), (0, 32)])
  | 2 => setBar s (at_ + 0x10) v
  | _ => s
/-- R363. -/
def execQueueRegistrationWrite (queue word : Nat) (value : BitVec 64) (s : State) : Host.Outcome State Fault Refusal :=
  .next (onBar s (Config.oQueueReg queue) fun s => if queue < 64 && word < 4 then writeQueue s queue word value else s)

/-! ## Token buckets (R428) -/

/-- R428. The bucket's filling is timing (R380). DESIGN CHOICE: log entry 80. -/
def writeBucket (s : State) (d : Nat) (v : Dword) : State :=
  setPbar s d Config.oTbCtl (setField (setField (takeFields 0 v [(63, 1)]) 32 21 (clampNat 64 (2 ^ 20) (field v 32 21)))
    0 11 (min 1024 (field v 0 11)))
/-- R428. -/
def execTokenBucketWrite (part : Nat) (value : BitVec 64) (s : State) : Host.Outcome State Fault Refusal :=
  .next (onBar s (Config.oPart part) fun s => if part < 4 then writeBucket s part value else s)

/-! ## What waits for the state -/

def tableEvent (s : State) : Option Instr :=
  match (List.range 64).find? (clearDue s) with
  | some e => some (.contextClearComplete e)
  | none => ((List.range 16).find? (disableDue s)).map Instr.formatRangeDisableDone

end Sys2Proof.Machine
end

