-- ==== Sys2Proof/Machine/Cancel.lean ====
section
/-! DEFINITION. What the host asks of a partition's launches and teams: cancels (R23, R382, R428), the debugger (R416), dump
requests and cleared fields (R408, R412), and partition resets (R112, R436, R437). -/

namespace Sys2Proof.Machine

/-! ## Ending the teams of a launch (R23, R382, R437) -/

/-- Teams that hold a place halt; SAVED and PENDING ones are counted failed. -/
def endLaunchTeams (s : State) (li cause : Nat) : State :=
  let mine := (List.range s.teams.length).filter fun i => (getTeam s i).launch == li
  let s := mine.foldl (fun s i => if (getTeam s i).holds then failTeam s i cause 0 0 0 0 else s) s
  let s := mine.foldl (fun s i => if (getTeam s i).life == .saved then endTeam s i true else s) s
  let l := s.launches.getD li Launch.empty
  let n := l.desc.teams - l.nextTeam + l.again.length
  countTeams (modLaunch s li fun l => { l with nextTeam := l.desc.teams, again := [] }) li n true

/-- All teams of a launch have ended. -/
def launchOver (s : State) (li : Nat) : Bool :=
  let l := s.launches.getD li Launch.empty
  l.desc.teams ≤ l.done + l.failed
/-- R382: a launch is cancelled. -/
def cancelOne (s : State) (li : Nat) : State :=
  if launchOver s li then s else endLaunchTeams (modLaunch s li fun l => { l with status := .cancelled }) li cCancelled
/-- The launch that a context and a number name, among those admitted. -/
def findLaunch (s : State) (ctx num : Nat) : Option Nat :=
  (List.range s.launches.length).find? fun i =>
    let l := s.launches.getD i Launch.empty
    l.ctx == ctx && l.num == num
/-- The launches of running traversals. -/
def nodeLaunches (s : State) (vs : List Nat) : List Nat :=
  (List.range s.launches.length).filter fun i =>
    (match (s.launches.getD i Launch.empty).traversal with
     | some v => vs.contains v
     | none => false) && !launchOver s i
/-- R382: traversals are cancelled: no successor is admitted, and each counts as failed. DEDUCED: log entry 82. -/
def cancelTraversals (s : State) (vs : List Nat) : State × List Nat :=
  let ls := nodeLaunches s vs
  let s := vs.foldl (fun s v => endTraversal s v true) s
  (ls.foldl cancelOne s, ls)
/-- The running traversals that `p` names. -/
def runningTraversals (s : State) (p : Traversal → Bool) : List Nat :=
  (List.range s.traversals.length).filter fun v => (getTraversal s v).running && p (getTraversal s v)

/-! ## The cancel registers (R428) -/

def cancelCtl (s : State) (d : Nat) : Dword := pbar s d Config.oCancelCtl
def cancelCtx (s : State) (d : Nat) : Nat := field (cancelCtl s d) 48 16
def cancelItem (s : State) (d : Nat) : Nat := (pbar s d Config.oCancelArg).toNat
def cancelBusy (s : State) (d : Nat) : Bool := field (cancelCtl s d) 1 1 == 1
/-- RESULT and BUSY. DEDUCED: log entry 82. -/
def setCancel (s : State) (d result : Nat) (busy : Bool) : State :=
  setPbar s d Config.oCancelCtl (setField (setField (cancelCtl s d) 2 3 result) 1 1 (boolBit busy))
/-- The context is valid in the partition. -/
def cancelCtxOk (s : State) (d : Nat) : Bool :=
  (ctxEntry s (cancelCtx s d)).isSome && ctxPart s (cancelCtx s d) == d

/-- R428: a cancel that is not refused runs until the launches it ends are over. -/
def beginCancel (s : State) (d : Nat) (x : State × List Nat) : State :=
  if cancelBusy s d then s else setCancel { x.1 with cancels := x.1.cancels ++ [⟨d, x.2⟩] } d 0 true

/-- R382, R428: kind 1. -/
def cancelLaunch (s : State) (d : Nat) : State :=
  let ctx := cancelCtx s d
  let num := cancelItem s d
  if cancelBusy s d then s
  else if !cancelCtxOk s d then setCancel s d 2 false
  else if mapGet 0 s.nextLaunch ctx ≤ num then setCancel s d 1 false
  else match findLaunch s ctx num with
    | none => setCancel s d 4 false
    | some li =>
      if (s.launches.getD li Launch.empty).status != .active then setCancel s d 4 false
      else beginCancel s d (cancelOne s li, [li])
/-- R382, R428. -/
def execCancelLaunch (part : Nat) (s : State) : Host.Outcome State Fault Refusal :=
  .next (onBar s (Config.oPart part) fun s => if part < 4 then cancelLaunch s part else s)

/-- R382, R428: kind 2. -/
def cancelGraph (s : State) (d : Nat) : State :=
  let ctx := cancelCtx s d
  if cancelBusy s d then s
  else if !cancelCtxOk s d then setCancel s d 2 false
  else match (List.range s.traversals.length).find? fun v =>
      let t := getTraversal s v
      t.part == d && t.ctx == ctx && t.nums.contains (cancelItem s d) with
    | none => setCancel s d 1 false
    | some v =>
      if !(getTraversal s v).running then setCancel s d 4 false else beginCancel s d (cancelTraversals s [v])
/-- R382, R428. -/
def execCancelGraph (part : Nat) (s : State) : Host.Outcome State Fault Refusal :=
  .next (onBar s (Config.oPart part) fun s => if part < 4 then cancelGraph s part else s)

/-- A phase entry is disabled. -/
def stopPhase (s : State) (d n : Nat) : State :=
  setPbar s d (Config.oPhase n + 0x10) (setField (phaseWord s d n 2) 63 1 0)
/-- R382, R428: kind 3. -/
def cancelPhase (s : State) (d : Nat) : State :=
  let n := cancelItem s d % 64
  let vs := runningTraversals s fun t => t.part == d && t.phase == n
  if cancelBusy s d then s
  else if !cancelCtxOk s d then setCancel s d 2 false
  else if field (phaseWord s d n 2) 16 16 != cancelCtx s d then setCancel s d 1 false
  else if !phaseOn s d n && vs.isEmpty then setCancel s d 4 false
  else beginCancel s d (cancelTraversals (stopPhase s d n) vs)
/-- R382, R428. -/
def execCancelPhase (part : Nat) (s : State) : Host.Outcome State Fault Refusal :=
  .next (onBar s (Config.oPart part) fun s => if part < 4 then cancelPhase s part else s)

/-- R382, R428: kind 4. -/
def cancelJob (s : State) (d : Nat) : State :=
  let ctx := cancelCtx s d
  if cancelBusy s d then s
  else if !cancelCtxOk s d then setCancel s d 2 false
  else
    let s1 := ((List.range 64).filter fun q => qCtx s q == ctx).foldl unregister s
    let s1 := ((List.range 64).filter fun n => field (phaseWord s d n 2) 16 16 == ctx && phaseOn s d n).foldl
      (fun s n => stopPhase s d n) s1
    let (s1, a) := cancelTraversals s1 (runningTraversals s fun t => t.part == d && t.ctx == ctx)
    let b := (List.range s1.launches.length).filter fun i =>
      (s1.launches.getD i Launch.empty).ctx == ctx && !launchOver s1 i
    beginCancel s d (b.foldl cancelOne s1, a ++ b)
/-- R382, R428. -/
def execCancelJob (part : Nat) (s : State) : Host.Outcome State Fault Refusal :=
  .next (onBar s (Config.oPart part) fun s => if part < 4 then cancelJob s part else s)

/-- Every launch of a partition's cancel is over. -/
def cancelDue (s : State) (d : Nat) : Bool :=
  (s.cancels.any (·.part == d)) && s.cancels.all fun c => c.part != d || c.launches.all (launchOver s)
/-- R428. -/
def execCancelDone (part : Nat) (s : State) : Host.Outcome State Fault Refusal :=
  .next (if cancelDue s part then setCancel { s with cancels := s.cancels.filter (·.part != part) } part 0 false else s)

/-- R428: a write of CANCEL_CTL. -/
def writeCancelCtl (s : State) (d : Nat) (v : Dword) : State :=
  let kind := if 5 ≤ field v 8 3 then 0 else field v 8 3
  let s := setPbar s d Config.oCancelCtl (setField (setField (cancelCtl s d) 48 16 (field v 48 16)) 8 3 kind)
  if field v 0 1 = 0 || cancelBusy s d then s else
  match kind with
  | 0 => setCancel s d 3 false
  | 1 => cancelLaunch s d
  | 2 => cancelGraph s d
  | 3 => cancelPhase s d
  | _ => cancelJob s d

/-! ## The debugger (R416) -/

/-- The team that DBG_CTL and DBG_TGT name, RESIDENT. -/
def debugTeam (s : State) (d : Nat) : Option Nat :=
  namedTeam s d (field (pbar s d Config.oDbgCtl) 48 16) (field (pbar s d Config.oDbgTgt) 32 32) (field (pbar s d Config.oDbgTgt) 8 24)
/-- The team and its partner. -/
def withPartner (s : State) (tid : Nat) (f : Team → Team) : State :=
  let t := getTeam s tid
  match t.partner with
  | none => modTeam s tid f
  | some p => modTeam (modTeam s tid f) p f
/-- STATUS.STEP of every thread. -/
def setStep (b : Bool) (tc : TeamCore) : TeamCore :=
  { tc with groups := tc.groups.map fun g => { g with threads := g.threads.map fun th => { th with stepArmed := b } } }

/-- R416: HALT. -/
def dbgHalt (s : State) (d : Nat) : State :=
  match debugTeam s d with
  | none => s
  | some tid => if (getTeam s tid).stopped then s else debugStop s tid 0 0 0 0
/-- R416: RESUME. DEDUCED: log entry 83. -/
def dbgResume (s : State) (d : Nat) : State :=
  match debugTeam s d with
  | none => s
  | some tid =>
    if (getTeam s tid).stopped then
      withPartner s tid fun t => { t with stopped := false, stepping := none, body := setStep false t.body }
    else s
/-- R416: RESUME with STEP: each group that has not retired issues one word. DEDUCED: log entry 83. -/
def dbgStep (s : State) (d : Nat) : State :=
  match debugTeam s d with
  | none => s
  | some tid =>
    if (getTeam s tid).stopped then
      withPartner s tid fun t =>
        { t with stopped := false, body := setStep true t.body
                 stepping := some ((List.range t.body.groups.length).filter fun g => !(t.body.group g).retired) }
    else s
/-- R416. -/
def execDbgHalt (part : Nat) (s : State) : Host.Outcome State Fault Refusal :=
  .next (onBar s (Config.oPart part) fun s => dbgHalt s part)
/-- R416. -/
def execDbgResume (part : Nat) (s : State) : Host.Outcome State Fault Refusal :=
  .next (onBar s (Config.oPart part) fun s => dbgResume s part)
/-- R416. -/
def execDbgStep (part : Nat) (s : State) : Host.Outcome State Fault Refusal :=
  .next (onBar s (Config.oPart part) fun s => dbgStep s part)
/-- R416: a write of DBG_CTL. -/
def writeDbgCtl (s : State) (d : Nat) (v : Dword) : State :=
  let s := setPbar s d Config.oDbgCtl (takeFields 0 v [(48, 16)])
  let s := if field v 0 1 = 1 then dbgHalt s d else s
  if field v 1 1 = 0 then s else if field v 2 1 = 1 then dbgStep s d else dbgResume s d

/-- A group has issued its word, or cannot issue one: it waits, has exited, or has retired. DEDUCED: log entry 83. -/
def stepTaken (s : State) (tid g : Nat) : Bool :=
  (match (getTeam s tid).stepping with
   | some l => !l.contains g
   | none => true) ||
  blocked s tid g none || (getGroup s tid g).retired || ((getCore s tid).active g none).isNone
def stepOver (s : State) (tid : Nat) : Bool :=
  let t := getTeam s tid
  t.stepping.isSome && t.halt.isNone && !s.runs.any (·.team == tid) &&
  (List.range t.body.groups.length).all (stepTaken s tid)
/-- R416: every group of the stepped team, and of its partner, has taken its step. -/
def singleStepDue (s : State) (tid : Nat) : Bool :=
  match (getTeam s tid).side with
  | .single => stepOver s tid
  | .lead p => stepOver s tid && stepOver s p
  | .trail _ => false
/-- R416. -/
def execSingleStepStop (team : Nat) (s : State) : Host.Outcome State Fault Refusal :=
  .next (if singleStepDue s team then debugStop s team cSingleStep 0 0 0 else s)

/-! ## Dump requests and fields that a read clears (R408, R412) -/

/-- R412: REQ. -/
def askDump (s : State) (d : Nat) : State :=
  let ctx := field (pbar s d Config.oDumpCtl) 48 16
  let tgt := pbar s d Config.oDumpTgt
  if dumpBusy s d then { s with dumpWaits := s.dumpWaits ++ [(d, ctx, field tgt 32 32, field tgt 8 24)] }
  else requestDump s d ctx (field tgt 32 32) (field tgt 8 24)
/-- R412. -/
def execDumpRequest (part : Nat) (s : State) : Host.Outcome State Fault Refusal :=
  .next (onBar s (Config.oPart part) fun s => if part < 4 then askDump s part else s)
/-- R412: a write of DUMP_CTL. -/
def writeDumpCtl (s : State) (d : Nat) (v : Dword) : State :=
  let s := setPbar s d Config.oDumpCtl (takeFields (pbar s d Config.oDumpCtl) v [(48, 16), (0, 1)])
  if field v 1 1 = 1 then askDump s d else s
/-- R412: NOTEAM, at a read of the half that holds it (R425). -/
def execDumpCtlRead (part : Nat) (s : State) : Host.Outcome State Fault Refusal :=
  .next (onBar s (Config.oPart part) fun s =>
    if part < 4 then setPbar s part Config.oDumpCtl (setField (pbar s part Config.oDumpCtl) 3 1 0) else s)
/-- R408: LOST, at a read of the half that holds it (R425). -/
def execFrLostRead (part : Nat) (s : State) : Host.Outcome State Fault Refusal :=
  .next (onBar s (Config.oPart part) fun s => if part < 4 then setPbar s part Config.oFrLost 0 else s)

/-! ## Partition resets (R112, R436, R437) -/

/-- The launches of a partition with teams that have not ended. -/
def partLaunches (s : State) (d : Nat) : List Nat :=
  (List.range s.launches.length).filter fun i =>
    ctxPart s (s.launches.getD i Launch.empty).ctx == d && !launchOver s i
/-- Queues whose context belongs to a partition. -/
def partQueues (s : State) (d : Nat) : List Nat :=
  (List.range 64).filter fun q => (qValid s q || (findWatch s q).isSome) && ctxPart s (qCtx s q) == d

/-- R436, R437, steps 1 and 2. DEDUCED: log entry 85. -/
def beginReset (s : State) (d : Nat) : State :=
  if !partitioned s || s.resets.any (·.part == d) || 4 ≤ d then s else
  let s := { setBar s Config.oPartCtl (setField (bar s Config.oPartCtl) (8 + d) 1 1) with resets := s.resets ++ [⟨d⟩] }
  let s := (partQueues s d).foldl stopWatch s
  let s := (runningTraversals s fun t => t.part == d).foldl (fun s v => endTraversal s v true) s
  let s := (partLaunches s d).foldl (fun s li => endLaunchTeams s li cPartReset) s
  let s := ((List.range 8).filter fun p => pairPart s p == d).foldl (fun s p => setMode (modPair s p fun _ => {}) p .independent) s
  { s with dumpWaits := s.dumpWaits.filter (·.1 != d) }
/-- R437. -/
def execPartitionReset (part : Nat) (s : State) : Host.Outcome State Fault Refusal :=
  .next (onBar s Config.oPartCtl fun s => beginReset s part)

/-- R437: the teams of the partition have ended. -/
def resetDue (s : State) (d : Nat) : Bool :=
  s.resets.any (·.part == d) && !s.teams.any (fun t => t.part == d && t.holds) && !s.dumps.any (·.part == d)

/-- Offsets of a partition block that a reset returns to their reset values (R437, step 5). DEDUCED: log entry 85. -/
def resetOffset (o : Nat) : Bool :=
  (0x40 ≤ o && o < 0x100) || (0x2000 ≤ o && o < 0x2800) || (0x10000 ≤ o && o < 0x30000)

/-- R437, steps 3 and 4: what the partition has in flight, in its TLBs, caches and service groups is dropped; dirty
aperture lines are re-split (R112). Its port B writes are past the station and performed. DEDUCED: log entry 85. -/
def dropPartition (s : State) (d : Nat) : State :=
  let own := fun (core : Nat) => core / 16 == d
  let ours := fun (l : AperLine) => match aperRange s l.line with
    | some r => ownerPart s (r.mantAddr l.line) == some d
    | none => true
  let s := (s.aper.filter fun l => ours l && l.dirty).foldl resplit s
  let keep := fun (tid : Nat) => s.teams.length ≤ tid || (getTeam s tid).part != d
  let ofPart := fun (x : WinAccess) => match findOp s x.op with
    | some o => !keep o.team
    | none => false
  let gone := s.window.filter fun x => ofPart x && x.who.isSome
  let s := performWindow s ofPart
  { s with
    window := s.window.filter fun x => !gone.contains x
    aper := s.aper.filter fun l => !ours l
    dcache := s.dcache.filter fun x => !own x.core
    icache := s.icache.filter fun x => !own x.1
    l2 := s.l2.filter fun x => x.part != d
    shares := s.shares.filter fun x => !own x.core
    tlb := s.tlb.filter fun x => !own x.1
    ctlb := s.ctlb.filter fun x => x.1 / 4 != d
    walks := s.walks.filter (·.part != d)
    outcomes := s.outcomes.filter fun o => !own o.to_.core
    merge := s.merge.filter fun x => ownerPart s x.2 != some d
    ops := s.ops.filter fun o => keep o.team
    svc := s.svc.filter fun q => q.ops.isEmpty || s.ops.any fun o => q.ops.contains o.id && keep o.team }

/-- R437, step 5. DEDUCED: log entry 85. -/
def resetTables (s : State) (d : Nat) : State :=
  let qs := partQueues s d
  let es := (List.range 64).filter fun e => field (bar s (Config.oContext e)) 16 2 == d
  let base := Config.oPart d
  let gone := fun (o : Nat) =>
    (base ≤ o && o < base + 0x400000 && resetOffset (o - base)) ||
    qs.any (fun q => Config.oQueueReg q ≤ o && o < Config.oQueueReg q + 0x20) ||
    es.any fun e => o == Config.oContext e || o == Config.oContext e + 8
  let s := { s with
    bar := s.bar.filter fun x => !gone x.1
    watches := s.watches.filter fun w => !qs.contains w.q
    ctxWrites := s.ctxWrites.filter fun x => !es.contains x.1
    prefetched := s.prefetched.filter (·.1 != d) }
  setPbar (setPbar s d Config.oFrCtl 12) d Config.oTrCtl 0x10000000000C#64
/-- R437. -/
def execPartitionResetDone (part : Nat) (s : State) : Host.Outcome State Fault Refusal :=
  .next (if !resetDue s part then s else
    let s := resetTables (dropPartition s part) part
    { setBar s Config.oPartCtl (setField (bar s Config.oPartCtl) (8 + part) 1 0) with
      resets := s.resets.filter (·.part != part) })

/-- R436: MODE. -/
def writePartMode (s : State) (mode : Bool) : State :=
  if (List.range 64).any fun e => (bar s (Config.oContext e)).msb then s
  else setBar s Config.oPartCtl (setField (bar s Config.oPartCtl) 63 1 (boolBit mode))
/-- R436. -/
def execPartModeWrite (mode : Bool) (s : State) : Host.Outcome State Fault Refusal :=
  .next (onBar s Config.oPartCtl fun s => writePartMode s mode)
/-- R436: a write of PART_CTL. -/
def writePartCtl (s : State) (v : Dword) : State :=
  ((List.range 4).filter fun d => field v d 1 == 1).foldl beginReset (writePartMode s v.msb)

/-! ## What waits for the state -/

/-- DEDUCED: log entry 82. -/
def requestEvent (s : State) : Option Instr :=
  match (List.range 4).findSome? fun d =>
      if cancelDue s d then some (Instr.cancelDone d)
      else if resetDue s d then some (.partitionResetDone d)
      else if s.dumps.any (fun j => j.part == d && j.writing) then some (.dumpComplete d) else none with
  | some e => some e
  | none => ((List.range s.teams.length).find? (singleStepDue s)).map Instr.singleStepStop

end Sys2Proof.Machine
end

