-- ==== Sys2Proof/Machine/Outside.lean ====
section
/-! DEFINITION. What other agents do to memory: host, controller and peer accesses (R104, R115, R145, R152, R410, R424,
R438), host snoops (R113), memory errors and the patrol scrubber (R121, R123, R124, R201, R384), page migration (R122) and
the port B link (R430, R431). -/

namespace Sys2Proof.Machine

/-! ## Host, controller and peer accesses -/

/-- R145: a service group gives up the lines that another agent's access reaches. -/
def takeMerge (s : State) (pa n : Nat) : State :=
  let ls := linesOf pa n
  { s with merge := s.merge.filter fun x => !ls.contains x.2 }
/-- R104: an outside read leaves private copies Shared. -/
def demoteLines (s : State) (pa n : Nat) : State :=
  let ls := linesOf pa n
  { s with dcache := s.dcache.map fun x => if ls.contains x.line then { x with st := .shared } else x }
/-- R410: a host write to the save area of a team spoils it. DESIGN CHOICE: log entry 10. -/
def spoilAreas (s : State) (pa n : Nat) : State :=
  { s with teams := s.teams.map fun t =>
      match t.area with
      | some a => if (t.life == .saved || t.life == .stopping) && rangesMeet (pa, n) a then { t with areaSpoiled := true } else t
      | none => t }

/-- An access of another agent, performed at the home (R424, R438). An atomic on a poisoned sector writes nothing
(R124). -/
def outsideAccess (s : State) : ExtAccess → State
  | .read pa n => (homeRead (demoteLines (takeMerge s pa n) pa n) pa n none).1
  | .write pa bs => spoilAreas (homeWrite (takeMerge s pa bs.length) pa bs none none) pa bs.length
  | .atomic aop pa v =>
    let n := aopBytes aop
    let (s, bs, p) := homeRead (takeMerge s pa n) pa n none
    if p.isSome then s
    else spoilAreas (homeWrite s pa (natBytes n (atomicNew aop false (BitVec.ofNat 64 (bytesNat bs)) v).toNat) none none) pa n

def accPa : ExtAccess → Nat
  | .read pa _ | .write pa _ | .atomic _ pa _ => pa
def accSize : ExtAccess → Nat
  | .read _ n => n
  | .write _ bs => bs.length
  | .atomic aop _ _ => aopBytes aop
/-- R433: ports A and B have trained, and offer more than CXL.io. -/
def portsUp (s : State) : Bool := stage s == 0x05 || stage s == 0x80
/-- An access that lies in memory that `ok` lets its agent reach (R424, R438), past a port that is up. DEDUCED: log entry 74. -/
def reachable (s : State) (a : ExtAccess) (ok : Target → Bool) : Bool :=
  ok (targetOf s (accPa a)) && targetOf s (accPa a) == targetOf s (accPa a + accSize a - 1) &&
  (targetOf s (accPa a) != .device || portsUp s)

/-- R122: an access of another agent to a page that a migration blocks is queued. -/
def orQueued (s : State) (acc : ExtAccess) : State :=
  if pageMoving s (accPa acc) then { s with queued := s.queued ++ [acc] } else outsideAccess s acc
/-- R424: the host reaches device memory and its own, and the safety controller the port B window (R152).
DEDUCED: log entry 74. -/
def execHostAccess (acc : ExtAccess) (s : State) : Host.Outcome State Fault Refusal :=
  .next (if reachable s acc (fun t => t == .device || t == .host || t == .portB) then orQueued s acc else s)
/-- R438: a peer reaches device memory. DEDUCED: log entry 74. -/
def execPeerAccess (acc : ExtAccess) (s : State) : Host.Outcome State Fault Refusal :=
  .next (if reachable s acc (· == .device) then orQueued s acc else s)

/-- R113, R115, R164: a host snoop of a host-memory line: copies are written back, and stay Shared under a read. -/
def execHostSnoop (pa : Nat) (write : Bool) (s : State) : Host.Outcome State Fault Refusal :=
  .next (
    if targetOf s pa != .host || !portsUp s then s else
    let s := snoopStash s pa none
    if write then dropCopies s (pa / 128 * 128) 128 none else demoteLines s pa 1)

/-! ## Memory errors (R121, R123, R201, R384) -/

/-- R201: an error counter counts, and its structure's life-histogram bin (R204). -/
def countError (s : State) (kind at_ : Nat) (corrected : Bool) : State :=
  let off := Config.oErrors + at_ + (if corrected then 0 else 8)
  countHist (setBar s off (BitVec.ofNat 64 (min ((bar s off).toNat + 1) 0xFFFFFFFF))) (histError kind corrected)

/-- R123: what an event does to its structure, and how it counts: poisoned sectors, a line that is fetched again.
DEDUCED: log entries 86, 98. -/
def strike (s : State) (w : ErrWhere) (correctable : Bool) : State :=
  match w with
  | .dram pa _ =>
    let s := countError s 0 (0x10 * (pa / 256 % 24)) correctable
    if correctable then s else poisonBytes s [pa / 64 * 64, pa / 64 * 64 + 32]
  | .l2 pa _ =>
    let s := countError s 1 (0x400 + 0x10 * homeSlice pa) correctable
    if correctable then s else poisonBytes s [pa]
  | .dcache core pa _ =>
    let at_ := 0x800 + 0x10 * core
    let dirty := s.dcache.any fun x => x.core == core && x.line == pa / 128 * 128 && x.st == .ownedDirty
    if correctable then countError s 2 at_ true
    else if dirty then poisonBytes (countError s 2 at_ false) [pa]
    else { countError s 2 at_ true with
      dcache := s.dcache.filter fun x => !(x.core == core && x.line == pa / 128 * 128) }
  | .icache core _ => countError s 3 (0xC00 + 0x10 * core) true
  | .scratch core team off =>
    let s := countError s 4 (0x1000 + 0x10 * core) correctable
    match team with
    | some tid =>
      if correctable then s
      else modCore s tid fun tc => { tc with scratchPoison := setAdd tc.scratchPoison (off / 32) }
    | none => s
  | .obuf core _ => countError s 5 (0x1400 + 0x10 * core) true
  | .nreg core sub _ => countError s 6 (0x2000 + 0x10 * (8 * core + sub)) correctable

/-- The team that an event is attributed to (R384). -/
def errTeam : ErrWhere → Option Nat
  | .dram _ t | .l2 _ t | .dcache _ _ t | .icache _ t | .scratch _ t _ | .obuf _ t | .nreg _ _ t => t
def errAddr : ErrWhere → Nat
  | .dram pa _ | .l2 pa _ | .dcache _ pa _ => pa
  | _ => 0
/-- DEDUCED: log entry 86. -/
def errNreg : ErrWhere → Bool
  | .nreg _ _ _ => true
  | _ => false

/-- R394: the group that the record of an attributed event names: of register storage the lowest on the sub-core, elsewhere 0, with
THREAD 0. DESIGN CHOICE: log entry 120. -/
def errGroup (s : State) (tid : Nat) : ErrWhere → Nat
  | .nreg _ sub _ =>
    let gs := (getCore s tid).groups
    ((List.range gs.length).find? fun g => ((getCore s tid).group g).sub == sub).getD 0
  | _ => 0
/-- R384, R393, R399: how an attributed event is answered at the team's integrity level. -/
def answerError (s : State) (tid : Nat) (w : ErrWhere) : State :=
  let m : Mismatch := { team := tid, grp := errGroup s tid w, thread := 0, kind := 5, addr := BitVec.ofNat 64 (errAddr w) }
  match teamIl s tid with
  | 0 => s
  | 1 => failTeam s tid cGuarded 0 0 0 0
  | 2 => il2Mismatch s (leadOf s tid) m
  | _ => pairMismatch s (pairOf (getTeam s tid).core) m

/-- R415: an uncorrectable error in the registers of a halted team is a nested fault of the dump that is taken of it, or is being
written. -/
def strikeDump (s : State) (tid : Nat) : State :=
  let t := getTeam s tid
  let s' := modTeam s tid fun t => { t with halt := t.halt.map fun h => { h with struck := h.struck ++ [s.cycle.toNat] } }
  match (getTeam s' tid).halt with
  | some h => if s.dumps.any (fun j => j.team == tid && j.writing) then writeDump s' t.part tid h else s'
  | none => s
/-- R123, R384. DEDUCED: log entry 86. -/
def memoryError (s : State) (w : ErrWhere) (correctable : Bool) : State :=
  let s := strike s w correctable
  match errTeam w with
  | none => s
  | some tid =>
    let t := getTeam s tid
    let live := (t.life == .resident || t.life == .stopping) && (match t.halt with
      | some h => h.resumable
      | none => true)
    let s := if !live then s
      else if errNreg w && !correctable && teamIl s tid < 2 then failTeam s tid cRegStorage 0 0 0 0
      else answerError s tid w
    if errNreg w && !correctable then strikeDump s tid else s
/-- R123. -/
def execMemoryError (at_ : ErrWhere) (correctable : Bool) (s : State) : Host.Outcome State Fault Refusal :=
  .next (memoryError s at_ correctable)

/-- R121: the scrubber reads a block: nothing found, an error that it corrects, or one over which it writes poison. -/
def execPatrolScrub (pa : Nat) (found : Option Bool) (s : State) : Host.Outcome State Fault Refusal :=
  .next (match found with
    | none => s
    | some correctable => if targetOf s pa == .device then strike s (.dram pa none) correctable else s)

/-! ## Page migration (R122) -/

/-- The page sizes of R170, and their alignment. -/
def pageOk (a size : Nat) : Bool := [0x1000, 0x10000, 0x200000, 0x40000000].contains size && a % size == 0
def Migration.inside (m : Migration) (pa : Nat) : Bool := m.src ≤ pa && pa < m.src + m.size
/-- R122: a command for device pages; one that names other memory completes with a refused status. DEDUCED: log entry 75. -/
def execPageMigration (src dst size pte : Nat) (s : State) : Host.Outcome State Fault Refusal :=
  .next (
    if pageOk src size && pageOk dst size && targetOf s src == .device && targetOf s dst == .device && src != dst then
      { s with migrations := s.migrations ++ [⟨src, dst, size, pte⟩] }
    else { s with migRefused := true })

/-- R122, step 2: no line of the page is pinned, and none is provisional. -/
def migrationDue (s : State) (m : Migration) : Bool :=
  !(s.shares.any fun x => m.inside x.line && !x.pins.isEmpty) &&
  !(s.pairs.any fun p => p.prov.any fun x => m.inside x.2.1)

/-- The address of an access that the migration holds, at the destination (R122, step 5). -/
def Migration.move (m : Migration) (pa : Nat) : Nat := if m.inside pa then m.dst + (pa - m.src) else pa
def Migration.moveReq (m : Migration) (q : AtomReq) : AtomReq := { q with pa := m.move q.pa }
def Migration.moveItem (m : Migration) (i : Item) : Item :=
  { i with
    bad := i.bad.map fun x => m.move (32 * x) / 32
    act := match i.act with
      | .write cs => .write (cs.map fun c => (m.move c.1, c.2))
      | .once cs => .once (cs.map fun c => (m.move c.1, c.2))
      | .atomic q => .atomic (m.moveReq q)
      | a => a }
def Migration.moveOp (m : Migration) (o : Op) : Op :=
  match o.kind with
  | .mma c =>
    if c.stage == .queued then
      { o with kind := .mma { c with
          xlat := c.xlat.map (fun p => (p.1, m.move (p.2 * 4096) / 4096)), lines := c.lines.map m.move } }
    else o
  | .accst rows slot =>
    { o with kind := .accst (rows.map fun r => { r with pa := m.move r.pa, expPa := r.expPa.map m.move }) slot }
  | _ => o
/-- The accesses that are held: waiting items, atomics and matrix operations. -/
def moveHeld (s : State) (m : Migration) : State :=
  { s with
    ops := s.ops.map m.moveOp
    pairs := s.pairs.map fun p => { p with items := p.items.map m.moveItem }
    svc := s.svc.map fun q => { q with pa := m.move q.pa }
    teams := s.teams.map fun t => { t with
      entries := t.entries.map m.moveItem
      det := t.det.map fun e => { e with req := m.moveReq e.req }
      detOut := t.detOut.map fun e => { e with req := m.moveReq e.req }
      resv := t.resv.map fun x => { x with pa := m.move x.pa } } }

/-- R122, steps 2 to 4: copies leave every cache and stash, the page's bytes and poison are at the destination, and the
page-table entry, or the 16 entries of a 64 KiB page, name it. DEDUCED: log entry 75. -/
def copyPage (s : State) (m : Migration) : State :=
  let lines := (s.teams.flatMap fun t => t.body.stashLines.map (·.pa)).filter m.inside
  let s := lines.foldl (fun s l => snoopStash s l none) s
  let s := reachBacking s m.src m.size false
  let s := reachBacking s m.dst m.size true
  let out := fun (pa : Nat) => m.inside pa || (m.dst ≤ pa && pa < m.dst + m.size)
  let atDst := fun (pa : Nat) => m.dst ≤ pa && pa < m.dst + m.size
  let bytes := s.mem.filter fun c => m.inside c.1
  let bad := s.poison.filter fun x => m.inside (32 * x)
  { s with
    mem := bytes.foldl (fun mem c => mapSet memDefault mem (m.move c.1) c.2) (s.mem.filter fun c => !atDst c.1)
    poison := bad.foldl (fun p x => setAdd p (m.move (32 * x) / 32)) (s.poison.filter fun x => !atDst (32 * x))
    merge := s.merge.filter fun x => !out x.2
    dcache := s.dcache.filter fun x => !out x.line
    icache := s.icache.filter fun x => !out x.2
    l2 := s.l2.filter fun x => !out x.line
    shares := s.shares.filter fun x => !(out x.line && x.pins.isEmpty) }
/-- R122, step 4. DEDUCED: log entry 75. -/
def rewriteEntry (s : State) (m : Migration) : State :=
  let one := fun (s : State) (at_ pa : Nat) =>
    let (s, e) := read8 s at_
    homeWrite s at_ (natDword (setField (BitVec.ofNat 64 e) 12 40 (pa / 4096)).toNat) none none
  if m.size = 0x10000 then
    (List.range 16).foldl (fun s i => one s (m.pte / 128 * 128 + 8 * i) (m.dst + 4096 * i)) s
  else one s m.pte m.dst
/-- R122, R176: no translation names the old page. -/
def forgetPage (s : State) (m : Migration) : State :=
  let names := fun (x : Nat × TlbEntry) => x.2.pa < m.src + m.size && m.src < x.2.pa + 2 ^ x.2.bits
  { s with
    tlb := s.tlb.filter fun x => !names x
    ctlb := s.ctlb.filter fun x => !names x
    outcomes := s.outcomes.filter fun o => match o.res with
      | .page e => !names (0, e)
      | _ => true
    walks := s.walks.map fun w => if w.started then { w with stale := true } else w }

/-- R122, step 5: the accesses of other agents that were queued at the page are performed at the destination. -/
def performQueued (s : State) (m : Migration) : State :=
  let moved := fun (a : ExtAccess) => match a with
    | .read pa n => ExtAccess.read (m.move pa) n
    | .write pa bs => .write (m.move pa) bs
    | .atomic aop pa v => .atomic aop (m.move pa) v
  let mine := fun (a : ExtAccess) => m.inside (accPa a)
  (s.queued.filter mine).foldl (fun s a => outsideAccess s (moved a)) { s with queued := s.queued.filter fun a => !mine a }

/-- R122: the oldest migration whose page is free of pins and provisional lines completes. DEDUCED: log entry 75. -/
def execMigrationDone (s : State) : Host.Outcome State Fault Refusal :=
  .next (match s.migrations.find? (migrationDue s) with
    | none => s
    | some m =>
      let s := { s with migrations := dropFirst (· == m) s.migrations, migRefused := false }
      performQueued (forgetPage (rewriteEntry (moveHeld (copyPage s m) m) m) m) m)

/-! ## Port B (R152, R430, R431) -/

def portB (s : State) : Dword := bar s Config.oPortbStatus
/-- R430, R433: the link comes up with a window of 1 to 4,096 pages. -/
def execPortbLinkUp (pages : Nat) (s : State) : Host.Outcome State Fault Refusal :=
  .next (if portsUp s && 1 ≤ pages && pages ≤ 4096 then
      setBar s Config.oPortbStatus (setField (setField (portB s) 63 1 1) 32 24 pages)
    else s)

/-- R431: a load past issue takes poison. -/
def poisonLoad (s : State) (x : WinAccess) : State :=
  { s with ops := s.ops.map fun o =>
      if o.id = x.op then
        match o.kind with
        | .load fs => { o with kind := .load (fs.map fun f =>
            if some f.who = x.who then { f with poison := some (f.addr &&& 0xFFFFFFFFFFFFFFE0#64) } else f) }
        | _ => o
      else o }
/-- R431: writes past issue are abandoned and counted, and the supervisor logs the loss, in a form that the manual does not
give: the model logs its moment. DESIGN CHOICE, DEDUCED: log entry 73. -/
def execPortbLinkLoss (s : State) : Host.Outcome State Fault Refusal :=
  .next (
    let lost := (s.window.filter (·.who.isNone)).length
    let s := (s.window.filter (·.who.isSome)).foldl poisonLoad s
    let v := setField (setField (portB s) 63 1 0) 0 32 (min (field (portB s) 0 32 + lost) 0xFFFFFFFF)
    setBar { s with window := [], lossLog := s.lossLog ++ [s.phcNs] } Config.oPortbStatus v)
/-- R431: LOST is cleared by a read of the half that holds it (R425). -/
def execPortbStatusRead (s : State) : Host.Outcome State Fault Refusal :=
  .next (onBar s Config.oPortbStatus fun s => setBar s Config.oPortbStatus (setField (portB s) 0 32 0))
/-- R430: the K7 answers the controller with its PTP hardware clock, which the answer leaves as it is.
DEDUCED: log entry 92. -/
def execPortbPtmRequest (s : State) : Host.Outcome State Fault Refusal := .next s

/-! ## What waits for the state -/

def migrationEvent (s : State) : Option Instr := if s.migrations.any (migrationDue s) then some .migrationDone else none

end Sys2Proof.Machine
end

