-- ==== Sys2Proof/Machine/Supervisor.lean ====
section
/-! DEFINITION. The safety supervisor and the clocks: time registers (R432), power and temperature (R15, R440), bring-up and
images (R433, R434), the mailbox (R429, R435), life histograms (R204) and the trace events of time (R417, R418). -/

namespace Sys2Proof.Machine

/-! ## Time (R199, R432) -/

def timeSrc (s : State) : Nat := field (bar s Config.oTimeCtl) 0 2
/-- R432. -/
def writeTimeCtl (s : State) (v : Dword) : State :=
  let old := bar s Config.oTimeCtl
  let src := if old.msb then field old 0 2 else if field v 0 2 = 3 then 0 else field v 0 2
  setBar s Config.oTimeCtl (setField (setField 0 63 1 (boolBit (old.msb || v.msb))) 0 2 src)
/-- R432. -/
def execTimeCtlWrite (value : BitVec 64) (s : State) : Host.Outcome State Fault Refusal :=
  .next (onBar s Config.oTimeCtl fun s => writeTimeCtl s value)

/-- R432: ADJ, within 500 ppm. -/
def writePhcAdj (s : State) (v : Word) : State :=
  setBar s Config.oPhcAdj ((BitVec.ofInt 32 (max (-2147484) (min 2147484 v.toInt))).setWidth 64)
/-- R432. -/
def execPhcAdjWrite (value : BitVec 32) (s : State) : Host.Outcome State Fault Refusal :=
  .next (onBar s Config.oPhcAdj fun s => writePhcAdj s value)

/-- R199, R418, R432: a step of the PTP clock. -/
def stepPhc (s : State) (v : Dword) : State :=
  traceSyncAll { s with phcNs := s.phcNs + v, steps := s.steps + 1
                        teams := s.teams.map fun t => { t with started := t.started.map (· + v) } } 3
/-- R432. -/
def execPhcStep (value : BitVec 64) (s : State) : Host.Outcome State Fault Refusal :=
  .next (onBar s Config.oPhcStep fun s => stepPhc s value)

/-- R432: a PTM dialog begins, with T1. -/
def beginPtm (s : State) : State := { s with ptm := some (s.phcNs, s.steps) }
/-- R432. -/
def execPtmRequest (s : State) : Host.Outcome State Fault Refusal := .next (onBar s Config.oPtmCtl beginPtm)
/-- R432, R441: the response latches the dialog under SRC 1, unless the clock was stepped during it. -/
def execPtmResponse (t2 t3 : BitVec 64) (s : State) : Host.Outcome State Fault Refusal :=
  .next (match s.ptm with
    | none => s
    | some (t1, st) =>
      let s := { s with ptm := none }
      if timeSrc s != 1 || st != s.steps then s else
      let s := setBar (setBar s Config.oPtmT1 t1) (Config.oPtmT1 + 8) t2
      let s := setBar (setBar s (Config.oPtmT1 + 0x10) t3) (Config.oPtmT1 + 0x18) s.phcNs
      setBar s Config.oPtmCtl (setField (bar s Config.oPtmCtl) 1 1 1))
/-- R432: VALID and PPSNEW are cleared by a read of the half that holds them (R425). -/
def execPtmCtlRead (s : State) : Host.Outcome State Fault Refusal :=
  .next (onBar s Config.oPtmCtl fun s => setBar s Config.oPtmCtl (setField (bar s Config.oPtmCtl) 1 2 0))
/-- R432: a PPS edge under SRC 2. -/
def execPpsEdge (s : State) : Host.Outcome State Fault Refusal :=
  .next (
    if timeSrc s != 2 then s
    else setBar (setBar s Config.oPpsLatch s.phcNs) Config.oPtmCtl (setField (bar s Config.oPtmCtl) 2 1 1))

/-! ## Power and temperature (R15, R440) -/

/-- R440. -/
def writePowerLimit (s : State) (v : Dword) : State :=
  setBar s Config.oPowerLimit (BitVec.ofNat 64 (clampNat 150 480 (field v 0 9)))
/-- R440. -/
def execPowerLimitWrite (value : BitVec 64) (s : State) : Host.Outcome State Fault Refusal :=
  .next (onBar s Config.oPowerLimit fun s => writePowerLimit s value)

/-- R15, R418: the clock is lowered a step, shown at a bit of THERM_STATUS. DEDUCED: log entry 91. -/
def lowerClock (s : State) (khz : Word) (why : Nat) : State :=
  if khz = 0 ∨ s.khz.toNat ≤ khz.toNat then s else
  let s := setBar { s with khz := khz } Config.oThermStatus (setField (bar s Config.oThermStatus) why 1 1)
  traceSyncAll s 2
/-- R15. -/
def execClockStepDown (khz : BitVec 32) (s : State) : Host.Outcome State Fault Refusal := .next (lowerClock s khz 16)
/-- R426: the highest junction temperature. DEDUCED: log entry 91. -/
def showTemp (s : State) (temp : BitVec 16) : State :=
  setBar s Config.oThermStatus (setField (bar s Config.oThermStatus) 0 16 temp.toNat)
/-- R1: the upper end of the grade's junction range, in 1/16 °C. -/
def upperLimit : Int := 16 * (if Config.gradeX then 125 else 105)
/-- R440: from the upper limit minus 10 °C on, the clock is lowered a step. DEDUCED: log entry 91. -/
def execThermalThrottle (temp : BitVec 16) (khz : BitVec 32) (s : State) : Host.Outcome State Fault Refusal :=
  .next (
    let s := showTemp s temp
    if upperLimit - 160 ≤ temp.toInt then lowerClock s khz 17 else s)

/-- What lies outside the device outlives a reset of it: other agents' memory, and what they will do.
DESIGN CHOICE: log entry 6. DEDUCED: log entry 88. -/
def outsideOf (s : State) : State :=
  { State.reset with
    inputs := s.inputs, nextId := s.nextId, mem := s.mem.filter fun c => 0x3000000000 ≤ c.1
    poison := s.poison.filter fun x => 0x3000000000 ≤ 32 * x }
/-- R440, R204: every piece of device state other than the NOR is lost, and the clock stops. DEDUCED: log entry 88. -/
def powerOff (s : State) (nor : Nor) : State := { outsideOf s with dead := true, nor := nor, hist := nor.hist }
/-- R440: the event is that the junctions have reached the upper limit plus 5 °C. -/
def execThermtrip (recorded : Bool) (s : State) : Host.Outcome State Fault Refusal :=
  .next (powerOff s { s.nor with tripRecorded := s.nor.tripRecorded || recorded })
/-- R204. -/
def execPowerLoss (s : State) : Host.Outcome State Fault Refusal := .next (powerOff s s.nor)

/-! ## Life histograms (R204) -/

/-- The bin of a junction temperature in 1/16 °C: 18 bins of 10 °C from −40 °C. -/
def tempBin (t : BitVec 16) : Nat := clampNat 0 17 ((t.toInt + 640) / 160).toNat
/-- The bin of a package power: 16 bins of 32 W. -/
def powerBin (watts : Nat) : Nat := min 15 (watts / 32)
/-- R204: a second has passed. DEDUCED: log entry 89. -/
def sampleLife (s : State) (temp : BitVec 16) (watts : Nat) : State :=
  let s := countHist (countHist (showTemp s temp) (tempBin temp)) (32 + powerBin watts)
  if s.lifeSeconds + 1 < 3600 then { s with lifeSeconds := s.lifeSeconds + 1 }
  else countHist { s with lifeSeconds := 0 } 64
/-- R204. DEDUCED: log entry 89. -/
def execLifeHistogramSample (temp : BitVec 16) (watts : Nat) (s : State) : Host.Outcome State Fault Refusal :=
  .next (sampleLife s temp watts)
/-- R204: the histograms are written to the NOR. -/
def saveLife (s : State) : State := { s with nor := { s.nor with hist := s.hist } }
/-- R204. -/
def execLifeHistogramSave (s : State) : Host.Outcome State Fault Refusal := .next (saveLife s)
/-- R204. -/
def execOrderlyShutdown (s : State) : Host.Outcome State Fault Refusal := .next (saveLife s)

/-- R204, R429: the bins in the order of the table, each of 4 bytes: corrected before uncorrectable errors.
DEDUCED: log entry 90. -/
def lifeBytes (s : State) : List Byte :=
  let bins := fun (from_ n : Nat) => (List.range n).flatMap fun i => natWord (mapGet 0 s.hist (from_ + i))
  bins 0 18 ++ bins 32 16 ++ bins 64 3 ++ bins 128 24 ++ bins 256 32 ++ bins 320 7 ++ bins 328 7

/-! ## Bring-up (R433, R434) -/

/-- R434: an image is run. DEDUCED: log entry 87. -/
def imageRuns (fusedMin : Nat) : Option Image → Bool
  | none => false
  | some i => i.signatures && i.digest && i.keys && fusedMin ≤ i.version
/-- DEDUCED: log entry 87. -/
def refuseImage (s : State) : State := countHist s 66
def setStage (s : State) (code : Nat) : State := setBar s Config.oBootStatus (setField (bar s Config.oBootStatus) 0 8 code)
/-- BOOT_STATUS[8]: the slot from which the supervisor firmware runs. -/
def setSlot (s : State) (slot : Nat) : State := setBar s Config.oBootStatus (setField (bar s Config.oBootStatus) 8 1 slot)
/-- R433: a stage ends. DEDUCED: log entry 87. -/
def bootNext (s : State) : State :=
  match stage s with
  | 1 => setStage s 2
  | 2 =>
    if imageRuns s.nor.fusedMin s.nor.slot0 then setStage (setSlot s 0) 3
    else
      let s := refuseImage s
      if imageRuns s.nor.fusedMin s.nor.slot1 then setStage (setSlot s 1) 3 else setStage (refuseImage s) 0x0F
  | 3 =>
    let refused := [s.nor.cp, s.nor.svcGroup].filter fun i => !imageRuns s.nor.fusedMin i
    setStage (refused.foldl (fun s _ => refuseImage s) s) (if refused.isEmpty then 4 else 0x0F)
  | 4 =>
    setStage { s with mem := s.mem.filter (fun c => 0x3000000000 ≤ c.1)
                      poison := s.poison.filter fun x => 0x3000000000 ≤ 32 * x } 5
  | 5 => setStage s 0x80
  | _ => s
/-- R433. -/
def execBootStageComplete (s : State) : Host.Outcome State Fault Refusal := .next (bootNext s)

/-- R433, R204: the device starts again at stage 0x01; the NOR and the life histograms stay. DEDUCED: log entry 88. -/
def resetDevice (s : State) : State :=
  countHist { outsideOf s with nor := s.nor, hist := s.hist, lifeSeconds := s.lifeSeconds } 65
/-- R433. -/
def execDeviceReset (s : State) : Host.Outcome State Fault Refusal := .next (resetDevice s)

/-! ## The mailbox (R429) -/

def mbxLen (s : State) : Nat := field (bar s Config.oMbxCtl) 32 16
def mbxPage (s : State) : Nat := field (bar s Config.oMbxCtl) 16 16
def mbxCommand (s : State) : Nat := field (bar s Config.oMbxCtl) 0 16
def mbxBusy (s : State) : Bool := (bar s Config.oMbxStatus).msb
/-- The request's bytes in MBX_DATA. -/
def mbxRequest (s : State) : List Byte :=
  ((List.range 480).flatMap fun i => natDword (bar s (Config.oMbxData + 8 * i)).toNat).take (mbxLen s)

/-- R429: the supervisor takes a command, and will complete it with a result. -/
def mbxTake (s : State) (cmd result : Nat) : State :=
  let m := s.mbx
  let m := if m.kept = cmd then m else { m with kept := cmd, response := [] }
  { setBar s Config.oMbxStatus (setField (bar s Config.oMbxStatus) 63 1 1) with
    mbx := { m with command := cmd, page := mbxPage s, len := mbxLen s, result := result } }
/-- R429: a command with a response of `bytes`, whose request is `len` bytes on page 0; other pages are read back. -/
def mbxRespond (s : State) (cmd len : Nat) (bytes : List Byte) : State :=
  if mbxPage s = 0 then
    (if mbxLen s = len then let s := mbxTake s cmd 0; { s with mbx := { s.mbx with response := bytes } } else mbxTake s cmd 2)
  else
    let kept := if s.mbx.kept = cmd then s.mbx.response.length else 0
    mbxTake s cmd (if mbxLen s = 0 && 3840 * mbxPage s < kept then 0 else 2)
/-- A command submitted while another is in progress, or where BAR0 does not answer, does nothing (R429).
DEDUCED: log entry 90. -/
def mbxSubmit (s : State) (f : State → State) : State := if mbxBusy s then s else onBar s Config.oMbxCtl f

/-- R435: the images that run. -/
def runningImages (s : State) : List Image :=
  let slot := if field (bar s Config.oBootStatus) 8 1 = 1 then s.nor.slot1 else s.nor.slot0
  ([slot, s.nor.cp, s.nor.svcGroup].filter (imageRuns s.nor.fusedMin)).filterMap id
/-- R435: what an identity claim holds, in an order that the manual leaves open. DESIGN CHOICE: log entry 90. -/
def claimContent (s : State) (nonce : List Byte) : List Byte :=
  natDword Config.deviceId.toNat ++ natDword Config.serial.toNat ++ nonce ++
  (runningImages s).flatMap fun i => i.sha ++ natWord i.version
/-- R435: the claim and its certificates, for the nonce given. DEDUCED: log entry 90. -/
def identityClaim (s : State) : State :=
  let content := claimContent s (mbxRequest s)
  mbxRespond s 1 32 (content ++ (List.range Config.claimSize).map (Config.claimByte content))
/-- The lowest of versions, or `d` where there is none. -/
def lowestVersion (d : Nat) : List Nat → Nat
  | [] => d
  | v :: rest => rest.foldl min v
/-- R434: the fused minimum becomes the version of the running images, the lowest of theirs, so that each may run again.
DEDUCED: log entry 87. -/
def raiseMinimum (s : State) : State :=
  if mbxLen s != 0 || mbxPage s != 0 then mbxTake s 2 2 else
  let low := lowestVersion s.nor.fusedMin ((runningImages s).map (·.version))
  let s := mbxTake s 2 0
  { s with nor := { s.nor with fusedMin := low } }
/-- R429, command 4: a page of an image, in ascending order; after the last the image is verified (R434), written to NOR
slot 1, and the device restarts. -/
def recoveryImage (s : State) : State :=
  if stage s != 0x0F then mbxTake s 4 3
  else if mbxPage s != s.mbx.imagePages || 3840 < mbxLen s then mbxTake s 4 2
  else
    let bytes := s.mbx.image ++ mbxRequest s
    if mbxLen s = 3840 then
      let s := mbxTake s 4 0
      { s with mbx := { s.mbx with image := bytes, imagePages := s.mbx.imagePages + 1 } }
    else
      let c := Config.imageCheck bytes
      let image : Image := ⟨c.1, c.2.1, c.2.2.1, c.2.2.2, (List.range 48).map (Config.imageSha bytes)⟩
      if imageRuns s.nor.fusedMin (some image) then resetDevice { s with nor := { s.nor with slot1 := some image } }
      else
        let s := refuseImage (mbxTake s 4 4)
        { s with mbx := { s.mbx with image := [], imagePages := 0 } }
/-- R429, command 5: records from an index on. -/
def faultLogPages (s : State) : State :=
  mbxRespond s 5 4 ((s.faultLog.drop (bytesNat (mbxRequest s))).flatMap id)

/-- R435. -/
def execMbxIdentityClaim (s : State) : Host.Outcome State Fault Refusal := .next (mbxSubmit s identityClaim)
/-- R434. -/
def execMbxRaiseFusedMinimum (s : State) : Host.Outcome State Fault Refusal := .next (mbxSubmit s raiseMinimum)
/-- R429. -/
def execMbxLifeHistograms (s : State) : Host.Outcome State Fault Refusal :=
  .next (mbxSubmit s fun s => mbxRespond s 3 0 (lifeBytes s))
/-- R429. -/
def execMbxRecoveryImage (s : State) : Host.Outcome State Fault Refusal := .next (mbxSubmit s recoveryImage)
/-- R429. -/
def execMbxFaultLog (s : State) : Host.Outcome State Fault Refusal := .next (mbxSubmit s faultLogPages)

/-- R429: the page of the response stands in MBX_DATA. -/
def writeMbxData (s : State) (bs : List Byte) : State :=
  (List.range ((bs.length + 7) / 8)).foldl (fun s i =>
    setBar s (Config.oMbxData + 8 * i) (BitVec.ofNat 64 (bytesNat ((bs.drop (8 * i)).take 8)))) s
/-- R429. -/
def mbxFinish (s : State) : State :=
  let m := s.mbx
  let out := if m.result = 0 then m.response else []
  let bs := (out.drop (3840 * m.page)).take 3840
  let s := writeMbxData s bs
  setBar s Config.oMbxStatus (BitVec.ofNat 64
    (2 ^ 62 + bs.length * 2 ^ 32 + (out.length + 3839) / 3840 % 2 ^ 16 * 2 ^ 16 + m.result))
/-- R429. -/
def execMbxCommandDone (s : State) : Host.Outcome State Fault Refusal := .next (if mbxBusy s then mbxFinish s else s)
/-- R429: DONE is cleared by a read of the half that holds it (R425). -/
def execMbxStatusRead (s : State) : Host.Outcome State Fault Refusal :=
  .next (onBar s Config.oMbxStatus fun s => setBar s Config.oMbxStatus (setField (bar s Config.oMbxStatus) 62 1 0))
/-- R429: a write of MBX_CTL. -/
def writeMbxCtl (s : State) (v : Dword) : State :=
  let s := setBar s Config.oMbxCtl (takeFields 0 v [(32, 16), (16, 16), (0, 16)])
  if !v.msb || mbxBusy s then s else
  match mbxCommand s with
  | 1 => identityClaim s
  | 2 => raiseMinimum s
  | 3 => mbxRespond s 3 0 (lifeBytes s)
  | 4 => recoveryImage s
  | 5 => faultLogPages s
  | c => mbxTake s c 1

/-! ## Trace events of time (R417, R418) -/

/-- R418: one bit per member of a run. -/
def activeMask (r : Run) : Nat := r.lanes.foldl (fun m c => m ||| 2 ^ (c % 32)) 0
/-- R418: a sample of a run; why its group stalled is left open. -/
def sampleOne (s : State) (d : Nat) (r : Run) : State :=
  let body := natDword r.pc.toNat ++ natWord (activeMask r) ++ natWord (Config.stallReason s.nextId).toNat ++ helperIter s r r.lowest
  trace { s with nextId := s.nextId + 1 } d 5 (nameOfLane s r r.lowest) body
/-- R418: the runs on port 0 of a partition's sub-cores that issue. DEDUCED: log entry 62. -/
def sampled (s : State) (d : Nat) : List Run :=
  s.runs.filter fun r => (getTeam s r.team).part == d && (getGroup s r.team r.grp).port == 0 && r.sig != .stall
/-- R418. DEDUCED: log entry 62. -/
def execTraceSample (part : Nat) (s : State) : Host.Outcome State Fault Refusal :=
  .next ((sampled s part).foldl (fun s r => sampleOne s part r) s)
/-- R418. -/
def execTraceSyncRecord (part : Nat) (s : State) : Host.Outcome State Fault Refusal := .next (traceSync s part 1)

/-! ## What the supervisor does next -/

def supervisorEvent (s : State) : Option Instr :=
  if mbxBusy s then some .mbxCommandDone
  else if 1 ≤ stage s && stage s ≤ 5 then some .bootStageComplete else none

end Sys2Proof.Machine
end

