-- ==== Sys2Proof/Machine/Registers.lean ====
section
/-! DEFINITION. Host writes to the management window by offset (R5, R425 to R427, R433), and reads and writes of its counters
(R198, R200 to R203). -/

namespace Sys2Proof.Machine

/-! ## Counters (R200 to R202) -/

/-- R201: a write of any value clears an error counter. -/
def clearError (s : State) (off : Nat) : State :=
  if Config.oErrors ≤ off && off < Config.oErrors + 0x4000 then setBar s off 0 else s
/-- R201. -/
def execErrorCounterClear (off : Nat) (s : State) : Host.Outcome State Fault Refusal :=
  .next (onBar s off fun s => clearError s off)
/-- R200. -/
def execSatMemRead (part : Nat) (s : State) : Host.Outcome State Fault Refusal :=
  .next (onBar s (Config.oPart part) fun s => { s with satMem := mapSet 0 s.satMem part 0 })
/-- R202: the programming of counter n of a core, at 8·(8·core + n) of the area (DESIGN CHOICE, log entry 14). -/
def writePerf (s : State) (n : Nat) (v : Dword) : State :=
  { s with perfProg := mapSet 0 s.perfProg n (takeFields 0 v [(63, 1), (32, 1), (16, 16), (0, 4)]) }

/-! ## A partition block (R427) -/

/-- INTEG_AREA is not written while a pair or core pair of the partition is in use (R386). -/
def integInUse (s : State) (d : Nat) : Bool :=
  (List.range 8).any (fun p => pairPart s p == d && (getPair s p).mode != .independent) ||
  s.teams.any fun t => t.part == d && t.side != .single && t.holds
/-- R408: the control of the fault ring. DEDUCED: log entry 78. -/
def frCtl (v : Dword) : Dword :=
  setField (takeFields 0 v [(63, 1)]) 0 5 (if 12 ≤ field v 0 5 && field v 0 5 ≤ 30 then field v 0 5 else 12)
/-- R417: the control of the trace ring. DEDUCED: log entry 78. -/
def trCtl (v : Dword) : Dword :=
  let sper := field v 40 8
  setField (setField (takeFields 0 v [(63, 1), (48, 8)]) 40 8 (if 10 ≤ sper && sper ≤ 30 then sper else 16)) 0 5
    (if 12 ≤ field v 0 5 && field v 0 5 ≤ 30 then field v 0 5 else 12)
/-- R417, R418: tracing starts with a synchronisation record. DEDUCED: log entry 78. -/
def writeTrCtl (s : State) (d : Nat) (v : Dword) : State :=
  let was := (pbar s d Config.oTrCtl).msb
  let s := setPbar s d Config.oTrCtl (trCtl v)
  if v.msb && !was then traceSync s d 0 else s
/-- R186, R189, R372: a word of a phase entry; a firing whose moment has come uses the entry as it was, and a phase that
is enabled fires at START first. What a write of START, or of PERIOD, does to NEXT while EN is set is not said: here NEXT goes on
from where it stands. DESIGN CHOICE: log entry 123. -/
def writePhase (s : State) (d n w : Nat) (v : Dword) : State :=
  let s := if phaseDue s d n then firePhase s d n else s
  let at_ := Config.oPhase n
  match w with
  | 0 => setPbar s d at_ v
  | 1 => setPbar s d (at_ + 8) v
  | 2 =>
    let was := phaseOn s d n
    let s := setPbar s d (at_ + 0x10) (takeFields 0 v [(63, 1), (16, 16), (0, 8)])
    if v.msb && !was then
      setPbar { s with prefetched := s.prefetched.filter (· != (d, n)) } d (at_ + 0x18) (pbar s d at_)
    else s
  | _ => s
/-- R187: a word of a node. -/
def nodeFields (w : Nat) (v : Dword) : Dword :=
  if w = 0 then takeFields 0 v [(7, 57)] else takeFields 0 v [(32, 32), (31, 1), (30, 1), (27, 3), (12, 12), (0, 12)]

/-- Tables of a partition block, from offset 0x1000 on. -/
def writePartTables (s : State) (d o : Nat) (v : Dword) : State :=
  if o < 0x1100 then writeRetention s d ((o - 0x1000) / 0x10) ((o - 0x1000) / 8 % 2) v
  else if o < 0x2000 then s
  else if o < 0x2800 then writePhase s d ((o - 0x2000) / 0x20) ((o - 0x2000) / 8 % 4) v
  else if o < 0x4000 then s
  else if o < 0x6000 then writePublication s d ((o - 0x4000) / 0x20) ((o - 0x4000) / 8 % 4) v
  else if o < 0x10000 then s
  else if o < 0x10800 then setPbar s d o (takeFields 0 v [(63, 1), (16, 16), (0, 12)])
  else if o < 0x20000 then s
  else if o < 0x30000 then setPbar s d o (nodeFields ((o - 0x20000) / 8 % 2) v)
  else s

/-- R427: a register of partition d's block. -/
def writePart (s : State) (d o : Nat) (v : Dword) : State :=
  if 0x1000 ≤ o then writePartTables s d o v else
  match o with
  | 0x0 => if integInUse s d then s else setPbar s d o (takeFields 0 v [(63, 1), (30, 22)])
  | 0x8 => setPbar s d o (BitVec.ofNat 64 (clampNat 64 1024 (field v 0 11)))
  | 0x10 => setPbar s d o (BitVec.ofNat 64 (clampNat 100 1000000 (field v 0 20)))
  | 0x20 => writeBucket s d v
  | 0x40 | 0x58 | 0x80 | 0x98 => setPbar s d o v
  | 0x48 => setPbar s d o (frCtl v)
  | 0x88 => writeTrCtl s d v
  | 0xC0 | 0xC8 | 0xE0 => setPbar s d o (takeFields 0 v [(12, 40)])
  | 0xE8 => setPbar s d o (takeFields 0 v [(0, 32)])
  | 0xF0 => writeDumpCtl s d v
  | 0xF8 | 0x108 => setPbar s d o (takeFields 0 v [(8, 56)])
  | 0x100 => writeDbgCtl s d v
  | 0x180 => writeCancelCtl s d v
  | 0x188 => setPbar s d o (takeFields 0 v [(0, 32)])
  | _ => s

/-! ## The device block and the device tables (R425, R426) -/

/-- R386: a write of PAIR_CTL. -/
def writePairCtl (s : State) (p : Nat) (v : Dword) : State :=
  match field v 0 2 with
  | 1 => requestPair s p v
  | 2 => requestUnpair (writePairFields s p v) p
  | _ => writePairFields s p v
/-- R426: a register of the device block. -/
def writeDevice (s : State) (o : Nat) (v : Dword) : State :=
  if 0x1100 ≤ o && o < 0x2000 then setBar s o v else
  match o with
  | 0x100 => writeTimeCtl s v
  | 0x110 => writePhcAdj s (v.setWidth 32)
  | 0x118 => stepPhc s v
  | 0x120 => if field v 0 1 = 1 then beginPtm s else s
  | 0x300 => writePartCtl s v
  | 0x400 => writePowerLimit s v
  | 0x1000 => writeMbxCtl s v
  | _ => s
/-- R425: a table of the management window, below the partition blocks. -/
def writeTables (s : State) (o : Nat) (v : Dword) : State :=
  if o < 0x100400 then contextWrite s ((o - 0x100000) / 16, o / 8 % 2, v)
  else if o < 0x110000 then s
  else if o < 0x1101C0 then writePartTable s ((o - 0x110000) / 8) v
  else if o < 0x120000 then s
  else if o < 0x120200 then writeFormat s ((o - 0x120000) / 0x20) (o / 8 % 4) v
  else if o < 0x130000 then s
  else if o < 0x130800 then writeQueue s ((o - 0x130000) / 0x20) (o / 8 % 4) v
  else if o < 0x140000 then s
  else if o < 0x140040 then writePairCtl s ((o - 0x140000) / 8) v
  else if o < 0x200000 then s
  else if o < 0x204000 then clearError s o
  else if o < 0x205000 then writePerf s ((o - 0x204000) / 8) v
  else s
/-- R425: a write of a whole register. -/
def writeRegister (s : State) (o : Nat) (v : Dword) : State :=
  if o < 0x100000 then writeDevice s o v
  else if o < 0x1000000 then writeTables s o v
  else if o < 0x2000000 then writePart s ((o - 0x1000000) / 0x400000) ((o - 0x1000000) % 0x400000) v
  else s

/-- What the writable fields of a register hold. -/
def heldValue (s : State) (o : Nat) : Dword :=
  if 0x204000 ≤ o && o < 0x205000 then mapGet 0 s.perfProg ((o - 0x204000) / 8) else bar s o
/-- A DONE and a FAILED count as one register (R198): DONE in [31:0], FAILED in [63:32]. -/
def countPair (done failed : Nat) : Dword := BitVec.ofNat 64 (failed % 2 ^ 32 * 2 ^ 32 + done % 2 ^ 32)
/-- R198: the counts that the host reads: of the jobs of a context entry, of the firings of a phase, of a phase's newest
traversal, and of a context's newest launch. -/
def doneCounts (s : State) (o : Nat) : Dword :=
  let ctx := fun (e : Nat) => field (bar s (Config.oContext e)) 0 16
  if o < 0x206400 then
    (if o / 8 % 2 = 0 then mapGet 0 s.jobDone else mapGet 0 s.jobFailed) (ctx ((o - 0x206000) / 16))
  else if o < 0x207000 then 0
  else if o < 0x207800 then
    let k := (o - 0x207000) / 8
    countPair (mapGet 0 s.phaseDone k).toNat (mapGet 0 s.phaseFailed k).toNat
  else if o < 0x208000 then
    let k := (o - 0x207800) / 8
    match (s.traversals.filter fun t => phaseKey t.part t.phase == k).getLast? with
    | some t => countPair t.done t.failed
    | none => 0
  else if o < 0x208200 then
    match (s.launches.filter fun l => l.ctx == ctx ((o - 0x208000) / 8)).getLast? with
    | some l => countPair l.done l.failed
    | none => 0
  else 0
/-- R200, R203: the eviction counter of a slice and partition, and SAT_MEM of a partition. -/
def memCounts (s : State) (o : Nat) : Dword :=
  if o < 0x205800 then (mapGet 0 s.evict ((o - 0x205000) / 8)).setWidth 64
  else if o < 0x205820 then (mapGet 0 s.satMem ((o - 0x205800) / 8)).setWidth 64
  else 0
/-- R425, R426: what a read of a register of the management window returns. DESIGN CHOICE: log entry 14. -/
def registerValue (s : State) (off : Nat) : Dword :=
  match off with
  | 0x0 => Config.deviceId
  | 0x10 => Config.serial
  | 0x108 => s.phcNs
  | _ =>
    if 0x205000 ≤ off && off < 0x206000 then memCounts s off
    else if 0x206000 ≤ off && off < 0x209000 then doneCounts s off
    else if (List.range 4).any fun d => off == Config.oPart d + Config.oDumpCtl then
      setField (heldValue s off) 2 1 (boolBit (dumpBusy s ((off - 0x1000000) / 0x400000)))
    else heldValue s off
/-- R425: a read at a register's offset, whose low half a 4-byte read takes, or a 4-byte read of its upper half; no other offset
answers. DESIGN CHOICE: log entry 14. -/
def readRegister (s : State) (off : Nat) : Dword :=
  if off % 8 = 0 then registerValue s off else if off % 8 = 4 then registerValue s (off - 4) >>> 32 else 0
/-- R425: a 4-byte write leaves the other half as it is. -/
def mergedValue (s : State) (w : RegWrite) : Dword :=
  match w.half with
  | none => w.value
  | some false => setField (heldValue s w.off) 0 32 (field w.value 0 32)
  | some true => setField (heldValue s w.off) 32 32 (field w.value 0 32)
/-- R5, R425: a naturally aligned write; any other has no effect. -/
def execRegisterWrite (w : RegWrite) (s : State) : Host.Outcome State Fault Refusal :=
  .next (onBar s w.off fun s => if w.off % 8 = 0 then writeRegister s w.off (mergedValue s w) else s)

end Sys2Proof.Machine
end

