-- ==== Sys2Proof/Machine/Settle.lean ====
section
/-! DEFINITION. What follows from the state by itself in a clk: waits whose conditions now hold (R29, R156, R157, R160,
R292, R318), the counters of time (R199, R202, R411, R432), evictions
from the L2 (R118), interference (R203), and the events that a count of CYCLE makes due (R417, R418). -/

namespace Sys2Proof.Machine

/-! ## Waits (R29) -/

/-- The team's groups may leave their waits. -/
def teamSettles (t : Team) : Bool := (t.life == .resident || t.life == .stopping) && t.halt.isNone && !t.stopped

/-- A wait of a group or helper set, as the run that issued it. -/
def waitRun (s : State) (tid g : Nat) (hs : Option Nat) (w : Wait) : Run :=
  { team := tid, grp := g, helpers := hs, lanes := w.lanes, pc := (getTh s tid g (laneWho hs (w.lanes.headD 0))).pc }

/-- R29: the step of a waiting instruction whose condition now holds; one that must raise something issues again. -/
def settleWait (s : State) (r : Run) (w : Wait) : State :=
  if wakesToFault s r w.i then setWait s r none
  else match tryBlock s r w.i with
    | none => s
    | some s' => if retried s s' r.team then s' else setWait (advanceLanes s' r) r none

/-- R317: a member waits at a CREWACC for the store. -/
def waitsStore (th : Thread) : Bool := th.life == .waiting && th.inBody && th.member.isSome
/-- R317: members that wait at a CREWACC for the store issue it again once it has room. -/
def settleStore (s : State) (r : Run) (c : Nat) : State :=
  if waitsStore (laneTh s r c) && !storeFull s r 1 c then modLane s r c fun th => { th with life := .runnable } else s

/-- A crew's recruiter that waits at its final CREWEND, and its members that wait at a CREWACC. -/
def settleCrew (s : State) (tid : Nat) (cr : Crew) : State :=
  let own : Run := { team := tid, grp := cr.grp, lanes := [cr.thr], pc := (getTh s tid cr.grp (.lane cr.thr)).pc }
  let th := laneTh s own cr.thr
  let s := if th.life == .waiting && th.inBody && th.member.isNone then finalEnd s own cr.thr else settleStore s own cr.thr
  let codes := cr.helpers.map fun h => 32 * h.grp + h.thr
  codes.foldl (fun s c => settleStore s { own with helpers := some cr.thr, lanes := [c] } c) s

/-- A wait at an ENQ. -/
def enqueues (w : Wait) : Bool :=
  match w.i with
  | .enq _ _ => true
  | _ => false
/-- The waits of a group that `p` holds of: its own, then those of its helper sets. -/
def settleGroup (p : Wait → Bool) (s : State) (tid g : Nat) : State :=
  let s := match (getGroup s tid g).wait with
    | none => s
    | some w => if p w then settleWait s (waitRun s tid g none w) w else s
  ((getCore s tid).crews.filter (·.grp == g)).foldl (fun s cr =>
    match cr.wait with
    | none => s
    | some w => if p w then settleWait s (waitRun s tid g (some cr.thr) w) w else s) s

/-- R157: enqueue steps that can be performed now and come before a word of the run: before an enqueue, those of lower groups;
before a dequeue, all of them. -/
def enqueuesFirst (s : State) (r : Run) (i : Instr) : State :=
  let gs : List Nat := match i with
    | .enq _ _ | .enqtry _ _ _ => List.range r.grp
    | .deq _ _ | .deqtry _ _ _ => List.range (getCore s r.team).groups.length
    | _ => []
  if teamSettles (getTeam s r.team) then gs.foldl (fun s g => settleGroup enqueues s r.team g) s else s
/-- R29: every wait of a team, in ascending group order; enqueue steps go before the others (R157). -/
def settleTeam (s : State) (tid : Nat) : State :=
  let gs := List.range (getCore s tid).groups.length
  let s := gs.foldl (fun s g => settleGroup enqueues s tid g) s
  let s := gs.foldl (fun s g => settleGroup (fun w => !enqueues w) s tid g) s
  (getCore s tid).crews.foldl (fun s cr => settleCrew s tid cr) s
/-- R398, R401: drained entries of a core pair that waited for room in its compare buffer, or for their partner's. -/
def settleDet (s : State) (tid : Nat) : State :=
  let t := getTeam s tid
  if t.detOut.isEmpty || t.halt.isSome || !t.holds then s else drainOut tid t.detOut s
/-- R391, R401: the run of an IL3 team that stalls until its drained atomics have been performed ends before its word, so that the
commit that performs them can come. DEDUCED: log entry 69. -/
def endOwing (s : State) (tid : Nat) : State :=
  let t := getTeam s tid
  if teamIl s tid ≠ 3 || t.detOut.isEmpty then s else
  let out := fun (r : Run) => r.team == tid && r.sig == .stall && r.due.isNone && !(r.helpers.isNone && t.ckptWaiting.contains r.grp)
  (s.runs.filter out).foldl countCut { s with runs := s.runs.filter fun r => !out r }
/-- R398: a stash write-back of both teams of a core pair, with the same bytes, is performed once. Others wait for the next
compare of the pair. DEDUCED: log entry 100. -/
def settleBacks (s : State) (tid : Nat) : State :=
  match (getTeam s tid).partner with
  | none => s
  | some p =>
    if (getTeam s tid).side == .trail p then s else
    match (getTeam s tid).entries.find? fun e => e.kind == .writeback && (getTeam s p).entries.any fun x =>
        x.kind == .writeback && x.lead == e.lead && x.bad == e.bad with
    | none => s
    | some e =>
      let same := fun (x : Item) => x.kind == .writeback && x.lead == e.lead && x.bad == e.bad
      let drop := fun (t : Team) => { t with entries := dropFirst same t.entries }
      (performItem (modTeam (modTeam s tid drop) p drop) e).1

/-- What waits in each team, in ascending team and group order. -/
def settle (s : State) : State :=
  (List.range s.teams.length).foldl (fun s tid =>
    let s := endOwing (settleBacks (settleDet s tid) tid) tid
    if teamSettles (getTeam s tid) then settleTeam s tid else s) s

/-! ## Time -/

/-- R199, R432: how far the PTP clock goes in a clk, in 2⁻³² ns: 10⁶ ns over the clock in kHz, corrected by ADJ.
DEDUCED: log entry 55. -/
def phcStepOf (s : State) : Nat :=
  let adj := ((bar s Config.oPhcAdj).setWidth 32 : Word).toInt
  (1000000 * (4294967296 + adj)).toNat / s.khz.toNat
/-- R199, R432. DEDUCED: log entry 55. -/
def advancePhc (s : State) : State :=
  let total := s.phcNs.toNat * 2 ^ 32 + s.phcFrac.toNat + phcStepOf s
  { s with phcNs := BitVec.ofNat 64 (total / 2 ^ 32), phcFrac := BitVec.ofNat 32 total }

/-- R202: event 2, for every run that holds its port while stalled. -/
def countStalls (s : State) : State :=
  if s.perfProg.isEmpty then s else
  (s.runs.filter (·.sig == .stall)).foldl (fun s r =>
    perfEvent s (getTeam s r.team).core (teamLaunch s r.team).ctx 2 1) s

/-- R417, R418: the trace events that the present CYCLE makes due. -/
def dueNow (s : State) : List Instr :=
  let c := s.cycle.toNat
  let ds := (List.range 4).filter fun d => (pbar s d Config.oTrCtl).msb
  (ds.filter fun _ => c % 2 ^ 16 == 0).map Instr.traceSyncRecord ++
  (ds.filter fun d => c % 2 ^ field (pbar s d Config.oTrCtl) 40 8 == 0 && field (pbar s d Config.oTrCtl) 50 1 == 1).map
    Instr.traceSample

/-- What teams that end or are saved ask for: drains of atomic buffers (R401) and checkpoints (R148, R399, R400). -/
def askAll (s : State) : State :=
  (List.range s.teams.length).foldl (fun s tid =>
    if (getTeam s tid).holds then askSave (askEndCommit (askEndFlush s tid) tid) tid else s) s

/-- R118: what an aperture line that has left the L2 held is re-split if it was dirty. DESIGN CHOICE: log entry 22. -/
def evictLines (s : State) : State :=
  let gone := s.aper.filter fun x => !s.l2.any (·.line == x.line)
  let s := (gone.filter (·.dirty)).foldl resplit s
  { s with aper := s.aper.filter fun x => s.l2.any (·.line == x.line) }
/-- R203: in a partitioned device a core counts the clk in which its flit waits behind one of another partition, which the
fabric's timing settles. DESIGN CHOICE: log entry 103. -/
def countInterf (s : State) : State :=
  if !partitioned s then s else
  { s with interf := (List.range 64).foldl (fun m c =>
      if Config.interferes s.cycle.toNat c then mapSet 0 m c (mapGet 0 m c + 1) else m) s.interf }

/-- R181, R189: clears of V that wait for no swap any more take place. -/
def clearPublications (s : State) : State :=
  (s.pubClears.filter fun x => !swapPending s x.1 x.2).foldl (fun s x => clearPublication s x.1 x.2)
    { s with pubClears := s.pubClears.filter fun x => swapPending s x.1 x.2 }

/-- A clk goes by. DESIGN CHOICE: log entries 5, 11. -/
def tick (s : State) : State :=
  let s := countStalls (advancePhc { s with cycle := s.cycle + 1 })
  let s := s.fmtDisables.foldl (fun s f => clearAperture s (formatFields s f)) s
  let s := settleTable (askShoot (clearPublications (evictLines (countInterf { s with svc := admitSvcs s.svc }))))
  let s := updateWatchdogs (updateCause (updateReady (askAll (settle s))))
  { s with due := dueNow s }

end Sys2Proof.Machine
end

