-- ==== Sys2Proof/Machine/Agenda.lean ====
section
/-! DEFINITION. What happens next: the events that follow from the state, in the order in which the model takes them, and
the choice between an event and the issue of a word (log entry 5). -/

namespace Sys2Proof.Machine

/-- The rows of the opcode table that are events. -/
def isEvent : Instr → Bool
  | .runStart _ | .progressRun _ | .loadFill _ | .longLatencyResult _ | .storePerformed _ | .tlbWalkComplete _
  | .trapEntry _ | .copyStart _ | .copyPieceArrival _ | .copyComplete _ | .copyFail _ | .mmaFetchPoint _
  | .mmaStart _ | .mmaComplete _ | .accstComplete _ | .channelMessageArrival _ | .channelCreditReturn _
  | .publishSwap _ | .crewBudgetOverrun _ _ _ _ | .holdOverrun _ | .watchdogExpiry _ | .durationOverrun _
  | .haltDrainDone _ | .dumpComplete _ | .teamPlace _ _ | .teamLoadComplete _ | .restorePlace _ _
  | .groupRetire _ _ | .teamRetire _ | .preemptionRequest _ _ _ | .drainComplete _ | .discardComplete _
  | .saveComplete _ | .launchArrival _ | .phasePrefetch _ _ | .phaseFiring _ _ | .quiesceDone _ | .flushDone _
  | .alignDone _ | .unpairDone _ | .comparatorCompare _ | .rollbackDone _ | .checkpoint _ | .il2Checkpoint _
  | .shootdownComplete _ | .contextClearComplete _ | .formatRangeDisableDone _ | .cancelDone _ | .singleStepStop _
  | .partitionResetDone _ | .traceSample _ | .traceSyncRecord _ | .hostQueueLineInvalidate _ | .pairRequest _ _
  | .unpairRequest _ | .mergeOwnershipRelease _ | .hostAccess _ | .peerAccess _ | .memoryError _ _
  | .patrolScrub _ _ | .pageMigration _ _ _ _ | .shootdownRequest _ | .queueRegistrationWrite _ _ _
  | .contextEntryWrite _ _ _ | .formatRangeWrite _ _ _ | .retentionRangeWrite _ _ _ _
  | .publicationEntryWrite _ _ _ _ | .partitionTableWrite _ _ | .tokenBucketWrite _ _ | .cancelLaunch _
  | .cancelGraph _ | .cancelPhase _ | .cancelJob _ | .dbgHalt _ | .dbgResume _ | .dbgStep _ | .dumpRequest _
  | .dumpCtlRead _ | .frLostRead _ | .partitionReset _ | .partModeWrite _ | .timeCtlWrite _ | .phcAdjWrite _
  | .phcStep _ | .ptmResponse _ _ | .powerLimitWrite _ | .clockStepDown _ | .thermalThrottle _ _ | .thermtrip _
  | .portbLinkUp _ | .lifeHistogramSample _ _ | .errorCounterClear _ | .satMemRead _ | .registerWrite _
  | .hostSnoop _ _ | .tlbWalkStart | .migrationDone | .mbxIdentityClaim | .mbxRaiseFusedMinimum
  | .mbxLifeHistograms | .mbxRecoveryImage | .mbxFaultLog | .mbxCommandDone | .mbxStatusRead | .ptmRequest
  | .ptmCtlRead | .ppsEdge | .portbLinkLoss | .portbStatusRead | .deviceReset | .bootStageComplete
  | .lifeHistogramSave | .portbPtmRequest | .powerLoss | .orderlyShutdown => true
  | _ => false

/-! ## Events that follow from the state -/

/-- A trap that has waited, or a limit that has passed (R44, R85, R376, R384, R411). -/
def limitEvent (s : State) : Option Instr :=
  let ts := List.range s.teams.length
  let helper := fun (tid : Nat) => (getCore s tid).crews.findSome? fun c =>
    (c.helpers.find? overBudget).map fun h => Instr.crewBudgetOverrun tid c.grp c.thr (32 * h.grp + h.thr)
  match s.runs.find? (trapReady s) with
  | some r => some (.trapEntry (runPort s r))
  | none =>
  match s.runs.find? (holdExpired s) with
  | some r => some (.holdOverrun (runPort s r))
  | none =>
  match ts.findSome? helper with
  | some e => some e
  | none =>
  match ts.find? (wdExpired s) with
  | some t => some (.watchdogExpiry t)
  | none => (ts.find? (pastDuration s)).map Instr.durationOverrun

/-- The run that a free port would begin, with the moment since which it has been ready (R31, R36). -/
def startOf (s : State) (p : Nat) : Option (Nat × Instr) :=
  match startable s p false with
  | some e => some (e.key.getD 1 0, .runStart p)
  | none => (startable s p true).map fun e => (e.key.getD 1 0, .progressRun p)
/-- A free port takes a run: of several ports, the one whose entry has been ready longest, so that none waits for another's
(R37). -/
def runEvent (s : State) : Option Instr :=
  let ports := (List.range s.teams.length).flatMap fun tid =>
    let t := getTeam s tid
    ((List.range t.body.groups.length).filterMap fun g =>
      (t.body.group g).readyAt.map fun _ => portNum t (t.body.group g)) ++
    t.body.crews.filterMap fun c => c.since.map fun _ => portNum t (t.body.group c.grp)
  let older := fun (best : Option (Nat × Instr)) (p : Nat) =>
    match best, startOf s p with
    | some a, some b => if b.1 < a.1 then some b else some a
    | none, x => x
    | a, none => a
  (ports.eraseDups.foldl older none).map Prod.snd

/-- R175. -/
def walkEvent (s : State) : Option Instr :=
  match s.walks.find? (·.started) with
  | some w => some (.tlbWalkComplete w.id)
  | none => (nextWalk s).map fun _ => .tlbWalkStart

/-- What an operation in flight can do now. -/
def opEvent (s : State) (o : Op) : Option Instr :=
  match o.kind with
  | .load _ => if loadReady s o then some (.loadFill o.id) else none
  | .lane _ => some (.longLatencyResult o.id)
  | .store _ => if storeReady s o then some (.storePerformed o.id) else none
  | .held _ => none
  | .copy c =>
    if copyWaits s o c then none
    else if c.started then
      (if c.written < c.pieces.length then some (.copyPieceArrival o.id)
       else if c.failed.isSome then some (.copyFail o.id) else some (.copyComplete o.id))
    else match nextCopy s (getTeam s o.team).core with
      | some (x, _) => if x.id = o.id then some (.copyStart (getTeam s o.team).core) else none
      | none => none
  | .mma m =>
    match m.stage with
    | .queued => if fetchReady s o m then some (.mmaFetchPoint o.id) else none
    | .fetched =>
      (match nextMma s (subCoreOf s o) with
       | some (x, _) => if x.id = o.id then some (.mmaStart o.id) else none
       | none => none)
    | .started => some (.mmaComplete o.id)
  | .accst rows _ => if accstReady s o rows then some (.accstComplete o.id) else none
  | .message _ _ => if messageReady s o then some (.channelMessageArrival o.id) else none
  | .credit _ => some (.channelCreditReturn o.id)
  | .publish _ _ => if publishReady s o then some (.publishSwap o.id) else none
  | .shootdown r counted => if shootReady s o r counted then some (.shootdownComplete o.id) else none

/-- A phase that fires, or whose firing is near (R372). -/
def phaseEvent (s : State) : Option Instr :=
  (List.range 4).findSome? fun d =>
    if !partLive s d then none else
    (List.range 64).findSome? fun n =>
      if phaseDue s d n then some (Instr.phaseFiring d n)
      else if prefetchDue s d n then some (.phasePrefetch d n) else none
/-- A queue whose header must be read, or that has a descriptor to consume (R164). -/
def queueEvent (s : State) : Option Instr :=
  s.watches.findSome? fun w =>
    if mustRead s w then some (Instr.hostQueueLineInvalidate w.q)
    else if arrivalReady s w then some (.launchArrival w.q) else none

/-- The first of several events. -/
def firstEvent : List (State → Option Instr) → State → Option Instr
  | [], _ => none
  | f :: rest, s =>
    match f s with
    | some i => some i
    | none => firstEvent rest s

/-- A team that may end. -/
def retireEvent (s : State) : Option Instr :=
  (List.range s.teams.length).findSome? fun tid =>
    let t := getTeam s tid
    if t.holds && retireReady s tid then some (if t.life == .resident then Instr.teamRetire tid else Instr.drainComplete tid)
    else none
/-- What the command processor does at once: a retirement lowers F before a launch of its queue is tested, and a firing
comes before a descriptor of its queue (R383). -/
def commandEvent (s : State) : Option Instr := firstEvent [retireEvent, phaseEvent, queueEvent] s
/-- The sources of events that follow from the state. DESIGN CHOICE: log entry 5. -/
def sources : List (State → Option Instr) :=
  [limitEvent, runEvent, walkEvent, fun s => s.ops.findSome? (opEvent s), tableEvent, requestEvent, pairEvent, il2Event,
   teamEvent, commandEvent, placeEvent, migrationEvent, supervisorEvent]
/-- The event that follows from the state, if any. The sources take turns to come first, so that none waits for ever.
DESIGN CHOICE: log entry 5. -/
def internal (s : State) : Option Instr :=
  let k := s.cycle.toNat / 4 % 13
  firstEvent (sources.drop k ++ sources.take k) s

/-! ## The choice of a step -/

/-- What a step does: nothing, for the clock has stopped; an event (`clk` tells that a clk goes by with it) or an instruction
with the state it acts on (and the run that issues it); or nothing but a change of the state. -/
inductive Act where
  | stopped
  | perform (i : Instr) (clk : Bool) (s : State)
  | issue (i : Instr) (s : State) (r : Run)
  | quiet (s : State)

/-- A run has issued, or tried to: walk outcomes that it has received are spent unless it still stalls (R175), another
run comes first, and a clk goes by. -/
def afterIssue (r : Run) (s : State) : State :=
  let same := fun (x : Run) => x.team == r.team && x.grp == r.grp && x.helpers == r.helpers
  let req : Requester := ⟨(getTeam s r.team).core, r.team, r.grp⟩
  let stalled := s.runs.any fun x => same x && x.sig == .stall
  let s := if stalled then s else wakeRuns { s with outcomes := s.outcomes.filter fun o => !(o.to_ == req) }
  tick { s with runs := s.runs.filter (fun x => !same x) ++ s.runs.filter same }

/-- A run that does not stall tries its next word, after the enqueue steps of the clk that come before it (R157). -/
def issueNext (s : State) (r : Run) : Act :=
  match prepare (toHead s r) with
  | .done s' => .quiet (afterIssue r s')
  | .run i s' => let s' := enqueuesFirst s' (curRun s') i; .issue i s' { curRun s' with spared := handlesHold s' (curRun s') }

/-- With the clock stopped, nothing happens until the device is powered on again (R433, R440). -/
def powerOn : List (Nat × Instr) → Option (List (Nat × Instr))
  | [] => none
  | (_, .deviceReset) :: rest => some rest
  | _ :: rest => powerOn rest

/-- An event that is due comes first, then one from outside; a word comes before an event that follows from the state,
but in one clk of four. DESIGN CHOICE: log entry 5. -/
def nextAct (s : State) : Act :=
  if s.dead then
    (match powerOn s.inputs with
     | none => .stopped
     | some rest => .perform .deviceReset false { s with inputs := rest })
  else
  match s.due with
  | i :: rest => .perform i false { s with due := rest }
  | [] =>
  match s.inputs.find? (fun x => x.1 ≤ s.cycle.toNat) with
  | some x =>
    let s := { s with inputs := dropFirst (fun y => y.1 ≤ s.cycle.toNat) s.inputs }
    if isEvent x.2 then .perform x.2 false s else .quiet s
  | none =>
  match s.runs.find? (·.sig != .stall) with
  | some r =>
    (match (if s.cycle.toNat % 4 = 3 then internal s else none) with
     | some i => .perform i true s
     | none => issueNext s r)
  | none =>
    match internal s with
    | some i => .perform i true s
    | none => .quiet (tick s)

/-- What follows an event: runs that stall try again, and a clk goes by, but not for an event from outside or due, which
comes between clk. -/
def afterEvent (took : Bool) (s : State) : State := if took then tick (wakeRuns s) else wakeRuns s

/-- Changes the state that a step goes on with. -/
def thenDo (f : State → State) : Host.Outcome State Fault Refusal → Host.Outcome State Fault Refusal
  | .next s => .next (f s)
  | .fault x => .fault x
  | .refused x => .refused x

/-- The head run's word has been performed: what follows in its run (R28 to R36), and after it. -/
def afterWord (r : Run) (s : State) : State := afterIssue r (finish r s)

/-! ## A word to run next -/

/-- Where `placeWordNext` puts its kernel. -/
def probeCode : Nat := 0x10000
/-- A launch of one team whose code is one clause of one word at `probeCode`, with a second clause header after it. -/
def probeLaunch : Launch :=
  { Launch.empty with
    ctx := 1, prio := 0, desc := { kernel := BitVec.ofNat 64 probeCode, trap := BitVec.ofNat 64 probeCode, teams := 1 }
    kernel := { codeSize := 64, map := [0, 2] } }
/-- Its group: thread 0 stands at the word, the others have exited. -/
def probeGroup : Group :=
  let th := Thread.fresh (BitVec.ofNat 64 (probeCode + 4)) 0 0
  Group.fresh (th :: List.replicate 31 { th with life := .exited }) (zeroCells 32) 0 0
/-- The clause header of a word: one word of its class, no waits, E clear (R207). -/
def probeHeader (w : Nat) : Nat := 2 ^ 28 + opClass (w / 2 ^ 25 % 128) * 2 ^ 26 + 0xFFFF00
/-- A team of one group on core 0 stands at the word, its run having just won its port; the page of the word is in the
core's TLB (DESIGN CHOICE, log entry 20). -/
def placeWordNext (s : State) (nbits w : Nat) : State :=
  let w := w % 2 ^ nbits % 2 ^ 32
  let tid := s.teams.length
  { s with
    dead := false, due := [], inputs := [], cycle := s.cycle - s.cycle % 4
    mem := writeBytes (writeBytes s.mem probeCode (natBytes 4 (probeHeader w))) (probeCode + 4) (natBytes 4 w)
    poison := clearPoison s.poison probeCode 32
    tlb := (0, ⟨1, probeCode, 12, probeCode, false, true, true, true⟩) :: s.tlb
    launches := s.launches ++ [probeLaunch]
    teams := s.teams ++ [{ Team.empty with launch := s.launches.length, life := .resident,
                                           body := { TeamCore.empty with groups := [probeGroup] } }]
    runs := { team := tid, grp := 0, lanes := [0], pc := BitVec.ofNat 64 (probeCode + 4), since := s.cycle } :: s.runs }

end Sys2Proof.Machine
end

