-- ==== Sys2Proof/Machine/Dispatch.lean ====
section
/-! DEFINITION. The dispatch of an instruction or event to its meaning: one arm per row of the opcode table. -/

namespace Sys2Proof.Machine

/-- The meaning of every row of the opcode table. -/
def exec (i : Instr) (s : State) : Host.Outcome State Fault Refusal :=
  match i with
  | .add o => Sys2Proof.Machine.execAdd o s
  | .sub o => Sys2Proof.Machine.execSub o s
  | .addc o => Sys2Proof.Machine.execAddc o s
  | .subb o => Sys2Proof.Machine.execSubb o s
  | .mul o => Sys2Proof.Machine.execMul o s
  | .mulh o => Sys2Proof.Machine.execMulh o s
  | .mulhn o => Sys2Proof.Machine.execMulhn o s
  | .mad o => Sys2Proof.Machine.execMad o s
  | .div o => Sys2Proof.Machine.execDiv o s
  | .divn o => Sys2Proof.Machine.execDivn o s
  | .rem o => Sys2Proof.Machine.execRem o s
  | .remn o => Sys2Proof.Machine.execRemn o s
  | .min o => Sys2Proof.Machine.execMin o s
  | .max o => Sys2Proof.Machine.execMax o s
  | .minn o => Sys2Proof.Machine.execMinn o s
  | .maxn o => Sys2Proof.Machine.execMaxn o s
  | .addsat o => Sys2Proof.Machine.execAddsat o s
  | .subsat o => Sys2Proof.Machine.execSubsat o s
  | .sla o => Sys2Proof.Machine.execSla o s
  | .and o => Sys2Proof.Machine.execAnd o s
  | .or o => Sys2Proof.Machine.execOr o s
  | .xor o => Sys2Proof.Machine.execXor o s
  | .andn o => Sys2Proof.Machine.execAndn o s
  | .bfx o => Sys2Proof.Machine.execBfx o s
  | .shl o => Sys2Proof.Machine.execShl o s
  | .shr o => Sys2Proof.Machine.execShr o s
  | .sar o => Sys2Proof.Machine.execSar o s
  | .rot o => Sys2Proof.Machine.execRot o s
  | .cmp o => Sys2Proof.Machine.execCmp o s
  | .cmpn o => Sys2Proof.Machine.execCmpn o s
  | .tst o => Sys2Proof.Machine.execTst o s
  | .sel o => Sys2Proof.Machine.execSel o s
  | .addi o => Sys2Proof.Machine.execAddi o s
  | .muli o => Sys2Proof.Machine.execMuli o s
  | .andi o => Sys2Proof.Machine.execAndi o s
  | .ori o => Sys2Proof.Machine.execOri o s
  | .xori o => Sys2Proof.Machine.execXori o s
  | .shli o => Sys2Proof.Machine.execShli o s
  | .shri o => Sys2Proof.Machine.execShri o s
  | .sari o => Sys2Proof.Machine.execSari o s
  | .roti o => Sys2Proof.Machine.execRoti o s
  | .cmpi o => Sys2Proof.Machine.execCmpi o s
  | .movi o => Sys2Proof.Machine.execMovi o s
  | .ldhi o => Sys2Proof.Machine.execLdhi o s
  | .neg o => Sys2Proof.Machine.execNeg o s
  | .abs o => Sys2Proof.Machine.execAbs o s
  | .not o => Sys2Proof.Machine.execNot o s
  | .clz o => Sys2Proof.Machine.execClz o s
  | .popc o => Sys2Proof.Machine.execPopc o s
  | .brev o => Sys2Proof.Machine.execBrev o s
  | .mov o => Sys2Proof.Machine.execMov o s
  | .bfi o => Sys2Proof.Machine.execBfi o s
  | .dot4 o => Sys2Proof.Machine.execDot4 o s
  | .fadd o => Sys2Proof.Machine.execFadd o s
  | .fsub o => Sys2Proof.Machine.execFsub o s
  | .fmul o => Sys2Proof.Machine.execFmul o s
  | .fdiv o => Sys2Proof.Machine.execFdiv o s
  | .fmin o => Sys2Proof.Machine.execFmin o s
  | .fmax o => Sys2Proof.Machine.execFmax o s
  | .fsgn o => Sys2Proof.Machine.execFsgn o s
  | .fcmp o => Sys2Proof.Machine.execFcmp o s
  | .ffma o => Sys2Proof.Machine.execFfma o s
  | .frcp o => Sys2Proof.Machine.execFrcp o s
  | .fsqrt o => Sys2Proof.Machine.execFsqrt o s
  | .frsq o => Sys2Proof.Machine.execFrsq o s
  | .fexp2 o => Sys2Proof.Machine.execFexp2 o s
  | .flog2 o => Sys2Proof.Machine.execFlog2 o s
  | .fsin o => Sys2Proof.Machine.execFsin o s
  | .fcos o => Sys2Proof.Machine.execFcos o s
  | .fclass o => Sys2Proof.Machine.execFclass o s
  | .frnd o => Sys2Proof.Machine.execFrnd o s
  | .prfmaF16 o => Sys2Proof.Machine.execPrfmaF16 o s
  | .prfmaB16 o => Sys2Proof.Machine.execPrfmaB16 o s
  | .pradd o => Sys2Proof.Machine.execPradd o s
  | .prsub o => Sys2Proof.Machine.execPrsub o s
  | .prmul o => Sys2Proof.Machine.execPrmul o s
  | .prmin o => Sys2Proof.Machine.execPrmin o s
  | .prmax o => Sys2Proof.Machine.execPrmax o s
  | .cvt o => Sys2Proof.Machine.execCvt o s
  | .pack o => Sys2Proof.Machine.execPack o s
  | .unpk o => Sys2Proof.Machine.execUnpk o s
  | .bfpq o => Sys2Proof.Machine.execBfpq o s
  | .bfpx o => Sys2Proof.Machine.execBfpx o s
  | .relay o => Sys2Proof.Machine.execRelay o s
  | .census o => Sys2Proof.Machine.execCensus o s
  | .redg o => Sys2Proof.Machine.execRedg o s
  | .scang o => Sys2Proof.Machine.execScang o s
  | .peers o => Sys2Proof.Machine.execPeers o s
  | .leader o => Sys2Proof.Machine.execLeader o s
  | .ldbMu o => Sys2Proof.Machine.execLdbMu o s
  | .ldbzMu o => Sys2Proof.Machine.execLdbzMu o s
  | .ldhMu o => Sys2Proof.Machine.execLdhMu o s
  | .ldhzMu o => Sys2Proof.Machine.execLdhzMu o s
  | .ldwMu o => Sys2Proof.Machine.execLdwMu o s
  | .lddMu o => Sys2Proof.Machine.execLddMu o s
  | .ldqMu o => Sys2Proof.Machine.execLdqMu o s
  | .ldk o => Sys2Proof.Machine.execLdk o s
  | .stbMu o => Sys2Proof.Machine.execStbMu o s
  | .sthMu o => Sys2Proof.Machine.execSthMu o s
  | .stwMu o => Sys2Proof.Machine.execStwMu o s
  | .stdMu o => Sys2Proof.Machine.execStdMu o s
  | .stqMu o => Sys2Proof.Machine.execStqMu o s
  | .lds o => Sys2Proof.Machine.execLds o s
  | .ldl o => Sys2Proof.Machine.execLdl o s
  | .sts o => Sys2Proof.Machine.execSts o s
  | .stl o => Sys2Proof.Machine.execStl o s
  | .wait o => Sys2Proof.Machine.execWait o s
  | .ldbMp o => Sys2Proof.Machine.execLdbMp o s
  | .ldbzMp o => Sys2Proof.Machine.execLdbzMp o s
  | .ldhMp o => Sys2Proof.Machine.execLdhMp o s
  | .ldhzMp o => Sys2Proof.Machine.execLdhzMp o s
  | .ldwMp o => Sys2Proof.Machine.execLdwMp o s
  | .lddMp o => Sys2Proof.Machine.execLddMp o s
  | .ldqMp o => Sys2Proof.Machine.execLdqMp o s
  | .ldacq o => Sys2Proof.Machine.execLdacq o s
  | .stbMp o => Sys2Proof.Machine.execStbMp o s
  | .sthMp o => Sys2Proof.Machine.execSthMp o s
  | .stwMp o => Sys2Proof.Machine.execStwMp o s
  | .stdMp o => Sys2Proof.Machine.execStdMp o s
  | .stqMp o => Sys2Proof.Machine.execStqMp o s
  | .strel o => Sys2Proof.Machine.execStrel o s
  | .atom o => Sys2Proof.Machine.execAtom o s
  | .cas o => Sys2Proof.Machine.execCas o s
  | .red o => Sys2Proof.Machine.execRed o s
  | .atoms o => Sys2Proof.Machine.execAtoms o s
  | .cass o => Sys2Proof.Machine.execCass o s
  | .pref a l2 => Sys2Proof.Machine.execPref a l2 s
  | .cflush a sc => Sys2Proof.Machine.execCflush a sc s
  | .cinv a => Sys2Proof.Machine.execCinv a s
  | .fence kind sc => Sys2Proof.Machine.execFence kind sc s
  | .stashmap a b c => Sys2Proof.Machine.execStashmap a b c s
  | .stashwb a c => Sys2Proof.Machine.execStashwb a c s
  | .stashdrop a c => Sys2Proof.Machine.execStashdrop a c s
  | .swinit a b => Sys2Proof.Machine.execSwinit a b s
  | .swwait a b sc => Sys2Proof.Machine.execSwwait a b sc s
  | .swgen d b => Sys2Proof.Machine.execSwgen d b s
  | .enq a qn => Sys2Proof.Machine.execEnq a qn s
  | .deq d qn => Sys2Proof.Machine.execDeq d qn s
  | .enqtry a qn st => Sys2Proof.Machine.execEnqtry a qn st s
  | .deqtry d qn st => Sys2Proof.Machine.execDeqtry d qn st s
  | .chsend a ch => Sys2Proof.Machine.execChsend a ch s
  | .chrecv a ch => Sys2Proof.Machine.execChrecv a ch s
  | .chpoll d ch => Sys2Proof.Machine.execChpoll d ch s
  | .bararr a => Sys2Proof.Machine.execBararr a s
  | .barwait a => Sys2Proof.Machine.execBarwait a s
  | .barsync a => Sys2Proof.Machine.execBarsync a s
  | .syncm a => Sys2Proof.Machine.execSyncm a s
  | .copy o => Sys2Proof.Machine.execCopy o s
  | .copyg o => Sys2Proof.Machine.execCopyg o s
  | .regrp o => Sys2Proof.Machine.execRegrp o s
  | .publish a sc => Sys2Proof.Machine.execPublish a sc s
  | .mma o => Sys2Proof.Machine.execMma o s
  | .mmas o => Sys2Proof.Machine.execMmas o s
  | .mmat o => Sys2Proof.Machine.execMmat o s
  | .recld x b scratch => Sys2Proof.Machine.execRecld x b scratch s
  | .recset x w c => Sys2Proof.Machine.execRecset x w c s
  | .recadj x b mode => Sys2Proof.Machine.execRecadj x b mode s
  | .gensetSeed gi b => Sys2Proof.Machine.execGensetSeed gi b s
  | .gensetCtl gi b c => Sys2Proof.Machine.execGensetCtl gi b c s
  | .gensetFreq gi b => Sys2Proof.Machine.execGensetFreq gi b s
  | .genadvStream gi b => Sys2Proof.Machine.execGenadvStream gi b s
  | .genadvSeed gi b => Sys2Proof.Machine.execGenadvSeed gi b s
  | .genrd d x c => Sys2Proof.Machine.execGenrd d x c s
  | .accrd d acc c => Sys2Proof.Machine.execAccrd d acc c s
  | .accwr acc b c => Sys2Proof.Machine.execAccwr acc b c s
  | .accclr acc => Sys2Proof.Machine.execAccclr acc s
  | .acccvt acc fmt => Sys2Proof.Machine.execAcccvt acc fmt s
  | .accst o => Sys2Proof.Machine.execAccst o s
  | .stamp a b stage => Sys2Proof.Machine.execStamp a b stage s
  | .bra o => Sys2Proof.Machine.execBra o s
  | .call o => Sys2Proof.Machine.execCall o s
  | .meet o => Sys2Proof.Machine.execMeet o s
  | .rep o => Sys2Proof.Machine.execRep o s
  | .frame f => Sys2Proof.Machine.execFrame f s
  | .crew o => Sys2Proof.Machine.execCrew o s
  | .rdsys d num => Sys2Proof.Machine.execRdsys d num s
  | .wrsys a num => Sys2Proof.Machine.execWrsys a num s
  | .brx a => Sys2Proof.Machine.execBrx a s
  | .callx a => Sys2Proof.Machine.execCallx a s
  | .time d => Sys2Proof.Machine.execTime d s
  | .trap b => Sys2Proof.Machine.execTrap b s
  | .brk b => Sys2Proof.Machine.execBrk b s
  | .crewacc a => Sys2Proof.Machine.execCrewacc a s
  | .post a => Sys2Proof.Machine.execPost a s
  | .svctake d => Sys2Proof.Machine.execSvctake d s
  | .svcgive a b => Sys2Proof.Machine.execSvcgive a b s
  | .tlbinv a b => Sys2Proof.Machine.execTlbinv a b s
  | .diagMark a => Sys2Proof.Machine.execDiagMark a s
  | .diagMask d => Sys2Proof.Machine.execDiagMask d s
  | .runStart port => Sys2Proof.Machine.execRunStart port s
  | .progressRun port => Sys2Proof.Machine.execProgressRun port s
  | .loadFill op => Sys2Proof.Machine.execLoadFill op s
  | .longLatencyResult op => Sys2Proof.Machine.execLongLatencyResult op s
  | .storePerformed op => Sys2Proof.Machine.execStorePerformed op s
  | .tlbWalkComplete walk => Sys2Proof.Machine.execTlbWalkComplete walk s
  | .trapEntry port => Sys2Proof.Machine.execTrapEntry port s
  | .copyStart core => Sys2Proof.Machine.execCopyStart core s
  | .copyPieceArrival op => Sys2Proof.Machine.execCopyPieceArrival op s
  | .copyComplete op => Sys2Proof.Machine.execCopyComplete op s
  | .copyFail op => Sys2Proof.Machine.execCopyFail op s
  | .mmaFetchPoint op => Sys2Proof.Machine.execMmaFetchPoint op s
  | .mmaStart op => Sys2Proof.Machine.execMmaStart op s
  | .mmaComplete op => Sys2Proof.Machine.execMmaComplete op s
  | .accstComplete op => Sys2Proof.Machine.execAccstComplete op s
  | .channelMessageArrival op => Sys2Proof.Machine.execChannelMessageArrival op s
  | .channelCreditReturn op => Sys2Proof.Machine.execChannelCreditReturn op s
  | .publishSwap op => Sys2Proof.Machine.execPublishSwap op s
  | .crewBudgetOverrun team grp thr helper => Sys2Proof.Machine.execCrewBudgetOverrun team grp thr helper s
  | .holdOverrun port => Sys2Proof.Machine.execHoldOverrun port s
  | .watchdogExpiry team => Sys2Proof.Machine.execWatchdogExpiry team s
  | .durationOverrun team => Sys2Proof.Machine.execDurationOverrun team s
  | .haltDrainDone team => Sys2Proof.Machine.execHaltDrainDone team s
  | .dumpComplete part => Sys2Proof.Machine.execDumpComplete part s
  | .teamPlace launch spot => Sys2Proof.Machine.execTeamPlace launch spot s
  | .teamLoadComplete team => Sys2Proof.Machine.execTeamLoadComplete team s
  | .restorePlace team spot => Sys2Proof.Machine.execRestorePlace team spot s
  | .groupRetire team grp => Sys2Proof.Machine.execGroupRetire team grp s
  | .teamRetire team => Sys2Proof.Machine.execTeamRetire team s
  | .preemptionRequest team slack lent => Sys2Proof.Machine.execPreemptionRequest team slack lent s
  | .drainComplete team => Sys2Proof.Machine.execDrainComplete team s
  | .discardComplete team => Sys2Proof.Machine.execDiscardComplete team s
  | .saveComplete team => Sys2Proof.Machine.execSaveComplete team s
  | .launchArrival queue => Sys2Proof.Machine.execLaunchArrival queue s
  | .phasePrefetch part phase => Sys2Proof.Machine.execPhasePrefetch part phase s
  | .phaseFiring part phase => Sys2Proof.Machine.execPhaseFiring part phase s
  | .quiesceDone pair => Sys2Proof.Machine.execQuiesceDone pair s
  | .flushDone pair => Sys2Proof.Machine.execFlushDone pair s
  | .alignDone pair => Sys2Proof.Machine.execAlignDone pair s
  | .unpairDone pair => Sys2Proof.Machine.execUnpairDone pair s
  | .comparatorCompare pair => Sys2Proof.Machine.execComparatorCompare pair s
  | .rollbackDone pair => Sys2Proof.Machine.execRollbackDone pair s
  | .checkpoint pair => Sys2Proof.Machine.execCheckpoint pair s
  | .il2Checkpoint team => Sys2Proof.Machine.execIl2Checkpoint team s
  | .shootdownComplete op => Sys2Proof.Machine.execShootdownComplete op s
  | .contextClearComplete entry => Sys2Proof.Machine.execContextClearComplete entry s
  | .formatRangeDisableDone range => Sys2Proof.Machine.execFormatRangeDisableDone range s
  | .cancelDone part => Sys2Proof.Machine.execCancelDone part s
  | .singleStepStop team => Sys2Proof.Machine.execSingleStepStop team s
  | .partitionResetDone part => Sys2Proof.Machine.execPartitionResetDone part s
  | .traceSample part => Sys2Proof.Machine.execTraceSample part s
  | .traceSyncRecord part => Sys2Proof.Machine.execTraceSyncRecord part s
  | .hostQueueLineInvalidate queue => Sys2Proof.Machine.execHostQueueLineInvalidate queue s
  | .pairRequest pair value => Sys2Proof.Machine.execPairRequest pair value s
  | .unpairRequest pair => Sys2Proof.Machine.execUnpairRequest pair s
  | .mergeOwnershipRelease cluster => Sys2Proof.Machine.execMergeOwnershipRelease cluster s
  | .hostAccess acc => Sys2Proof.Machine.execHostAccess acc s
  | .peerAccess acc => Sys2Proof.Machine.execPeerAccess acc s
  | .memoryError at_ correctable => Sys2Proof.Machine.execMemoryError at_ correctable s
  | .patrolScrub pa found => Sys2Proof.Machine.execPatrolScrub pa found s
  | .pageMigration src dst size pte => Sys2Proof.Machine.execPageMigration src dst size pte s
  | .shootdownRequest r => Sys2Proof.Machine.execShootdownRequest r s
  | .queueRegistrationWrite queue word value => Sys2Proof.Machine.execQueueRegistrationWrite queue word value s
  | .contextEntryWrite entry word value => Sys2Proof.Machine.execContextEntryWrite entry word value s
  | .formatRangeWrite range word value => Sys2Proof.Machine.execFormatRangeWrite range word value s
  | .retentionRangeWrite part range word value => Sys2Proof.Machine.execRetentionRangeWrite part range word value s
  | .publicationEntryWrite part entry word value => Sys2Proof.Machine.execPublicationEntryWrite part entry word value s
  | .partitionTableWrite index value => Sys2Proof.Machine.execPartitionTableWrite index value s
  | .tokenBucketWrite part value => Sys2Proof.Machine.execTokenBucketWrite part value s
  | .cancelLaunch part => Sys2Proof.Machine.execCancelLaunch part s
  | .cancelGraph part => Sys2Proof.Machine.execCancelGraph part s
  | .cancelPhase part => Sys2Proof.Machine.execCancelPhase part s
  | .cancelJob part => Sys2Proof.Machine.execCancelJob part s
  | .dbgHalt part => Sys2Proof.Machine.execDbgHalt part s
  | .dbgResume part => Sys2Proof.Machine.execDbgResume part s
  | .dbgStep part => Sys2Proof.Machine.execDbgStep part s
  | .dumpRequest part => Sys2Proof.Machine.execDumpRequest part s
  | .dumpCtlRead part => Sys2Proof.Machine.execDumpCtlRead part s
  | .frLostRead part => Sys2Proof.Machine.execFrLostRead part s
  | .partitionReset part => Sys2Proof.Machine.execPartitionReset part s
  | .partModeWrite mode => Sys2Proof.Machine.execPartModeWrite mode s
  | .timeCtlWrite value => Sys2Proof.Machine.execTimeCtlWrite value s
  | .phcAdjWrite value => Sys2Proof.Machine.execPhcAdjWrite value s
  | .phcStep value => Sys2Proof.Machine.execPhcStep value s
  | .ptmResponse t2 t3 => Sys2Proof.Machine.execPtmResponse t2 t3 s
  | .powerLimitWrite value => Sys2Proof.Machine.execPowerLimitWrite value s
  | .clockStepDown khz => Sys2Proof.Machine.execClockStepDown khz s
  | .thermalThrottle temp khz => Sys2Proof.Machine.execThermalThrottle temp khz s
  | .thermtrip recorded => Sys2Proof.Machine.execThermtrip recorded s
  | .portbLinkUp pages => Sys2Proof.Machine.execPortbLinkUp pages s
  | .lifeHistogramSample temp watts => Sys2Proof.Machine.execLifeHistogramSample temp watts s
  | .errorCounterClear off => Sys2Proof.Machine.execErrorCounterClear off s
  | .satMemRead part => Sys2Proof.Machine.execSatMemRead part s
  | .registerWrite w => Sys2Proof.Machine.execRegisterWrite w s
  | .hostSnoop pa write => Sys2Proof.Machine.execHostSnoop pa write s
  | .ret => Sys2Proof.Machine.execRet s
  | .exit => Sys2Proof.Machine.execExit s
  | .nop => Sys2Proof.Machine.execNop s
  | .yield => Sys2Proof.Machine.execYield s
  | .rejoin => Sys2Proof.Machine.execRejoin s
  | .eret => Sys2Proof.Machine.execEret s
  | .ckpt => Sys2Proof.Machine.execCkpt s
  | .crewend => Sys2Proof.Machine.execCrewend s
  | .tlbWalkStart => Sys2Proof.Machine.execTlbWalkStart s
  | .migrationDone => Sys2Proof.Machine.execMigrationDone s
  | .mbxIdentityClaim => Sys2Proof.Machine.execMbxIdentityClaim s
  | .mbxRaiseFusedMinimum => Sys2Proof.Machine.execMbxRaiseFusedMinimum s
  | .mbxLifeHistograms => Sys2Proof.Machine.execMbxLifeHistograms s
  | .mbxRecoveryImage => Sys2Proof.Machine.execMbxRecoveryImage s
  | .mbxFaultLog => Sys2Proof.Machine.execMbxFaultLog s
  | .mbxCommandDone => Sys2Proof.Machine.execMbxCommandDone s
  | .mbxStatusRead => Sys2Proof.Machine.execMbxStatusRead s
  | .ptmRequest => Sys2Proof.Machine.execPtmRequest s
  | .ptmCtlRead => Sys2Proof.Machine.execPtmCtlRead s
  | .ppsEdge => Sys2Proof.Machine.execPpsEdge s
  | .portbLinkLoss => Sys2Proof.Machine.execPortbLinkLoss s
  | .portbStatusRead => Sys2Proof.Machine.execPortbStatusRead s
  | .deviceReset => Sys2Proof.Machine.execDeviceReset s
  | .bootStageComplete => Sys2Proof.Machine.execBootStageComplete s
  | .lifeHistogramSave => Sys2Proof.Machine.execLifeHistogramSave s
  | .portbPtmRequest => Sys2Proof.Machine.execPortbPtmRequest s
  | .powerLoss => Sys2Proof.Machine.execPowerLoss s
  | .orderlyShutdown => Sys2Proof.Machine.execOrderlyShutdown s

end Sys2Proof.Machine
end

