-- ==== Sys2Proof/Machine/Step.lean ====
section
/-! DEFINITION. One step of the machine: an event, the issue of a word, or an idle clk; and the state whose next step
runs a given word. -/

namespace Sys2Proof.Machine

/-- One step. -/
def step (s : State) : Host.Outcome State Fault Refusal :=
  match nextAct s with
  | .stopped => .fault .clockStopped
  | .quiet s => .next s
  | .perform i clk s => thenDo (afterEvent clk) (exec i s)
  | .issue i s r => thenDo (afterWord r) (exec i s)

/-- The state with an instruction stored where the next step fetches it. DESIGN CHOICE: log entry 20. -/
def State.withFetchWord (s : State) (nbits w : Nat) : State := placeWordNext s nbits w

end Sys2Proof.Machine
end

