-- ==== Sys2Proof/Laws/Fields.lean ====
section
/-! SUPPORT. The fields of each encoded word read back (R212 to R214), and the codes of operands and options read back. -/

namespace Sys2Proof

/-! ## Words by format -/

/-- The fields of a word of this format. -/
def IsR (op d a b f g w : Nat) : Prop :=
  w < 2 ^ 32 ∧
  fld w 28 4 = op / 8 ∧
  fld w 25 3 = op % 8 ∧
  fld w 19 6 = d ∧
  fld w 13 6 = a ∧
  fld w 7 6 = b ∧
  fld w 6 1 = f ∧
  fld w 0 6 = g ∧
  fld w 7 2 = b % 4
theorem isR {op d a b f g : Nat} (ho : op < 128) (hd : d < 64) (ha : a < 64) (hb : b < 64) (hf : f < 2) (hg : g < 64) :
    IsR op d a b f g (opw op (d * 2 ^ 19 + a * 2 ^ 13 + b * 2 ^ 7 + f * 2 ^ 6 + g)) := by
  simp only [IsR, fld, opw, Nat.reducePow]; refine ⟨?_, ?_, ?_, ?_, ?_, ?_, ?_, ?_, ?_⟩ <;> omega

/-- The fields of a word of this format. -/
def IsCmp (op cc a b g w : Nat) : Prop :=
  w < 2 ^ 32 ∧
  fld w 28 4 = op / 8 ∧
  fld w 25 3 = op % 8 ∧
  fld w 19 2 = cc ∧
  fld w 13 6 = a ∧
  fld w 7 6 = b ∧
  fld w 0 6 = g ∧
  fld w 21 4 = 0 ∧
  fld w 6 1 = 0
theorem isCmp {op cc a b g : Nat} (ho : op < 128) (hcc : cc < 4) (ha : a < 64) (hb : b < 64) (hg : g < 64) :
    IsCmp op cc a b g (opw op (cc * 2 ^ 19 + a * 2 ^ 13 + b * 2 ^ 7 + g)) := by
  simp only [IsCmp, fld, opw, Nat.reducePow]; refine ⟨?_, ?_, ?_, ?_, ?_, ?_, ?_, ?_, ?_⟩ <;> omega

/-- The fields of a word of this format. -/
def IsSel (op d a b g w : Nat) : Prop :=
  w < 2 ^ 32 ∧
  fld w 28 4 = op / 8 ∧
  fld w 25 3 = op % 8 ∧
  fld w 19 6 = d ∧
  fld w 13 6 = a ∧
  fld w 7 6 = b ∧
  fld w 0 6 = g ∧
  fld w 6 1 = 0
theorem isSel {op d a b g : Nat} (ho : op < 128) (hd : d < 64) (ha : a < 64) (hb : b < 64) (hg : g < 64) :
    IsSel op d a b g (opw op (d * 2 ^ 19 + a * 2 ^ 13 + b * 2 ^ 7 + g)) := by
  simp only [IsSel, fld, opw, Nat.reducePow]; refine ⟨?_, ?_, ?_, ?_, ?_, ?_, ?_, ?_⟩ <;> omega

/-- The fields of a word of this format. -/
def IsT (op d a b c f w : Nat) : Prop :=
  w < 2 ^ 32 ∧
  fld w 28 4 = op / 8 ∧
  fld w 25 3 = op % 8 ∧
  fld w 19 6 = d ∧
  fld w 13 6 = a ∧
  fld w 7 6 = b ∧
  fld w 1 6 = c ∧
  fld w 0 1 = f
theorem isT {op d a b c f : Nat} (ho : op < 128) (hd : d < 64) (ha : a < 64) (hb : b < 64) (hc : c < 64) (hf : f < 2) :
    IsT op d a b c f (opw op (d * 2 ^ 19 + a * 2 ^ 13 + b * 2 ^ 7 + c * 2 + f)) := by
  simp only [IsT, fld, opw, Nat.reducePow]; refine ⟨?_, ?_, ?_, ?_, ?_, ?_, ?_, ?_⟩ <;> omega

/-- The fields of a word of this format. -/
def IsT0 (op d a b c w : Nat) : Prop :=
  w < 2 ^ 32 ∧
  fld w 28 4 = op / 8 ∧
  fld w 25 3 = op % 8 ∧
  fld w 19 6 = d ∧
  fld w 13 6 = a ∧
  fld w 7 6 = b ∧
  fld w 1 6 = c ∧
  fld w 0 1 = 0
theorem isT0 {op d a b c : Nat} (ho : op < 128) (hd : d < 64) (ha : a < 64) (hb : b < 64) (hc : c < 64) :
    IsT0 op d a b c (opw op (d * 2 ^ 19 + a * 2 ^ 13 + b * 2 ^ 7 + c * 2)) := by
  simp only [IsT0, fld, opw, Nat.reducePow]; refine ⟨?_, ?_, ?_, ?_, ?_, ?_, ?_, ?_⟩ <;> omega

/-- The fields of a word of this format. -/
def IsI (op d a m w : Nat) : Prop :=
  w < 2 ^ 32 ∧
  fld w 28 4 = op / 8 ∧
  fld w 25 3 = op % 8 ∧
  fld w 19 6 = d ∧
  fld w 13 6 = a ∧
  fld w 0 13 = m
theorem isI {op d a m : Nat} (ho : op < 128) (hd : d < 64) (ha : a < 64) (hm : m < 8192) :
    IsI op d a m (opw op (d * 2 ^ 19 + a * 2 ^ 13 + m)) := by
  simp only [IsI, fld, opw, Nat.reducePow]; refine ⟨?_, ?_, ?_, ?_, ?_, ?_⟩ <;> omega

/-- The fields of a word of this format. -/
def IsSh (op d a m w : Nat) : Prop :=
  w < 2 ^ 32 ∧
  fld w 28 4 = op / 8 ∧
  fld w 25 3 = op % 8 ∧
  fld w 19 6 = d ∧
  fld w 13 6 = a ∧
  fld w 0 5 = m ∧
  fld w 5 8 = 0
theorem isSh {op d a m : Nat} (ho : op < 128) (hd : d < 64) (ha : a < 64) (hm : m < 32) :
    IsSh op d a m (opw op (d * 2 ^ 19 + a * 2 ^ 13 + m)) := by
  simp only [IsSh, fld, opw, Nat.reducePow]; refine ⟨?_, ?_, ?_, ?_, ?_, ?_, ?_⟩ <;> omega

/-- The fields of a word of this format. -/
def IsCmpi (op cc a m w : Nat) : Prop :=
  w < 2 ^ 32 ∧
  fld w 28 4 = op / 8 ∧
  fld w 25 3 = op % 8 ∧
  fld w 19 2 = cc ∧
  fld w 13 6 = a ∧
  fld w 0 13 = m ∧
  fld w 21 4 = 0
theorem isCmpi {op cc a m : Nat} (ho : op < 128) (hcc : cc < 4) (ha : a < 64) (hm : m < 8192) :
    IsCmpi op cc a m (opw op (cc * 2 ^ 19 + a * 2 ^ 13 + m)) := by
  simp only [IsCmpi, fld, opw, Nat.reducePow]; refine ⟨?_, ?_, ?_, ?_, ?_, ?_, ?_⟩ <;> omega

/-- The fields of a word of this format. -/
def IsMovi (op d m w : Nat) : Prop :=
  w < 2 ^ 32 ∧
  fld w 28 4 = op / 8 ∧
  fld w 25 3 = op % 8 ∧
  fld w 19 6 = d ∧
  fld w 0 13 = m ∧
  fld w 13 6 = 0
theorem isMovi {op d m : Nat} (ho : op < 128) (hd : d < 64) (hm : m < 8192) :
    IsMovi op d m (opw op (d * 2 ^ 19 + m)) := by
  simp only [IsMovi, fld, opw, Nat.reducePow]; refine ⟨?_, ?_, ?_, ?_, ?_, ?_⟩ <;> omega

/-- The fields of a word of this format. -/
def IsL (op d m w : Nat) : Prop :=
  w < 2 ^ 32 ∧
  fld w 28 4 = op / 8 ∧
  fld w 25 3 = op % 8 ∧
  fld w 19 6 = d ∧
  fld w 0 19 = m
theorem isL {op d m : Nat} (ho : op < 128) (hd : d < 64) (hm : m < 524288) :
    IsL op d m (opw op (d * 2 ^ 19 + m)) := by
  simp only [IsL, fld, opw, Nat.reducePow]; refine ⟨?_, ?_, ?_, ?_, ?_⟩ <;> omega

/-- The fields of a word of this format. -/
def IsV (op d a s t rm f w : Nat) : Prop :=
  w < 2 ^ 32 ∧
  fld w 28 4 = op / 8 ∧
  fld w 25 3 = op % 8 ∧
  fld w 19 6 = d ∧
  fld w 13 6 = a ∧
  fld w 9 4 = s ∧
  fld w 5 4 = t ∧
  fld w 3 2 = rm ∧
  fld w 2 1 = f ∧
  fld w 0 2 = 0
theorem isV {op d a s t rm f : Nat} (ho : op < 128) (hd : d < 64) (ha : a < 64) (hs : s < 16) (ht : t < 16) (hrm : rm < 4) (hf : f < 2) :
    IsV op d a s t rm f (opw op (d * 2 ^ 19 + a * 2 ^ 13 + s * 2 ^ 9 + t * 2 ^ 5 + rm * 2 ^ 3 + f * 2 ^ 2)) := by
  simp only [IsV, fld, opw, Nat.reducePow]; refine ⟨?_, ?_, ?_, ?_, ?_, ?_, ?_, ?_, ?_, ?_⟩ <;> omega

/-- The fields of a word of this format. -/
def IsE (op d a b fn w : Nat) : Prop :=
  w < 2 ^ 32 ∧
  fld w 28 4 = op / 8 ∧
  fld w 25 3 = op % 8 ∧
  fld w 19 6 = d ∧
  fld w 13 6 = a ∧
  fld w 7 6 = b ∧
  fld w 1 6 = fn ∧
  fld w 0 1 = 0 ∧
  fld w 1 3 = fn % 8 ∧
  fld w 4 3 = fn / 8 ∧
  fld w 4 1 = fn / 8 % 2 ∧
  fld w 5 2 = fn / 16 ∧
  fld w 2 3 = fn / 2 % 8 ∧
  fld w 1 1 = fn % 2
theorem isE {op d a b fn : Nat} (ho : op < 128) (hd : d < 64) (ha : a < 64) (hb : b < 64) (hfn : fn < 64) :
    IsE op d a b fn (opw op (d * 2 ^ 19 + a * 2 ^ 13 + b * 2 ^ 7 + fn * 2)) := by
  simp only [IsE, fld, opw, Nat.reducePow]; refine ⟨?_, ?_, ?_, ?_, ?_, ?_, ?_, ?_, ?_, ?_, ?_, ?_, ?_, ?_⟩ <;> omega

/-- The fields of a word of this format. -/
def IsMu (op d kp ix x m pol sc w : Nat) : Prop :=
  w < 2 ^ 32 ∧
  fld w 28 4 = op / 8 ∧
  fld w 25 3 = op % 8 ∧
  fld w 19 6 = d ∧
  fld w 15 4 = kp ∧
  fld w 10 5 = ix ∧
  fld w 9 1 = x ∧
  fld w 4 5 = m ∧
  fld w 2 2 = pol ∧
  fld w 0 2 = sc ∧
  fld w 9 6 = 2 * ix + x
theorem isMu {op d kp ix x m pol sc : Nat} (ho : op < 128) (hd : d < 64) (hkp : kp < 16) (hix : ix < 32) (hx : x < 2) (hm : m < 32) (hpol : pol < 4) (hsc : sc < 4) :
    IsMu op d kp ix x m pol sc (opw op (d * 2 ^ 19 + kp * 2 ^ 15 + ix * 2 ^ 10 + x * 2 ^ 9 + m * 2 ^ 4 + pol * 2 ^ 2 + sc)) := by
  simp only [IsMu, fld, opw, Nat.reducePow]; refine ⟨?_, ?_, ?_, ?_, ?_, ?_, ?_, ?_, ?_, ?_, ?_⟩ <;> omega

/-- The fields of a word of this format. -/
def IsLdk (op d kp m pol sc w : Nat) : Prop :=
  w < 2 ^ 32 ∧
  fld w 28 4 = op / 8 ∧
  fld w 25 3 = op % 8 ∧
  fld w 19 6 = d ∧
  fld w 15 4 = kp ∧
  fld w 4 5 = m ∧
  fld w 2 2 = pol ∧
  fld w 0 2 = sc ∧
  fld w 9 6 = 0
theorem isLdk {op d kp m pol sc : Nat} (ho : op < 128) (hd : d < 64) (hkp : kp < 16) (hm : m < 32) (hpol : pol < 4) (hsc : sc < 4) :
    IsLdk op d kp m pol sc (opw op (d * 2 ^ 19 + kp * 2 ^ 15 + m * 2 ^ 4 + pol * 2 ^ 2 + sc)) := by
  simp only [IsLdk, fld, opw, Nat.reducePow]; refine ⟨?_, ?_, ?_, ?_, ?_, ?_, ?_, ?_, ?_⟩ <;> omega

/-- The fields of a word of this format. -/
def IsMp (op d np m pol sc g w : Nat) : Prop :=
  w < 2 ^ 32 ∧
  fld w 28 4 = op / 8 ∧
  fld w 25 3 = op % 8 ∧
  fld w 19 6 = d ∧
  fld w 15 4 = np ∧
  fld w 10 5 = m ∧
  fld w 8 2 = pol ∧
  fld w 6 2 = sc ∧
  fld w 0 6 = g
theorem isMp {op d np m pol sc g : Nat} (ho : op < 128) (hd : d < 64) (hnp : np < 16) (hm : m < 32) (hpol : pol < 4) (hsc : sc < 4) (hg : g < 64) :
    IsMp op d np m pol sc g (opw op (d * 2 ^ 19 + np * 2 ^ 15 + m * 2 ^ 10 + pol * 2 ^ 8 + sc * 2 ^ 6 + g)) := by
  simp only [IsMp, fld, opw, Nat.reducePow]; refine ⟨?_, ?_, ?_, ?_, ?_, ?_, ?_, ?_, ?_⟩ <;> omega

/-- The fields of a word of this format. -/
def IsS (op d a z sp m sc w : Nat) : Prop :=
  w < 2 ^ 32 ∧
  fld w 28 4 = op / 8 ∧
  fld w 25 3 = op % 8 ∧
  fld w 19 6 = d ∧
  fld w 13 6 = a ∧
  fld w 10 3 = z ∧
  fld w 9 1 = sp ∧
  fld w 2 7 = m ∧
  fld w 0 2 = sc
theorem isS {op d a z sp m sc : Nat} (ho : op < 128) (hd : d < 64) (ha : a < 64) (hz : z < 8) (hsp : sp < 2) (hm : m < 128) (hsc : sc < 4) :
    IsS op d a z sp m sc (opw op (d * 2 ^ 19 + a * 2 ^ 13 + z * 2 ^ 10 + sp * 2 ^ 9 + m * 2 ^ 2 + sc)) := by
  simp only [IsS, fld, opw, Nat.reducePow]; refine ⟨?_, ?_, ?_, ?_, ?_, ?_, ?_, ?_, ?_⟩ <;> omega

/-- The fields of a word of this format. -/
def IsW (op d a b c w : Nat) : Prop :=
  w < 2 ^ 32 ∧
  fld w 28 4 = op / 8 ∧
  fld w 25 3 = op % 8 ∧
  fld w 19 6 = d ∧
  fld w 13 6 = a ∧
  fld w 7 6 = b ∧
  fld w 1 6 = c ∧
  fld w 0 1 = 0
theorem isW {op d a b c : Nat} (ho : op < 128) (hd : d < 64) (ha : a < 64) (hb : b < 64) (hc : c < 64) :
    IsW op d a b c (opw op (d * 2 ^ 19 + a * 2 ^ 13 + b * 2 ^ 7 + c * 2)) := by
  simp only [IsW, fld, opw, Nat.reducePow]; refine ⟨?_, ?_, ?_, ?_, ?_, ?_, ?_, ?_⟩ <;> omega

/-- The fields of a word of this format. -/
def IsA (op d np v aop ord sc p w : Nat) : Prop :=
  w < 2 ^ 32 ∧
  fld w 28 4 = op / 8 ∧
  fld w 25 3 = op % 8 ∧
  fld w 19 6 = d ∧
  fld w 15 4 = np ∧
  fld w 9 6 = v ∧
  fld w 5 4 = aop ∧
  fld w 3 2 = ord ∧
  fld w 1 2 = sc ∧
  fld w 0 1 = p ∧
  fld w 3 1 = ord % 2 ∧
  fld w 4 1 = ord / 2
theorem isA {op d np v aop ord sc p : Nat} (ho : op < 128) (hd : d < 64) (hnp : np < 16) (hv : v < 64) (haop : aop < 16) (hord : ord < 4) (hsc : sc < 4) (hp : p < 2) :
    IsA op d np v aop ord sc p (opw op (d * 2 ^ 19 + np * 2 ^ 15 + v * 2 ^ 9 + aop * 2 ^ 5 + ord * 2 ^ 3 + sc * 2 + p)) := by
  simp only [IsA, fld, opw, Nat.reducePow]; refine ⟨?_, ?_, ?_, ?_, ?_, ?_, ?_, ?_, ?_, ?_, ?_, ?_⟩ <;> omega

/-- The fields of a word of this format. -/
def IsAs (op d a b aop kind sc w : Nat) : Prop :=
  w < 2 ^ 32 ∧
  fld w 28 4 = op / 8 ∧
  fld w 25 3 = op % 8 ∧
  fld w 19 6 = d ∧
  fld w 13 6 = a ∧
  fld w 7 6 = b ∧
  fld w 3 4 = aop ∧
  fld w 2 1 = kind ∧
  fld w 0 2 = sc
theorem isAs {op d a b aop kind sc : Nat} (ho : op < 128) (hd : d < 64) (ha : a < 64) (hb : b < 64) (haop : aop < 16) (hkind : kind < 2) (hsc : sc < 4) :
    IsAs op d a b aop kind sc (opw op (d * 2 ^ 19 + a * 2 ^ 13 + b * 2 ^ 7 + aop * 2 ^ 3 + kind * 2 ^ 2 + sc)) := by
  simp only [IsAs, fld, opw, Nat.reducePow]; refine ⟨?_, ?_, ?_, ?_, ?_, ?_, ?_, ?_, ?_⟩ <;> omega

/-- The fields of a word of this format. -/
def IsG (op a b c fn sc w : Nat) : Prop :=
  w < 2 ^ 32 ∧
  fld w 28 4 = op / 8 ∧
  fld w 25 3 = op % 8 ∧
  fld w 19 6 = a ∧
  fld w 13 6 = b ∧
  fld w 7 6 = c ∧
  fld w 3 4 = fn ∧
  fld w 1 2 = sc ∧
  fld w 0 1 = 0 ∧
  fld w 0 3 = 2 * sc ∧
  fld w 13 1 = b % 2 ∧
  fld w 7 1 = c % 2 ∧
  fld w 19 2 = a % 4 ∧
  fld w 21 4 = a / 4 ∧
  fld w 7 2 = c % 4 ∧
  fld w 9 3 = c / 4 % 8 ∧
  fld w 12 1 = c / 32 ∧
  fld w 19 3 = a % 8 ∧
  fld w 22 2 = a / 8 % 4
theorem isG {op a b c fn sc : Nat} (ho : op < 128) (ha : a < 64) (hb : b < 64) (hc : c < 64) (hfn : fn < 16) (hsc : sc < 4) :
    IsG op a b c fn sc (opw op (a * 2 ^ 19 + b * 2 ^ 13 + c * 2 ^ 7 + fn * 2 ^ 3 + sc * 2)) := by
  simp only [IsG, fld, opw, Nat.reducePow]; refine ⟨?_, ?_, ?_, ?_, ?_, ?_, ?_, ?_, ?_, ?_, ?_, ?_, ?_, ?_, ?_, ?_, ?_, ?_, ?_⟩ <;> omega

/-- The fields of a word of this format. -/
def IsX (op acc ra rb wt st z w : Nat) : Prop :=
  w < 2 ^ 32 ∧
  fld w 28 4 = op / 8 ∧
  fld w 25 3 = op % 8 ∧
  fld w 23 2 = acc ∧
  fld w 19 4 = ra ∧
  fld w 15 4 = rb ∧
  fld w 7 8 = wt ∧
  fld w 4 3 = st ∧
  fld w 3 1 = z ∧
  fld w 0 3 = 0
theorem isX {op acc ra rb wt st z : Nat} (ho : op < 128) (hacc : acc < 4) (hra : ra < 16) (hrb : rb < 16) (hwt : wt < 256) (hst : st < 8) (hz : z < 2) :
    IsX op acc ra rb wt st z (opw op (acc * 2 ^ 23 + ra * 2 ^ 19 + rb * 2 ^ 15 + wt * 2 ^ 7 + st * 2 ^ 4 + z * 2 ^ 3)) := by
  simp only [IsX, fld, opw, Nat.reducePow]; refine ⟨?_, ?_, ?_, ?_, ?_, ?_, ?_, ?_, ?_, ?_⟩ <;> omega

/-- The fields of a word of this format. -/
def IsB (op g m w : Nat) : Prop :=
  w < 2 ^ 32 ∧
  fld w 28 4 = op / 8 ∧
  fld w 25 3 = op % 8 ∧
  fld w 19 6 = g ∧
  fld w 0 19 = m
theorem isB {op g m : Nat} (ho : op < 128) (hg : g < 64) (hm : m < 524288) :
    IsB op g m (opw op (g * 2 ^ 19 + m)) := by
  simp only [IsB, fld, opw, Nat.reducePow]; refine ⟨?_, ?_, ?_, ?_, ?_⟩ <;> omega

/-- The fields of a word of this format. -/
def IsCrew (op d a c h x k w : Nat) : Prop :=
  w < 2 ^ 32 ∧
  fld w 28 4 = op / 8 ∧
  fld w 25 3 = op % 8 ∧
  fld w 19 6 = d ∧
  fld w 13 6 = a ∧
  fld w 9 4 = c ∧
  fld w 6 3 = h ∧
  fld w 5 1 = x ∧
  fld w 2 3 = k ∧
  fld w 0 2 = 0
theorem isCrew {op d a c h x k : Nat} (ho : op < 128) (hd : d < 64) (ha : a < 64) (hc : c < 16) (hh : h < 8) (hx : x < 2) (hk : k < 8) :
    IsCrew op d a c h x k (opw op (d * 2 ^ 19 + a * 2 ^ 13 + c * 2 ^ 9 + h * 2 ^ 6 + x * 2 ^ 5 + k * 2 ^ 2)) := by
  simp only [IsCrew, fld, opw, Nat.reducePow]; refine ⟨?_, ?_, ?_, ?_, ?_, ?_, ?_, ?_, ?_, ?_⟩ <;> omega

/-- The fields of a word of this format. -/
def IsRep (op n m w : Nat) : Prop :=
  w < 2 ^ 32 ∧
  fld w 28 4 = op / 8 ∧
  fld w 25 3 = op % 8 ∧
  fld w 13 12 = n ∧
  fld w 0 13 = m
theorem isRep {op n m : Nat} (ho : op < 128) (hn : n < 4096) (hm : m < 8192) :
    IsRep op n m (opw op (n * 2 ^ 13 + m)) := by
  simp only [IsRep, fld, opw, Nat.reducePow]; refine ⟨?_, ?_, ?_, ?_, ?_⟩ <;> omega

/-- The fields of a word of this format. -/
def IsFr (op f w : Nat) : Prop :=
  w < 2 ^ 32 ∧
  fld w 28 4 = op / 8 ∧
  fld w 25 3 = op % 8 ∧
  fld w 19 6 = f ∧
  fld w 0 19 = 0
theorem isFr {op f : Nat} (ho : op < 128) (hf : f < 64) :
    IsFr op f (opw op (f * 2 ^ 19)) := by
  simp only [IsFr, fld, opw, Nat.reducePow]; refine ⟨?_, ?_, ?_, ?_, ?_⟩ <;> omega

/-- The fields of a word of this format. -/
def IsSys (op d n w : Nat) : Prop :=
  w < 2 ^ 32 ∧
  fld w 28 4 = op / 8 ∧
  fld w 25 3 = op % 8 ∧
  fld w 19 6 = d ∧
  fld w 7 12 = n ∧
  fld w 0 7 = 0
theorem isSys {op d n : Nat} (ho : op < 128) (hd : d < 64) (hn : n < 4096) :
    IsSys op d n (opw op (d * 2 ^ 19 + n * 2 ^ 7)) := by
  simp only [IsSys, fld, opw, Nat.reducePow]; refine ⟨?_, ?_, ?_, ?_, ?_, ?_⟩ <;> omega

/-! ## Codes -/

theorem Src.code_lt (a : Src) : a.code < 64 := by cases a <;> simp [Src.code] <;> omega
@[simp] theorem Src.ofCode_code (a : Src) : Src.ofCode a.code = a := by
  cases a with
  | q i => revert i; decide
  | n i => revert i; decide
  | k i => revert i; decide
theorem Dst.code_lt (d : Dst) : d.code < 64 := by cases d <;> simp [Dst.code] <;> omega
@[simp] theorem Dst.ofCode_code (d : Dst) : Dst.ofCode d.code = some d := by
  cases d with
  | n i => revert i; decide
  | k i => revert i; decide
  | push => rfl

theorem Cond.code_lt (x : Cond) : x.code < 16 := by cases x <;> decide
@[simp] theorem Cond.ofCode_code (x : Cond) : Cond.ofCode x.code = x := by cases x <;> rfl
theorem RM.code_lt (x : RM) : x.code < 4 := by cases x <;> decide
@[simp] theorem RM.ofCode_code (x : RM) : RM.ofCode x.code = x := by cases x <;> rfl
theorem NumTy.code_lt (x : NumTy) : x.code < 11 := by cases x <;> decide
@[simp] theorem NumTy.ofCode_code (x : NumTy) : NumTy.ofCode x.code = some x := by cases x <;> rfl
theorem HalfTy.code_lt (x : HalfTy) : x.code < 2 := by cases x <;> decide
@[simp] theorem HalfTy.ofCode_code (x : HalfTy) : HalfTy.ofCode x.code = x := by cases x <;> rfl
theorem BfpW.code_lt (x : BfpW) : x.code < 7 := by cases x <;> decide
@[simp] theorem BfpW.ofCode_code (x : BfpW) : BfpW.ofCode x.code = some x := by cases x <;> rfl
theorem Scope.code_lt (x : Scope) : x.code < 4 := by cases x <;> decide
@[simp] theorem Scope.ofCode_code (x : Scope) : Scope.ofCode x.code = x := by cases x <;> rfl
theorem Policy.code_lt (x : Policy) : x.code < 4 := by cases x <;> decide
@[simp] theorem Policy.ofCode_code (x : Policy) : Policy.ofCode x.code = x := by cases x <;> rfl
theorem MemOrd.code_lt (x : MemOrd) : x.code < 4 := by cases x <;> decide
@[simp] theorem MemOrd.ofCode_code (x : MemOrd) : MemOrd.ofCode x.code = x := by cases x <;> rfl
theorem Aop.code_lt (x : Aop) : x.code < 13 := by cases x <;> decide
@[simp] theorem Aop.ofCode_code (x : Aop) : Aop.ofCode x.code = some x := by cases x <;> rfl
theorem SSize.code_lt (x : SSize) : x.code < 7 := by cases x <;> decide
@[simp] theorem SSize.ofCode_code (x : SSize) : SSize.ofCode x.code = some x := by cases x <;> rfl
theorem RelayMode.code_lt (x : RelayMode) : x.code < 4 := by cases x <;> decide
@[simp] theorem RelayMode.ofCode_code (x : RelayMode) : RelayMode.ofCode x.code = x := by cases x <;> rfl
theorem CensusMode.code_lt (x : CensusMode) : x.code < 4 := by cases x <;> decide
@[simp] theorem CensusMode.ofCode_code (x : CensusMode) : CensusMode.ofCode x.code = x := by cases x <;> rfl
theorem RedMode.code_lt (x : RedMode) : x.code < 8 := by cases x <;> decide
@[simp] theorem RedMode.ofCode_code (x : RedMode) : RedMode.ofCode x.code = x := by cases x <;> rfl
theorem PeersMode.code_lt (x : PeersMode) : x.code < 2 := by cases x <;> decide
@[simp] theorem PeersMode.ofCode_code (x : PeersMode) : PeersMode.ofCode x.code = x := by cases x <;> rfl
theorem LeaderMode.code_lt (x : LeaderMode) : x.code < 2 := by cases x <;> decide
@[simp] theorem LeaderMode.ofCode_code (x : LeaderMode) : LeaderMode.ofCode x.code = x := by cases x <;> rfl
theorem FenceKind.code_lt (x : FenceKind) : x.code < 4 := by cases x <;> decide
@[simp] theorem FenceKind.ofCode_code (x : FenceKind) : FenceKind.ofCode x.code = some x := by cases x <;> rfl
theorem Comb.code_lt (x : Comb) : x.code < 8 := by cases x <;> decide
@[simp] theorem Comb.ofCode_code (x : Comb) : Comb.ofCode x.code = x := by cases x <;> rfl
theorem AdjMode.code_lt (x : AdjMode) : x.code < 3 := by cases x <;> decide
@[simp] theorem AdjMode.ofCode_code (x : AdjMode) : AdjMode.ofCode x.code = some x := by cases x <;> rfl
theorem Stage.code_lt (x : Stage) : x.code < 6 := by cases x <;> decide
@[simp] theorem Stage.ofCode_code (x : Stage) : Stage.ofCode x.code = some x := by cases x <;> rfl
theorem AccFmt.code_lt (x : AccFmt) : x.code < 64 := by rcases x with _ | _ | w <;> first | decide | (cases w <;> decide)
@[simp] theorem AccFmt.ofCode_code (x : AccFmt) : AccFmt.ofCode x.code = some x := by
  rcases x with _ | _ | w <;> first | rfl | (cases w <;> rfl)
theorem StMode.code_lt (x : StMode) : x.code < 16 := by rcases x with _ | _ | _ | _ | w <;> first | decide | (cases w <;> decide)
@[simp] theorem StMode.ofCode_code (x : StMode) : StMode.ofCode x.code = some x := by
  rcases x with _ | _ | _ | _ | w <;> first | rfl | (cases w <;> rfl)
theorem Guard.code_lt (g : Guard) : g.code < 64 := by
  have := g.cond.code_lt; have := g.cc.isLt; simp only [Guard.code]; omega
@[simp] theorem Guard.ofCode_code (g : Guard) : Guard.ofCode g.code = g := by
  have := g.cond.code_lt
  simp only [Guard.code, Guard.ofCode]
  rw [show (16 * g.cc.val + g.cond.code) / 16 = g.cc.val by omega, show (16 * g.cc.val + g.cond.code) % 16 = g.cond.code by omega]
  simp [Fin.ofNat, Nat.mod_eq_of_lt g.cc.isLt]
theorem bit_lt (b : Bool) : bit b < 2 := by cases b <;> decide
@[simp] theorem bit_beq_one (b : Bool) : (bit b == 1) = b := by cases b <;> rfl
@[simp] theorem fin_ofNat_val {n : Nat} [NeZero n] (i : Fin n) : Fin.ofNat n i.val = i := by
  simp [Fin.ofNat, Nat.mod_eq_of_lt i.isLt]
@[simp] theorem bv_ofNat_toNat {n : Nat} (x : BitVec n) : BitVec.ofNat n x.toNat = x := by simp

end Sys2Proof
end

