-- ==== Sys2Proof/Laws/Formats.lean ====
section
/-! SUPPORT. The way from a word to its format by the opcode map (R222), and the decoders of the formats on words whose
fields are known (R212 to R214). -/

namespace Sys2Proof

set_option linter.unusedSimpArgs false

/-! ## The opcode map (R222) -/

theorem to_decRow00 {v : Nat} (h : fld v 28 4 = 0) : decodeFields v = decRow00 v := by simp only [decodeFields, h]
theorem to_decRow08 {v : Nat} (h : fld v 28 4 = 1) : decodeFields v = decRow08 v := by simp only [decodeFields, h]
theorem to_decRow10 {v : Nat} (h : fld v 28 4 = 2) : decodeFields v = decRow10 v := by simp only [decodeFields, h]
theorem to_decRow18 {v : Nat} (h : fld v 28 4 = 3) : decodeFields v = decRow18 v := by simp only [decodeFields, h]
theorem to_decRow20 {v : Nat} (h : fld v 28 4 = 4) : decodeFields v = decRow20 v := by simp only [decodeFields, h]
theorem to_decRow28 {v : Nat} (h : fld v 28 4 = 5) : decodeFields v = decRow28 v := by simp only [decodeFields, h]
theorem to_decRow30 {v : Nat} (h : fld v 28 4 = 6) : decodeFields v = decRow30 v := by simp only [decodeFields, h]
theorem to_decRow38 {v : Nat} (h : fld v 28 4 = 7) : decodeFields v = decRow38 v := by simp only [decodeFields, h]
theorem to_decRow40 {v : Nat} (h : fld v 28 4 = 8) : decodeFields v = decRow40 v := by simp only [decodeFields, h]
theorem to_decRow48 {v : Nat} (h : fld v 28 4 = 9) : decodeFields v = decRow48 v := by simp only [decodeFields, h]
theorem to_decRow50 {v : Nat} (h : fld v 28 4 = 10) : decodeFields v = decRow50 v := by simp only [decodeFields, h]
theorem to_decRow58 {v : Nat} (h : fld v 28 4 = 11) : decodeFields v = decRow58 v := by simp only [decodeFields, h]
theorem to_decRow60 {v : Nat} (h : fld v 28 4 = 12) : decodeFields v = decRow60 v := by simp only [decodeFields, h]
theorem to_decRow68 {v : Nat} (h : fld v 28 4 = 13) : decodeFields v = decRow68 v := by simp only [decodeFields, h]
theorem to_decRow70 {v : Nat} (h : fld v 28 4 = 14) : decodeFields v = decRow70 v := by simp only [decodeFields, h]
theorem to_decRow78 {v : Nat} (h : fld v 28 4 = 15) : decodeFields v = decRow78 v := by simp only [decodeFields, h]
theorem decRow00_0 {v : Nat} (h : fld v 25 3 = 0) : decRow00 v = decR .add v := by simp only [decRow00, h]
theorem decRow00_1 {v : Nat} (h : fld v 25 3 = 1) : decRow00 v = decR .sub v := by simp only [decRow00, h]
theorem decRow00_2 {v : Nat} (h : fld v 25 3 = 2) : decRow00 v = decR .addc v := by simp only [decRow00, h]
theorem decRow00_3 {v : Nat} (h : fld v 25 3 = 3) : decRow00 v = decR .subb v := by simp only [decRow00, h]
theorem decRow00_4 {v : Nat} (h : fld v 25 3 = 4) : decRow00 v = decR .mul v := by simp only [decRow00, h]
theorem decRow00_5 {v : Nat} (h : fld v 25 3 = 5) : decRow00 v = decR .mulh v := by simp only [decRow00, h]
theorem decRow00_6 {v : Nat} (h : fld v 25 3 = 6) : decRow00 v = decR .mulhn v := by simp only [decRow00, h]
theorem decRow00_7 {v : Nat} (h : fld v 25 3 = 7) : decRow00 v = decT .mad v := by simp only [decRow00, h]
theorem decRow08_0 {v : Nat} (h : fld v 25 3 = 0) : decRow08 v = decR .div v := by simp only [decRow08, h]
theorem decRow08_1 {v : Nat} (h : fld v 25 3 = 1) : decRow08 v = decR .divn v := by simp only [decRow08, h]
theorem decRow08_2 {v : Nat} (h : fld v 25 3 = 2) : decRow08 v = decR .rem v := by simp only [decRow08, h]
theorem decRow08_3 {v : Nat} (h : fld v 25 3 = 3) : decRow08 v = decR .remn v := by simp only [decRow08, h]
theorem decRow08_4 {v : Nat} (h : fld v 25 3 = 4) : decRow08 v = decR .min v := by simp only [decRow08, h]
theorem decRow08_5 {v : Nat} (h : fld v 25 3 = 5) : decRow08 v = decR .max v := by simp only [decRow08, h]
theorem decRow08_6 {v : Nat} (h : fld v 25 3 = 6) : decRow08 v = decR .minn v := by simp only [decRow08, h]
theorem decRow08_7 {v : Nat} (h : fld v 25 3 = 7) : decRow08 v = decR .maxn v := by simp only [decRow08, h]
theorem decRow10_0 {v : Nat} (h : fld v 25 3 = 0) : decRow10 v = decR .addsat v := by simp only [decRow10, h]
theorem decRow10_1 {v : Nat} (h : fld v 25 3 = 1) : decRow10 v = decR .subsat v := by simp only [decRow10, h]
theorem decRow10_2 {v : Nat} (h : fld v 25 3 = 2) : decRow10 v = decR .sla v := by simp only [decRow10, h]
theorem decRow10_3 {v : Nat} (h : fld v 25 3 = 3) : decRow10 v = decR .and v := by simp only [decRow10, h]
theorem decRow10_4 {v : Nat} (h : fld v 25 3 = 4) : decRow10 v = decR .or v := by simp only [decRow10, h]
theorem decRow10_5 {v : Nat} (h : fld v 25 3 = 5) : decRow10 v = decR .xor v := by simp only [decRow10, h]
theorem decRow10_6 {v : Nat} (h : fld v 25 3 = 6) : decRow10 v = decR .andn v := by simp only [decRow10, h]
theorem decRow10_7 {v : Nat} (h : fld v 25 3 = 7) : decRow10 v = decR .bfx v := by simp only [decRow10, h]
theorem decRow18_0 {v : Nat} (h : fld v 25 3 = 0) : decRow18 v = decR .shl v := by simp only [decRow18, h]
theorem decRow18_1 {v : Nat} (h : fld v 25 3 = 1) : decRow18 v = decR .shr v := by simp only [decRow18, h]
theorem decRow18_2 {v : Nat} (h : fld v 25 3 = 2) : decRow18 v = decR .sar v := by simp only [decRow18, h]
theorem decRow18_3 {v : Nat} (h : fld v 25 3 = 3) : decRow18 v = decR .rot v := by simp only [decRow18, h]
theorem decRow18_4 {v : Nat} (h : fld v 25 3 = 4) : decRow18 v = decCmp .cmp v := by simp only [decRow18, h]
theorem decRow18_5 {v : Nat} (h : fld v 25 3 = 5) : decRow18 v = decCmp .cmpn v := by simp only [decRow18, h]
theorem decRow18_6 {v : Nat} (h : fld v 25 3 = 6) : decRow18 v = decCmp .tst v := by simp only [decRow18, h]
theorem decRow18_7 {v : Nat} (h : fld v 25 3 = 7) : decRow18 v = decSel .sel v := by simp only [decRow18, h]
theorem decRow20_0 {v : Nat} (h : fld v 25 3 = 0) : decRow20 v = decI .addi v := by simp only [decRow20, h]
theorem decRow20_1 {v : Nat} (h : fld v 25 3 = 1) : decRow20 v = decI .muli v := by simp only [decRow20, h]
theorem decRow20_2 {v : Nat} (h : fld v 25 3 = 2) : decRow20 v = decI .andi v := by simp only [decRow20, h]
theorem decRow20_3 {v : Nat} (h : fld v 25 3 = 3) : decRow20 v = decI .ori v := by simp only [decRow20, h]
theorem decRow20_4 {v : Nat} (h : fld v 25 3 = 4) : decRow20 v = decI .xori v := by simp only [decRow20, h]
theorem decRow20_5 {v : Nat} (h : fld v 25 3 = 5) : decRow20 v = decSh .shli v := by simp only [decRow20, h]
theorem decRow20_6 {v : Nat} (h : fld v 25 3 = 6) : decRow20 v = decSh .shri v := by simp only [decRow20, h]
theorem decRow20_7 {v : Nat} (h : fld v 25 3 = 7) : decRow20 v = decSh .sari v := by simp only [decRow20, h]
theorem decRow28_0 {v : Nat} (h : fld v 25 3 = 0) : decRow28 v = decSh .roti v := by simp only [decRow28, h]
theorem decRow28_1 {v : Nat} (h : fld v 25 3 = 1) : decRow28 v = decCmpi .cmpi v := by simp only [decRow28, h]
theorem decRow28_2 {v : Nat} (h : fld v 25 3 = 2) : decRow28 v = decMovi .movi v := by simp only [decRow28, h]
theorem decRow28_3 {v : Nat} (h : fld v 25 3 = 3) : decRow28 v = decL .ldhi v := by simp only [decRow28, h]
theorem decRow28_4 {v : Nat} (h : fld v 25 3 = 4) : decRow28 v = decIntUnary v := by simp only [decRow28, h]
theorem decRow28_5 {v : Nat} (h : fld v 25 3 = 5) : decRow28 v = decT .bfi v := by simp only [decRow28, h]
theorem decRow28_6 {v : Nat} (h : fld v 25 3 = 6) : decRow28 v = decT .dot4 v := by simp only [decRow28, h]
theorem decRow30_0 {v : Nat} (h : fld v 25 3 = 0) : decRow30 v = decR .fadd v := by simp only [decRow30, h]
theorem decRow30_1 {v : Nat} (h : fld v 25 3 = 1) : decRow30 v = decR .fsub v := by simp only [decRow30, h]
theorem decRow30_2 {v : Nat} (h : fld v 25 3 = 2) : decRow30 v = decR .fmul v := by simp only [decRow30, h]
theorem decRow30_3 {v : Nat} (h : fld v 25 3 = 3) : decRow30 v = decR .fdiv v := by simp only [decRow30, h]
theorem decRow30_4 {v : Nat} (h : fld v 25 3 = 4) : decRow30 v = decR .fmin v := by simp only [decRow30, h]
theorem decRow30_5 {v : Nat} (h : fld v 25 3 = 5) : decRow30 v = decR .fmax v := by simp only [decRow30, h]
theorem decRow30_6 {v : Nat} (h : fld v 25 3 = 6) : decRow30 v = decR .fsgn v := by simp only [decRow30, h]
theorem decRow30_7 {v : Nat} (h : fld v 25 3 = 7) : decRow30 v = decCmp .fcmp v := by simp only [decRow30, h]
theorem decRow38_0 {v : Nat} (h : fld v 25 3 = 0) : decRow38 v = decT .ffma v := by simp only [decRow38, h]
theorem decRow38_1 {v : Nat} (h : fld v 25 3 = 1) : decRow38 v = decFpUnary v := by simp only [decRow38, h]
theorem decRow38_2 {v : Nat} (h : fld v 25 3 = 2) : decRow38 v = decT0 .prfmaF16 v := by simp only [decRow38, h]
theorem decRow38_3 {v : Nat} (h : fld v 25 3 = 3) : decRow38 v = decT0 .prfmaB16 v := by simp only [decRow38, h]
theorem decRow38_4 {v : Nat} (h : fld v 25 3 = 4) : decRow38 v = decPacked v := by simp only [decRow38, h]
theorem decRow38_5 {v : Nat} (h : fld v 25 3 = 5) : decRow38 v = decV .cvt v := by simp only [decRow38, h]
theorem decRow38_6 {v : Nat} (h : fld v 25 3 = 6) : decRow38 v = decNarrow v := by simp only [decRow38, h]
theorem decRow38_7 {v : Nat} (h : fld v 25 3 = 7) : decRow38 v = decCross v := by simp only [decRow38, h]
theorem decRow40_0 {v : Nat} (h : fld v 25 3 = 0) : decRow40 v = decMuLd .ldbMu v := by simp only [decRow40, h]
theorem decRow40_1 {v : Nat} (h : fld v 25 3 = 1) : decRow40 v = decMuLd .ldbzMu v := by simp only [decRow40, h]
theorem decRow40_2 {v : Nat} (h : fld v 25 3 = 2) : decRow40 v = decMuLd .ldhMu v := by simp only [decRow40, h]
theorem decRow40_3 {v : Nat} (h : fld v 25 3 = 3) : decRow40 v = decMuLd .ldhzMu v := by simp only [decRow40, h]
theorem decRow40_4 {v : Nat} (h : fld v 25 3 = 4) : decRow40 v = decMuLd .ldwMu v := by simp only [decRow40, h]
theorem decRow40_5 {v : Nat} (h : fld v 25 3 = 5) : decRow40 v = decMuLd .lddMu v := by simp only [decRow40, h]
theorem decRow40_6 {v : Nat} (h : fld v 25 3 = 6) : decRow40 v = decMuLd .ldqMu v := by simp only [decRow40, h]
theorem decRow40_7 {v : Nat} (h : fld v 25 3 = 7) : decRow40 v = decLdk .ldk v := by simp only [decRow40, h]
theorem decRow48_0 {v : Nat} (h : fld v 25 3 = 0) : decRow48 v = decMuSt .stbMu v := by simp only [decRow48, h]
theorem decRow48_1 {v : Nat} (h : fld v 25 3 = 1) : decRow48 v = decMuSt .sthMu v := by simp only [decRow48, h]
theorem decRow48_2 {v : Nat} (h : fld v 25 3 = 2) : decRow48 v = decMuSt .stwMu v := by simp only [decRow48, h]
theorem decRow48_3 {v : Nat} (h : fld v 25 3 = 3) : decRow48 v = decMuSt .stdMu v := by simp only [decRow48, h]
theorem decRow48_4 {v : Nat} (h : fld v 25 3 = 4) : decRow48 v = decMuSt .stqMu v := by simp only [decRow48, h]
theorem decRow48_5 {v : Nat} (h : fld v 25 3 = 5) : decRow48 v = decLoadS v := by simp only [decRow48, h]
theorem decRow48_6 {v : Nat} (h : fld v 25 3 = 6) : decRow48 v = decStoreS v := by simp only [decRow48, h]
theorem decRow48_7 {v : Nat} (h : fld v 25 3 = 7) : decRow48 v = decW .wait v := by simp only [decRow48, h]
theorem decRow50_0 {v : Nat} (h : fld v 25 3 = 0) : decRow50 v = decMpLd .ldbMp v := by simp only [decRow50, h]
theorem decRow50_1 {v : Nat} (h : fld v 25 3 = 1) : decRow50 v = decMpLd .ldbzMp v := by simp only [decRow50, h]
theorem decRow50_2 {v : Nat} (h : fld v 25 3 = 2) : decRow50 v = decMpLd .ldhMp v := by simp only [decRow50, h]
theorem decRow50_3 {v : Nat} (h : fld v 25 3 = 3) : decRow50 v = decMpLd .ldhzMp v := by simp only [decRow50, h]
theorem decRow50_4 {v : Nat} (h : fld v 25 3 = 4) : decRow50 v = decMpLd .ldwMp v := by simp only [decRow50, h]
theorem decRow50_5 {v : Nat} (h : fld v 25 3 = 5) : decRow50 v = decMpLd .lddMp v := by simp only [decRow50, h]
theorem decRow50_6 {v : Nat} (h : fld v 25 3 = 6) : decRow50 v = decMpLd .ldqMp v := by simp only [decRow50, h]
theorem decRow50_7 {v : Nat} (h : fld v 25 3 = 7) : decRow50 v = decMpLd .ldacq v := by simp only [decRow50, h]
theorem decRow58_0 {v : Nat} (h : fld v 25 3 = 0) : decRow58 v = decMpSt .stbMp v := by simp only [decRow58, h]
theorem decRow58_1 {v : Nat} (h : fld v 25 3 = 1) : decRow58 v = decMpSt .sthMp v := by simp only [decRow58, h]
theorem decRow58_2 {v : Nat} (h : fld v 25 3 = 2) : decRow58 v = decMpSt .stwMp v := by simp only [decRow58, h]
theorem decRow58_3 {v : Nat} (h : fld v 25 3 = 3) : decRow58 v = decMpSt .stdMp v := by simp only [decRow58, h]
theorem decRow58_4 {v : Nat} (h : fld v 25 3 = 4) : decRow58 v = decMpSt .stqMp v := by simp only [decRow58, h]
theorem decRow58_5 {v : Nat} (h : fld v 25 3 = 5) : decRow58 v = decMpSt .strel v := by simp only [decRow58, h]
theorem decRow58_6 {v : Nat} (h : fld v 25 3 = 6) : decRow58 v = decAtom .atom v := by simp only [decRow58, h]
theorem decRow58_7 {v : Nat} (h : fld v 25 3 = 7) : decRow58 v = decCas .cas v := by simp only [decRow58, h]
theorem decRow60_0 {v : Nat} (h : fld v 25 3 = 0) : decRow60 v = decRed .red v := by simp only [decRow60, h]
theorem decRow60_1 {v : Nat} (h : fld v 25 3 = 1) : decRow60 v = decAs v := by simp only [decRow60, h]
theorem decRow60_2 {v : Nat} (h : fld v 25 3 = 2) : decRow60 v = decCache v := by simp only [decRow60, h]
theorem decRow60_3 {v : Nat} (h : fld v 25 3 = 3) : decRow60 v = decSync v := by simp only [decRow60, h]
theorem decRow60_4 {v : Nat} (h : fld v 25 3 = 4) : decRow60 v = decQueue v := by simp only [decRow60, h]
theorem decRow60_5 {v : Nat} (h : fld v 25 3 = 5) : decRow60 v = decChannel v := by simp only [decRow60, h]
theorem decRow60_6 {v : Nat} (h : fld v 25 3 = 6) : decRow60 v = decBarrier v := by simp only [decRow60, h]
theorem decRow60_7 {v : Nat} (h : fld v 25 3 = 7) : decRow60 v = decCopies v := by simp only [decRow60, h]
theorem decRow68_0 {v : Nat} (h : fld v 25 3 = 0) : decRow68 v = decX .mma v := by simp only [decRow68, h]
theorem decRow68_1 {v : Nat} (h : fld v 25 3 = 1) : decRow68 v = decX .mmas v := by simp only [decRow68, h]
theorem decRow68_2 {v : Nat} (h : fld v 25 3 = 2) : decRow68 v = decX .mmat v := by simp only [decRow68, h]
theorem decRow68_3 {v : Nat} (h : fld v 25 3 = 3) : decRow68 v = decRecord v := by simp only [decRow68, h]
theorem decRow68_4 {v : Nat} (h : fld v 25 3 = 4) : decRow68 v = decGen v := by simp only [decRow68, h]
theorem decRow68_5 {v : Nat} (h : fld v 25 3 = 5) : decRow68 v = decAcc v := by simp only [decRow68, h]
theorem decRow68_6 {v : Nat} (h : fld v 25 3 = 6) : decRow68 v = decAccst v := by simp only [decRow68, h]
theorem decRow68_7 {v : Nat} (h : fld v 25 3 = 7) : decRow68 v = decStamp v := by simp only [decRow68, h]
theorem decRow70_0 {v : Nat} (h : fld v 25 3 = 0) : decRow70 v = decB .bra v := by simp only [decRow70, h]
theorem decRow70_1 {v : Nat} (h : fld v 25 3 = 1) : decRow70 v = decB .call v := by simp only [decRow70, h]
theorem decRow70_2 {v : Nat} (h : fld v 25 3 = 2) : decRow70 v = decB .meet v := by simp only [decRow70, h]
theorem decRow70_3 {v : Nat} (h : fld v 25 3 = 3) : decRow70 v = .ok (.rep ⟨BitVec.ofNat 12 (fld v 13 12), BitVec.ofNat 13 (fld v 0 13)⟩) := by simp only [decRow70, h]
theorem decRow70_4 {v : Nat} (h : fld v 25 3 = 4) : decRow70 v = zeroField (fld v 0 19) (.ok (.frame (BitVec.ofNat 6 (fld v 19 6)))) := by simp only [decRow70, h]
theorem decRow70_5 {v : Nat} (h : fld v 25 3 = 5) : decRow70 v = decCrew v := by simp only [decRow70, h]
theorem decRow70_6 {v : Nat} (h : fld v 25 3 = 6) : decRow70 v = zeroField (fld v 0 7) (withDst v fun d => .ok (.rdsys d (BitVec.ofNat 12 (fld v 7 12)))) := by simp only [decRow70, h]
theorem decRow70_7 {v : Nat} (h : fld v 25 3 = 7) : decRow70 v = zeroField (fld v 0 7) (.ok (.wrsys (srcTop v) (BitVec.ofNat 12 (fld v 7 12)))) := by simp only [decRow70, h]
theorem decRow78_0 {v : Nat} (h : fld v 25 3 = 0) : decRow78 v = decFlow v := by simp only [decRow78, h]
theorem decRow78_1 {v : Nat} (h : fld v 25 3 = 1) : decRow78 v = decSystem v := by simp only [decRow78, h]

/-! ## Formats -/

theorem decR_of {op v : Nat} (f : RFmt → Instr) (o : RFmt) (h : IsR op o.d.code o.a.code o.b.code (bit o.f) o.g.code v) : decR f v = .ok (f o) := by
  obtain ⟨-, -, -, h⟩ := h
  simp only [decR, withDst, withDstC, withSome, withImm, zeroField, srcA, srcB, srcTop, flag, fldGuard, gScope, gA0, gB0, gC0, gS0, gR0, h, Dst.ofCode_code, Src.ofCode_code, Guard.ofCode_code, bit_beq_one, fin_ofNat_val, bv_ofNat_toNat, NumTy.ofCode_code, RM.ofCode_code, Policy.ofCode_code, Scope.ofCode_code, HalfTy.ofCode_code, BfpW.ofCode_code, MemOrd.ofCode_code, Aop.ofCode_code, SSize.ofCode_code, RelayMode.ofCode_code, CensusMode.ofCode_code, RedMode.ofCode_code, PeersMode.ofCode_code, LeaderMode.ofCode_code, FenceKind.ofCode_code, Comb.ofCode_code, AdjMode.ofCode_code, Stage.ofCode_code, AccFmt.ofCode_code, StMode.ofCode_code, if_true]
theorem decCmp_of {op v : Nat} (f : CmpFmt → Instr) (o : CmpFmt) (h : IsCmp op o.cc.val o.a.code o.b.code o.g.code v) : decCmp f v = .ok (f o) := by
  obtain ⟨-, -, -, h⟩ := h
  simp only [decCmp, withDst, withDstC, withSome, withImm, zeroField, srcA, srcB, srcTop, flag, fldGuard, gScope, gA0, gB0, gC0, gS0, gR0, h, Dst.ofCode_code, Src.ofCode_code, Guard.ofCode_code, bit_beq_one, fin_ofNat_val, bv_ofNat_toNat, NumTy.ofCode_code, RM.ofCode_code, Policy.ofCode_code, Scope.ofCode_code, HalfTy.ofCode_code, BfpW.ofCode_code, MemOrd.ofCode_code, Aop.ofCode_code, SSize.ofCode_code, RelayMode.ofCode_code, CensusMode.ofCode_code, RedMode.ofCode_code, PeersMode.ofCode_code, LeaderMode.ofCode_code, FenceKind.ofCode_code, Comb.ofCode_code, AdjMode.ofCode_code, Stage.ofCode_code, AccFmt.ofCode_code, StMode.ofCode_code, if_true]
theorem decSel_of {op v : Nat} (f : SelFmt → Instr) (o : SelFmt) (h : IsSel op o.d.code o.a.code o.b.code o.g.code v) : decSel f v = .ok (f o) := by
  obtain ⟨-, -, -, h⟩ := h
  simp only [decSel, withDst, withDstC, withSome, withImm, zeroField, srcA, srcB, srcTop, flag, fldGuard, gScope, gA0, gB0, gC0, gS0, gR0, h, Dst.ofCode_code, Src.ofCode_code, Guard.ofCode_code, bit_beq_one, fin_ofNat_val, bv_ofNat_toNat, NumTy.ofCode_code, RM.ofCode_code, Policy.ofCode_code, Scope.ofCode_code, HalfTy.ofCode_code, BfpW.ofCode_code, MemOrd.ofCode_code, Aop.ofCode_code, SSize.ofCode_code, RelayMode.ofCode_code, CensusMode.ofCode_code, RedMode.ofCode_code, PeersMode.ofCode_code, LeaderMode.ofCode_code, FenceKind.ofCode_code, Comb.ofCode_code, AdjMode.ofCode_code, Stage.ofCode_code, AccFmt.ofCode_code, StMode.ofCode_code, if_true]
theorem decT_of {op v : Nat} (f : TFmt → Instr) (o : TFmt) (h : IsT op o.d.code o.a.code o.b.code o.c.code (bit o.f) v) : decT f v = .ok (f o) := by
  obtain ⟨-, -, -, h⟩ := h
  simp only [decT, withDst, withDstC, withSome, withImm, zeroField, srcA, srcB, srcTop, flag, fldGuard, gScope, gA0, gB0, gC0, gS0, gR0, h, Dst.ofCode_code, Src.ofCode_code, Guard.ofCode_code, bit_beq_one, fin_ofNat_val, bv_ofNat_toNat, NumTy.ofCode_code, RM.ofCode_code, Policy.ofCode_code, Scope.ofCode_code, HalfTy.ofCode_code, BfpW.ofCode_code, MemOrd.ofCode_code, Aop.ofCode_code, SSize.ofCode_code, RelayMode.ofCode_code, CensusMode.ofCode_code, RedMode.ofCode_code, PeersMode.ofCode_code, LeaderMode.ofCode_code, FenceKind.ofCode_code, Comb.ofCode_code, AdjMode.ofCode_code, Stage.ofCode_code, AccFmt.ofCode_code, StMode.ofCode_code, if_true]
theorem decT0_of {op v : Nat} (f : T0Fmt → Instr) (o : T0Fmt) (h : IsT0 op o.d.code o.a.code o.b.code o.c.code v) : decT0 f v = .ok (f o) := by
  obtain ⟨-, -, -, h⟩ := h
  simp only [decT0, withDst, withDstC, withSome, withImm, zeroField, srcA, srcB, srcTop, flag, fldGuard, gScope, gA0, gB0, gC0, gS0, gR0, h, Dst.ofCode_code, Src.ofCode_code, Guard.ofCode_code, bit_beq_one, fin_ofNat_val, bv_ofNat_toNat, NumTy.ofCode_code, RM.ofCode_code, Policy.ofCode_code, Scope.ofCode_code, HalfTy.ofCode_code, BfpW.ofCode_code, MemOrd.ofCode_code, Aop.ofCode_code, SSize.ofCode_code, RelayMode.ofCode_code, CensusMode.ofCode_code, RedMode.ofCode_code, PeersMode.ofCode_code, LeaderMode.ofCode_code, FenceKind.ofCode_code, Comb.ofCode_code, AdjMode.ofCode_code, Stage.ofCode_code, AccFmt.ofCode_code, StMode.ofCode_code, if_true]
theorem decI_of {op v : Nat} (f : IFmt → Instr) (o : IFmt) (h : IsI op o.d.code o.a.code o.imm.toNat v) : decI f v = .ok (f o) := by
  obtain ⟨-, -, -, h⟩ := h
  simp only [decI, withDst, withDstC, withSome, withImm, zeroField, srcA, srcB, srcTop, flag, fldGuard, gScope, gA0, gB0, gC0, gS0, gR0, h, Dst.ofCode_code, Src.ofCode_code, Guard.ofCode_code, bit_beq_one, fin_ofNat_val, bv_ofNat_toNat, NumTy.ofCode_code, RM.ofCode_code, Policy.ofCode_code, Scope.ofCode_code, HalfTy.ofCode_code, BfpW.ofCode_code, MemOrd.ofCode_code, Aop.ofCode_code, SSize.ofCode_code, RelayMode.ofCode_code, CensusMode.ofCode_code, RedMode.ofCode_code, PeersMode.ofCode_code, LeaderMode.ofCode_code, FenceKind.ofCode_code, Comb.ofCode_code, AdjMode.ofCode_code, Stage.ofCode_code, AccFmt.ofCode_code, StMode.ofCode_code, if_true]
theorem decSh_of {op v : Nat} (f : ShFmt → Instr) (o : ShFmt) (h : IsSh op o.d.code o.a.code o.n.toNat v) : decSh f v = .ok (f o) := by
  obtain ⟨-, -, -, h⟩ := h
  simp only [decSh, withDst, withDstC, withSome, withImm, zeroField, srcA, srcB, srcTop, flag, fldGuard, gScope, gA0, gB0, gC0, gS0, gR0, h, Dst.ofCode_code, Src.ofCode_code, Guard.ofCode_code, bit_beq_one, fin_ofNat_val, bv_ofNat_toNat, NumTy.ofCode_code, RM.ofCode_code, Policy.ofCode_code, Scope.ofCode_code, HalfTy.ofCode_code, BfpW.ofCode_code, MemOrd.ofCode_code, Aop.ofCode_code, SSize.ofCode_code, RelayMode.ofCode_code, CensusMode.ofCode_code, RedMode.ofCode_code, PeersMode.ofCode_code, LeaderMode.ofCode_code, FenceKind.ofCode_code, Comb.ofCode_code, AdjMode.ofCode_code, Stage.ofCode_code, AccFmt.ofCode_code, StMode.ofCode_code, if_true]
theorem decCmpi_of {op v : Nat} (f : CmpiFmt → Instr) (o : CmpiFmt) (h : IsCmpi op o.cc.val o.a.code o.imm.toNat v) : decCmpi f v = .ok (f o) := by
  obtain ⟨-, -, -, h⟩ := h
  simp only [decCmpi, withDst, withDstC, withSome, withImm, zeroField, srcA, srcB, srcTop, flag, fldGuard, gScope, gA0, gB0, gC0, gS0, gR0, h, Dst.ofCode_code, Src.ofCode_code, Guard.ofCode_code, bit_beq_one, fin_ofNat_val, bv_ofNat_toNat, NumTy.ofCode_code, RM.ofCode_code, Policy.ofCode_code, Scope.ofCode_code, HalfTy.ofCode_code, BfpW.ofCode_code, MemOrd.ofCode_code, Aop.ofCode_code, SSize.ofCode_code, RelayMode.ofCode_code, CensusMode.ofCode_code, RedMode.ofCode_code, PeersMode.ofCode_code, LeaderMode.ofCode_code, FenceKind.ofCode_code, Comb.ofCode_code, AdjMode.ofCode_code, Stage.ofCode_code, AccFmt.ofCode_code, StMode.ofCode_code, if_true]
theorem decMovi_of {op v : Nat} (f : MoviFmt → Instr) (o : MoviFmt) (h : IsMovi op o.d.code o.imm.toNat v) : decMovi f v = .ok (f o) := by
  obtain ⟨-, -, -, h⟩ := h
  simp only [decMovi, withDst, withDstC, withSome, withImm, zeroField, srcA, srcB, srcTop, flag, fldGuard, gScope, gA0, gB0, gC0, gS0, gR0, h, Dst.ofCode_code, Src.ofCode_code, Guard.ofCode_code, bit_beq_one, fin_ofNat_val, bv_ofNat_toNat, NumTy.ofCode_code, RM.ofCode_code, Policy.ofCode_code, Scope.ofCode_code, HalfTy.ofCode_code, BfpW.ofCode_code, MemOrd.ofCode_code, Aop.ofCode_code, SSize.ofCode_code, RelayMode.ofCode_code, CensusMode.ofCode_code, RedMode.ofCode_code, PeersMode.ofCode_code, LeaderMode.ofCode_code, FenceKind.ofCode_code, Comb.ofCode_code, AdjMode.ofCode_code, Stage.ofCode_code, AccFmt.ofCode_code, StMode.ofCode_code, if_true]
theorem decL_of {op v : Nat} (f : LFmt → Instr) (o : LFmt) (h : IsL op o.d.code o.imm.toNat v) : decL f v = .ok (f o) := by
  obtain ⟨-, -, -, h⟩ := h
  simp only [decL, withDst, withDstC, withSome, withImm, zeroField, srcA, srcB, srcTop, flag, fldGuard, gScope, gA0, gB0, gC0, gS0, gR0, h, Dst.ofCode_code, Src.ofCode_code, Guard.ofCode_code, bit_beq_one, fin_ofNat_val, bv_ofNat_toNat, NumTy.ofCode_code, RM.ofCode_code, Policy.ofCode_code, Scope.ofCode_code, HalfTy.ofCode_code, BfpW.ofCode_code, MemOrd.ofCode_code, Aop.ofCode_code, SSize.ofCode_code, RelayMode.ofCode_code, CensusMode.ofCode_code, RedMode.ofCode_code, PeersMode.ofCode_code, LeaderMode.ofCode_code, FenceKind.ofCode_code, Comb.ofCode_code, AdjMode.ofCode_code, Stage.ofCode_code, AccFmt.ofCode_code, StMode.ofCode_code, if_true]
theorem decV_of {op v : Nat} (f : VFmt → Instr) (o : VFmt) (h : IsV op o.d.code o.a.code o.src.code o.dst.code o.rm.code (bit o.sat) v) : decV f v = .ok (f o) := by
  obtain ⟨-, -, -, h⟩ := h
  simp only [decV, withDst, withDstC, withSome, withImm, zeroField, srcA, srcB, srcTop, flag, fldGuard, gScope, gA0, gB0, gC0, gS0, gR0, h, Dst.ofCode_code, Src.ofCode_code, Guard.ofCode_code, bit_beq_one, fin_ofNat_val, bv_ofNat_toNat, NumTy.ofCode_code, RM.ofCode_code, Policy.ofCode_code, Scope.ofCode_code, HalfTy.ofCode_code, BfpW.ofCode_code, MemOrd.ofCode_code, Aop.ofCode_code, SSize.ofCode_code, RelayMode.ofCode_code, CensusMode.ofCode_code, RedMode.ofCode_code, PeersMode.ofCode_code, LeaderMode.ofCode_code, FenceKind.ofCode_code, Comb.ofCode_code, AdjMode.ofCode_code, Stage.ofCode_code, AccFmt.ofCode_code, StMode.ofCode_code, if_true]
theorem decMuLd_of {op v : Nat} (f : MuLd → Instr) (o : MuLd) (h : IsMu op o.d.code o.kp.val o.ix.val (bit o.x) o.imm.toNat o.pol.code o.sc.code v) : decMuLd f v = .ok (f o) := by
  obtain ⟨-, -, -, h⟩ := h
  simp only [decMuLd, withDst, withDstC, withSome, withImm, zeroField, srcA, srcB, srcTop, flag, fldGuard, gScope, gA0, gB0, gC0, gS0, gR0, h, Dst.ofCode_code, Src.ofCode_code, Guard.ofCode_code, bit_beq_one, fin_ofNat_val, bv_ofNat_toNat, NumTy.ofCode_code, RM.ofCode_code, Policy.ofCode_code, Scope.ofCode_code, HalfTy.ofCode_code, BfpW.ofCode_code, MemOrd.ofCode_code, Aop.ofCode_code, SSize.ofCode_code, RelayMode.ofCode_code, CensusMode.ofCode_code, RedMode.ofCode_code, PeersMode.ofCode_code, LeaderMode.ofCode_code, FenceKind.ofCode_code, Comb.ofCode_code, AdjMode.ofCode_code, Stage.ofCode_code, AccFmt.ofCode_code, StMode.ofCode_code, if_true]
theorem decMuSt_of {op v : Nat} (f : MuSt → Instr) (o : MuSt) (h : IsMu op o.a.code o.kp.val o.ix.val (bit o.x) o.imm.toNat o.pol.code o.sc.code v) : decMuSt f v = .ok (f o) := by
  obtain ⟨-, -, -, h⟩ := h
  simp only [decMuSt, withDst, withDstC, withSome, withImm, zeroField, srcA, srcB, srcTop, flag, fldGuard, gScope, gA0, gB0, gC0, gS0, gR0, h, Dst.ofCode_code, Src.ofCode_code, Guard.ofCode_code, bit_beq_one, fin_ofNat_val, bv_ofNat_toNat, NumTy.ofCode_code, RM.ofCode_code, Policy.ofCode_code, Scope.ofCode_code, HalfTy.ofCode_code, BfpW.ofCode_code, MemOrd.ofCode_code, Aop.ofCode_code, SSize.ofCode_code, RelayMode.ofCode_code, CensusMode.ofCode_code, RedMode.ofCode_code, PeersMode.ofCode_code, LeaderMode.ofCode_code, FenceKind.ofCode_code, Comb.ofCode_code, AdjMode.ofCode_code, Stage.ofCode_code, AccFmt.ofCode_code, StMode.ofCode_code, if_true]
theorem decMpLd_of {op v : Nat} (f : MpLd → Instr) (o : MpLd) (h : IsMp op o.d.code o.np.val o.imm.toNat o.pol.code o.sc.code o.g.code v) : decMpLd f v = .ok (f o) := by
  obtain ⟨-, -, -, h⟩ := h
  simp only [decMpLd, withDst, withDstC, withSome, withImm, zeroField, srcA, srcB, srcTop, flag, fldGuard, gScope, gA0, gB0, gC0, gS0, gR0, h, Dst.ofCode_code, Src.ofCode_code, Guard.ofCode_code, bit_beq_one, fin_ofNat_val, bv_ofNat_toNat, NumTy.ofCode_code, RM.ofCode_code, Policy.ofCode_code, Scope.ofCode_code, HalfTy.ofCode_code, BfpW.ofCode_code, MemOrd.ofCode_code, Aop.ofCode_code, SSize.ofCode_code, RelayMode.ofCode_code, CensusMode.ofCode_code, RedMode.ofCode_code, PeersMode.ofCode_code, LeaderMode.ofCode_code, FenceKind.ofCode_code, Comb.ofCode_code, AdjMode.ofCode_code, Stage.ofCode_code, AccFmt.ofCode_code, StMode.ofCode_code, if_true]
theorem decMpSt_of {op v : Nat} (f : MpSt → Instr) (o : MpSt) (h : IsMp op o.a.code o.np.val o.imm.toNat o.pol.code o.sc.code o.g.code v) : decMpSt f v = .ok (f o) := by
  obtain ⟨-, -, -, h⟩ := h
  simp only [decMpSt, withDst, withDstC, withSome, withImm, zeroField, srcA, srcB, srcTop, flag, fldGuard, gScope, gA0, gB0, gC0, gS0, gR0, h, Dst.ofCode_code, Src.ofCode_code, Guard.ofCode_code, bit_beq_one, fin_ofNat_val, bv_ofNat_toNat, NumTy.ofCode_code, RM.ofCode_code, Policy.ofCode_code, Scope.ofCode_code, HalfTy.ofCode_code, BfpW.ofCode_code, MemOrd.ofCode_code, Aop.ofCode_code, SSize.ofCode_code, RelayMode.ofCode_code, CensusMode.ofCode_code, RedMode.ofCode_code, PeersMode.ofCode_code, LeaderMode.ofCode_code, FenceKind.ofCode_code, Comb.ofCode_code, AdjMode.ofCode_code, Stage.ofCode_code, AccFmt.ofCode_code, StMode.ofCode_code, if_true]
theorem decX_of {op v : Nat} (f : XFmt → Instr) (o : XFmt) (h : IsX op o.acc.val o.ra.val o.rb.val o.wait.toNat o.set.val (bit o.z) v) : decX f v = .ok (f o) := by
  obtain ⟨-, -, -, h⟩ := h
  simp only [decX, withDst, withDstC, withSome, withImm, zeroField, srcA, srcB, srcTop, flag, fldGuard, gScope, gA0, gB0, gC0, gS0, gR0, h, Dst.ofCode_code, Src.ofCode_code, Guard.ofCode_code, bit_beq_one, fin_ofNat_val, bv_ofNat_toNat, NumTy.ofCode_code, RM.ofCode_code, Policy.ofCode_code, Scope.ofCode_code, HalfTy.ofCode_code, BfpW.ofCode_code, MemOrd.ofCode_code, Aop.ofCode_code, SSize.ofCode_code, RelayMode.ofCode_code, CensusMode.ofCode_code, RedMode.ofCode_code, PeersMode.ofCode_code, LeaderMode.ofCode_code, FenceKind.ofCode_code, Comb.ofCode_code, AdjMode.ofCode_code, Stage.ofCode_code, AccFmt.ofCode_code, StMode.ofCode_code, if_true]
theorem decB_of {op v : Nat} (f : BFmt → Instr) (o : BFmt) (h : IsB op o.g.code o.off.toNat v) : decB f v = .ok (f o) := by
  obtain ⟨-, -, -, h⟩ := h
  simp only [decB, withDst, withDstC, withSome, withImm, zeroField, srcA, srcB, srcTop, flag, fldGuard, gScope, gA0, gB0, gC0, gS0, gR0, h, Dst.ofCode_code, Src.ofCode_code, Guard.ofCode_code, bit_beq_one, fin_ofNat_val, bv_ofNat_toNat, NumTy.ofCode_code, RM.ofCode_code, Policy.ofCode_code, Scope.ofCode_code, HalfTy.ofCode_code, BfpW.ofCode_code, MemOrd.ofCode_code, Aop.ofCode_code, SSize.ofCode_code, RelayMode.ofCode_code, CensusMode.ofCode_code, RedMode.ofCode_code, PeersMode.ofCode_code, LeaderMode.ofCode_code, FenceKind.ofCode_code, Comb.ofCode_code, AdjMode.ofCode_code, Stage.ofCode_code, AccFmt.ofCode_code, StMode.ofCode_code, if_true]

end Sys2Proof
end

