-- ==== Sys2Proof/Laws/PerInstr.lean ====
section
/-! SUPPORT. The family RoundTrip: the word of a well-formed instruction decodes to that instruction; one lemma per
constructor of `Instr`. An event has no word. -/

namespace Sys2Proof.Laws.RoundTrip

set_option linter.unusedSimpArgs false

/-- Decoding the encoding of a well-formed instruction gives it back. -/
def Statement (i : Instr) : Prop := i.wf = true → ∀ w, encode i = some w → decode w = .ok i

/-- An instruction whose word has the fields `P` round-trips if every word with these fields decodes to it. -/
theorem via {i : Instr} {v : Nat} (P : Nat → Prop) (he : encodeNat i = some v) (hP : P v) (hlt : ∀ v, P v → v < 2 ^ 32)
    (hd : ∀ v, P v → decodeFields v = .ok i) : Statement i := by
  intro hw w h
  simp only [encode, he, Option.map_some, Option.some.injEq] at h
  subst h
  have : (BitVec.ofNat 32 v).toNat = v := by rw [BitVec.toNat_ofNat, Nat.mod_eq_of_lt (hlt v hP)]
  simp only [decode, this, hd v hP, hw, if_true]

/-- An event has no word. -/
theorem event {i : Instr} (h : encodeNat i = none) : Statement i := by
  intro _ w hw
  simp [encode, h] at hw

theorem add o : Statement (.add o) :=
  via (IsR 0 o.d.code o.a.code o.b.code (bit o.f) o.g.code) rfl (isR (by decide) (by have := o.d.code_lt; omega) (by have := o.a.code_lt; omega) (by have := o.b.code_lt; omega) (by have := bit_lt o.f; omega) (by have := o.g.code_lt; omega)) (fun _ h => h.1) fun v h => (to_decRow00 h.2.1).trans ((decRow00_0 h.2.2.1).trans (decR_of _ o h))
theorem sub o : Statement (.sub o) :=
  via (IsR 1 o.d.code o.a.code o.b.code (bit o.f) o.g.code) rfl (isR (by decide) (by have := o.d.code_lt; omega) (by have := o.a.code_lt; omega) (by have := o.b.code_lt; omega) (by have := bit_lt o.f; omega) (by have := o.g.code_lt; omega)) (fun _ h => h.1) fun v h => (to_decRow00 h.2.1).trans ((decRow00_1 h.2.2.1).trans (decR_of _ o h))
theorem addc o : Statement (.addc o) :=
  via (IsR 2 o.d.code o.a.code o.b.code (bit o.f) o.g.code) rfl (isR (by decide) (by have := o.d.code_lt; omega) (by have := o.a.code_lt; omega) (by have := o.b.code_lt; omega) (by have := bit_lt o.f; omega) (by have := o.g.code_lt; omega)) (fun _ h => h.1) fun v h => (to_decRow00 h.2.1).trans ((decRow00_2 h.2.2.1).trans (decR_of _ o h))
theorem subb o : Statement (.subb o) :=
  via (IsR 3 o.d.code o.a.code o.b.code (bit o.f) o.g.code) rfl (isR (by decide) (by have := o.d.code_lt; omega) (by have := o.a.code_lt; omega) (by have := o.b.code_lt; omega) (by have := bit_lt o.f; omega) (by have := o.g.code_lt; omega)) (fun _ h => h.1) fun v h => (to_decRow00 h.2.1).trans ((decRow00_3 h.2.2.1).trans (decR_of _ o h))
theorem mul o : Statement (.mul o) :=
  via (IsR 4 o.d.code o.a.code o.b.code (bit o.f) o.g.code) rfl (isR (by decide) (by have := o.d.code_lt; omega) (by have := o.a.code_lt; omega) (by have := o.b.code_lt; omega) (by have := bit_lt o.f; omega) (by have := o.g.code_lt; omega)) (fun _ h => h.1) fun v h => (to_decRow00 h.2.1).trans ((decRow00_4 h.2.2.1).trans (decR_of _ o h))
theorem mulh o : Statement (.mulh o) :=
  via (IsR 5 o.d.code o.a.code o.b.code (bit o.f) o.g.code) rfl (isR (by decide) (by have := o.d.code_lt; omega) (by have := o.a.code_lt; omega) (by have := o.b.code_lt; omega) (by have := bit_lt o.f; omega) (by have := o.g.code_lt; omega)) (fun _ h => h.1) fun v h => (to_decRow00 h.2.1).trans ((decRow00_5 h.2.2.1).trans (decR_of _ o h))
theorem mulhn o : Statement (.mulhn o) :=
  via (IsR 6 o.d.code o.a.code o.b.code (bit o.f) o.g.code) rfl (isR (by decide) (by have := o.d.code_lt; omega) (by have := o.a.code_lt; omega) (by have := o.b.code_lt; omega) (by have := bit_lt o.f; omega) (by have := o.g.code_lt; omega)) (fun _ h => h.1) fun v h => (to_decRow00 h.2.1).trans ((decRow00_6 h.2.2.1).trans (decR_of _ o h))
theorem mad o : Statement (.mad o) :=
  via (IsT 7 o.d.code o.a.code o.b.code o.c.code (bit o.f)) rfl (isT (by decide) (by have := o.d.code_lt; omega) (by have := o.a.code_lt; omega) (by have := o.b.code_lt; omega) (by have := o.c.code_lt; omega) (by have := bit_lt o.f; omega)) (fun _ h => h.1) fun v h => (to_decRow00 h.2.1).trans ((decRow00_7 h.2.2.1).trans (decT_of _ o h))
theorem div o : Statement (.div o) :=
  via (IsR 8 o.d.code o.a.code o.b.code (bit o.f) o.g.code) rfl (isR (by decide) (by have := o.d.code_lt; omega) (by have := o.a.code_lt; omega) (by have := o.b.code_lt; omega) (by have := bit_lt o.f; omega) (by have := o.g.code_lt; omega)) (fun _ h => h.1) fun v h => (to_decRow08 h.2.1).trans ((decRow08_0 h.2.2.1).trans (decR_of _ o h))
theorem divn o : Statement (.divn o) :=
  via (IsR 9 o.d.code o.a.code o.b.code (bit o.f) o.g.code) rfl (isR (by decide) (by have := o.d.code_lt; omega) (by have := o.a.code_lt; omega) (by have := o.b.code_lt; omega) (by have := bit_lt o.f; omega) (by have := o.g.code_lt; omega)) (fun _ h => h.1) fun v h => (to_decRow08 h.2.1).trans ((decRow08_1 h.2.2.1).trans (decR_of _ o h))
theorem rem o : Statement (.rem o) :=
  via (IsR 10 o.d.code o.a.code o.b.code (bit o.f) o.g.code) rfl (isR (by decide) (by have := o.d.code_lt; omega) (by have := o.a.code_lt; omega) (by have := o.b.code_lt; omega) (by have := bit_lt o.f; omega) (by have := o.g.code_lt; omega)) (fun _ h => h.1) fun v h => (to_decRow08 h.2.1).trans ((decRow08_2 h.2.2.1).trans (decR_of _ o h))
theorem remn o : Statement (.remn o) :=
  via (IsR 11 o.d.code o.a.code o.b.code (bit o.f) o.g.code) rfl (isR (by decide) (by have := o.d.code_lt; omega) (by have := o.a.code_lt; omega) (by have := o.b.code_lt; omega) (by have := bit_lt o.f; omega) (by have := o.g.code_lt; omega)) (fun _ h => h.1) fun v h => (to_decRow08 h.2.1).trans ((decRow08_3 h.2.2.1).trans (decR_of _ o h))
theorem min o : Statement (.min o) :=
  via (IsR 12 o.d.code o.a.code o.b.code (bit o.f) o.g.code) rfl (isR (by decide) (by have := o.d.code_lt; omega) (by have := o.a.code_lt; omega) (by have := o.b.code_lt; omega) (by have := bit_lt o.f; omega) (by have := o.g.code_lt; omega)) (fun _ h => h.1) fun v h => (to_decRow08 h.2.1).trans ((decRow08_4 h.2.2.1).trans (decR_of _ o h))
theorem max o : Statement (.max o) :=
  via (IsR 13 o.d.code o.a.code o.b.code (bit o.f) o.g.code) rfl (isR (by decide) (by have := o.d.code_lt; omega) (by have := o.a.code_lt; omega) (by have := o.b.code_lt; omega) (by have := bit_lt o.f; omega) (by have := o.g.code_lt; omega)) (fun _ h => h.1) fun v h => (to_decRow08 h.2.1).trans ((decRow08_5 h.2.2.1).trans (decR_of _ o h))
theorem minn o : Statement (.minn o) :=
  via (IsR 14 o.d.code o.a.code o.b.code (bit o.f) o.g.code) rfl (isR (by decide) (by have := o.d.code_lt; omega) (by have := o.a.code_lt; omega) (by have := o.b.code_lt; omega) (by have := bit_lt o.f; omega) (by have := o.g.code_lt; omega)) (fun _ h => h.1) fun v h => (to_decRow08 h.2.1).trans ((decRow08_6 h.2.2.1).trans (decR_of _ o h))
theorem maxn o : Statement (.maxn o) :=
  via (IsR 15 o.d.code o.a.code o.b.code (bit o.f) o.g.code) rfl (isR (by decide) (by have := o.d.code_lt; omega) (by have := o.a.code_lt; omega) (by have := o.b.code_lt; omega) (by have := bit_lt o.f; omega) (by have := o.g.code_lt; omega)) (fun _ h => h.1) fun v h => (to_decRow08 h.2.1).trans ((decRow08_7 h.2.2.1).trans (decR_of _ o h))
theorem addsat o : Statement (.addsat o) :=
  via (IsR 16 o.d.code o.a.code o.b.code (bit o.f) o.g.code) rfl (isR (by decide) (by have := o.d.code_lt; omega) (by have := o.a.code_lt; omega) (by have := o.b.code_lt; omega) (by have := bit_lt o.f; omega) (by have := o.g.code_lt; omega)) (fun _ h => h.1) fun v h => (to_decRow10 h.2.1).trans ((decRow10_0 h.2.2.1).trans (decR_of _ o h))
theorem subsat o : Statement (.subsat o) :=
  via (IsR 17 o.d.code o.a.code o.b.code (bit o.f) o.g.code) rfl (isR (by decide) (by have := o.d.code_lt; omega) (by have := o.a.code_lt; omega) (by have := o.b.code_lt; omega) (by have := bit_lt o.f; omega) (by have := o.g.code_lt; omega)) (fun _ h => h.1) fun v h => (to_decRow10 h.2.1).trans ((decRow10_1 h.2.2.1).trans (decR_of _ o h))
theorem sla o : Statement (.sla o) :=
  via (IsR 18 o.d.code o.a.code o.b.code (bit o.f) o.g.code) rfl (isR (by decide) (by have := o.d.code_lt; omega) (by have := o.a.code_lt; omega) (by have := o.b.code_lt; omega) (by have := bit_lt o.f; omega) (by have := o.g.code_lt; omega)) (fun _ h => h.1) fun v h => (to_decRow10 h.2.1).trans ((decRow10_2 h.2.2.1).trans (decR_of _ o h))
theorem and o : Statement (.and o) :=
  via (IsR 19 o.d.code o.a.code o.b.code (bit o.f) o.g.code) rfl (isR (by decide) (by have := o.d.code_lt; omega) (by have := o.a.code_lt; omega) (by have := o.b.code_lt; omega) (by have := bit_lt o.f; omega) (by have := o.g.code_lt; omega)) (fun _ h => h.1) fun v h => (to_decRow10 h.2.1).trans ((decRow10_3 h.2.2.1).trans (decR_of _ o h))
theorem or o : Statement (.or o) :=
  via (IsR 20 o.d.code o.a.code o.b.code (bit o.f) o.g.code) rfl (isR (by decide) (by have := o.d.code_lt; omega) (by have := o.a.code_lt; omega) (by have := o.b.code_lt; omega) (by have := bit_lt o.f; omega) (by have := o.g.code_lt; omega)) (fun _ h => h.1) fun v h => (to_decRow10 h.2.1).trans ((decRow10_4 h.2.2.1).trans (decR_of _ o h))
theorem xor o : Statement (.xor o) :=
  via (IsR 21 o.d.code o.a.code o.b.code (bit o.f) o.g.code) rfl (isR (by decide) (by have := o.d.code_lt; omega) (by have := o.a.code_lt; omega) (by have := o.b.code_lt; omega) (by have := bit_lt o.f; omega) (by have := o.g.code_lt; omega)) (fun _ h => h.1) fun v h => (to_decRow10 h.2.1).trans ((decRow10_5 h.2.2.1).trans (decR_of _ o h))
theorem andn o : Statement (.andn o) :=
  via (IsR 22 o.d.code o.a.code o.b.code (bit o.f) o.g.code) rfl (isR (by decide) (by have := o.d.code_lt; omega) (by have := o.a.code_lt; omega) (by have := o.b.code_lt; omega) (by have := bit_lt o.f; omega) (by have := o.g.code_lt; omega)) (fun _ h => h.1) fun v h => (to_decRow10 h.2.1).trans ((decRow10_6 h.2.2.1).trans (decR_of _ o h))
theorem bfx o : Statement (.bfx o) :=
  via (IsR 23 o.d.code o.a.code o.b.code (bit o.f) o.g.code) rfl (isR (by decide) (by have := o.d.code_lt; omega) (by have := o.a.code_lt; omega) (by have := o.b.code_lt; omega) (by have := bit_lt o.f; omega) (by have := o.g.code_lt; omega)) (fun _ h => h.1) fun v h => (to_decRow10 h.2.1).trans ((decRow10_7 h.2.2.1).trans (decR_of _ o h))
theorem shl o : Statement (.shl o) :=
  via (IsR 24 o.d.code o.a.code o.b.code (bit o.f) o.g.code) rfl (isR (by decide) (by have := o.d.code_lt; omega) (by have := o.a.code_lt; omega) (by have := o.b.code_lt; omega) (by have := bit_lt o.f; omega) (by have := o.g.code_lt; omega)) (fun _ h => h.1) fun v h => (to_decRow18 h.2.1).trans ((decRow18_0 h.2.2.1).trans (decR_of _ o h))
theorem shr o : Statement (.shr o) :=
  via (IsR 25 o.d.code o.a.code o.b.code (bit o.f) o.g.code) rfl (isR (by decide) (by have := o.d.code_lt; omega) (by have := o.a.code_lt; omega) (by have := o.b.code_lt; omega) (by have := bit_lt o.f; omega) (by have := o.g.code_lt; omega)) (fun _ h => h.1) fun v h => (to_decRow18 h.2.1).trans ((decRow18_1 h.2.2.1).trans (decR_of _ o h))
theorem sar o : Statement (.sar o) :=
  via (IsR 26 o.d.code o.a.code o.b.code (bit o.f) o.g.code) rfl (isR (by decide) (by have := o.d.code_lt; omega) (by have := o.a.code_lt; omega) (by have := o.b.code_lt; omega) (by have := bit_lt o.f; omega) (by have := o.g.code_lt; omega)) (fun _ h => h.1) fun v h => (to_decRow18 h.2.1).trans ((decRow18_2 h.2.2.1).trans (decR_of _ o h))
theorem rot o : Statement (.rot o) :=
  via (IsR 27 o.d.code o.a.code o.b.code (bit o.f) o.g.code) rfl (isR (by decide) (by have := o.d.code_lt; omega) (by have := o.a.code_lt; omega) (by have := o.b.code_lt; omega) (by have := bit_lt o.f; omega) (by have := o.g.code_lt; omega)) (fun _ h => h.1) fun v h => (to_decRow18 h.2.1).trans ((decRow18_3 h.2.2.1).trans (decR_of _ o h))
theorem cmp o : Statement (.cmp o) :=
  via (IsCmp 28 o.cc.val o.a.code o.b.code o.g.code) rfl (isCmp (by decide) (by have := o.cc.isLt; omega) (by have := o.a.code_lt; omega) (by have := o.b.code_lt; omega) (by have := o.g.code_lt; omega)) (fun _ h => h.1) fun v h => (to_decRow18 h.2.1).trans ((decRow18_4 h.2.2.1).trans (decCmp_of _ o h))
theorem cmpn o : Statement (.cmpn o) :=
  via (IsCmp 29 o.cc.val o.a.code o.b.code o.g.code) rfl (isCmp (by decide) (by have := o.cc.isLt; omega) (by have := o.a.code_lt; omega) (by have := o.b.code_lt; omega) (by have := o.g.code_lt; omega)) (fun _ h => h.1) fun v h => (to_decRow18 h.2.1).trans ((decRow18_5 h.2.2.1).trans (decCmp_of _ o h))
theorem tst o : Statement (.tst o) :=
  via (IsCmp 30 o.cc.val o.a.code o.b.code o.g.code) rfl (isCmp (by decide) (by have := o.cc.isLt; omega) (by have := o.a.code_lt; omega) (by have := o.b.code_lt; omega) (by have := o.g.code_lt; omega)) (fun _ h => h.1) fun v h => (to_decRow18 h.2.1).trans ((decRow18_6 h.2.2.1).trans (decCmp_of _ o h))
theorem sel o : Statement (.sel o) :=
  via (IsSel 31 o.d.code o.a.code o.b.code o.g.code) rfl (isSel (by decide) (by have := o.d.code_lt; omega) (by have := o.a.code_lt; omega) (by have := o.b.code_lt; omega) (by have := o.g.code_lt; omega)) (fun _ h => h.1) fun v h => (to_decRow18 h.2.1).trans ((decRow18_7 h.2.2.1).trans (decSel_of _ o h))
theorem addi o : Statement (.addi o) :=
  via (IsI 32 o.d.code o.a.code o.imm.toNat) rfl (isI (by decide) (by have := o.d.code_lt; omega) (by have := o.a.code_lt; omega) (by have := o.imm.isLt; omega)) (fun _ h => h.1) fun v h => (to_decRow20 h.2.1).trans ((decRow20_0 h.2.2.1).trans (decI_of _ o h))
theorem muli o : Statement (.muli o) :=
  via (IsI 33 o.d.code o.a.code o.imm.toNat) rfl (isI (by decide) (by have := o.d.code_lt; omega) (by have := o.a.code_lt; omega) (by have := o.imm.isLt; omega)) (fun _ h => h.1) fun v h => (to_decRow20 h.2.1).trans ((decRow20_1 h.2.2.1).trans (decI_of _ o h))
theorem andi o : Statement (.andi o) :=
  via (IsI 34 o.d.code o.a.code o.imm.toNat) rfl (isI (by decide) (by have := o.d.code_lt; omega) (by have := o.a.code_lt; omega) (by have := o.imm.isLt; omega)) (fun _ h => h.1) fun v h => (to_decRow20 h.2.1).trans ((decRow20_2 h.2.2.1).trans (decI_of _ o h))
theorem ori o : Statement (.ori o) :=
  via (IsI 35 o.d.code o.a.code o.imm.toNat) rfl (isI (by decide) (by have := o.d.code_lt; omega) (by have := o.a.code_lt; omega) (by have := o.imm.isLt; omega)) (fun _ h => h.1) fun v h => (to_decRow20 h.2.1).trans ((decRow20_3 h.2.2.1).trans (decI_of _ o h))
theorem xori o : Statement (.xori o) :=
  via (IsI 36 o.d.code o.a.code o.imm.toNat) rfl (isI (by decide) (by have := o.d.code_lt; omega) (by have := o.a.code_lt; omega) (by have := o.imm.isLt; omega)) (fun _ h => h.1) fun v h => (to_decRow20 h.2.1).trans ((decRow20_4 h.2.2.1).trans (decI_of _ o h))
theorem shli o : Statement (.shli o) :=
  via (IsSh 37 o.d.code o.a.code o.n.toNat) rfl (isSh (by decide) (by have := o.d.code_lt; omega) (by have := o.a.code_lt; omega) (by have := o.n.isLt; omega)) (fun _ h => h.1) fun v h => (to_decRow20 h.2.1).trans ((decRow20_5 h.2.2.1).trans (decSh_of _ o h))
theorem shri o : Statement (.shri o) :=
  via (IsSh 38 o.d.code o.a.code o.n.toNat) rfl (isSh (by decide) (by have := o.d.code_lt; omega) (by have := o.a.code_lt; omega) (by have := o.n.isLt; omega)) (fun _ h => h.1) fun v h => (to_decRow20 h.2.1).trans ((decRow20_6 h.2.2.1).trans (decSh_of _ o h))
theorem sari o : Statement (.sari o) :=
  via (IsSh 39 o.d.code o.a.code o.n.toNat) rfl (isSh (by decide) (by have := o.d.code_lt; omega) (by have := o.a.code_lt; omega) (by have := o.n.isLt; omega)) (fun _ h => h.1) fun v h => (to_decRow20 h.2.1).trans ((decRow20_7 h.2.2.1).trans (decSh_of _ o h))
theorem roti o : Statement (.roti o) :=
  via (IsSh 40 o.d.code o.a.code o.n.toNat) rfl (isSh (by decide) (by have := o.d.code_lt; omega) (by have := o.a.code_lt; omega) (by have := o.n.isLt; omega)) (fun _ h => h.1) fun v h => (to_decRow28 h.2.1).trans ((decRow28_0 h.2.2.1).trans (decSh_of _ o h))
theorem cmpi o : Statement (.cmpi o) :=
  via (IsCmpi 41 o.cc.val o.a.code o.imm.toNat) rfl (isCmpi (by decide) (by have := o.cc.isLt; omega) (by have := o.a.code_lt; omega) (by have := o.imm.isLt; omega)) (fun _ h => h.1) fun v h => (to_decRow28 h.2.1).trans ((decRow28_1 h.2.2.1).trans (decCmpi_of _ o h))
theorem movi o : Statement (.movi o) :=
  via (IsMovi 42 o.d.code o.imm.toNat) rfl (isMovi (by decide) (by have := o.d.code_lt; omega) (by have := o.imm.isLt; omega)) (fun _ h => h.1) fun v h => (to_decRow28 h.2.1).trans ((decRow28_2 h.2.2.1).trans (decMovi_of _ o h))
theorem ldhi o : Statement (.ldhi o) :=
  via (IsL 43 o.d.code o.imm.toNat) rfl (isL (by decide) (by have := o.d.code_lt; omega) (by have := o.imm.isLt; omega)) (fun _ h => h.1) fun v h => (to_decRow28 h.2.1).trans ((decRow28_3 h.2.2.1).trans (decL_of _ o h))
theorem neg o : Statement (.neg o) :=
  via (IsR 44 o.d.code o.a.code 0 (bit o.f) o.g.code) rfl (isR (by decide) (by have := o.d.code_lt; omega) (by have := o.a.code_lt; omega) (by decide) (by have := bit_lt o.f; omega) (by have := o.g.code_lt; omega)) (fun _ h => h.1) fun v h => by
    obtain ⟨-, h0, h1, h⟩ := h
    rw [to_decRow28 h0, decRow28_4 h1]
    simp only [decIntUnary, decU, withDst, withDstC, withSome, withImm, zeroField, srcA, srcB, srcTop, flag, fldGuard, gScope, gA0, gB0, gC0, gS0, gR0, h, Dst.ofCode_code, Src.ofCode_code, Guard.ofCode_code, bit_beq_one, fin_ofNat_val, bv_ofNat_toNat, NumTy.ofCode_code, RM.ofCode_code, Policy.ofCode_code, Scope.ofCode_code, HalfTy.ofCode_code, BfpW.ofCode_code, MemOrd.ofCode_code, Aop.ofCode_code, SSize.ofCode_code, RelayMode.ofCode_code, CensusMode.ofCode_code, RedMode.ofCode_code, PeersMode.ofCode_code, LeaderMode.ofCode_code, FenceKind.ofCode_code, Comb.ofCode_code, AdjMode.ofCode_code, Stage.ofCode_code, AccFmt.ofCode_code, StMode.ofCode_code, if_true, if_false, Fin.is_lt, Nat.zero_add, Nat.add_zero, Nat.reduceMod, Nat.reduceDiv, Nat.reduceMul, Nat.reduceAdd, Nat.reduceLT, Nat.reduceLeDiff, Nat.reduceEqDiff, reduceIte, reduceCtorEq, Nat.mul_zero, and_self, and_true, true_and]
theorem abs o : Statement (.abs o) :=
  via (IsR 44 o.d.code o.a.code 1 (bit o.f) o.g.code) rfl (isR (by decide) (by have := o.d.code_lt; omega) (by have := o.a.code_lt; omega) (by decide) (by have := bit_lt o.f; omega) (by have := o.g.code_lt; omega)) (fun _ h => h.1) fun v h => by
    obtain ⟨-, h0, h1, h⟩ := h
    rw [to_decRow28 h0, decRow28_4 h1]
    simp only [decIntUnary, decU, withDst, withDstC, withSome, withImm, zeroField, srcA, srcB, srcTop, flag, fldGuard, gScope, gA0, gB0, gC0, gS0, gR0, h, Dst.ofCode_code, Src.ofCode_code, Guard.ofCode_code, bit_beq_one, fin_ofNat_val, bv_ofNat_toNat, NumTy.ofCode_code, RM.ofCode_code, Policy.ofCode_code, Scope.ofCode_code, HalfTy.ofCode_code, BfpW.ofCode_code, MemOrd.ofCode_code, Aop.ofCode_code, SSize.ofCode_code, RelayMode.ofCode_code, CensusMode.ofCode_code, RedMode.ofCode_code, PeersMode.ofCode_code, LeaderMode.ofCode_code, FenceKind.ofCode_code, Comb.ofCode_code, AdjMode.ofCode_code, Stage.ofCode_code, AccFmt.ofCode_code, StMode.ofCode_code, if_true, if_false, Fin.is_lt, Nat.zero_add, Nat.add_zero, Nat.reduceMod, Nat.reduceDiv, Nat.reduceMul, Nat.reduceAdd, Nat.reduceLT, Nat.reduceLeDiff, Nat.reduceEqDiff, reduceIte, reduceCtorEq, Nat.mul_zero, and_self, and_true, true_and]
theorem not o : Statement (.not o) :=
  via (IsR 44 o.d.code o.a.code 2 (bit o.f) o.g.code) rfl (isR (by decide) (by have := o.d.code_lt; omega) (by have := o.a.code_lt; omega) (by decide) (by have := bit_lt o.f; omega) (by have := o.g.code_lt; omega)) (fun _ h => h.1) fun v h => by
    obtain ⟨-, h0, h1, h⟩ := h
    rw [to_decRow28 h0, decRow28_4 h1]
    simp only [decIntUnary, decU, withDst, withDstC, withSome, withImm, zeroField, srcA, srcB, srcTop, flag, fldGuard, gScope, gA0, gB0, gC0, gS0, gR0, h, Dst.ofCode_code, Src.ofCode_code, Guard.ofCode_code, bit_beq_one, fin_ofNat_val, bv_ofNat_toNat, NumTy.ofCode_code, RM.ofCode_code, Policy.ofCode_code, Scope.ofCode_code, HalfTy.ofCode_code, BfpW.ofCode_code, MemOrd.ofCode_code, Aop.ofCode_code, SSize.ofCode_code, RelayMode.ofCode_code, CensusMode.ofCode_code, RedMode.ofCode_code, PeersMode.ofCode_code, LeaderMode.ofCode_code, FenceKind.ofCode_code, Comb.ofCode_code, AdjMode.ofCode_code, Stage.ofCode_code, AccFmt.ofCode_code, StMode.ofCode_code, if_true, if_false, Fin.is_lt, Nat.zero_add, Nat.add_zero, Nat.reduceMod, Nat.reduceDiv, Nat.reduceMul, Nat.reduceAdd, Nat.reduceLT, Nat.reduceLeDiff, Nat.reduceEqDiff, reduceIte, reduceCtorEq, Nat.mul_zero, and_self, and_true, true_and]
theorem clz o : Statement (.clz o) :=
  via (IsR 44 o.d.code o.a.code 3 (bit o.f) o.g.code) rfl (isR (by decide) (by have := o.d.code_lt; omega) (by have := o.a.code_lt; omega) (by decide) (by have := bit_lt o.f; omega) (by have := o.g.code_lt; omega)) (fun _ h => h.1) fun v h => by
    obtain ⟨-, h0, h1, h⟩ := h
    rw [to_decRow28 h0, decRow28_4 h1]
    simp only [decIntUnary, decU, withDst, withDstC, withSome, withImm, zeroField, srcA, srcB, srcTop, flag, fldGuard, gScope, gA0, gB0, gC0, gS0, gR0, h, Dst.ofCode_code, Src.ofCode_code, Guard.ofCode_code, bit_beq_one, fin_ofNat_val, bv_ofNat_toNat, NumTy.ofCode_code, RM.ofCode_code, Policy.ofCode_code, Scope.ofCode_code, HalfTy.ofCode_code, BfpW.ofCode_code, MemOrd.ofCode_code, Aop.ofCode_code, SSize.ofCode_code, RelayMode.ofCode_code, CensusMode.ofCode_code, RedMode.ofCode_code, PeersMode.ofCode_code, LeaderMode.ofCode_code, FenceKind.ofCode_code, Comb.ofCode_code, AdjMode.ofCode_code, Stage.ofCode_code, AccFmt.ofCode_code, StMode.ofCode_code, if_true, if_false, Fin.is_lt, Nat.zero_add, Nat.add_zero, Nat.reduceMod, Nat.reduceDiv, Nat.reduceMul, Nat.reduceAdd, Nat.reduceLT, Nat.reduceLeDiff, Nat.reduceEqDiff, reduceIte, reduceCtorEq, Nat.mul_zero, and_self, and_true, true_and]
theorem popc o : Statement (.popc o) :=
  via (IsR 44 o.d.code o.a.code 4 (bit o.f) o.g.code) rfl (isR (by decide) (by have := o.d.code_lt; omega) (by have := o.a.code_lt; omega) (by decide) (by have := bit_lt o.f; omega) (by have := o.g.code_lt; omega)) (fun _ h => h.1) fun v h => by
    obtain ⟨-, h0, h1, h⟩ := h
    rw [to_decRow28 h0, decRow28_4 h1]
    simp only [decIntUnary, decU, withDst, withDstC, withSome, withImm, zeroField, srcA, srcB, srcTop, flag, fldGuard, gScope, gA0, gB0, gC0, gS0, gR0, h, Dst.ofCode_code, Src.ofCode_code, Guard.ofCode_code, bit_beq_one, fin_ofNat_val, bv_ofNat_toNat, NumTy.ofCode_code, RM.ofCode_code, Policy.ofCode_code, Scope.ofCode_code, HalfTy.ofCode_code, BfpW.ofCode_code, MemOrd.ofCode_code, Aop.ofCode_code, SSize.ofCode_code, RelayMode.ofCode_code, CensusMode.ofCode_code, RedMode.ofCode_code, PeersMode.ofCode_code, LeaderMode.ofCode_code, FenceKind.ofCode_code, Comb.ofCode_code, AdjMode.ofCode_code, Stage.ofCode_code, AccFmt.ofCode_code, StMode.ofCode_code, if_true, if_false, Fin.is_lt, Nat.zero_add, Nat.add_zero, Nat.reduceMod, Nat.reduceDiv, Nat.reduceMul, Nat.reduceAdd, Nat.reduceLT, Nat.reduceLeDiff, Nat.reduceEqDiff, reduceIte, reduceCtorEq, Nat.mul_zero, and_self, and_true, true_and]
theorem brev o : Statement (.brev o) :=
  via (IsR 44 o.d.code o.a.code 5 (bit o.f) o.g.code) rfl (isR (by decide) (by have := o.d.code_lt; omega) (by have := o.a.code_lt; omega) (by decide) (by have := bit_lt o.f; omega) (by have := o.g.code_lt; omega)) (fun _ h => h.1) fun v h => by
    obtain ⟨-, h0, h1, h⟩ := h
    rw [to_decRow28 h0, decRow28_4 h1]
    simp only [decIntUnary, decU, withDst, withDstC, withSome, withImm, zeroField, srcA, srcB, srcTop, flag, fldGuard, gScope, gA0, gB0, gC0, gS0, gR0, h, Dst.ofCode_code, Src.ofCode_code, Guard.ofCode_code, bit_beq_one, fin_ofNat_val, bv_ofNat_toNat, NumTy.ofCode_code, RM.ofCode_code, Policy.ofCode_code, Scope.ofCode_code, HalfTy.ofCode_code, BfpW.ofCode_code, MemOrd.ofCode_code, Aop.ofCode_code, SSize.ofCode_code, RelayMode.ofCode_code, CensusMode.ofCode_code, RedMode.ofCode_code, PeersMode.ofCode_code, LeaderMode.ofCode_code, FenceKind.ofCode_code, Comb.ofCode_code, AdjMode.ofCode_code, Stage.ofCode_code, AccFmt.ofCode_code, StMode.ofCode_code, if_true, if_false, Fin.is_lt, Nat.zero_add, Nat.add_zero, Nat.reduceMod, Nat.reduceDiv, Nat.reduceMul, Nat.reduceAdd, Nat.reduceLT, Nat.reduceLeDiff, Nat.reduceEqDiff, reduceIte, reduceCtorEq, Nat.mul_zero, and_self, and_true, true_and]
theorem mov o : Statement (.mov o) :=
  via (IsR 44 o.d.code o.a.code 6 (bit o.f) o.g.code) rfl (isR (by decide) (by have := o.d.code_lt; omega) (by have := o.a.code_lt; omega) (by decide) (by have := bit_lt o.f; omega) (by have := o.g.code_lt; omega)) (fun _ h => h.1) fun v h => by
    obtain ⟨-, h0, h1, h⟩ := h
    rw [to_decRow28 h0, decRow28_4 h1]
    simp only [decIntUnary, decU, withDst, withDstC, withSome, withImm, zeroField, srcA, srcB, srcTop, flag, fldGuard, gScope, gA0, gB0, gC0, gS0, gR0, h, Dst.ofCode_code, Src.ofCode_code, Guard.ofCode_code, bit_beq_one, fin_ofNat_val, bv_ofNat_toNat, NumTy.ofCode_code, RM.ofCode_code, Policy.ofCode_code, Scope.ofCode_code, HalfTy.ofCode_code, BfpW.ofCode_code, MemOrd.ofCode_code, Aop.ofCode_code, SSize.ofCode_code, RelayMode.ofCode_code, CensusMode.ofCode_code, RedMode.ofCode_code, PeersMode.ofCode_code, LeaderMode.ofCode_code, FenceKind.ofCode_code, Comb.ofCode_code, AdjMode.ofCode_code, Stage.ofCode_code, AccFmt.ofCode_code, StMode.ofCode_code, if_true, if_false, Fin.is_lt, Nat.zero_add, Nat.add_zero, Nat.reduceMod, Nat.reduceDiv, Nat.reduceMul, Nat.reduceAdd, Nat.reduceLT, Nat.reduceLeDiff, Nat.reduceEqDiff, reduceIte, reduceCtorEq, Nat.mul_zero, and_self, and_true, true_and]
theorem bfi o : Statement (.bfi o) :=
  via (IsT 45 o.d.code o.a.code o.b.code o.c.code (bit o.f)) rfl (isT (by decide) (by have := o.d.code_lt; omega) (by have := o.a.code_lt; omega) (by have := o.b.code_lt; omega) (by have := o.c.code_lt; omega) (by have := bit_lt o.f; omega)) (fun _ h => h.1) fun v h => (to_decRow28 h.2.1).trans ((decRow28_5 h.2.2.1).trans (decT_of _ o h))
theorem dot4 o : Statement (.dot4 o) :=
  via (IsT 46 o.d.code o.a.code o.b.code o.c.code (bit o.f)) rfl (isT (by decide) (by have := o.d.code_lt; omega) (by have := o.a.code_lt; omega) (by have := o.b.code_lt; omega) (by have := o.c.code_lt; omega) (by have := bit_lt o.f; omega)) (fun _ h => h.1) fun v h => (to_decRow28 h.2.1).trans ((decRow28_6 h.2.2.1).trans (decT_of _ o h))
theorem fadd o : Statement (.fadd o) :=
  via (IsR 48 o.d.code o.a.code o.b.code (bit o.f) o.g.code) rfl (isR (by decide) (by have := o.d.code_lt; omega) (by have := o.a.code_lt; omega) (by have := o.b.code_lt; omega) (by have := bit_lt o.f; omega) (by have := o.g.code_lt; omega)) (fun _ h => h.1) fun v h => (to_decRow30 h.2.1).trans ((decRow30_0 h.2.2.1).trans (decR_of _ o h))
theorem fsub o : Statement (.fsub o) :=
  via (IsR 49 o.d.code o.a.code o.b.code (bit o.f) o.g.code) rfl (isR (by decide) (by have := o.d.code_lt; omega) (by have := o.a.code_lt; omega) (by have := o.b.code_lt; omega) (by have := bit_lt o.f; omega) (by have := o.g.code_lt; omega)) (fun _ h => h.1) fun v h => (to_decRow30 h.2.1).trans ((decRow30_1 h.2.2.1).trans (decR_of _ o h))
theorem fmul o : Statement (.fmul o) :=
  via (IsR 50 o.d.code o.a.code o.b.code (bit o.f) o.g.code) rfl (isR (by decide) (by have := o.d.code_lt; omega) (by have := o.a.code_lt; omega) (by have := o.b.code_lt; omega) (by have := bit_lt o.f; omega) (by have := o.g.code_lt; omega)) (fun _ h => h.1) fun v h => (to_decRow30 h.2.1).trans ((decRow30_2 h.2.2.1).trans (decR_of _ o h))
theorem fdiv o : Statement (.fdiv o) :=
  via (IsR 51 o.d.code o.a.code o.b.code (bit o.f) o.g.code) rfl (isR (by decide) (by have := o.d.code_lt; omega) (by have := o.a.code_lt; omega) (by have := o.b.code_lt; omega) (by have := bit_lt o.f; omega) (by have := o.g.code_lt; omega)) (fun _ h => h.1) fun v h => (to_decRow30 h.2.1).trans ((decRow30_3 h.2.2.1).trans (decR_of _ o h))
theorem fmin o : Statement (.fmin o) :=
  via (IsR 52 o.d.code o.a.code o.b.code (bit o.f) o.g.code) rfl (isR (by decide) (by have := o.d.code_lt; omega) (by have := o.a.code_lt; omega) (by have := o.b.code_lt; omega) (by have := bit_lt o.f; omega) (by have := o.g.code_lt; omega)) (fun _ h => h.1) fun v h => (to_decRow30 h.2.1).trans ((decRow30_4 h.2.2.1).trans (decR_of _ o h))
theorem fmax o : Statement (.fmax o) :=
  via (IsR 53 o.d.code o.a.code o.b.code (bit o.f) o.g.code) rfl (isR (by decide) (by have := o.d.code_lt; omega) (by have := o.a.code_lt; omega) (by have := o.b.code_lt; omega) (by have := bit_lt o.f; omega) (by have := o.g.code_lt; omega)) (fun _ h => h.1) fun v h => (to_decRow30 h.2.1).trans ((decRow30_5 h.2.2.1).trans (decR_of _ o h))
theorem fsgn o : Statement (.fsgn o) :=
  via (IsR 54 o.d.code o.a.code o.b.code (bit o.f) o.g.code) rfl (isR (by decide) (by have := o.d.code_lt; omega) (by have := o.a.code_lt; omega) (by have := o.b.code_lt; omega) (by have := bit_lt o.f; omega) (by have := o.g.code_lt; omega)) (fun _ h => h.1) fun v h => (to_decRow30 h.2.1).trans ((decRow30_6 h.2.2.1).trans (decR_of _ o h))
theorem fcmp o : Statement (.fcmp o) :=
  via (IsCmp 55 o.cc.val o.a.code o.b.code o.g.code) rfl (isCmp (by decide) (by have := o.cc.isLt; omega) (by have := o.a.code_lt; omega) (by have := o.b.code_lt; omega) (by have := o.g.code_lt; omega)) (fun _ h => h.1) fun v h => (to_decRow30 h.2.1).trans ((decRow30_7 h.2.2.1).trans (decCmp_of _ o h))
theorem ffma o : Statement (.ffma o) :=
  via (IsT 56 o.d.code o.a.code o.b.code o.c.code (bit o.f)) rfl (isT (by decide) (by have := o.d.code_lt; omega) (by have := o.a.code_lt; omega) (by have := o.b.code_lt; omega) (by have := o.c.code_lt; omega) (by have := bit_lt o.f; omega)) (fun _ h => h.1) fun v h => (to_decRow38 h.2.1).trans ((decRow38_0 h.2.2.1).trans (decT_of _ o h))
theorem frcp o : Statement (.frcp o) :=
  via (IsR 57 o.d.code o.a.code 0 (bit o.f) o.g.code) rfl (isR (by decide) (by have := o.d.code_lt; omega) (by have := o.a.code_lt; omega) (by decide) (by have := bit_lt o.f; omega) (by have := o.g.code_lt; omega)) (fun _ h => h.1) fun v h => by
    obtain ⟨-, h0, h1, h⟩ := h
    rw [to_decRow38 h0, decRow38_1 h1]
    simp only [decFpUnary, decFrnd, decU, withDst, withDstC, withSome, withImm, zeroField, srcA, srcB, srcTop, flag, fldGuard, gScope, gA0, gB0, gC0, gS0, gR0, h, Dst.ofCode_code, Src.ofCode_code, Guard.ofCode_code, bit_beq_one, fin_ofNat_val, bv_ofNat_toNat, NumTy.ofCode_code, RM.ofCode_code, Policy.ofCode_code, Scope.ofCode_code, HalfTy.ofCode_code, BfpW.ofCode_code, MemOrd.ofCode_code, Aop.ofCode_code, SSize.ofCode_code, RelayMode.ofCode_code, CensusMode.ofCode_code, RedMode.ofCode_code, PeersMode.ofCode_code, LeaderMode.ofCode_code, FenceKind.ofCode_code, Comb.ofCode_code, AdjMode.ofCode_code, Stage.ofCode_code, AccFmt.ofCode_code, StMode.ofCode_code, if_true, if_false, Fin.is_lt, Nat.zero_add, Nat.add_zero, Nat.reduceMod, Nat.reduceDiv, Nat.reduceMul, Nat.reduceAdd, Nat.reduceLT, Nat.reduceLeDiff, Nat.reduceEqDiff, reduceIte, reduceCtorEq, Nat.mul_zero, and_self, and_true, true_and]
theorem fsqrt o : Statement (.fsqrt o) :=
  via (IsR 57 o.d.code o.a.code 1 (bit o.f) o.g.code) rfl (isR (by decide) (by have := o.d.code_lt; omega) (by have := o.a.code_lt; omega) (by decide) (by have := bit_lt o.f; omega) (by have := o.g.code_lt; omega)) (fun _ h => h.1) fun v h => by
    obtain ⟨-, h0, h1, h⟩ := h
    rw [to_decRow38 h0, decRow38_1 h1]
    simp only [decFpUnary, decFrnd, decU, withDst, withDstC, withSome, withImm, zeroField, srcA, srcB, srcTop, flag, fldGuard, gScope, gA0, gB0, gC0, gS0, gR0, h, Dst.ofCode_code, Src.ofCode_code, Guard.ofCode_code, bit_beq_one, fin_ofNat_val, bv_ofNat_toNat, NumTy.ofCode_code, RM.ofCode_code, Policy.ofCode_code, Scope.ofCode_code, HalfTy.ofCode_code, BfpW.ofCode_code, MemOrd.ofCode_code, Aop.ofCode_code, SSize.ofCode_code, RelayMode.ofCode_code, CensusMode.ofCode_code, RedMode.ofCode_code, PeersMode.ofCode_code, LeaderMode.ofCode_code, FenceKind.ofCode_code, Comb.ofCode_code, AdjMode.ofCode_code, Stage.ofCode_code, AccFmt.ofCode_code, StMode.ofCode_code, if_true, if_false, Fin.is_lt, Nat.zero_add, Nat.add_zero, Nat.reduceMod, Nat.reduceDiv, Nat.reduceMul, Nat.reduceAdd, Nat.reduceLT, Nat.reduceLeDiff, Nat.reduceEqDiff, reduceIte, reduceCtorEq, Nat.mul_zero, and_self, and_true, true_and]
theorem frsq o : Statement (.frsq o) :=
  via (IsR 57 o.d.code o.a.code 2 (bit o.f) o.g.code) rfl (isR (by decide) (by have := o.d.code_lt; omega) (by have := o.a.code_lt; omega) (by decide) (by have := bit_lt o.f; omega) (by have := o.g.code_lt; omega)) (fun _ h => h.1) fun v h => by
    obtain ⟨-, h0, h1, h⟩ := h
    rw [to_decRow38 h0, decRow38_1 h1]
    simp only [decFpUnary, decFrnd, decU, withDst, withDstC, withSome, withImm, zeroField, srcA, srcB, srcTop, flag, fldGuard, gScope, gA0, gB0, gC0, gS0, gR0, h, Dst.ofCode_code, Src.ofCode_code, Guard.ofCode_code, bit_beq_one, fin_ofNat_val, bv_ofNat_toNat, NumTy.ofCode_code, RM.ofCode_code, Policy.ofCode_code, Scope.ofCode_code, HalfTy.ofCode_code, BfpW.ofCode_code, MemOrd.ofCode_code, Aop.ofCode_code, SSize.ofCode_code, RelayMode.ofCode_code, CensusMode.ofCode_code, RedMode.ofCode_code, PeersMode.ofCode_code, LeaderMode.ofCode_code, FenceKind.ofCode_code, Comb.ofCode_code, AdjMode.ofCode_code, Stage.ofCode_code, AccFmt.ofCode_code, StMode.ofCode_code, if_true, if_false, Fin.is_lt, Nat.zero_add, Nat.add_zero, Nat.reduceMod, Nat.reduceDiv, Nat.reduceMul, Nat.reduceAdd, Nat.reduceLT, Nat.reduceLeDiff, Nat.reduceEqDiff, reduceIte, reduceCtorEq, Nat.mul_zero, and_self, and_true, true_and]
theorem fexp2 o : Statement (.fexp2 o) :=
  via (IsR 57 o.d.code o.a.code 3 (bit o.f) o.g.code) rfl (isR (by decide) (by have := o.d.code_lt; omega) (by have := o.a.code_lt; omega) (by decide) (by have := bit_lt o.f; omega) (by have := o.g.code_lt; omega)) (fun _ h => h.1) fun v h => by
    obtain ⟨-, h0, h1, h⟩ := h
    rw [to_decRow38 h0, decRow38_1 h1]
    simp only [decFpUnary, decFrnd, decU, withDst, withDstC, withSome, withImm, zeroField, srcA, srcB, srcTop, flag, fldGuard, gScope, gA0, gB0, gC0, gS0, gR0, h, Dst.ofCode_code, Src.ofCode_code, Guard.ofCode_code, bit_beq_one, fin_ofNat_val, bv_ofNat_toNat, NumTy.ofCode_code, RM.ofCode_code, Policy.ofCode_code, Scope.ofCode_code, HalfTy.ofCode_code, BfpW.ofCode_code, MemOrd.ofCode_code, Aop.ofCode_code, SSize.ofCode_code, RelayMode.ofCode_code, CensusMode.ofCode_code, RedMode.ofCode_code, PeersMode.ofCode_code, LeaderMode.ofCode_code, FenceKind.ofCode_code, Comb.ofCode_code, AdjMode.ofCode_code, Stage.ofCode_code, AccFmt.ofCode_code, StMode.ofCode_code, if_true, if_false, Fin.is_lt, Nat.zero_add, Nat.add_zero, Nat.reduceMod, Nat.reduceDiv, Nat.reduceMul, Nat.reduceAdd, Nat.reduceLT, Nat.reduceLeDiff, Nat.reduceEqDiff, reduceIte, reduceCtorEq, Nat.mul_zero, and_self, and_true, true_and]
theorem flog2 o : Statement (.flog2 o) :=
  via (IsR 57 o.d.code o.a.code 4 (bit o.f) o.g.code) rfl (isR (by decide) (by have := o.d.code_lt; omega) (by have := o.a.code_lt; omega) (by decide) (by have := bit_lt o.f; omega) (by have := o.g.code_lt; omega)) (fun _ h => h.1) fun v h => by
    obtain ⟨-, h0, h1, h⟩ := h
    rw [to_decRow38 h0, decRow38_1 h1]
    simp only [decFpUnary, decFrnd, decU, withDst, withDstC, withSome, withImm, zeroField, srcA, srcB, srcTop, flag, fldGuard, gScope, gA0, gB0, gC0, gS0, gR0, h, Dst.ofCode_code, Src.ofCode_code, Guard.ofCode_code, bit_beq_one, fin_ofNat_val, bv_ofNat_toNat, NumTy.ofCode_code, RM.ofCode_code, Policy.ofCode_code, Scope.ofCode_code, HalfTy.ofCode_code, BfpW.ofCode_code, MemOrd.ofCode_code, Aop.ofCode_code, SSize.ofCode_code, RelayMode.ofCode_code, CensusMode.ofCode_code, RedMode.ofCode_code, PeersMode.ofCode_code, LeaderMode.ofCode_code, FenceKind.ofCode_code, Comb.ofCode_code, AdjMode.ofCode_code, Stage.ofCode_code, AccFmt.ofCode_code, StMode.ofCode_code, if_true, if_false, Fin.is_lt, Nat.zero_add, Nat.add_zero, Nat.reduceMod, Nat.reduceDiv, Nat.reduceMul, Nat.reduceAdd, Nat.reduceLT, Nat.reduceLeDiff, Nat.reduceEqDiff, reduceIte, reduceCtorEq, Nat.mul_zero, and_self, and_true, true_and]
theorem fsin o : Statement (.fsin o) :=
  via (IsR 57 o.d.code o.a.code 5 (bit o.f) o.g.code) rfl (isR (by decide) (by have := o.d.code_lt; omega) (by have := o.a.code_lt; omega) (by decide) (by have := bit_lt o.f; omega) (by have := o.g.code_lt; omega)) (fun _ h => h.1) fun v h => by
    obtain ⟨-, h0, h1, h⟩ := h
    rw [to_decRow38 h0, decRow38_1 h1]
    simp only [decFpUnary, decFrnd, decU, withDst, withDstC, withSome, withImm, zeroField, srcA, srcB, srcTop, flag, fldGuard, gScope, gA0, gB0, gC0, gS0, gR0, h, Dst.ofCode_code, Src.ofCode_code, Guard.ofCode_code, bit_beq_one, fin_ofNat_val, bv_ofNat_toNat, NumTy.ofCode_code, RM.ofCode_code, Policy.ofCode_code, Scope.ofCode_code, HalfTy.ofCode_code, BfpW.ofCode_code, MemOrd.ofCode_code, Aop.ofCode_code, SSize.ofCode_code, RelayMode.ofCode_code, CensusMode.ofCode_code, RedMode.ofCode_code, PeersMode.ofCode_code, LeaderMode.ofCode_code, FenceKind.ofCode_code, Comb.ofCode_code, AdjMode.ofCode_code, Stage.ofCode_code, AccFmt.ofCode_code, StMode.ofCode_code, if_true, if_false, Fin.is_lt, Nat.zero_add, Nat.add_zero, Nat.reduceMod, Nat.reduceDiv, Nat.reduceMul, Nat.reduceAdd, Nat.reduceLT, Nat.reduceLeDiff, Nat.reduceEqDiff, reduceIte, reduceCtorEq, Nat.mul_zero, and_self, and_true, true_and]
theorem fcos o : Statement (.fcos o) :=
  via (IsR 57 o.d.code o.a.code 6 (bit o.f) o.g.code) rfl (isR (by decide) (by have := o.d.code_lt; omega) (by have := o.a.code_lt; omega) (by decide) (by have := bit_lt o.f; omega) (by have := o.g.code_lt; omega)) (fun _ h => h.1) fun v h => by
    obtain ⟨-, h0, h1, h⟩ := h
    rw [to_decRow38 h0, decRow38_1 h1]
    simp only [decFpUnary, decFrnd, decU, withDst, withDstC, withSome, withImm, zeroField, srcA, srcB, srcTop, flag, fldGuard, gScope, gA0, gB0, gC0, gS0, gR0, h, Dst.ofCode_code, Src.ofCode_code, Guard.ofCode_code, bit_beq_one, fin_ofNat_val, bv_ofNat_toNat, NumTy.ofCode_code, RM.ofCode_code, Policy.ofCode_code, Scope.ofCode_code, HalfTy.ofCode_code, BfpW.ofCode_code, MemOrd.ofCode_code, Aop.ofCode_code, SSize.ofCode_code, RelayMode.ofCode_code, CensusMode.ofCode_code, RedMode.ofCode_code, PeersMode.ofCode_code, LeaderMode.ofCode_code, FenceKind.ofCode_code, Comb.ofCode_code, AdjMode.ofCode_code, Stage.ofCode_code, AccFmt.ofCode_code, StMode.ofCode_code, if_true, if_false, Fin.is_lt, Nat.zero_add, Nat.add_zero, Nat.reduceMod, Nat.reduceDiv, Nat.reduceMul, Nat.reduceAdd, Nat.reduceLT, Nat.reduceLeDiff, Nat.reduceEqDiff, reduceIte, reduceCtorEq, Nat.mul_zero, and_self, and_true, true_and]
theorem fclass o : Statement (.fclass o) :=
  via (IsR 57 o.d.code o.a.code 7 (bit o.f) o.g.code) rfl (isR (by decide) (by have := o.d.code_lt; omega) (by have := o.a.code_lt; omega) (by decide) (by have := bit_lt o.f; omega) (by have := o.g.code_lt; omega)) (fun _ h => h.1) fun v h => by
    obtain ⟨-, h0, h1, h⟩ := h
    rw [to_decRow38 h0, decRow38_1 h1]
    simp only [decFpUnary, decFrnd, decU, withDst, withDstC, withSome, withImm, zeroField, srcA, srcB, srcTop, flag, fldGuard, gScope, gA0, gB0, gC0, gS0, gR0, h, Dst.ofCode_code, Src.ofCode_code, Guard.ofCode_code, bit_beq_one, fin_ofNat_val, bv_ofNat_toNat, NumTy.ofCode_code, RM.ofCode_code, Policy.ofCode_code, Scope.ofCode_code, HalfTy.ofCode_code, BfpW.ofCode_code, MemOrd.ofCode_code, Aop.ofCode_code, SSize.ofCode_code, RelayMode.ofCode_code, CensusMode.ofCode_code, RedMode.ofCode_code, PeersMode.ofCode_code, LeaderMode.ofCode_code, FenceKind.ofCode_code, Comb.ofCode_code, AdjMode.ofCode_code, Stage.ofCode_code, AccFmt.ofCode_code, StMode.ofCode_code, if_true, if_false, Fin.is_lt, Nat.zero_add, Nat.add_zero, Nat.reduceMod, Nat.reduceDiv, Nat.reduceMul, Nat.reduceAdd, Nat.reduceLT, Nat.reduceLeDiff, Nat.reduceEqDiff, reduceIte, reduceCtorEq, Nat.mul_zero, and_self, and_true, true_and]
theorem frnd o : Statement (.frnd o) :=
  via (IsR 57 o.d.code o.a.code (8 + o.rm.code) (bit o.f) o.g.code) rfl (isR (by decide) (by have := o.d.code_lt; omega) (by have := o.a.code_lt; omega) (by have := o.rm.code_lt; omega) (by have := bit_lt o.f; omega) (by have := o.g.code_lt; omega)) (fun _ h => h.1) fun v h => by
    obtain ⟨-, h0, h1, h⟩ := h
    rw [to_decRow38 h0, decRow38_1 h1]
    rcases o with ⟨d, a, rm, f, g⟩
    cases rm <;> simp only [decFpUnary, decFrnd, decU, withDst, withDstC, withSome, withImm, zeroField, srcA, srcB, srcTop, flag, fldGuard, gScope, gA0, gB0, gC0, gS0, gR0, h, Dst.ofCode_code, Src.ofCode_code, Guard.ofCode_code, bit_beq_one, fin_ofNat_val, bv_ofNat_toNat, NumTy.ofCode_code, RM.ofCode_code, Policy.ofCode_code, Scope.ofCode_code, HalfTy.ofCode_code, BfpW.ofCode_code, MemOrd.ofCode_code, Aop.ofCode_code, SSize.ofCode_code, RelayMode.ofCode_code, CensusMode.ofCode_code, RedMode.ofCode_code, PeersMode.ofCode_code, LeaderMode.ofCode_code, FenceKind.ofCode_code, Comb.ofCode_code, AdjMode.ofCode_code, Stage.ofCode_code, AccFmt.ofCode_code, StMode.ofCode_code, if_true, if_false, Fin.is_lt, Nat.zero_add, Nat.add_zero, Nat.reduceMod, Nat.reduceDiv, Nat.reduceMul, Nat.reduceAdd, Nat.reduceLT, Nat.reduceLeDiff, Nat.reduceEqDiff, reduceIte, reduceCtorEq, Nat.mul_zero, and_self, and_true, true_and, RM.code, RM.ofCode]
theorem prfmaF16 o : Statement (.prfmaF16 o) :=
  via (IsT0 58 o.d.code o.a.code o.b.code o.c.code) rfl (isT0 (by decide) (by have := o.d.code_lt; omega) (by have := o.a.code_lt; omega) (by have := o.b.code_lt; omega) (by have := o.c.code_lt; omega)) (fun _ h => h.1) fun v h => (to_decRow38 h.2.1).trans ((decRow38_2 h.2.2.1).trans (decT0_of _ o h))
theorem prfmaB16 o : Statement (.prfmaB16 o) :=
  via (IsT0 59 o.d.code o.a.code o.b.code o.c.code) rfl (isT0 (by decide) (by have := o.d.code_lt; omega) (by have := o.a.code_lt; omega) (by have := o.b.code_lt; omega) (by have := o.c.code_lt; omega)) (fun _ h => h.1) fun v h => (to_decRow38 h.2.1).trans ((decRow38_3 h.2.2.1).trans (decT0_of _ o h))
theorem pradd o : Statement (.pradd o) :=
  via (IsE 60 o.d.code o.a.code o.b.code (8 * o.ty.code + 0)) rfl (isE (by decide) (by have := o.d.code_lt; omega) (by have := o.a.code_lt; omega) (by have := o.b.code_lt; omega) (by have := o.ty.code_lt; omega)) (fun _ h => h.1) fun v h => by
    obtain ⟨-, h0, h1, h⟩ := h
    have e0 : (8 * o.ty.code) / 8 = o.ty.code := by have := o.ty.code_lt; omega
    have e1 : (8 * o.ty.code) % 8 = 0 := by have := o.ty.code_lt; omega
    have e2 : o.ty.code % 2 = o.ty.code := by have := o.ty.code_lt; omega
    have e3 : ¬ 2 ≤ o.ty.code := by have := o.ty.code_lt; omega
    rw [to_decRow38 h0, decRow38_4 h1]
    simp only [decPacked, decPr, withDst, withDstC, withSome, withImm, zeroField, srcA, srcB, srcTop, flag, fldGuard, gScope, gA0, gB0, gC0, gS0, gR0, h, e0, e1, e2, e3, Dst.ofCode_code, Src.ofCode_code, Guard.ofCode_code, bit_beq_one, fin_ofNat_val, bv_ofNat_toNat, NumTy.ofCode_code, RM.ofCode_code, Policy.ofCode_code, Scope.ofCode_code, HalfTy.ofCode_code, BfpW.ofCode_code, MemOrd.ofCode_code, Aop.ofCode_code, SSize.ofCode_code, RelayMode.ofCode_code, CensusMode.ofCode_code, RedMode.ofCode_code, PeersMode.ofCode_code, LeaderMode.ofCode_code, FenceKind.ofCode_code, Comb.ofCode_code, AdjMode.ofCode_code, Stage.ofCode_code, AccFmt.ofCode_code, StMode.ofCode_code, if_true, if_false, Fin.is_lt, Nat.zero_add, Nat.add_zero, Nat.reduceMod, Nat.reduceDiv, Nat.reduceMul, Nat.reduceAdd, Nat.reduceLT, Nat.reduceLeDiff, Nat.reduceEqDiff, reduceIte, reduceCtorEq, Nat.mul_zero, and_self, and_true, true_and]
theorem prsub o : Statement (.prsub o) :=
  via (IsE 60 o.d.code o.a.code o.b.code (8 * o.ty.code + 1)) rfl (isE (by decide) (by have := o.d.code_lt; omega) (by have := o.a.code_lt; omega) (by have := o.b.code_lt; omega) (by have := o.ty.code_lt; omega)) (fun _ h => h.1) fun v h => by
    obtain ⟨-, h0, h1, h⟩ := h
    have e0 : (8 * o.ty.code + 1) / 8 = o.ty.code := by have := o.ty.code_lt; omega
    have e1 : (8 * o.ty.code + 1) % 8 = 1 := by have := o.ty.code_lt; omega
    have e2 : o.ty.code % 2 = o.ty.code := by have := o.ty.code_lt; omega
    have e3 : ¬ 2 ≤ o.ty.code := by have := o.ty.code_lt; omega
    rw [to_decRow38 h0, decRow38_4 h1]
    simp only [decPacked, decPr, withDst, withDstC, withSome, withImm, zeroField, srcA, srcB, srcTop, flag, fldGuard, gScope, gA0, gB0, gC0, gS0, gR0, h, e0, e1, e2, e3, Dst.ofCode_code, Src.ofCode_code, Guard.ofCode_code, bit_beq_one, fin_ofNat_val, bv_ofNat_toNat, NumTy.ofCode_code, RM.ofCode_code, Policy.ofCode_code, Scope.ofCode_code, HalfTy.ofCode_code, BfpW.ofCode_code, MemOrd.ofCode_code, Aop.ofCode_code, SSize.ofCode_code, RelayMode.ofCode_code, CensusMode.ofCode_code, RedMode.ofCode_code, PeersMode.ofCode_code, LeaderMode.ofCode_code, FenceKind.ofCode_code, Comb.ofCode_code, AdjMode.ofCode_code, Stage.ofCode_code, AccFmt.ofCode_code, StMode.ofCode_code, if_true, if_false, Fin.is_lt, Nat.zero_add, Nat.add_zero, Nat.reduceMod, Nat.reduceDiv, Nat.reduceMul, Nat.reduceAdd, Nat.reduceLT, Nat.reduceLeDiff, Nat.reduceEqDiff, reduceIte, reduceCtorEq, Nat.mul_zero, and_self, and_true, true_and]
theorem prmul o : Statement (.prmul o) :=
  via (IsE 60 o.d.code o.a.code o.b.code (8 * o.ty.code + 2)) rfl (isE (by decide) (by have := o.d.code_lt; omega) (by have := o.a.code_lt; omega) (by have := o.b.code_lt; omega) (by have := o.ty.code_lt; omega)) (fun _ h => h.1) fun v h => by
    obtain ⟨-, h0, h1, h⟩ := h
    have e0 : (8 * o.ty.code + 2) / 8 = o.ty.code := by have := o.ty.code_lt; omega
    have e1 : (8 * o.ty.code + 2) % 8 = 2 := by have := o.ty.code_lt; omega
    have e2 : o.ty.code % 2 = o.ty.code := by have := o.ty.code_lt; omega
    have e3 : ¬ 2 ≤ o.ty.code := by have := o.ty.code_lt; omega
    rw [to_decRow38 h0, decRow38_4 h1]
    simp only [decPacked, decPr, withDst, withDstC, withSome, withImm, zeroField, srcA, srcB, srcTop, flag, fldGuard, gScope, gA0, gB0, gC0, gS0, gR0, h, e0, e1, e2, e3, Dst.ofCode_code, Src.ofCode_code, Guard.ofCode_code, bit_beq_one, fin_ofNat_val, bv_ofNat_toNat, NumTy.ofCode_code, RM.ofCode_code, Policy.ofCode_code, Scope.ofCode_code, HalfTy.ofCode_code, BfpW.ofCode_code, MemOrd.ofCode_code, Aop.ofCode_code, SSize.ofCode_code, RelayMode.ofCode_code, CensusMode.ofCode_code, RedMode.ofCode_code, PeersMode.ofCode_code, LeaderMode.ofCode_code, FenceKind.ofCode_code, Comb.ofCode_code, AdjMode.ofCode_code, Stage.ofCode_code, AccFmt.ofCode_code, StMode.ofCode_code, if_true, if_false, Fin.is_lt, Nat.zero_add, Nat.add_zero, Nat.reduceMod, Nat.reduceDiv, Nat.reduceMul, Nat.reduceAdd, Nat.reduceLT, Nat.reduceLeDiff, Nat.reduceEqDiff, reduceIte, reduceCtorEq, Nat.mul_zero, and_self, and_true, true_and]
theorem prmin o : Statement (.prmin o) :=
  via (IsE 60 o.d.code o.a.code o.b.code (8 * o.ty.code + 3)) rfl (isE (by decide) (by have := o.d.code_lt; omega) (by have := o.a.code_lt; omega) (by have := o.b.code_lt; omega) (by have := o.ty.code_lt; omega)) (fun _ h => h.1) fun v h => by
    obtain ⟨-, h0, h1, h⟩ := h
    have e0 : (8 * o.ty.code + 3) / 8 = o.ty.code := by have := o.ty.code_lt; omega
    have e1 : (8 * o.ty.code + 3) % 8 = 3 := by have := o.ty.code_lt; omega
    have e2 : o.ty.code % 2 = o.ty.code := by have := o.ty.code_lt; omega
    have e3 : ¬ 2 ≤ o.ty.code := by have := o.ty.code_lt; omega
    rw [to_decRow38 h0, decRow38_4 h1]
    simp only [decPacked, decPr, withDst, withDstC, withSome, withImm, zeroField, srcA, srcB, srcTop, flag, fldGuard, gScope, gA0, gB0, gC0, gS0, gR0, h, e0, e1, e2, e3, Dst.ofCode_code, Src.ofCode_code, Guard.ofCode_code, bit_beq_one, fin_ofNat_val, bv_ofNat_toNat, NumTy.ofCode_code, RM.ofCode_code, Policy.ofCode_code, Scope.ofCode_code, HalfTy.ofCode_code, BfpW.ofCode_code, MemOrd.ofCode_code, Aop.ofCode_code, SSize.ofCode_code, RelayMode.ofCode_code, CensusMode.ofCode_code, RedMode.ofCode_code, PeersMode.ofCode_code, LeaderMode.ofCode_code, FenceKind.ofCode_code, Comb.ofCode_code, AdjMode.ofCode_code, Stage.ofCode_code, AccFmt.ofCode_code, StMode.ofCode_code, if_true, if_false, Fin.is_lt, Nat.zero_add, Nat.add_zero, Nat.reduceMod, Nat.reduceDiv, Nat.reduceMul, Nat.reduceAdd, Nat.reduceLT, Nat.reduceLeDiff, Nat.reduceEqDiff, reduceIte, reduceCtorEq, Nat.mul_zero, and_self, and_true, true_and]
theorem prmax o : Statement (.prmax o) :=
  via (IsE 60 o.d.code o.a.code o.b.code (8 * o.ty.code + 4)) rfl (isE (by decide) (by have := o.d.code_lt; omega) (by have := o.a.code_lt; omega) (by have := o.b.code_lt; omega) (by have := o.ty.code_lt; omega)) (fun _ h => h.1) fun v h => by
    obtain ⟨-, h0, h1, h⟩ := h
    have e0 : (8 * o.ty.code + 4) / 8 = o.ty.code := by have := o.ty.code_lt; omega
    have e1 : (8 * o.ty.code + 4) % 8 = 4 := by have := o.ty.code_lt; omega
    have e2 : o.ty.code % 2 = o.ty.code := by have := o.ty.code_lt; omega
    have e3 : ¬ 2 ≤ o.ty.code := by have := o.ty.code_lt; omega
    rw [to_decRow38 h0, decRow38_4 h1]
    simp only [decPacked, decPr, withDst, withDstC, withSome, withImm, zeroField, srcA, srcB, srcTop, flag, fldGuard, gScope, gA0, gB0, gC0, gS0, gR0, h, e0, e1, e2, e3, Dst.ofCode_code, Src.ofCode_code, Guard.ofCode_code, bit_beq_one, fin_ofNat_val, bv_ofNat_toNat, NumTy.ofCode_code, RM.ofCode_code, Policy.ofCode_code, Scope.ofCode_code, HalfTy.ofCode_code, BfpW.ofCode_code, MemOrd.ofCode_code, Aop.ofCode_code, SSize.ofCode_code, RelayMode.ofCode_code, CensusMode.ofCode_code, RedMode.ofCode_code, PeersMode.ofCode_code, LeaderMode.ofCode_code, FenceKind.ofCode_code, Comb.ofCode_code, AdjMode.ofCode_code, Stage.ofCode_code, AccFmt.ofCode_code, StMode.ofCode_code, if_true, if_false, Fin.is_lt, Nat.zero_add, Nat.add_zero, Nat.reduceMod, Nat.reduceDiv, Nat.reduceMul, Nat.reduceAdd, Nat.reduceLT, Nat.reduceLeDiff, Nat.reduceEqDiff, reduceIte, reduceCtorEq, Nat.mul_zero, and_self, and_true, true_and]
theorem cvt o : Statement (.cvt o) :=
  via (IsV 61 o.d.code o.a.code o.src.code o.dst.code o.rm.code (bit o.sat)) rfl (isV (by decide) (by have := o.d.code_lt; omega) (by have := o.a.code_lt; omega) (by have := o.src.code_lt; omega) (by have := o.dst.code_lt; omega) (by have := o.rm.code_lt; omega) (by have := bit_lt o.sat; omega)) (fun _ h => h.1) fun v h => (to_decRow38 h.2.1).trans ((decRow38_5 h.2.2.1).trans (decV_of _ o h))
theorem pack o : Statement (.pack o) :=
  via (IsE 62 o.d.code o.a.code o.b.code (16 * 0 + 2 * o.w.code + bit o.o)) rfl (isE (by decide) (by have := o.d.code_lt; omega) (by have := o.a.code_lt; omega) (by have := o.b.code_lt; omega) (by have := o.w.code_lt; have := bit_lt o.o; omega)) (fun _ h => h.1) fun v h => by
    obtain ⟨-, h0, h1, h⟩ := h
    have e0 : (2 * o.w.code + bit o.o) / 16 = 0 := by have := o.w.code_lt; have := bit_lt o.o; omega
    have e1 : (2 * o.w.code + bit o.o) / 2 % 8 = o.w.code := by have := o.w.code_lt; have := bit_lt o.o; omega
    have e2 : (2 * o.w.code + bit o.o) % 2 = bit o.o := by have := o.w.code_lt; have := bit_lt o.o; omega
    rw [to_decRow38 h0, decRow38_6 h1]
    simp only [decNarrow, decNar, withDst, withDstC, withSome, withImm, zeroField, srcA, srcB, srcTop, flag, fldGuard, gScope, gA0, gB0, gC0, gS0, gR0, h, e0, e1, e2, Dst.ofCode_code, Src.ofCode_code, Guard.ofCode_code, bit_beq_one, fin_ofNat_val, bv_ofNat_toNat, NumTy.ofCode_code, RM.ofCode_code, Policy.ofCode_code, Scope.ofCode_code, HalfTy.ofCode_code, BfpW.ofCode_code, MemOrd.ofCode_code, Aop.ofCode_code, SSize.ofCode_code, RelayMode.ofCode_code, CensusMode.ofCode_code, RedMode.ofCode_code, PeersMode.ofCode_code, LeaderMode.ofCode_code, FenceKind.ofCode_code, Comb.ofCode_code, AdjMode.ofCode_code, Stage.ofCode_code, AccFmt.ofCode_code, StMode.ofCode_code, if_true, if_false, Fin.is_lt, Nat.zero_add, Nat.add_zero, Nat.reduceMod, Nat.reduceDiv, Nat.reduceMul, Nat.reduceAdd, Nat.reduceLT, Nat.reduceLeDiff, Nat.reduceEqDiff, reduceIte, reduceCtorEq, Nat.mul_zero, and_self, and_true, true_and]
theorem unpk o : Statement (.unpk o) :=
  via (IsE 62 o.d.code o.a.code o.b.code (16 * 1 + 2 * o.w.code + bit o.o)) rfl (isE (by decide) (by have := o.d.code_lt; omega) (by have := o.a.code_lt; omega) (by have := o.b.code_lt; omega) (by have := o.w.code_lt; have := bit_lt o.o; omega)) (fun _ h => h.1) fun v h => by
    obtain ⟨-, h0, h1, h⟩ := h
    have e0 : (16 + 2 * o.w.code + bit o.o) / 16 = 1 := by have := o.w.code_lt; have := bit_lt o.o; omega
    have e1 : (16 + 2 * o.w.code + bit o.o) / 2 % 8 = o.w.code := by have := o.w.code_lt; have := bit_lt o.o; omega
    have e2 : (16 + 2 * o.w.code + bit o.o) % 2 = bit o.o := by have := o.w.code_lt; have := bit_lt o.o; omega
    rw [to_decRow38 h0, decRow38_6 h1]
    simp only [decNarrow, decNar, withDst, withDstC, withSome, withImm, zeroField, srcA, srcB, srcTop, flag, fldGuard, gScope, gA0, gB0, gC0, gS0, gR0, h, e0, e1, e2, Dst.ofCode_code, Src.ofCode_code, Guard.ofCode_code, bit_beq_one, fin_ofNat_val, bv_ofNat_toNat, NumTy.ofCode_code, RM.ofCode_code, Policy.ofCode_code, Scope.ofCode_code, HalfTy.ofCode_code, BfpW.ofCode_code, MemOrd.ofCode_code, Aop.ofCode_code, SSize.ofCode_code, RelayMode.ofCode_code, CensusMode.ofCode_code, RedMode.ofCode_code, PeersMode.ofCode_code, LeaderMode.ofCode_code, FenceKind.ofCode_code, Comb.ofCode_code, AdjMode.ofCode_code, Stage.ofCode_code, AccFmt.ofCode_code, StMode.ofCode_code, if_true, if_false, Fin.is_lt, Nat.zero_add, Nat.add_zero, Nat.reduceMod, Nat.reduceDiv, Nat.reduceMul, Nat.reduceAdd, Nat.reduceLT, Nat.reduceLeDiff, Nat.reduceEqDiff, reduceIte, reduceCtorEq, Nat.mul_zero, and_self, and_true, true_and]
theorem bfpq o : Statement (.bfpq o) :=
  via (IsE 62 o.d.code o.a.code o.b.code (16 * 2 + 2 * o.w.code + bit o.o)) rfl (isE (by decide) (by have := o.d.code_lt; omega) (by have := o.a.code_lt; omega) (by have := o.b.code_lt; omega) (by have := o.w.code_lt; have := bit_lt o.o; omega)) (fun _ h => h.1) fun v h => by
    obtain ⟨-, h0, h1, h⟩ := h
    have e0 : (32 + 2 * o.w.code + bit o.o) / 16 = 2 := by have := o.w.code_lt; have := bit_lt o.o; omega
    have e1 : (32 + 2 * o.w.code + bit o.o) / 2 % 8 = o.w.code := by have := o.w.code_lt; have := bit_lt o.o; omega
    have e2 : (32 + 2 * o.w.code + bit o.o) % 2 = bit o.o := by have := o.w.code_lt; have := bit_lt o.o; omega
    rw [to_decRow38 h0, decRow38_6 h1]
    simp only [decNarrow, decNar, withDst, withDstC, withSome, withImm, zeroField, srcA, srcB, srcTop, flag, fldGuard, gScope, gA0, gB0, gC0, gS0, gR0, h, e0, e1, e2, Dst.ofCode_code, Src.ofCode_code, Guard.ofCode_code, bit_beq_one, fin_ofNat_val, bv_ofNat_toNat, NumTy.ofCode_code, RM.ofCode_code, Policy.ofCode_code, Scope.ofCode_code, HalfTy.ofCode_code, BfpW.ofCode_code, MemOrd.ofCode_code, Aop.ofCode_code, SSize.ofCode_code, RelayMode.ofCode_code, CensusMode.ofCode_code, RedMode.ofCode_code, PeersMode.ofCode_code, LeaderMode.ofCode_code, FenceKind.ofCode_code, Comb.ofCode_code, AdjMode.ofCode_code, Stage.ofCode_code, AccFmt.ofCode_code, StMode.ofCode_code, if_true, if_false, Fin.is_lt, Nat.zero_add, Nat.add_zero, Nat.reduceMod, Nat.reduceDiv, Nat.reduceMul, Nat.reduceAdd, Nat.reduceLT, Nat.reduceLeDiff, Nat.reduceEqDiff, reduceIte, reduceCtorEq, Nat.mul_zero, and_self, and_true, true_and]
theorem bfpx o : Statement (.bfpx o) :=
  via (IsE 62 o.d.code o.a.code o.b.code (16 * 3 + 2 * o.w.code + bit o.o)) rfl (isE (by decide) (by have := o.d.code_lt; omega) (by have := o.a.code_lt; omega) (by have := o.b.code_lt; omega) (by have := o.w.code_lt; have := bit_lt o.o; omega)) (fun _ h => h.1) fun v h => by
    obtain ⟨-, h0, h1, h⟩ := h
    have e0 : (48 + 2 * o.w.code + bit o.o) / 16 = 3 := by have := o.w.code_lt; have := bit_lt o.o; omega
    have e1 : (48 + 2 * o.w.code + bit o.o) / 2 % 8 = o.w.code := by have := o.w.code_lt; have := bit_lt o.o; omega
    have e2 : (48 + 2 * o.w.code + bit o.o) % 2 = bit o.o := by have := o.w.code_lt; have := bit_lt o.o; omega
    rw [to_decRow38 h0, decRow38_6 h1]
    simp only [decNarrow, decNar, withDst, withDstC, withSome, withImm, zeroField, srcA, srcB, srcTop, flag, fldGuard, gScope, gA0, gB0, gC0, gS0, gR0, h, e0, e1, e2, Dst.ofCode_code, Src.ofCode_code, Guard.ofCode_code, bit_beq_one, fin_ofNat_val, bv_ofNat_toNat, NumTy.ofCode_code, RM.ofCode_code, Policy.ofCode_code, Scope.ofCode_code, HalfTy.ofCode_code, BfpW.ofCode_code, MemOrd.ofCode_code, Aop.ofCode_code, SSize.ofCode_code, RelayMode.ofCode_code, CensusMode.ofCode_code, RedMode.ofCode_code, PeersMode.ofCode_code, LeaderMode.ofCode_code, FenceKind.ofCode_code, Comb.ofCode_code, AdjMode.ofCode_code, Stage.ofCode_code, AccFmt.ofCode_code, StMode.ofCode_code, if_true, if_false, Fin.is_lt, Nat.zero_add, Nat.add_zero, Nat.reduceMod, Nat.reduceDiv, Nat.reduceMul, Nat.reduceAdd, Nat.reduceLT, Nat.reduceLeDiff, Nat.reduceEqDiff, reduceIte, reduceCtorEq, Nat.mul_zero, and_self, and_true, true_and]
theorem relay o : Statement (.relay o) :=
  via (IsE 63 o.d.code o.a.code o.b.code o.mode.code) rfl (isE (by decide) (by have := o.d.code_lt; omega) (by have := o.a.code_lt; omega) (by have := o.b.code_lt; omega) (by have := o.mode.code_lt; omega)) (fun _ h => h.1) fun v h => by
    obtain ⟨-, h0, h1, h⟩ := h
    have e0 : o.mode.code / 8 = 0 := by have := o.mode.code_lt; omega
    have e1 : o.mode.code % 8 = o.mode.code := by have := o.mode.code_lt; omega
    have e2 : o.mode.code < 4 := by have := o.mode.code_lt; omega
    rw [to_decRow38 h0, decRow38_7 h1]
    simp only [decCross, withDst, withDstC, withSome, withImm, zeroField, srcA, srcB, srcTop, flag, fldGuard, gScope, gA0, gB0, gC0, gS0, gR0, h, e0, e1, e2, Dst.ofCode_code, Src.ofCode_code, Guard.ofCode_code, bit_beq_one, fin_ofNat_val, bv_ofNat_toNat, NumTy.ofCode_code, RM.ofCode_code, Policy.ofCode_code, Scope.ofCode_code, HalfTy.ofCode_code, BfpW.ofCode_code, MemOrd.ofCode_code, Aop.ofCode_code, SSize.ofCode_code, RelayMode.ofCode_code, CensusMode.ofCode_code, RedMode.ofCode_code, PeersMode.ofCode_code, LeaderMode.ofCode_code, FenceKind.ofCode_code, Comb.ofCode_code, AdjMode.ofCode_code, Stage.ofCode_code, AccFmt.ofCode_code, StMode.ofCode_code, if_true, if_false, Fin.is_lt, Nat.zero_add, Nat.add_zero, Nat.reduceMod, Nat.reduceDiv, Nat.reduceMul, Nat.reduceAdd, Nat.reduceLT, Nat.reduceLeDiff, Nat.reduceEqDiff, reduceIte, reduceCtorEq, Nat.mul_zero, and_self, and_true, true_and]
theorem census o : Statement (.census o) :=
  via (IsE 63 o.d.code o.a.code 0 (8 + o.mode.code)) rfl (isE (by decide) (by have := o.d.code_lt; omega) (by have := o.a.code_lt; omega) (by decide) (by have := o.mode.code_lt; omega)) (fun _ h => h.1) fun v h => by
    obtain ⟨-, h0, h1, h⟩ := h
    have e0 : (8 + o.mode.code) / 8 = 1 := by have := o.mode.code_lt; omega
    have e1 : (8 + o.mode.code) % 8 = o.mode.code := by have := o.mode.code_lt; omega
    have e2 : o.mode.code < 4 := by have := o.mode.code_lt; omega
    rw [to_decRow38 h0, decRow38_7 h1]
    simp only [decCross, withDst, withDstC, withSome, withImm, zeroField, srcA, srcB, srcTop, flag, fldGuard, gScope, gA0, gB0, gC0, gS0, gR0, h, e0, e1, e2, Dst.ofCode_code, Src.ofCode_code, Guard.ofCode_code, bit_beq_one, fin_ofNat_val, bv_ofNat_toNat, NumTy.ofCode_code, RM.ofCode_code, Policy.ofCode_code, Scope.ofCode_code, HalfTy.ofCode_code, BfpW.ofCode_code, MemOrd.ofCode_code, Aop.ofCode_code, SSize.ofCode_code, RelayMode.ofCode_code, CensusMode.ofCode_code, RedMode.ofCode_code, PeersMode.ofCode_code, LeaderMode.ofCode_code, FenceKind.ofCode_code, Comb.ofCode_code, AdjMode.ofCode_code, Stage.ofCode_code, AccFmt.ofCode_code, StMode.ofCode_code, if_true, if_false, Fin.is_lt, Nat.zero_add, Nat.add_zero, Nat.reduceMod, Nat.reduceDiv, Nat.reduceMul, Nat.reduceAdd, Nat.reduceLT, Nat.reduceLeDiff, Nat.reduceEqDiff, reduceIte, reduceCtorEq, Nat.mul_zero, and_self, and_true, true_and]
theorem redg o : Statement (.redg o) :=
  via (IsE 63 o.d.code o.a.code 0 (16 + o.mode.code)) rfl (isE (by decide) (by have := o.d.code_lt; omega) (by have := o.a.code_lt; omega) (by decide) (by have := o.mode.code_lt; omega)) (fun _ h => h.1) fun v h => by
    obtain ⟨-, h0, h1, h⟩ := h
    have e0 : (16 + o.mode.code) / 8 = 2 := by have := o.mode.code_lt; omega
    have e1 : (16 + o.mode.code) % 8 = o.mode.code := by have := o.mode.code_lt; omega
    have e2 : o.mode.code < 8 := by have := o.mode.code_lt; omega
    rw [to_decRow38 h0, decRow38_7 h1]
    simp only [decCross, withDst, withDstC, withSome, withImm, zeroField, srcA, srcB, srcTop, flag, fldGuard, gScope, gA0, gB0, gC0, gS0, gR0, h, e0, e1, e2, Dst.ofCode_code, Src.ofCode_code, Guard.ofCode_code, bit_beq_one, fin_ofNat_val, bv_ofNat_toNat, NumTy.ofCode_code, RM.ofCode_code, Policy.ofCode_code, Scope.ofCode_code, HalfTy.ofCode_code, BfpW.ofCode_code, MemOrd.ofCode_code, Aop.ofCode_code, SSize.ofCode_code, RelayMode.ofCode_code, CensusMode.ofCode_code, RedMode.ofCode_code, PeersMode.ofCode_code, LeaderMode.ofCode_code, FenceKind.ofCode_code, Comb.ofCode_code, AdjMode.ofCode_code, Stage.ofCode_code, AccFmt.ofCode_code, StMode.ofCode_code, if_true, if_false, Fin.is_lt, Nat.zero_add, Nat.add_zero, Nat.reduceMod, Nat.reduceDiv, Nat.reduceMul, Nat.reduceAdd, Nat.reduceLT, Nat.reduceLeDiff, Nat.reduceEqDiff, reduceIte, reduceCtorEq, Nat.mul_zero, and_self, and_true, true_and]
theorem scang o : Statement (.scang o) :=
  via (IsE 63 o.d.code o.a.code 0 (24 + o.mode.code)) rfl (isE (by decide) (by have := o.d.code_lt; omega) (by have := o.a.code_lt; omega) (by decide) (by have := o.mode.code_lt; omega)) (fun _ h => h.1) fun v h => by
    obtain ⟨-, h0, h1, h⟩ := h
    have e0 : (24 + o.mode.code) / 8 = 3 := by have := o.mode.code_lt; omega
    have e1 : (24 + o.mode.code) % 8 = o.mode.code := by have := o.mode.code_lt; omega
    have e2 : o.mode.code < 8 := by have := o.mode.code_lt; omega
    rw [to_decRow38 h0, decRow38_7 h1]
    simp only [decCross, withDst, withDstC, withSome, withImm, zeroField, srcA, srcB, srcTop, flag, fldGuard, gScope, gA0, gB0, gC0, gS0, gR0, h, e0, e1, e2, Dst.ofCode_code, Src.ofCode_code, Guard.ofCode_code, bit_beq_one, fin_ofNat_val, bv_ofNat_toNat, NumTy.ofCode_code, RM.ofCode_code, Policy.ofCode_code, Scope.ofCode_code, HalfTy.ofCode_code, BfpW.ofCode_code, MemOrd.ofCode_code, Aop.ofCode_code, SSize.ofCode_code, RelayMode.ofCode_code, CensusMode.ofCode_code, RedMode.ofCode_code, PeersMode.ofCode_code, LeaderMode.ofCode_code, FenceKind.ofCode_code, Comb.ofCode_code, AdjMode.ofCode_code, Stage.ofCode_code, AccFmt.ofCode_code, StMode.ofCode_code, if_true, if_false, Fin.is_lt, Nat.zero_add, Nat.add_zero, Nat.reduceMod, Nat.reduceDiv, Nat.reduceMul, Nat.reduceAdd, Nat.reduceLT, Nat.reduceLeDiff, Nat.reduceEqDiff, reduceIte, reduceCtorEq, Nat.mul_zero, and_self, and_true, true_and]
theorem peers o : Statement (.peers o) :=
  via (IsE 63 o.d.code o.a.code 0 (32 + o.mode.code)) rfl (isE (by decide) (by have := o.d.code_lt; omega) (by have := o.a.code_lt; omega) (by decide) (by have := o.mode.code_lt; omega)) (fun _ h => h.1) fun v h => by
    obtain ⟨-, h0, h1, h⟩ := h
    have e0 : (32 + o.mode.code) / 8 = 4 := by have := o.mode.code_lt; omega
    have e1 : (32 + o.mode.code) % 8 = o.mode.code := by have := o.mode.code_lt; omega
    have e2 : o.mode.code < 2 := by have := o.mode.code_lt; omega
    rw [to_decRow38 h0, decRow38_7 h1]
    simp only [decCross, withDst, withDstC, withSome, withImm, zeroField, srcA, srcB, srcTop, flag, fldGuard, gScope, gA0, gB0, gC0, gS0, gR0, h, e0, e1, e2, Dst.ofCode_code, Src.ofCode_code, Guard.ofCode_code, bit_beq_one, fin_ofNat_val, bv_ofNat_toNat, NumTy.ofCode_code, RM.ofCode_code, Policy.ofCode_code, Scope.ofCode_code, HalfTy.ofCode_code, BfpW.ofCode_code, MemOrd.ofCode_code, Aop.ofCode_code, SSize.ofCode_code, RelayMode.ofCode_code, CensusMode.ofCode_code, RedMode.ofCode_code, PeersMode.ofCode_code, LeaderMode.ofCode_code, FenceKind.ofCode_code, Comb.ofCode_code, AdjMode.ofCode_code, Stage.ofCode_code, AccFmt.ofCode_code, StMode.ofCode_code, if_true, if_false, Fin.is_lt, Nat.zero_add, Nat.add_zero, Nat.reduceMod, Nat.reduceDiv, Nat.reduceMul, Nat.reduceAdd, Nat.reduceLT, Nat.reduceLeDiff, Nat.reduceEqDiff, reduceIte, reduceCtorEq, Nat.mul_zero, and_self, and_true, true_and]
theorem leader o : Statement (.leader o) :=
  via (IsE 63 o.d.code 0 0 (40 + o.mode.code)) rfl (isE (by decide) (by have := o.d.code_lt; omega) (by decide) (by decide) (by have := o.mode.code_lt; omega)) (fun _ h => h.1) fun v h => by
    obtain ⟨-, h0, h1, h⟩ := h
    have e0 : (40 + o.mode.code) / 8 = 5 := by have := o.mode.code_lt; omega
    have e1 : (40 + o.mode.code) % 8 = o.mode.code := by have := o.mode.code_lt; omega
    have e2 : o.mode.code < 2 := by have := o.mode.code_lt; omega
    rw [to_decRow38 h0, decRow38_7 h1]
    simp only [decCross, withDst, withDstC, withSome, withImm, zeroField, srcA, srcB, srcTop, flag, fldGuard, gScope, gA0, gB0, gC0, gS0, gR0, h, e0, e1, e2, Dst.ofCode_code, Src.ofCode_code, Guard.ofCode_code, bit_beq_one, fin_ofNat_val, bv_ofNat_toNat, NumTy.ofCode_code, RM.ofCode_code, Policy.ofCode_code, Scope.ofCode_code, HalfTy.ofCode_code, BfpW.ofCode_code, MemOrd.ofCode_code, Aop.ofCode_code, SSize.ofCode_code, RelayMode.ofCode_code, CensusMode.ofCode_code, RedMode.ofCode_code, PeersMode.ofCode_code, LeaderMode.ofCode_code, FenceKind.ofCode_code, Comb.ofCode_code, AdjMode.ofCode_code, Stage.ofCode_code, AccFmt.ofCode_code, StMode.ofCode_code, if_true, if_false, Fin.is_lt, Nat.zero_add, Nat.add_zero, Nat.reduceMod, Nat.reduceDiv, Nat.reduceMul, Nat.reduceAdd, Nat.reduceLT, Nat.reduceLeDiff, Nat.reduceEqDiff, reduceIte, reduceCtorEq, Nat.mul_zero, and_self, and_true, true_and]
theorem ldbMu o : Statement (.ldbMu o) :=
  via (IsMu 64 o.d.code o.kp.val o.ix.val (bit o.x) o.imm.toNat o.pol.code o.sc.code) rfl (isMu (by decide) (by have := o.d.code_lt; omega) (by have := o.kp.isLt; omega) (by have := o.ix.isLt; omega) (by have := bit_lt o.x; omega) (by have := o.imm.isLt; omega) (by have := o.pol.code_lt; omega) (by have := o.sc.code_lt; omega)) (fun _ h => h.1) fun v h => (to_decRow40 h.2.1).trans ((decRow40_0 h.2.2.1).trans (decMuLd_of _ o h))
theorem ldbzMu o : Statement (.ldbzMu o) :=
  via (IsMu 65 o.d.code o.kp.val o.ix.val (bit o.x) o.imm.toNat o.pol.code o.sc.code) rfl (isMu (by decide) (by have := o.d.code_lt; omega) (by have := o.kp.isLt; omega) (by have := o.ix.isLt; omega) (by have := bit_lt o.x; omega) (by have := o.imm.isLt; omega) (by have := o.pol.code_lt; omega) (by have := o.sc.code_lt; omega)) (fun _ h => h.1) fun v h => (to_decRow40 h.2.1).trans ((decRow40_1 h.2.2.1).trans (decMuLd_of _ o h))
theorem ldhMu o : Statement (.ldhMu o) :=
  via (IsMu 66 o.d.code o.kp.val o.ix.val (bit o.x) o.imm.toNat o.pol.code o.sc.code) rfl (isMu (by decide) (by have := o.d.code_lt; omega) (by have := o.kp.isLt; omega) (by have := o.ix.isLt; omega) (by have := bit_lt o.x; omega) (by have := o.imm.isLt; omega) (by have := o.pol.code_lt; omega) (by have := o.sc.code_lt; omega)) (fun _ h => h.1) fun v h => (to_decRow40 h.2.1).trans ((decRow40_2 h.2.2.1).trans (decMuLd_of _ o h))
theorem ldhzMu o : Statement (.ldhzMu o) :=
  via (IsMu 67 o.d.code o.kp.val o.ix.val (bit o.x) o.imm.toNat o.pol.code o.sc.code) rfl (isMu (by decide) (by have := o.d.code_lt; omega) (by have := o.kp.isLt; omega) (by have := o.ix.isLt; omega) (by have := bit_lt o.x; omega) (by have := o.imm.isLt; omega) (by have := o.pol.code_lt; omega) (by have := o.sc.code_lt; omega)) (fun _ h => h.1) fun v h => (to_decRow40 h.2.1).trans ((decRow40_3 h.2.2.1).trans (decMuLd_of _ o h))
theorem ldwMu o : Statement (.ldwMu o) :=
  via (IsMu 68 o.d.code o.kp.val o.ix.val (bit o.x) o.imm.toNat o.pol.code o.sc.code) rfl (isMu (by decide) (by have := o.d.code_lt; omega) (by have := o.kp.isLt; omega) (by have := o.ix.isLt; omega) (by have := bit_lt o.x; omega) (by have := o.imm.isLt; omega) (by have := o.pol.code_lt; omega) (by have := o.sc.code_lt; omega)) (fun _ h => h.1) fun v h => (to_decRow40 h.2.1).trans ((decRow40_4 h.2.2.1).trans (decMuLd_of _ o h))
theorem lddMu o : Statement (.lddMu o) :=
  via (IsMu 69 o.d.code o.kp.val o.ix.val (bit o.x) o.imm.toNat o.pol.code o.sc.code) rfl (isMu (by decide) (by have := o.d.code_lt; omega) (by have := o.kp.isLt; omega) (by have := o.ix.isLt; omega) (by have := bit_lt o.x; omega) (by have := o.imm.isLt; omega) (by have := o.pol.code_lt; omega) (by have := o.sc.code_lt; omega)) (fun _ h => h.1) fun v h => (to_decRow40 h.2.1).trans ((decRow40_5 h.2.2.1).trans (decMuLd_of _ o h))
theorem ldqMu o : Statement (.ldqMu o) :=
  via (IsMu 70 o.d.code o.kp.val o.ix.val (bit o.x) o.imm.toNat o.pol.code o.sc.code) rfl (isMu (by decide) (by have := o.d.code_lt; omega) (by have := o.kp.isLt; omega) (by have := o.ix.isLt; omega) (by have := bit_lt o.x; omega) (by have := o.imm.isLt; omega) (by have := o.pol.code_lt; omega) (by have := o.sc.code_lt; omega)) (fun _ h => h.1) fun v h => (to_decRow40 h.2.1).trans ((decRow40_6 h.2.2.1).trans (decMuLd_of _ o h))
theorem ldk o : Statement (.ldk o) :=
  via (IsMu 71 o.d.code o.kp.val 0 (bit false) o.imm.toNat o.pol.code o.sc.code) rfl (isMu (by decide) (by have := o.d.code_lt; omega) (by have := o.kp.isLt; omega) (by decide) (by have := bit_lt false; omega) (by have := o.imm.isLt; omega) (by have := o.pol.code_lt; omega) (by have := o.sc.code_lt; omega)) (fun _ h => h.1) fun v h => by
    obtain ⟨-, h0, h1, h⟩ := h
    rw [to_decRow40 h0, decRow40_7 h1]
    simp only [decLdk, withDst, withDstC, withSome, withImm, zeroField, srcA, srcB, srcTop, flag, fldGuard, gScope, gA0, gB0, gC0, gS0, gR0, h, Dst.ofCode_code, Src.ofCode_code, Guard.ofCode_code, bit_beq_one, fin_ofNat_val, bv_ofNat_toNat, NumTy.ofCode_code, RM.ofCode_code, Policy.ofCode_code, Scope.ofCode_code, HalfTy.ofCode_code, BfpW.ofCode_code, MemOrd.ofCode_code, Aop.ofCode_code, SSize.ofCode_code, RelayMode.ofCode_code, CensusMode.ofCode_code, RedMode.ofCode_code, PeersMode.ofCode_code, LeaderMode.ofCode_code, FenceKind.ofCode_code, Comb.ofCode_code, AdjMode.ofCode_code, Stage.ofCode_code, AccFmt.ofCode_code, StMode.ofCode_code, if_true, if_false, Fin.is_lt, Nat.zero_add, Nat.add_zero, Nat.reduceMod, Nat.reduceDiv, Nat.reduceMul, Nat.reduceAdd, Nat.reduceLT, Nat.reduceLeDiff, Nat.reduceEqDiff, reduceIte, reduceCtorEq, Nat.mul_zero, and_self, and_true, true_and, bit, Bool.false_eq_true]
theorem stbMu o : Statement (.stbMu o) :=
  via (IsMu 72 o.a.code o.kp.val o.ix.val (bit o.x) o.imm.toNat o.pol.code o.sc.code) rfl (isMu (by decide) (by have := o.a.code_lt; omega) (by have := o.kp.isLt; omega) (by have := o.ix.isLt; omega) (by have := bit_lt o.x; omega) (by have := o.imm.isLt; omega) (by have := o.pol.code_lt; omega) (by have := o.sc.code_lt; omega)) (fun _ h => h.1) fun v h => (to_decRow48 h.2.1).trans ((decRow48_0 h.2.2.1).trans (decMuSt_of _ o h))
theorem sthMu o : Statement (.sthMu o) :=
  via (IsMu 73 o.a.code o.kp.val o.ix.val (bit o.x) o.imm.toNat o.pol.code o.sc.code) rfl (isMu (by decide) (by have := o.a.code_lt; omega) (by have := o.kp.isLt; omega) (by have := o.ix.isLt; omega) (by have := bit_lt o.x; omega) (by have := o.imm.isLt; omega) (by have := o.pol.code_lt; omega) (by have := o.sc.code_lt; omega)) (fun _ h => h.1) fun v h => (to_decRow48 h.2.1).trans ((decRow48_1 h.2.2.1).trans (decMuSt_of _ o h))
theorem stwMu o : Statement (.stwMu o) :=
  via (IsMu 74 o.a.code o.kp.val o.ix.val (bit o.x) o.imm.toNat o.pol.code o.sc.code) rfl (isMu (by decide) (by have := o.a.code_lt; omega) (by have := o.kp.isLt; omega) (by have := o.ix.isLt; omega) (by have := bit_lt o.x; omega) (by have := o.imm.isLt; omega) (by have := o.pol.code_lt; omega) (by have := o.sc.code_lt; omega)) (fun _ h => h.1) fun v h => (to_decRow48 h.2.1).trans ((decRow48_2 h.2.2.1).trans (decMuSt_of _ o h))
theorem stdMu o : Statement (.stdMu o) :=
  via (IsMu 75 o.a.code o.kp.val o.ix.val (bit o.x) o.imm.toNat o.pol.code o.sc.code) rfl (isMu (by decide) (by have := o.a.code_lt; omega) (by have := o.kp.isLt; omega) (by have := o.ix.isLt; omega) (by have := bit_lt o.x; omega) (by have := o.imm.isLt; omega) (by have := o.pol.code_lt; omega) (by have := o.sc.code_lt; omega)) (fun _ h => h.1) fun v h => (to_decRow48 h.2.1).trans ((decRow48_3 h.2.2.1).trans (decMuSt_of _ o h))
theorem stqMu o : Statement (.stqMu o) :=
  via (IsMu 76 o.a.code o.kp.val o.ix.val (bit o.x) o.imm.toNat o.pol.code o.sc.code) rfl (isMu (by decide) (by have := o.a.code_lt; omega) (by have := o.kp.isLt; omega) (by have := o.ix.isLt; omega) (by have := bit_lt o.x; omega) (by have := o.imm.isLt; omega) (by have := o.pol.code_lt; omega) (by have := o.sc.code_lt; omega)) (fun _ h => h.1) fun v h => (to_decRow48 h.2.1).trans ((decRow48_4 h.2.2.1).trans (decMuSt_of _ o h))
theorem lds o : Statement (.lds o) :=
  via (IsS 77 o.d.code o.base.code o.size.code 0 o.imm.toNat o.sc.code) rfl (isS (by decide) (by have := o.d.code_lt; omega) (by have := o.base.code_lt; omega) (by have := o.size.code_lt; omega) (by decide) (by have := o.imm.isLt; omega) (by have := o.sc.code_lt; omega)) (fun _ h => h.1) fun v h => by
    obtain ⟨-, h0, h1, h⟩ := h
    rw [to_decRow48 h0, decRow48_5 h1]
    simp only [decLoadS, decSLd, withDst, withDstC, withSome, withImm, zeroField, srcA, srcB, srcTop, flag, fldGuard, gScope, gA0, gB0, gC0, gS0, gR0, h, Dst.ofCode_code, Src.ofCode_code, Guard.ofCode_code, bit_beq_one, fin_ofNat_val, bv_ofNat_toNat, NumTy.ofCode_code, RM.ofCode_code, Policy.ofCode_code, Scope.ofCode_code, HalfTy.ofCode_code, BfpW.ofCode_code, MemOrd.ofCode_code, Aop.ofCode_code, SSize.ofCode_code, RelayMode.ofCode_code, CensusMode.ofCode_code, RedMode.ofCode_code, PeersMode.ofCode_code, LeaderMode.ofCode_code, FenceKind.ofCode_code, Comb.ofCode_code, AdjMode.ofCode_code, Stage.ofCode_code, AccFmt.ofCode_code, StMode.ofCode_code, if_true, if_false, Fin.is_lt, Nat.zero_add, Nat.add_zero, Nat.reduceMod, Nat.reduceDiv, Nat.reduceMul, Nat.reduceAdd, Nat.reduceLT, Nat.reduceLeDiff, Nat.reduceEqDiff, reduceIte, reduceCtorEq, Nat.mul_zero, and_self, and_true, true_and]
theorem ldl o : Statement (.ldl o) :=
  via (IsS 77 o.d.code o.base.code o.size.code 1 o.imm.toNat o.sc.code) rfl (isS (by decide) (by have := o.d.code_lt; omega) (by have := o.base.code_lt; omega) (by have := o.size.code_lt; omega) (by decide) (by have := o.imm.isLt; omega) (by have := o.sc.code_lt; omega)) (fun _ h => h.1) fun v h => by
    obtain ⟨-, h0, h1, h⟩ := h
    rw [to_decRow48 h0, decRow48_5 h1]
    simp only [decLoadS, decSLd, withDst, withDstC, withSome, withImm, zeroField, srcA, srcB, srcTop, flag, fldGuard, gScope, gA0, gB0, gC0, gS0, gR0, h, Dst.ofCode_code, Src.ofCode_code, Guard.ofCode_code, bit_beq_one, fin_ofNat_val, bv_ofNat_toNat, NumTy.ofCode_code, RM.ofCode_code, Policy.ofCode_code, Scope.ofCode_code, HalfTy.ofCode_code, BfpW.ofCode_code, MemOrd.ofCode_code, Aop.ofCode_code, SSize.ofCode_code, RelayMode.ofCode_code, CensusMode.ofCode_code, RedMode.ofCode_code, PeersMode.ofCode_code, LeaderMode.ofCode_code, FenceKind.ofCode_code, Comb.ofCode_code, AdjMode.ofCode_code, Stage.ofCode_code, AccFmt.ofCode_code, StMode.ofCode_code, if_true, if_false, Fin.is_lt, Nat.zero_add, Nat.add_zero, Nat.reduceMod, Nat.reduceDiv, Nat.reduceMul, Nat.reduceAdd, Nat.reduceLT, Nat.reduceLeDiff, Nat.reduceEqDiff, reduceIte, reduceCtorEq, Nat.mul_zero, and_self, and_true, true_and]
theorem sts o : Statement (.sts o) :=
  via (IsS 78 o.a.code o.base.code o.size.code 0 o.imm.toNat o.sc.code) rfl (isS (by decide) (by have := o.a.code_lt; omega) (by have := o.base.code_lt; omega) (by have := o.size.code_lt; omega) (by decide) (by have := o.imm.isLt; omega) (by have := o.sc.code_lt; omega)) (fun _ h => h.1) fun v h => by
    obtain ⟨-, h0, h1, h⟩ := h
    rw [to_decRow48 h0, decRow48_6 h1]
    simp only [decStoreS, decSSt, withDst, withDstC, withSome, withImm, zeroField, srcA, srcB, srcTop, flag, fldGuard, gScope, gA0, gB0, gC0, gS0, gR0, h, Dst.ofCode_code, Src.ofCode_code, Guard.ofCode_code, bit_beq_one, fin_ofNat_val, bv_ofNat_toNat, NumTy.ofCode_code, RM.ofCode_code, Policy.ofCode_code, Scope.ofCode_code, HalfTy.ofCode_code, BfpW.ofCode_code, MemOrd.ofCode_code, Aop.ofCode_code, SSize.ofCode_code, RelayMode.ofCode_code, CensusMode.ofCode_code, RedMode.ofCode_code, PeersMode.ofCode_code, LeaderMode.ofCode_code, FenceKind.ofCode_code, Comb.ofCode_code, AdjMode.ofCode_code, Stage.ofCode_code, AccFmt.ofCode_code, StMode.ofCode_code, if_true, if_false, Fin.is_lt, Nat.zero_add, Nat.add_zero, Nat.reduceMod, Nat.reduceDiv, Nat.reduceMul, Nat.reduceAdd, Nat.reduceLT, Nat.reduceLeDiff, Nat.reduceEqDiff, reduceIte, reduceCtorEq, Nat.mul_zero, and_self, and_true, true_and]
theorem stl o : Statement (.stl o) :=
  via (IsS 78 o.a.code o.base.code o.size.code 1 o.imm.toNat o.sc.code) rfl (isS (by decide) (by have := o.a.code_lt; omega) (by have := o.base.code_lt; omega) (by have := o.size.code_lt; omega) (by decide) (by have := o.imm.isLt; omega) (by have := o.sc.code_lt; omega)) (fun _ h => h.1) fun v h => by
    obtain ⟨-, h0, h1, h⟩ := h
    rw [to_decRow48 h0, decRow48_6 h1]
    simp only [decStoreS, decSSt, withDst, withDstC, withSome, withImm, zeroField, srcA, srcB, srcTop, flag, fldGuard, gScope, gA0, gB0, gC0, gS0, gR0, h, Dst.ofCode_code, Src.ofCode_code, Guard.ofCode_code, bit_beq_one, fin_ofNat_val, bv_ofNat_toNat, NumTy.ofCode_code, RM.ofCode_code, Policy.ofCode_code, Scope.ofCode_code, HalfTy.ofCode_code, BfpW.ofCode_code, MemOrd.ofCode_code, Aop.ofCode_code, SSize.ofCode_code, RelayMode.ofCode_code, CensusMode.ofCode_code, RedMode.ofCode_code, PeersMode.ofCode_code, LeaderMode.ofCode_code, FenceKind.ofCode_code, Comb.ofCode_code, AdjMode.ofCode_code, Stage.ofCode_code, AccFmt.ofCode_code, StMode.ofCode_code, if_true, if_false, Fin.is_lt, Nat.zero_add, Nat.add_zero, Nat.reduceMod, Nat.reduceDiv, Nat.reduceMul, Nat.reduceAdd, Nat.reduceLT, Nat.reduceLeDiff, Nat.reduceEqDiff, reduceIte, reduceCtorEq, Nat.mul_zero, and_self, and_true, true_and]
theorem wait o : Statement (.wait o) :=
  via (IsW 79 o.ld.toNat o.st.toNat o.cp.toNat o.tl.toNat) rfl (isW (by decide) (by have := o.ld.isLt; omega) (by have := o.st.isLt; omega) (by have := o.cp.isLt; omega) (by have := o.tl.isLt; omega)) (fun _ h => h.1) fun v h => by
    obtain ⟨-, h0, h1, h⟩ := h
    rw [to_decRow48 h0, decRow48_7 h1]
    simp only [decW, withDst, withDstC, withSome, withImm, zeroField, srcA, srcB, srcTop, flag, fldGuard, gScope, gA0, gB0, gC0, gS0, gR0, h, Dst.ofCode_code, Src.ofCode_code, Guard.ofCode_code, bit_beq_one, fin_ofNat_val, bv_ofNat_toNat, NumTy.ofCode_code, RM.ofCode_code, Policy.ofCode_code, Scope.ofCode_code, HalfTy.ofCode_code, BfpW.ofCode_code, MemOrd.ofCode_code, Aop.ofCode_code, SSize.ofCode_code, RelayMode.ofCode_code, CensusMode.ofCode_code, RedMode.ofCode_code, PeersMode.ofCode_code, LeaderMode.ofCode_code, FenceKind.ofCode_code, Comb.ofCode_code, AdjMode.ofCode_code, Stage.ofCode_code, AccFmt.ofCode_code, StMode.ofCode_code, if_true, if_false, Fin.is_lt, Nat.zero_add, Nat.add_zero, Nat.reduceMod, Nat.reduceDiv, Nat.reduceMul, Nat.reduceAdd, Nat.reduceLT, Nat.reduceLeDiff, Nat.reduceEqDiff, reduceIte, reduceCtorEq, Nat.mul_zero, and_self, and_true, true_and]
theorem ldbMp o : Statement (.ldbMp o) :=
  via (IsMp 80 o.d.code o.np.val o.imm.toNat o.pol.code o.sc.code o.g.code) rfl (isMp (by decide) (by have := o.d.code_lt; omega) (by have := o.np.isLt; omega) (by have := o.imm.isLt; omega) (by have := o.pol.code_lt; omega) (by have := o.sc.code_lt; omega) (by have := o.g.code_lt; omega)) (fun _ h => h.1) fun v h => (to_decRow50 h.2.1).trans ((decRow50_0 h.2.2.1).trans (decMpLd_of _ o h))
theorem ldbzMp o : Statement (.ldbzMp o) :=
  via (IsMp 81 o.d.code o.np.val o.imm.toNat o.pol.code o.sc.code o.g.code) rfl (isMp (by decide) (by have := o.d.code_lt; omega) (by have := o.np.isLt; omega) (by have := o.imm.isLt; omega) (by have := o.pol.code_lt; omega) (by have := o.sc.code_lt; omega) (by have := o.g.code_lt; omega)) (fun _ h => h.1) fun v h => (to_decRow50 h.2.1).trans ((decRow50_1 h.2.2.1).trans (decMpLd_of _ o h))
theorem ldhMp o : Statement (.ldhMp o) :=
  via (IsMp 82 o.d.code o.np.val o.imm.toNat o.pol.code o.sc.code o.g.code) rfl (isMp (by decide) (by have := o.d.code_lt; omega) (by have := o.np.isLt; omega) (by have := o.imm.isLt; omega) (by have := o.pol.code_lt; omega) (by have := o.sc.code_lt; omega) (by have := o.g.code_lt; omega)) (fun _ h => h.1) fun v h => (to_decRow50 h.2.1).trans ((decRow50_2 h.2.2.1).trans (decMpLd_of _ o h))
theorem ldhzMp o : Statement (.ldhzMp o) :=
  via (IsMp 83 o.d.code o.np.val o.imm.toNat o.pol.code o.sc.code o.g.code) rfl (isMp (by decide) (by have := o.d.code_lt; omega) (by have := o.np.isLt; omega) (by have := o.imm.isLt; omega) (by have := o.pol.code_lt; omega) (by have := o.sc.code_lt; omega) (by have := o.g.code_lt; omega)) (fun _ h => h.1) fun v h => (to_decRow50 h.2.1).trans ((decRow50_3 h.2.2.1).trans (decMpLd_of _ o h))
theorem ldwMp o : Statement (.ldwMp o) :=
  via (IsMp 84 o.d.code o.np.val o.imm.toNat o.pol.code o.sc.code o.g.code) rfl (isMp (by decide) (by have := o.d.code_lt; omega) (by have := o.np.isLt; omega) (by have := o.imm.isLt; omega) (by have := o.pol.code_lt; omega) (by have := o.sc.code_lt; omega) (by have := o.g.code_lt; omega)) (fun _ h => h.1) fun v h => (to_decRow50 h.2.1).trans ((decRow50_4 h.2.2.1).trans (decMpLd_of _ o h))
theorem lddMp o : Statement (.lddMp o) :=
  via (IsMp 85 o.d.code o.np.val o.imm.toNat o.pol.code o.sc.code o.g.code) rfl (isMp (by decide) (by have := o.d.code_lt; omega) (by have := o.np.isLt; omega) (by have := o.imm.isLt; omega) (by have := o.pol.code_lt; omega) (by have := o.sc.code_lt; omega) (by have := o.g.code_lt; omega)) (fun _ h => h.1) fun v h => (to_decRow50 h.2.1).trans ((decRow50_5 h.2.2.1).trans (decMpLd_of _ o h))
theorem ldqMp o : Statement (.ldqMp o) :=
  via (IsMp 86 o.d.code o.np.val o.imm.toNat o.pol.code o.sc.code o.g.code) rfl (isMp (by decide) (by have := o.d.code_lt; omega) (by have := o.np.isLt; omega) (by have := o.imm.isLt; omega) (by have := o.pol.code_lt; omega) (by have := o.sc.code_lt; omega) (by have := o.g.code_lt; omega)) (fun _ h => h.1) fun v h => (to_decRow50 h.2.1).trans ((decRow50_6 h.2.2.1).trans (decMpLd_of _ o h))
theorem ldacq o : Statement (.ldacq o) :=
  via (IsMp 87 o.d.code o.np.val o.imm.toNat o.pol.code o.sc.code o.g.code) rfl (isMp (by decide) (by have := o.d.code_lt; omega) (by have := o.np.isLt; omega) (by have := o.imm.isLt; omega) (by have := o.pol.code_lt; omega) (by have := o.sc.code_lt; omega) (by have := o.g.code_lt; omega)) (fun _ h => h.1) fun v h => (to_decRow50 h.2.1).trans ((decRow50_7 h.2.2.1).trans (decMpLd_of _ o h))
theorem stbMp o : Statement (.stbMp o) :=
  via (IsMp 88 o.a.code o.np.val o.imm.toNat o.pol.code o.sc.code o.g.code) rfl (isMp (by decide) (by have := o.a.code_lt; omega) (by have := o.np.isLt; omega) (by have := o.imm.isLt; omega) (by have := o.pol.code_lt; omega) (by have := o.sc.code_lt; omega) (by have := o.g.code_lt; omega)) (fun _ h => h.1) fun v h => (to_decRow58 h.2.1).trans ((decRow58_0 h.2.2.1).trans (decMpSt_of _ o h))
theorem sthMp o : Statement (.sthMp o) :=
  via (IsMp 89 o.a.code o.np.val o.imm.toNat o.pol.code o.sc.code o.g.code) rfl (isMp (by decide) (by have := o.a.code_lt; omega) (by have := o.np.isLt; omega) (by have := o.imm.isLt; omega) (by have := o.pol.code_lt; omega) (by have := o.sc.code_lt; omega) (by have := o.g.code_lt; omega)) (fun _ h => h.1) fun v h => (to_decRow58 h.2.1).trans ((decRow58_1 h.2.2.1).trans (decMpSt_of _ o h))
theorem stwMp o : Statement (.stwMp o) :=
  via (IsMp 90 o.a.code o.np.val o.imm.toNat o.pol.code o.sc.code o.g.code) rfl (isMp (by decide) (by have := o.a.code_lt; omega) (by have := o.np.isLt; omega) (by have := o.imm.isLt; omega) (by have := o.pol.code_lt; omega) (by have := o.sc.code_lt; omega) (by have := o.g.code_lt; omega)) (fun _ h => h.1) fun v h => (to_decRow58 h.2.1).trans ((decRow58_2 h.2.2.1).trans (decMpSt_of _ o h))
theorem stdMp o : Statement (.stdMp o) :=
  via (IsMp 91 o.a.code o.np.val o.imm.toNat o.pol.code o.sc.code o.g.code) rfl (isMp (by decide) (by have := o.a.code_lt; omega) (by have := o.np.isLt; omega) (by have := o.imm.isLt; omega) (by have := o.pol.code_lt; omega) (by have := o.sc.code_lt; omega) (by have := o.g.code_lt; omega)) (fun _ h => h.1) fun v h => (to_decRow58 h.2.1).trans ((decRow58_3 h.2.2.1).trans (decMpSt_of _ o h))
theorem stqMp o : Statement (.stqMp o) :=
  via (IsMp 92 o.a.code o.np.val o.imm.toNat o.pol.code o.sc.code o.g.code) rfl (isMp (by decide) (by have := o.a.code_lt; omega) (by have := o.np.isLt; omega) (by have := o.imm.isLt; omega) (by have := o.pol.code_lt; omega) (by have := o.sc.code_lt; omega) (by have := o.g.code_lt; omega)) (fun _ h => h.1) fun v h => (to_decRow58 h.2.1).trans ((decRow58_4 h.2.2.1).trans (decMpSt_of _ o h))
theorem strel o : Statement (.strel o) :=
  via (IsMp 93 o.a.code o.np.val o.imm.toNat o.pol.code o.sc.code o.g.code) rfl (isMp (by decide) (by have := o.a.code_lt; omega) (by have := o.np.isLt; omega) (by have := o.imm.isLt; omega) (by have := o.pol.code_lt; omega) (by have := o.sc.code_lt; omega) (by have := o.g.code_lt; omega)) (fun _ h => h.1) fun v h => (to_decRow58 h.2.1).trans ((decRow58_5 h.2.2.1).trans (decMpSt_of _ o h))
theorem atom o : Statement (.atom o) :=
  via (IsA 94 o.d.code o.np.val o.v.code o.aop.code o.ord.code o.sc.code (bit o.p)) rfl (isA (by decide) (by have := o.d.code_lt; omega) (by have := o.np.isLt; omega) (by have := o.v.code_lt; omega) (by have := o.aop.code_lt; omega) (by have := o.ord.code_lt; omega) (by have := o.sc.code_lt; omega) (by have := bit_lt o.p; omega)) (fun _ h => h.1) fun v h => by
    obtain ⟨-, h0, h1, h⟩ := h
    rw [to_decRow58 h0, decRow58_6 h1]
    simp only [decAtom, withDst, withDstC, withSome, withImm, zeroField, srcA, srcB, srcTop, flag, fldGuard, gScope, gA0, gB0, gC0, gS0, gR0, h, Dst.ofCode_code, Src.ofCode_code, Guard.ofCode_code, bit_beq_one, fin_ofNat_val, bv_ofNat_toNat, NumTy.ofCode_code, RM.ofCode_code, Policy.ofCode_code, Scope.ofCode_code, HalfTy.ofCode_code, BfpW.ofCode_code, MemOrd.ofCode_code, Aop.ofCode_code, SSize.ofCode_code, RelayMode.ofCode_code, CensusMode.ofCode_code, RedMode.ofCode_code, PeersMode.ofCode_code, LeaderMode.ofCode_code, FenceKind.ofCode_code, Comb.ofCode_code, AdjMode.ofCode_code, Stage.ofCode_code, AccFmt.ofCode_code, StMode.ofCode_code, if_true, if_false, Fin.is_lt, Nat.zero_add, Nat.add_zero, Nat.reduceMod, Nat.reduceDiv, Nat.reduceMul, Nat.reduceAdd, Nat.reduceLT, Nat.reduceLeDiff, Nat.reduceEqDiff, reduceIte, reduceCtorEq, Nat.mul_zero, and_self, and_true, true_and]
theorem cas o : Statement (.cas o) :=
  via (IsA 95 o.d.code o.np.val o.v.code 0 o.ord.code o.sc.code (bit o.p)) rfl (isA (by decide) (by have := o.d.code_lt; omega) (by have := o.np.isLt; omega) (by have := o.v.code_lt; omega) (by decide) (by have := o.ord.code_lt; omega) (by have := o.sc.code_lt; omega) (by have := bit_lt o.p; omega)) (fun _ h => h.1) fun v h => by
    obtain ⟨-, h0, h1, h⟩ := h
    rw [to_decRow58 h0, decRow58_7 h1]
    simp only [decCas, withDst, withDstC, withSome, withImm, zeroField, srcA, srcB, srcTop, flag, fldGuard, gScope, gA0, gB0, gC0, gS0, gR0, h, Dst.ofCode_code, Src.ofCode_code, Guard.ofCode_code, bit_beq_one, fin_ofNat_val, bv_ofNat_toNat, NumTy.ofCode_code, RM.ofCode_code, Policy.ofCode_code, Scope.ofCode_code, HalfTy.ofCode_code, BfpW.ofCode_code, MemOrd.ofCode_code, Aop.ofCode_code, SSize.ofCode_code, RelayMode.ofCode_code, CensusMode.ofCode_code, RedMode.ofCode_code, PeersMode.ofCode_code, LeaderMode.ofCode_code, FenceKind.ofCode_code, Comb.ofCode_code, AdjMode.ofCode_code, Stage.ofCode_code, AccFmt.ofCode_code, StMode.ofCode_code, if_true, if_false, Fin.is_lt, Nat.zero_add, Nat.add_zero, Nat.reduceMod, Nat.reduceDiv, Nat.reduceMul, Nat.reduceAdd, Nat.reduceLT, Nat.reduceLeDiff, Nat.reduceEqDiff, reduceIte, reduceCtorEq, Nat.mul_zero, and_self, and_true, true_and]
theorem red o : Statement (.red o) :=
  via (IsA 96 63 o.np.val o.v.code o.aop.code (2 * bit o.rel) o.sc.code (bit o.p)) rfl (isA (by decide) (by decide) (by have := o.np.isLt; omega) (by have := o.v.code_lt; omega) (by have := o.aop.code_lt; omega) (by have := bit_lt o.rel; omega) (by have := o.sc.code_lt; omega) (by have := bit_lt o.p; omega)) (fun _ h => h.1) fun v h => by
    obtain ⟨-, h0, h1, h⟩ := h
    have e0 : 2 * bit o.rel % 2 = 0 := by have := bit_lt o.rel; omega
    have e1 : 2 * bit o.rel / 2 = bit o.rel := by have := bit_lt o.rel; omega
    rw [to_decRow60 h0, decRow60_0 h1]
    simp only [decRed, withDst, withDstC, withSome, withImm, zeroField, srcA, srcB, srcTop, flag, fldGuard, gScope, gA0, gB0, gC0, gS0, gR0, h, e0, e1, Dst.ofCode_code, Src.ofCode_code, Guard.ofCode_code, bit_beq_one, fin_ofNat_val, bv_ofNat_toNat, NumTy.ofCode_code, RM.ofCode_code, Policy.ofCode_code, Scope.ofCode_code, HalfTy.ofCode_code, BfpW.ofCode_code, MemOrd.ofCode_code, Aop.ofCode_code, SSize.ofCode_code, RelayMode.ofCode_code, CensusMode.ofCode_code, RedMode.ofCode_code, PeersMode.ofCode_code, LeaderMode.ofCode_code, FenceKind.ofCode_code, Comb.ofCode_code, AdjMode.ofCode_code, Stage.ofCode_code, AccFmt.ofCode_code, StMode.ofCode_code, if_true, if_false, Fin.is_lt, Nat.zero_add, Nat.add_zero, Nat.reduceMod, Nat.reduceDiv, Nat.reduceMul, Nat.reduceAdd, Nat.reduceLT, Nat.reduceLeDiff, Nat.reduceEqDiff, reduceIte, reduceCtorEq, Nat.mul_zero, and_self, and_true, true_and]
theorem atoms o : Statement (.atoms o) :=
  via (IsAs 97 o.d.code o.base.code o.v.code o.aop.code 0 o.sc.code) rfl (isAs (by decide) (by have := o.d.code_lt; omega) (by have := o.base.code_lt; omega) (by have := o.v.code_lt; omega) (by have := o.aop.code_lt; omega) (by decide) (by have := o.sc.code_lt; omega)) (fun _ h => h.1) fun v h => by
    obtain ⟨-, h0, h1, h⟩ := h
    rw [to_decRow60 h0, decRow60_1 h1]
    simp only [decAs, withDst, withDstC, withSome, withImm, zeroField, srcA, srcB, srcTop, flag, fldGuard, gScope, gA0, gB0, gC0, gS0, gR0, h, Dst.ofCode_code, Src.ofCode_code, Guard.ofCode_code, bit_beq_one, fin_ofNat_val, bv_ofNat_toNat, NumTy.ofCode_code, RM.ofCode_code, Policy.ofCode_code, Scope.ofCode_code, HalfTy.ofCode_code, BfpW.ofCode_code, MemOrd.ofCode_code, Aop.ofCode_code, SSize.ofCode_code, RelayMode.ofCode_code, CensusMode.ofCode_code, RedMode.ofCode_code, PeersMode.ofCode_code, LeaderMode.ofCode_code, FenceKind.ofCode_code, Comb.ofCode_code, AdjMode.ofCode_code, Stage.ofCode_code, AccFmt.ofCode_code, StMode.ofCode_code, if_true, if_false, Fin.is_lt, Nat.zero_add, Nat.add_zero, Nat.reduceMod, Nat.reduceDiv, Nat.reduceMul, Nat.reduceAdd, Nat.reduceLT, Nat.reduceLeDiff, Nat.reduceEqDiff, reduceIte, reduceCtorEq, Nat.mul_zero, and_self, and_true, true_and]
theorem cass o : Statement (.cass o) :=
  via (IsAs 97 o.d.code o.base.code o.v.code 0 1 o.sc.code) rfl (isAs (by decide) (by have := o.d.code_lt; omega) (by have := o.base.code_lt; omega) (by have := o.v.code_lt; omega) (by decide) (by decide) (by have := o.sc.code_lt; omega)) (fun _ h => h.1) fun v h => by
    obtain ⟨-, h0, h1, h⟩ := h
    rw [to_decRow60 h0, decRow60_1 h1]
    simp only [decAs, withDst, withDstC, withSome, withImm, zeroField, srcA, srcB, srcTop, flag, fldGuard, gScope, gA0, gB0, gC0, gS0, gR0, h, Dst.ofCode_code, Src.ofCode_code, Guard.ofCode_code, bit_beq_one, fin_ofNat_val, bv_ofNat_toNat, NumTy.ofCode_code, RM.ofCode_code, Policy.ofCode_code, Scope.ofCode_code, HalfTy.ofCode_code, BfpW.ofCode_code, MemOrd.ofCode_code, Aop.ofCode_code, SSize.ofCode_code, RelayMode.ofCode_code, CensusMode.ofCode_code, RedMode.ofCode_code, PeersMode.ofCode_code, LeaderMode.ofCode_code, FenceKind.ofCode_code, Comb.ofCode_code, AdjMode.ofCode_code, Stage.ofCode_code, AccFmt.ofCode_code, StMode.ofCode_code, if_true, if_false, Fin.is_lt, Nat.zero_add, Nat.add_zero, Nat.reduceMod, Nat.reduceDiv, Nat.reduceMul, Nat.reduceAdd, Nat.reduceLT, Nat.reduceLeDiff, Nat.reduceEqDiff, reduceIte, reduceCtorEq, Nat.mul_zero, and_self, and_true, true_and]
theorem pref a l2 : Statement (.pref a l2) :=
  via (IsG 98 a.code (bit l2) 0 0 0) rfl (isG (by decide) (by have := a.code_lt; omega) (by have := bit_lt l2; omega) (by decide) (by decide) (by decide)) (fun _ h => h.1) fun v h => by
    obtain ⟨-, h0, h1, h⟩ := h
    have e0 : bit l2 < 2 := by have := bit_lt l2; omega
    have e1 : bit l2 % 2 = bit l2 := by have := bit_lt l2; omega
    rw [to_decRow60 h0, decRow60_2 h1]
    simp only [decCache, withDst, withDstC, withSome, withImm, zeroField, srcA, srcB, srcTop, flag, fldGuard, gScope, gA0, gB0, gC0, gS0, gR0, h, e0, e1, Dst.ofCode_code, Src.ofCode_code, Guard.ofCode_code, bit_beq_one, fin_ofNat_val, bv_ofNat_toNat, NumTy.ofCode_code, RM.ofCode_code, Policy.ofCode_code, Scope.ofCode_code, HalfTy.ofCode_code, BfpW.ofCode_code, MemOrd.ofCode_code, Aop.ofCode_code, SSize.ofCode_code, RelayMode.ofCode_code, CensusMode.ofCode_code, RedMode.ofCode_code, PeersMode.ofCode_code, LeaderMode.ofCode_code, FenceKind.ofCode_code, Comb.ofCode_code, AdjMode.ofCode_code, Stage.ofCode_code, AccFmt.ofCode_code, StMode.ofCode_code, if_true, if_false, Fin.is_lt, Nat.zero_add, Nat.add_zero, Nat.reduceMod, Nat.reduceDiv, Nat.reduceMul, Nat.reduceAdd, Nat.reduceLT, Nat.reduceLeDiff, Nat.reduceEqDiff, reduceIte, reduceCtorEq, Nat.mul_zero, and_self, and_true, true_and]
theorem cflush a sc : Statement (.cflush a sc) :=
  via (IsG 98 a.code 0 0 1 sc.code) rfl (isG (by decide) (by have := a.code_lt; omega) (by decide) (by decide) (by decide) (by have := sc.code_lt; omega)) (fun _ h => h.1) fun v h => by
    obtain ⟨-, h0, h1, h⟩ := h
    rw [to_decRow60 h0, decRow60_2 h1]
    simp only [decCache, withDst, withDstC, withSome, withImm, zeroField, srcA, srcB, srcTop, flag, fldGuard, gScope, gA0, gB0, gC0, gS0, gR0, h, Dst.ofCode_code, Src.ofCode_code, Guard.ofCode_code, bit_beq_one, fin_ofNat_val, bv_ofNat_toNat, NumTy.ofCode_code, RM.ofCode_code, Policy.ofCode_code, Scope.ofCode_code, HalfTy.ofCode_code, BfpW.ofCode_code, MemOrd.ofCode_code, Aop.ofCode_code, SSize.ofCode_code, RelayMode.ofCode_code, CensusMode.ofCode_code, RedMode.ofCode_code, PeersMode.ofCode_code, LeaderMode.ofCode_code, FenceKind.ofCode_code, Comb.ofCode_code, AdjMode.ofCode_code, Stage.ofCode_code, AccFmt.ofCode_code, StMode.ofCode_code, if_true, if_false, Fin.is_lt, Nat.zero_add, Nat.add_zero, Nat.reduceMod, Nat.reduceDiv, Nat.reduceMul, Nat.reduceAdd, Nat.reduceLT, Nat.reduceLeDiff, Nat.reduceEqDiff, reduceIte, reduceCtorEq, Nat.mul_zero, and_self, and_true, true_and]
theorem cinv a : Statement (.cinv a) :=
  via (IsG 98 a.code 0 0 2 0) rfl (isG (by decide) (by have := a.code_lt; omega) (by decide) (by decide) (by decide) (by decide)) (fun _ h => h.1) fun v h => by
    obtain ⟨-, h0, h1, h⟩ := h
    rw [to_decRow60 h0, decRow60_2 h1]
    simp only [decCache, withDst, withDstC, withSome, withImm, zeroField, srcA, srcB, srcTop, flag, fldGuard, gScope, gA0, gB0, gC0, gS0, gR0, h, Dst.ofCode_code, Src.ofCode_code, Guard.ofCode_code, bit_beq_one, fin_ofNat_val, bv_ofNat_toNat, NumTy.ofCode_code, RM.ofCode_code, Policy.ofCode_code, Scope.ofCode_code, HalfTy.ofCode_code, BfpW.ofCode_code, MemOrd.ofCode_code, Aop.ofCode_code, SSize.ofCode_code, RelayMode.ofCode_code, CensusMode.ofCode_code, RedMode.ofCode_code, PeersMode.ofCode_code, LeaderMode.ofCode_code, FenceKind.ofCode_code, Comb.ofCode_code, AdjMode.ofCode_code, Stage.ofCode_code, AccFmt.ofCode_code, StMode.ofCode_code, if_true, if_false, Fin.is_lt, Nat.zero_add, Nat.add_zero, Nat.reduceMod, Nat.reduceDiv, Nat.reduceMul, Nat.reduceAdd, Nat.reduceLT, Nat.reduceLeDiff, Nat.reduceEqDiff, reduceIte, reduceCtorEq, Nat.mul_zero, and_self, and_true, true_and]
theorem fence k sc : Statement (.fence k sc) :=
  via (IsG 98 0 0 k.code 3 sc.code) rfl (isG (by decide) (by decide) (by decide) (by have := k.code_lt; omega) (by decide) (by have := sc.code_lt; omega)) (fun _ h => h.1) fun v h => by
    obtain ⟨-, h0, h1, h⟩ := h
    rw [to_decRow60 h0, decRow60_2 h1]
    simp only [decCache, withDst, withDstC, withSome, withImm, zeroField, srcA, srcB, srcTop, flag, fldGuard, gScope, gA0, gB0, gC0, gS0, gR0, h, Dst.ofCode_code, Src.ofCode_code, Guard.ofCode_code, bit_beq_one, fin_ofNat_val, bv_ofNat_toNat, NumTy.ofCode_code, RM.ofCode_code, Policy.ofCode_code, Scope.ofCode_code, HalfTy.ofCode_code, BfpW.ofCode_code, MemOrd.ofCode_code, Aop.ofCode_code, SSize.ofCode_code, RelayMode.ofCode_code, CensusMode.ofCode_code, RedMode.ofCode_code, PeersMode.ofCode_code, LeaderMode.ofCode_code, FenceKind.ofCode_code, Comb.ofCode_code, AdjMode.ofCode_code, Stage.ofCode_code, AccFmt.ofCode_code, StMode.ofCode_code, if_true, if_false, Fin.is_lt, Nat.zero_add, Nat.add_zero, Nat.reduceMod, Nat.reduceDiv, Nat.reduceMul, Nat.reduceAdd, Nat.reduceLT, Nat.reduceLeDiff, Nat.reduceEqDiff, reduceIte, reduceCtorEq, Nat.mul_zero, and_self, and_true, true_and]
theorem stashmap a b c : Statement (.stashmap a b c) :=
  via (IsG 98 a.code b.code c.code 4 0) rfl (isG (by decide) (by have := a.code_lt; omega) (by have := b.code_lt; omega) (by have := c.code_lt; omega) (by decide) (by decide)) (fun _ h => h.1) fun v h => by
    obtain ⟨-, h0, h1, h⟩ := h
    rw [to_decRow60 h0, decRow60_2 h1]
    simp only [decCache, withDst, withDstC, withSome, withImm, zeroField, srcA, srcB, srcTop, flag, fldGuard, gScope, gA0, gB0, gC0, gS0, gR0, h, Dst.ofCode_code, Src.ofCode_code, Guard.ofCode_code, bit_beq_one, fin_ofNat_val, bv_ofNat_toNat, NumTy.ofCode_code, RM.ofCode_code, Policy.ofCode_code, Scope.ofCode_code, HalfTy.ofCode_code, BfpW.ofCode_code, MemOrd.ofCode_code, Aop.ofCode_code, SSize.ofCode_code, RelayMode.ofCode_code, CensusMode.ofCode_code, RedMode.ofCode_code, PeersMode.ofCode_code, LeaderMode.ofCode_code, FenceKind.ofCode_code, Comb.ofCode_code, AdjMode.ofCode_code, Stage.ofCode_code, AccFmt.ofCode_code, StMode.ofCode_code, if_true, if_false, Fin.is_lt, Nat.zero_add, Nat.add_zero, Nat.reduceMod, Nat.reduceDiv, Nat.reduceMul, Nat.reduceAdd, Nat.reduceLT, Nat.reduceLeDiff, Nat.reduceEqDiff, reduceIte, reduceCtorEq, Nat.mul_zero, and_self, and_true, true_and]
theorem stashwb a c : Statement (.stashwb a c) :=
  via (IsG 98 a.code 0 c.code 5 0) rfl (isG (by decide) (by have := a.code_lt; omega) (by decide) (by have := c.code_lt; omega) (by decide) (by decide)) (fun _ h => h.1) fun v h => by
    obtain ⟨-, h0, h1, h⟩ := h
    rw [to_decRow60 h0, decRow60_2 h1]
    simp only [decCache, withDst, withDstC, withSome, withImm, zeroField, srcA, srcB, srcTop, flag, fldGuard, gScope, gA0, gB0, gC0, gS0, gR0, h, Dst.ofCode_code, Src.ofCode_code, Guard.ofCode_code, bit_beq_one, fin_ofNat_val, bv_ofNat_toNat, NumTy.ofCode_code, RM.ofCode_code, Policy.ofCode_code, Scope.ofCode_code, HalfTy.ofCode_code, BfpW.ofCode_code, MemOrd.ofCode_code, Aop.ofCode_code, SSize.ofCode_code, RelayMode.ofCode_code, CensusMode.ofCode_code, RedMode.ofCode_code, PeersMode.ofCode_code, LeaderMode.ofCode_code, FenceKind.ofCode_code, Comb.ofCode_code, AdjMode.ofCode_code, Stage.ofCode_code, AccFmt.ofCode_code, StMode.ofCode_code, if_true, if_false, Fin.is_lt, Nat.zero_add, Nat.add_zero, Nat.reduceMod, Nat.reduceDiv, Nat.reduceMul, Nat.reduceAdd, Nat.reduceLT, Nat.reduceLeDiff, Nat.reduceEqDiff, reduceIte, reduceCtorEq, Nat.mul_zero, and_self, and_true, true_and]
theorem stashdrop a c : Statement (.stashdrop a c) :=
  via (IsG 98 a.code 0 c.code 6 0) rfl (isG (by decide) (by have := a.code_lt; omega) (by decide) (by have := c.code_lt; omega) (by decide) (by decide)) (fun _ h => h.1) fun v h => by
    obtain ⟨-, h0, h1, h⟩ := h
    rw [to_decRow60 h0, decRow60_2 h1]
    simp only [decCache, withDst, withDstC, withSome, withImm, zeroField, srcA, srcB, srcTop, flag, fldGuard, gScope, gA0, gB0, gC0, gS0, gR0, h, Dst.ofCode_code, Src.ofCode_code, Guard.ofCode_code, bit_beq_one, fin_ofNat_val, bv_ofNat_toNat, NumTy.ofCode_code, RM.ofCode_code, Policy.ofCode_code, Scope.ofCode_code, HalfTy.ofCode_code, BfpW.ofCode_code, MemOrd.ofCode_code, Aop.ofCode_code, SSize.ofCode_code, RelayMode.ofCode_code, CensusMode.ofCode_code, RedMode.ofCode_code, PeersMode.ofCode_code, LeaderMode.ofCode_code, FenceKind.ofCode_code, Comb.ofCode_code, AdjMode.ofCode_code, Stage.ofCode_code, AccFmt.ofCode_code, StMode.ofCode_code, if_true, if_false, Fin.is_lt, Nat.zero_add, Nat.add_zero, Nat.reduceMod, Nat.reduceDiv, Nat.reduceMul, Nat.reduceAdd, Nat.reduceLT, Nat.reduceLeDiff, Nat.reduceEqDiff, reduceIte, reduceCtorEq, Nat.mul_zero, and_self, and_true, true_and]
theorem swinit a b : Statement (.swinit a b) :=
  via (IsG 99 a.code b.code 0 0 0) rfl (isG (by decide) (by have := a.code_lt; omega) (by have := b.code_lt; omega) (by decide) (by decide) (by decide)) (fun _ h => h.1) fun v h => by
    obtain ⟨-, h0, h1, h⟩ := h
    rw [to_decRow60 h0, decRow60_3 h1]
    simp only [decSync, withDst, withDstC, withSome, withImm, zeroField, srcA, srcB, srcTop, flag, fldGuard, gScope, gA0, gB0, gC0, gS0, gR0, h, Dst.ofCode_code, Src.ofCode_code, Guard.ofCode_code, bit_beq_one, fin_ofNat_val, bv_ofNat_toNat, NumTy.ofCode_code, RM.ofCode_code, Policy.ofCode_code, Scope.ofCode_code, HalfTy.ofCode_code, BfpW.ofCode_code, MemOrd.ofCode_code, Aop.ofCode_code, SSize.ofCode_code, RelayMode.ofCode_code, CensusMode.ofCode_code, RedMode.ofCode_code, PeersMode.ofCode_code, LeaderMode.ofCode_code, FenceKind.ofCode_code, Comb.ofCode_code, AdjMode.ofCode_code, Stage.ofCode_code, AccFmt.ofCode_code, StMode.ofCode_code, if_true, if_false, Fin.is_lt, Nat.zero_add, Nat.add_zero, Nat.reduceMod, Nat.reduceDiv, Nat.reduceMul, Nat.reduceAdd, Nat.reduceLT, Nat.reduceLeDiff, Nat.reduceEqDiff, reduceIte, reduceCtorEq, Nat.mul_zero, and_self, and_true, true_and]
theorem swwait a b sc : Statement (.swwait a b sc) :=
  via (IsG 99 a.code b.code 0 1 sc.code) rfl (isG (by decide) (by have := a.code_lt; omega) (by have := b.code_lt; omega) (by decide) (by decide) (by have := sc.code_lt; omega)) (fun _ h => h.1) fun v h => by
    obtain ⟨-, h0, h1, h⟩ := h
    rw [to_decRow60 h0, decRow60_3 h1]
    simp only [decSync, withDst, withDstC, withSome, withImm, zeroField, srcA, srcB, srcTop, flag, fldGuard, gScope, gA0, gB0, gC0, gS0, gR0, h, Dst.ofCode_code, Src.ofCode_code, Guard.ofCode_code, bit_beq_one, fin_ofNat_val, bv_ofNat_toNat, NumTy.ofCode_code, RM.ofCode_code, Policy.ofCode_code, Scope.ofCode_code, HalfTy.ofCode_code, BfpW.ofCode_code, MemOrd.ofCode_code, Aop.ofCode_code, SSize.ofCode_code, RelayMode.ofCode_code, CensusMode.ofCode_code, RedMode.ofCode_code, PeersMode.ofCode_code, LeaderMode.ofCode_code, FenceKind.ofCode_code, Comb.ofCode_code, AdjMode.ofCode_code, Stage.ofCode_code, AccFmt.ofCode_code, StMode.ofCode_code, if_true, if_false, Fin.is_lt, Nat.zero_add, Nat.add_zero, Nat.reduceMod, Nat.reduceDiv, Nat.reduceMul, Nat.reduceAdd, Nat.reduceLT, Nat.reduceLeDiff, Nat.reduceEqDiff, reduceIte, reduceCtorEq, Nat.mul_zero, and_self, and_true, true_and]
theorem swgen d b : Statement (.swgen d b) :=
  via (IsG 99 d.code b.code 0 2 0) rfl (isG (by decide) (by have := d.code_lt; omega) (by have := b.code_lt; omega) (by decide) (by decide) (by decide)) (fun _ h => h.1) fun v h => by
    obtain ⟨-, h0, h1, h⟩ := h
    rw [to_decRow60 h0, decRow60_3 h1]
    simp only [decSync, withDst, withDstC, withSome, withImm, zeroField, srcA, srcB, srcTop, flag, fldGuard, gScope, gA0, gB0, gC0, gS0, gR0, h, Dst.ofCode_code, Src.ofCode_code, Guard.ofCode_code, bit_beq_one, fin_ofNat_val, bv_ofNat_toNat, NumTy.ofCode_code, RM.ofCode_code, Policy.ofCode_code, Scope.ofCode_code, HalfTy.ofCode_code, BfpW.ofCode_code, MemOrd.ofCode_code, Aop.ofCode_code, SSize.ofCode_code, RelayMode.ofCode_code, CensusMode.ofCode_code, RedMode.ofCode_code, PeersMode.ofCode_code, LeaderMode.ofCode_code, FenceKind.ofCode_code, Comb.ofCode_code, AdjMode.ofCode_code, Stage.ofCode_code, AccFmt.ofCode_code, StMode.ofCode_code, if_true, if_false, Fin.is_lt, Nat.zero_add, Nat.add_zero, Nat.reduceMod, Nat.reduceDiv, Nat.reduceMul, Nat.reduceAdd, Nat.reduceLT, Nat.reduceLeDiff, Nat.reduceEqDiff, reduceIte, reduceCtorEq, Nat.mul_zero, and_self, and_true, true_and]
theorem enq a qn : Statement (.enq a qn) :=
  via (IsG 100 a.code qn.val 0 0 0) rfl (isG (by decide) (by have := a.code_lt; omega) (by have := qn.isLt; omega) (by decide) (by decide) (by decide)) (fun _ h => h.1) fun v h => by
    obtain ⟨-, h0, h1, h⟩ := h
    rw [to_decRow60 h0, decRow60_4 h1]
    simp only [decQueue, withDst, withDstC, withSome, withImm, zeroField, srcA, srcB, srcTop, flag, fldGuard, gScope, gA0, gB0, gC0, gS0, gR0, h, Dst.ofCode_code, Src.ofCode_code, Guard.ofCode_code, bit_beq_one, fin_ofNat_val, bv_ofNat_toNat, NumTy.ofCode_code, RM.ofCode_code, Policy.ofCode_code, Scope.ofCode_code, HalfTy.ofCode_code, BfpW.ofCode_code, MemOrd.ofCode_code, Aop.ofCode_code, SSize.ofCode_code, RelayMode.ofCode_code, CensusMode.ofCode_code, RedMode.ofCode_code, PeersMode.ofCode_code, LeaderMode.ofCode_code, FenceKind.ofCode_code, Comb.ofCode_code, AdjMode.ofCode_code, Stage.ofCode_code, AccFmt.ofCode_code, StMode.ofCode_code, if_true, if_false, Fin.is_lt, Nat.zero_add, Nat.add_zero, Nat.reduceMod, Nat.reduceDiv, Nat.reduceMul, Nat.reduceAdd, Nat.reduceLT, Nat.reduceLeDiff, Nat.reduceEqDiff, reduceIte, reduceCtorEq, Nat.mul_zero, and_self, and_true, true_and]
theorem deq d qn : Statement (.deq d qn) :=
  via (IsG 100 d.code qn.val 0 1 0) rfl (isG (by decide) (by have := d.code_lt; omega) (by have := qn.isLt; omega) (by decide) (by decide) (by decide)) (fun _ h => h.1) fun v h => by
    obtain ⟨-, h0, h1, h⟩ := h
    rw [to_decRow60 h0, decRow60_4 h1]
    simp only [decQueue, withDst, withDstC, withSome, withImm, zeroField, srcA, srcB, srcTop, flag, fldGuard, gScope, gA0, gB0, gC0, gS0, gR0, h, Dst.ofCode_code, Src.ofCode_code, Guard.ofCode_code, bit_beq_one, fin_ofNat_val, bv_ofNat_toNat, NumTy.ofCode_code, RM.ofCode_code, Policy.ofCode_code, Scope.ofCode_code, HalfTy.ofCode_code, BfpW.ofCode_code, MemOrd.ofCode_code, Aop.ofCode_code, SSize.ofCode_code, RelayMode.ofCode_code, CensusMode.ofCode_code, RedMode.ofCode_code, PeersMode.ofCode_code, LeaderMode.ofCode_code, FenceKind.ofCode_code, Comb.ofCode_code, AdjMode.ofCode_code, Stage.ofCode_code, AccFmt.ofCode_code, StMode.ofCode_code, if_true, if_false, Fin.is_lt, Nat.zero_add, Nat.add_zero, Nat.reduceMod, Nat.reduceDiv, Nat.reduceMul, Nat.reduceAdd, Nat.reduceLT, Nat.reduceLeDiff, Nat.reduceEqDiff, reduceIte, reduceCtorEq, Nat.mul_zero, and_self, and_true, true_and]
theorem enqtry a qn st : Statement (.enqtry a qn st) :=
  via (IsG 100 a.code qn.val st.code 2 0) rfl (isG (by decide) (by have := a.code_lt; omega) (by have := qn.isLt; omega) (by have := st.code_lt; omega) (by decide) (by decide)) (fun _ h => h.1) fun v h => by
    obtain ⟨-, h0, h1, h⟩ := h
    rw [to_decRow60 h0, decRow60_4 h1]
    simp only [decQueue, withDst, withDstC, withSome, withImm, zeroField, srcA, srcB, srcTop, flag, fldGuard, gScope, gA0, gB0, gC0, gS0, gR0, h, Dst.ofCode_code, Src.ofCode_code, Guard.ofCode_code, bit_beq_one, fin_ofNat_val, bv_ofNat_toNat, NumTy.ofCode_code, RM.ofCode_code, Policy.ofCode_code, Scope.ofCode_code, HalfTy.ofCode_code, BfpW.ofCode_code, MemOrd.ofCode_code, Aop.ofCode_code, SSize.ofCode_code, RelayMode.ofCode_code, CensusMode.ofCode_code, RedMode.ofCode_code, PeersMode.ofCode_code, LeaderMode.ofCode_code, FenceKind.ofCode_code, Comb.ofCode_code, AdjMode.ofCode_code, Stage.ofCode_code, AccFmt.ofCode_code, StMode.ofCode_code, if_true, if_false, Fin.is_lt, Nat.zero_add, Nat.add_zero, Nat.reduceMod, Nat.reduceDiv, Nat.reduceMul, Nat.reduceAdd, Nat.reduceLT, Nat.reduceLeDiff, Nat.reduceEqDiff, reduceIte, reduceCtorEq, Nat.mul_zero, and_self, and_true, true_and]
theorem deqtry d qn st : Statement (.deqtry d qn st) :=
  via (IsG 100 d.code qn.val st.code 3 0) rfl (isG (by decide) (by have := d.code_lt; omega) (by have := qn.isLt; omega) (by have := st.code_lt; omega) (by decide) (by decide)) (fun _ h => h.1) fun v h => by
    obtain ⟨-, h0, h1, h⟩ := h
    rw [to_decRow60 h0, decRow60_4 h1]
    simp only [decQueue, withDst, withDstC, withSome, withImm, zeroField, srcA, srcB, srcTop, flag, fldGuard, gScope, gA0, gB0, gC0, gS0, gR0, h, Dst.ofCode_code, Src.ofCode_code, Guard.ofCode_code, bit_beq_one, fin_ofNat_val, bv_ofNat_toNat, NumTy.ofCode_code, RM.ofCode_code, Policy.ofCode_code, Scope.ofCode_code, HalfTy.ofCode_code, BfpW.ofCode_code, MemOrd.ofCode_code, Aop.ofCode_code, SSize.ofCode_code, RelayMode.ofCode_code, CensusMode.ofCode_code, RedMode.ofCode_code, PeersMode.ofCode_code, LeaderMode.ofCode_code, FenceKind.ofCode_code, Comb.ofCode_code, AdjMode.ofCode_code, Stage.ofCode_code, AccFmt.ofCode_code, StMode.ofCode_code, if_true, if_false, Fin.is_lt, Nat.zero_add, Nat.add_zero, Nat.reduceMod, Nat.reduceDiv, Nat.reduceMul, Nat.reduceAdd, Nat.reduceLT, Nat.reduceLeDiff, Nat.reduceEqDiff, reduceIte, reduceCtorEq, Nat.mul_zero, and_self, and_true, true_and]
theorem chsend a ch : Statement (.chsend a ch) :=
  via (IsG 101 a.code ch.val 0 0 0) rfl (isG (by decide) (by have := a.code_lt; omega) (by have := ch.isLt; omega) (by decide) (by decide) (by decide)) (fun _ h => h.1) fun v h => by
    obtain ⟨-, h0, h1, h⟩ := h
    rw [to_decRow60 h0, decRow60_5 h1]
    simp only [decChannel, withDst, withDstC, withSome, withImm, zeroField, srcA, srcB, srcTop, flag, fldGuard, gScope, gA0, gB0, gC0, gS0, gR0, h, Dst.ofCode_code, Src.ofCode_code, Guard.ofCode_code, bit_beq_one, fin_ofNat_val, bv_ofNat_toNat, NumTy.ofCode_code, RM.ofCode_code, Policy.ofCode_code, Scope.ofCode_code, HalfTy.ofCode_code, BfpW.ofCode_code, MemOrd.ofCode_code, Aop.ofCode_code, SSize.ofCode_code, RelayMode.ofCode_code, CensusMode.ofCode_code, RedMode.ofCode_code, PeersMode.ofCode_code, LeaderMode.ofCode_code, FenceKind.ofCode_code, Comb.ofCode_code, AdjMode.ofCode_code, Stage.ofCode_code, AccFmt.ofCode_code, StMode.ofCode_code, if_true, if_false, Fin.is_lt, Nat.zero_add, Nat.add_zero, Nat.reduceMod, Nat.reduceDiv, Nat.reduceMul, Nat.reduceAdd, Nat.reduceLT, Nat.reduceLeDiff, Nat.reduceEqDiff, reduceIte, reduceCtorEq, Nat.mul_zero, and_self, and_true, true_and]
theorem chrecv a ch : Statement (.chrecv a ch) :=
  via (IsG 101 a.code ch.val 0 1 0) rfl (isG (by decide) (by have := a.code_lt; omega) (by have := ch.isLt; omega) (by decide) (by decide) (by decide)) (fun _ h => h.1) fun v h => by
    obtain ⟨-, h0, h1, h⟩ := h
    rw [to_decRow60 h0, decRow60_5 h1]
    simp only [decChannel, withDst, withDstC, withSome, withImm, zeroField, srcA, srcB, srcTop, flag, fldGuard, gScope, gA0, gB0, gC0, gS0, gR0, h, Dst.ofCode_code, Src.ofCode_code, Guard.ofCode_code, bit_beq_one, fin_ofNat_val, bv_ofNat_toNat, NumTy.ofCode_code, RM.ofCode_code, Policy.ofCode_code, Scope.ofCode_code, HalfTy.ofCode_code, BfpW.ofCode_code, MemOrd.ofCode_code, Aop.ofCode_code, SSize.ofCode_code, RelayMode.ofCode_code, CensusMode.ofCode_code, RedMode.ofCode_code, PeersMode.ofCode_code, LeaderMode.ofCode_code, FenceKind.ofCode_code, Comb.ofCode_code, AdjMode.ofCode_code, Stage.ofCode_code, AccFmt.ofCode_code, StMode.ofCode_code, if_true, if_false, Fin.is_lt, Nat.zero_add, Nat.add_zero, Nat.reduceMod, Nat.reduceDiv, Nat.reduceMul, Nat.reduceAdd, Nat.reduceLT, Nat.reduceLeDiff, Nat.reduceEqDiff, reduceIte, reduceCtorEq, Nat.mul_zero, and_self, and_true, true_and]
theorem chpoll d ch : Statement (.chpoll d ch) :=
  via (IsG 101 d.code ch.val 0 2 0) rfl (isG (by decide) (by have := d.code_lt; omega) (by have := ch.isLt; omega) (by decide) (by decide) (by decide)) (fun _ h => h.1) fun v h => by
    obtain ⟨-, h0, h1, h⟩ := h
    rw [to_decRow60 h0, decRow60_5 h1]
    simp only [decChannel, withDst, withDstC, withSome, withImm, zeroField, srcA, srcB, srcTop, flag, fldGuard, gScope, gA0, gB0, gC0, gS0, gR0, h, Dst.ofCode_code, Src.ofCode_code, Guard.ofCode_code, bit_beq_one, fin_ofNat_val, bv_ofNat_toNat, NumTy.ofCode_code, RM.ofCode_code, Policy.ofCode_code, Scope.ofCode_code, HalfTy.ofCode_code, BfpW.ofCode_code, MemOrd.ofCode_code, Aop.ofCode_code, SSize.ofCode_code, RelayMode.ofCode_code, CensusMode.ofCode_code, RedMode.ofCode_code, PeersMode.ofCode_code, LeaderMode.ofCode_code, FenceKind.ofCode_code, Comb.ofCode_code, AdjMode.ofCode_code, Stage.ofCode_code, AccFmt.ofCode_code, StMode.ofCode_code, if_true, if_false, Fin.is_lt, Nat.zero_add, Nat.add_zero, Nat.reduceMod, Nat.reduceDiv, Nat.reduceMul, Nat.reduceAdd, Nat.reduceLT, Nat.reduceLeDiff, Nat.reduceEqDiff, reduceIte, reduceCtorEq, Nat.mul_zero, and_self, and_true, true_and]
theorem bararr a : Statement (.bararr a) :=
  via (IsG 102 a.code 0 0 0 0) rfl (isG (by decide) (by have := a.code_lt; omega) (by decide) (by decide) (by decide) (by decide)) (fun _ h => h.1) fun v h => by
    obtain ⟨-, h0, h1, h⟩ := h
    rw [to_decRow60 h0, decRow60_6 h1]
    simp only [decBarrier, withDst, withDstC, withSome, withImm, zeroField, srcA, srcB, srcTop, flag, fldGuard, gScope, gA0, gB0, gC0, gS0, gR0, h, Dst.ofCode_code, Src.ofCode_code, Guard.ofCode_code, bit_beq_one, fin_ofNat_val, bv_ofNat_toNat, NumTy.ofCode_code, RM.ofCode_code, Policy.ofCode_code, Scope.ofCode_code, HalfTy.ofCode_code, BfpW.ofCode_code, MemOrd.ofCode_code, Aop.ofCode_code, SSize.ofCode_code, RelayMode.ofCode_code, CensusMode.ofCode_code, RedMode.ofCode_code, PeersMode.ofCode_code, LeaderMode.ofCode_code, FenceKind.ofCode_code, Comb.ofCode_code, AdjMode.ofCode_code, Stage.ofCode_code, AccFmt.ofCode_code, StMode.ofCode_code, if_true, if_false, Fin.is_lt, Nat.zero_add, Nat.add_zero, Nat.reduceMod, Nat.reduceDiv, Nat.reduceMul, Nat.reduceAdd, Nat.reduceLT, Nat.reduceLeDiff, Nat.reduceEqDiff, reduceIte, reduceCtorEq, Nat.mul_zero, and_self, and_true, true_and]
theorem barwait a : Statement (.barwait a) :=
  via (IsG 102 a.code 0 0 1 0) rfl (isG (by decide) (by have := a.code_lt; omega) (by decide) (by decide) (by decide) (by decide)) (fun _ h => h.1) fun v h => by
    obtain ⟨-, h0, h1, h⟩ := h
    rw [to_decRow60 h0, decRow60_6 h1]
    simp only [decBarrier, withDst, withDstC, withSome, withImm, zeroField, srcA, srcB, srcTop, flag, fldGuard, gScope, gA0, gB0, gC0, gS0, gR0, h, Dst.ofCode_code, Src.ofCode_code, Guard.ofCode_code, bit_beq_one, fin_ofNat_val, bv_ofNat_toNat, NumTy.ofCode_code, RM.ofCode_code, Policy.ofCode_code, Scope.ofCode_code, HalfTy.ofCode_code, BfpW.ofCode_code, MemOrd.ofCode_code, Aop.ofCode_code, SSize.ofCode_code, RelayMode.ofCode_code, CensusMode.ofCode_code, RedMode.ofCode_code, PeersMode.ofCode_code, LeaderMode.ofCode_code, FenceKind.ofCode_code, Comb.ofCode_code, AdjMode.ofCode_code, Stage.ofCode_code, AccFmt.ofCode_code, StMode.ofCode_code, if_true, if_false, Fin.is_lt, Nat.zero_add, Nat.add_zero, Nat.reduceMod, Nat.reduceDiv, Nat.reduceMul, Nat.reduceAdd, Nat.reduceLT, Nat.reduceLeDiff, Nat.reduceEqDiff, reduceIte, reduceCtorEq, Nat.mul_zero, and_self, and_true, true_and]
theorem barsync a : Statement (.barsync a) :=
  via (IsG 102 a.code 0 0 2 0) rfl (isG (by decide) (by have := a.code_lt; omega) (by decide) (by decide) (by decide) (by decide)) (fun _ h => h.1) fun v h => by
    obtain ⟨-, h0, h1, h⟩ := h
    rw [to_decRow60 h0, decRow60_6 h1]
    simp only [decBarrier, withDst, withDstC, withSome, withImm, zeroField, srcA, srcB, srcTop, flag, fldGuard, gScope, gA0, gB0, gC0, gS0, gR0, h, Dst.ofCode_code, Src.ofCode_code, Guard.ofCode_code, bit_beq_one, fin_ofNat_val, bv_ofNat_toNat, NumTy.ofCode_code, RM.ofCode_code, Policy.ofCode_code, Scope.ofCode_code, HalfTy.ofCode_code, BfpW.ofCode_code, MemOrd.ofCode_code, Aop.ofCode_code, SSize.ofCode_code, RelayMode.ofCode_code, CensusMode.ofCode_code, RedMode.ofCode_code, PeersMode.ofCode_code, LeaderMode.ofCode_code, FenceKind.ofCode_code, Comb.ofCode_code, AdjMode.ofCode_code, Stage.ofCode_code, AccFmt.ofCode_code, StMode.ofCode_code, if_true, if_false, Fin.is_lt, Nat.zero_add, Nat.add_zero, Nat.reduceMod, Nat.reduceDiv, Nat.reduceMul, Nat.reduceAdd, Nat.reduceLT, Nat.reduceLeDiff, Nat.reduceEqDiff, reduceIte, reduceCtorEq, Nat.mul_zero, and_self, and_true, true_and]
theorem syncm a : Statement (.syncm a) :=
  via (IsG 102 a.code 0 0 3 0) rfl (isG (by decide) (by have := a.code_lt; omega) (by decide) (by decide) (by decide) (by decide)) (fun _ h => h.1) fun v h => by
    obtain ⟨-, h0, h1, h⟩ := h
    rw [to_decRow60 h0, decRow60_6 h1]
    simp only [decBarrier, withDst, withDstC, withSome, withImm, zeroField, srcA, srcB, srcTop, flag, fldGuard, gScope, gA0, gB0, gC0, gS0, gR0, h, Dst.ofCode_code, Src.ofCode_code, Guard.ofCode_code, bit_beq_one, fin_ofNat_val, bv_ofNat_toNat, NumTy.ofCode_code, RM.ofCode_code, Policy.ofCode_code, Scope.ofCode_code, HalfTy.ofCode_code, BfpW.ofCode_code, MemOrd.ofCode_code, Aop.ofCode_code, SSize.ofCode_code, RelayMode.ofCode_code, CensusMode.ofCode_code, RedMode.ofCode_code, PeersMode.ofCode_code, LeaderMode.ofCode_code, FenceKind.ofCode_code, Comb.ofCode_code, AdjMode.ofCode_code, Stage.ofCode_code, AccFmt.ofCode_code, StMode.ofCode_code, if_true, if_false, Fin.is_lt, Nat.zero_add, Nat.add_zero, Nat.reduceMod, Nat.reduceDiv, Nat.reduceMul, Nat.reduceAdd, Nat.reduceLT, Nat.reduceLeDiff, Nat.reduceEqDiff, reduceIte, reduceCtorEq, Nat.mul_zero, and_self, and_true, true_and]
theorem copy o : Statement (.copy o) :=
  via (IsG 103 o.a.code o.b.code o.c.code 0 o.sc.code) rfl (isG (by decide) (by have := o.a.code_lt; omega) (by have := o.b.code_lt; omega) (by have := o.c.code_lt; omega) (by decide) (by have := o.sc.code_lt; omega)) (fun _ h => h.1) fun v h => by
    obtain ⟨-, h0, h1, h⟩ := h
    rw [to_decRow60 h0, decRow60_7 h1]
    simp only [decCopies, decCopy, withDst, withDstC, withSome, withImm, zeroField, srcA, srcB, srcTop, flag, fldGuard, gScope, gA0, gB0, gC0, gS0, gR0, h, Dst.ofCode_code, Src.ofCode_code, Guard.ofCode_code, bit_beq_one, fin_ofNat_val, bv_ofNat_toNat, NumTy.ofCode_code, RM.ofCode_code, Policy.ofCode_code, Scope.ofCode_code, HalfTy.ofCode_code, BfpW.ofCode_code, MemOrd.ofCode_code, Aop.ofCode_code, SSize.ofCode_code, RelayMode.ofCode_code, CensusMode.ofCode_code, RedMode.ofCode_code, PeersMode.ofCode_code, LeaderMode.ofCode_code, FenceKind.ofCode_code, Comb.ofCode_code, AdjMode.ofCode_code, Stage.ofCode_code, AccFmt.ofCode_code, StMode.ofCode_code, if_true, if_false, Fin.is_lt, Nat.zero_add, Nat.add_zero, Nat.reduceMod, Nat.reduceDiv, Nat.reduceMul, Nat.reduceAdd, Nat.reduceLT, Nat.reduceLeDiff, Nat.reduceEqDiff, reduceIte, reduceCtorEq, Nat.mul_zero, and_self, and_true, true_and]
theorem copyg o : Statement (.copyg o) :=
  via (IsG 103 o.a.code o.b.code o.c.code 1 o.sc.code) rfl (isG (by decide) (by have := o.a.code_lt; omega) (by have := o.b.code_lt; omega) (by have := o.c.code_lt; omega) (by decide) (by have := o.sc.code_lt; omega)) (fun _ h => h.1) fun v h => by
    obtain ⟨-, h0, h1, h⟩ := h
    rw [to_decRow60 h0, decRow60_7 h1]
    simp only [decCopies, decCopy, withDst, withDstC, withSome, withImm, zeroField, srcA, srcB, srcTop, flag, fldGuard, gScope, gA0, gB0, gC0, gS0, gR0, h, Dst.ofCode_code, Src.ofCode_code, Guard.ofCode_code, bit_beq_one, fin_ofNat_val, bv_ofNat_toNat, NumTy.ofCode_code, RM.ofCode_code, Policy.ofCode_code, Scope.ofCode_code, HalfTy.ofCode_code, BfpW.ofCode_code, MemOrd.ofCode_code, Aop.ofCode_code, SSize.ofCode_code, RelayMode.ofCode_code, CensusMode.ofCode_code, RedMode.ofCode_code, PeersMode.ofCode_code, LeaderMode.ofCode_code, FenceKind.ofCode_code, Comb.ofCode_code, AdjMode.ofCode_code, Stage.ofCode_code, AccFmt.ofCode_code, StMode.ofCode_code, if_true, if_false, Fin.is_lt, Nat.zero_add, Nat.add_zero, Nat.reduceMod, Nat.reduceDiv, Nat.reduceMul, Nat.reduceAdd, Nat.reduceLT, Nat.reduceLeDiff, Nat.reduceEqDiff, reduceIte, reduceCtorEq, Nat.mul_zero, and_self, and_true, true_and]
theorem regrp o : Statement (.regrp o) :=
  via (IsG 103 o.a.code o.b.code o.c.code 2 o.sc.code) rfl (isG (by decide) (by have := o.a.code_lt; omega) (by have := o.b.code_lt; omega) (by have := o.c.code_lt; omega) (by decide) (by have := o.sc.code_lt; omega)) (fun _ h => h.1) fun v h => by
    obtain ⟨-, h0, h1, h⟩ := h
    rw [to_decRow60 h0, decRow60_7 h1]
    simp only [decCopies, decCopy, withDst, withDstC, withSome, withImm, zeroField, srcA, srcB, srcTop, flag, fldGuard, gScope, gA0, gB0, gC0, gS0, gR0, h, Dst.ofCode_code, Src.ofCode_code, Guard.ofCode_code, bit_beq_one, fin_ofNat_val, bv_ofNat_toNat, NumTy.ofCode_code, RM.ofCode_code, Policy.ofCode_code, Scope.ofCode_code, HalfTy.ofCode_code, BfpW.ofCode_code, MemOrd.ofCode_code, Aop.ofCode_code, SSize.ofCode_code, RelayMode.ofCode_code, CensusMode.ofCode_code, RedMode.ofCode_code, PeersMode.ofCode_code, LeaderMode.ofCode_code, FenceKind.ofCode_code, Comb.ofCode_code, AdjMode.ofCode_code, Stage.ofCode_code, AccFmt.ofCode_code, StMode.ofCode_code, if_true, if_false, Fin.is_lt, Nat.zero_add, Nat.add_zero, Nat.reduceMod, Nat.reduceDiv, Nat.reduceMul, Nat.reduceAdd, Nat.reduceLT, Nat.reduceLeDiff, Nat.reduceEqDiff, reduceIte, reduceCtorEq, Nat.mul_zero, and_self, and_true, true_and]
theorem publish a sc : Statement (.publish a sc) :=
  via (IsG 103 a.code 0 0 3 sc.code) rfl (isG (by decide) (by have := a.code_lt; omega) (by decide) (by decide) (by decide) (by have := sc.code_lt; omega)) (fun _ h => h.1) fun v h => by
    obtain ⟨-, h0, h1, h⟩ := h
    rw [to_decRow60 h0, decRow60_7 h1]
    simp only [decCopies, decCopy, withDst, withDstC, withSome, withImm, zeroField, srcA, srcB, srcTop, flag, fldGuard, gScope, gA0, gB0, gC0, gS0, gR0, h, Dst.ofCode_code, Src.ofCode_code, Guard.ofCode_code, bit_beq_one, fin_ofNat_val, bv_ofNat_toNat, NumTy.ofCode_code, RM.ofCode_code, Policy.ofCode_code, Scope.ofCode_code, HalfTy.ofCode_code, BfpW.ofCode_code, MemOrd.ofCode_code, Aop.ofCode_code, SSize.ofCode_code, RelayMode.ofCode_code, CensusMode.ofCode_code, RedMode.ofCode_code, PeersMode.ofCode_code, LeaderMode.ofCode_code, FenceKind.ofCode_code, Comb.ofCode_code, AdjMode.ofCode_code, Stage.ofCode_code, AccFmt.ofCode_code, StMode.ofCode_code, if_true, if_false, Fin.is_lt, Nat.zero_add, Nat.add_zero, Nat.reduceMod, Nat.reduceDiv, Nat.reduceMul, Nat.reduceAdd, Nat.reduceLT, Nat.reduceLeDiff, Nat.reduceEqDiff, reduceIte, reduceCtorEq, Nat.mul_zero, and_self, and_true, true_and]
theorem mma o : Statement (.mma o) :=
  via (IsX 104 o.acc.val o.ra.val o.rb.val o.wait.toNat o.set.val (bit o.z)) rfl (isX (by decide) (by have := o.acc.isLt; omega) (by have := o.ra.isLt; omega) (by have := o.rb.isLt; omega) (by have := o.wait.isLt; omega) (by have := o.set.isLt; omega) (by have := bit_lt o.z; omega)) (fun _ h => h.1) fun v h => (to_decRow68 h.2.1).trans ((decRow68_0 h.2.2.1).trans (decX_of _ o h))
theorem mmas o : Statement (.mmas o) :=
  via (IsX 105 o.acc.val o.ra.val o.rb.val o.wait.toNat o.set.val (bit o.z)) rfl (isX (by decide) (by have := o.acc.isLt; omega) (by have := o.ra.isLt; omega) (by have := o.rb.isLt; omega) (by have := o.wait.isLt; omega) (by have := o.set.isLt; omega) (by have := bit_lt o.z; omega)) (fun _ h => h.1) fun v h => (to_decRow68 h.2.1).trans ((decRow68_1 h.2.2.1).trans (decX_of _ o h))
theorem mmat o : Statement (.mmat o) :=
  via (IsX 106 o.acc.val o.ra.val o.rb.val o.wait.toNat o.set.val (bit o.z)) rfl (isX (by decide) (by have := o.acc.isLt; omega) (by have := o.ra.isLt; omega) (by have := o.rb.isLt; omega) (by have := o.wait.isLt; omega) (by have := o.set.isLt; omega) (by have := bit_lt o.z; omega)) (fun _ h => h.1) fun v h => (to_decRow68 h.2.1).trans ((decRow68_2 h.2.2.1).trans (decX_of _ o h))
theorem recld x b scratch : Statement (.recld x b scratch) :=
  via (IsG 107 x.val b.code (bit scratch) 0 0) rfl (isG (by decide) (by have := x.isLt; omega) (by have := b.code_lt; omega) (by have := bit_lt scratch; omega) (by decide) (by decide)) (fun _ h => h.1) fun v h => by
    obtain ⟨-, h0, h1, h⟩ := h
    have e0 : bit scratch < 2 := by have := bit_lt scratch; omega
    have e1 : bit scratch % 2 = bit scratch := by have := bit_lt scratch; omega
    rw [to_decRow68 h0, decRow68_3 h1]
    simp only [decRecord, withDst, withDstC, withSome, withImm, zeroField, srcA, srcB, srcTop, flag, fldGuard, gScope, gA0, gB0, gC0, gS0, gR0, h, e0, e1, Dst.ofCode_code, Src.ofCode_code, Guard.ofCode_code, bit_beq_one, fin_ofNat_val, bv_ofNat_toNat, NumTy.ofCode_code, RM.ofCode_code, Policy.ofCode_code, Scope.ofCode_code, HalfTy.ofCode_code, BfpW.ofCode_code, MemOrd.ofCode_code, Aop.ofCode_code, SSize.ofCode_code, RelayMode.ofCode_code, CensusMode.ofCode_code, RedMode.ofCode_code, PeersMode.ofCode_code, LeaderMode.ofCode_code, FenceKind.ofCode_code, Comb.ofCode_code, AdjMode.ofCode_code, Stage.ofCode_code, AccFmt.ofCode_code, StMode.ofCode_code, if_true, if_false, Fin.is_lt, Nat.zero_add, Nat.add_zero, Nat.reduceMod, Nat.reduceDiv, Nat.reduceMul, Nat.reduceAdd, Nat.reduceLT, Nat.reduceLeDiff, Nat.reduceEqDiff, reduceIte, reduceCtorEq, Nat.mul_zero, and_self, and_true, true_and]
theorem recset x wi c : Statement (.recset x wi c) :=
  via (IsG 107 x.val wi.val c.code 1 0) rfl (isG (by decide) (by have := x.isLt; omega) (by have := wi.isLt; omega) (by have := c.code_lt; omega) (by decide) (by decide)) (fun _ h => h.1) fun v h => by
    obtain ⟨-, h0, h1, h⟩ := h
    rw [to_decRow68 h0, decRow68_3 h1]
    simp only [decRecord, withDst, withDstC, withSome, withImm, zeroField, srcA, srcB, srcTop, flag, fldGuard, gScope, gA0, gB0, gC0, gS0, gR0, h, Dst.ofCode_code, Src.ofCode_code, Guard.ofCode_code, bit_beq_one, fin_ofNat_val, bv_ofNat_toNat, NumTy.ofCode_code, RM.ofCode_code, Policy.ofCode_code, Scope.ofCode_code, HalfTy.ofCode_code, BfpW.ofCode_code, MemOrd.ofCode_code, Aop.ofCode_code, SSize.ofCode_code, RelayMode.ofCode_code, CensusMode.ofCode_code, RedMode.ofCode_code, PeersMode.ofCode_code, LeaderMode.ofCode_code, FenceKind.ofCode_code, Comb.ofCode_code, AdjMode.ofCode_code, Stage.ofCode_code, AccFmt.ofCode_code, StMode.ofCode_code, if_true, if_false, Fin.is_lt, Nat.zero_add, Nat.add_zero, Nat.reduceMod, Nat.reduceDiv, Nat.reduceMul, Nat.reduceAdd, Nat.reduceLT, Nat.reduceLeDiff, Nat.reduceEqDiff, reduceIte, reduceCtorEq, Nat.mul_zero, and_self, and_true, true_and]
theorem recadj x b m : Statement (.recadj x b m) :=
  via (IsG 107 x.val b.code m.code 2 0) rfl (isG (by decide) (by have := x.isLt; omega) (by have := b.code_lt; omega) (by have := m.code_lt; omega) (by decide) (by decide)) (fun _ h => h.1) fun v h => by
    obtain ⟨-, h0, h1, h⟩ := h
    rw [to_decRow68 h0, decRow68_3 h1]
    simp only [decRecord, withDst, withDstC, withSome, withImm, zeroField, srcA, srcB, srcTop, flag, fldGuard, gScope, gA0, gB0, gC0, gS0, gR0, h, Dst.ofCode_code, Src.ofCode_code, Guard.ofCode_code, bit_beq_one, fin_ofNat_val, bv_ofNat_toNat, NumTy.ofCode_code, RM.ofCode_code, Policy.ofCode_code, Scope.ofCode_code, HalfTy.ofCode_code, BfpW.ofCode_code, MemOrd.ofCode_code, Aop.ofCode_code, SSize.ofCode_code, RelayMode.ofCode_code, CensusMode.ofCode_code, RedMode.ofCode_code, PeersMode.ofCode_code, LeaderMode.ofCode_code, FenceKind.ofCode_code, Comb.ofCode_code, AdjMode.ofCode_code, Stage.ofCode_code, AccFmt.ofCode_code, StMode.ofCode_code, if_true, if_false, Fin.is_lt, Nat.zero_add, Nat.add_zero, Nat.reduceMod, Nat.reduceDiv, Nat.reduceMul, Nat.reduceAdd, Nat.reduceLT, Nat.reduceLeDiff, Nat.reduceEqDiff, reduceIte, reduceCtorEq, Nat.mul_zero, and_self, and_true, true_and]
theorem gensetSeed g b : Statement (.gensetSeed g b) :=
  via (IsG 108 g.val b.code 0 0 0) rfl (isG (by decide) (by have := g.isLt; omega) (by have := b.code_lt; omega) (by decide) (by decide) (by decide)) (fun _ h => h.1) fun v h => by
    obtain ⟨-, h0, h1, h⟩ := h
    have e0 : g.val / 4 = 0 := by have := g.isLt; omega
    have e1 : g.val % 4 = g.val := by have := g.isLt; omega
    rw [to_decRow68 h0, decRow68_4 h1]
    simp only [decGen, withDst, withDstC, withSome, withImm, zeroField, srcA, srcB, srcTop, flag, fldGuard, gScope, gA0, gB0, gC0, gS0, gR0, h, e0, e1, Dst.ofCode_code, Src.ofCode_code, Guard.ofCode_code, bit_beq_one, fin_ofNat_val, bv_ofNat_toNat, NumTy.ofCode_code, RM.ofCode_code, Policy.ofCode_code, Scope.ofCode_code, HalfTy.ofCode_code, BfpW.ofCode_code, MemOrd.ofCode_code, Aop.ofCode_code, SSize.ofCode_code, RelayMode.ofCode_code, CensusMode.ofCode_code, RedMode.ofCode_code, PeersMode.ofCode_code, LeaderMode.ofCode_code, FenceKind.ofCode_code, Comb.ofCode_code, AdjMode.ofCode_code, Stage.ofCode_code, AccFmt.ofCode_code, StMode.ofCode_code, if_true, if_false, Fin.is_lt, Nat.zero_add, Nat.add_zero, Nat.reduceMod, Nat.reduceDiv, Nat.reduceMul, Nat.reduceAdd, Nat.reduceLT, Nat.reduceLeDiff, Nat.reduceEqDiff, reduceIte, reduceCtorEq, Nat.mul_zero, and_self, and_true, true_and]
theorem gensetCtl g b c : Statement (.gensetCtl g b c) :=
  via (IsG 108 (4 + g.val) b.code c.code 0 0) rfl (isG (by decide) (by have := g.isLt; omega) (by have := b.code_lt; omega) (by have := c.code_lt; omega) (by decide) (by decide)) (fun _ h => h.1) fun v h => by
    obtain ⟨-, h0, h1, h⟩ := h
    have e0 : (4 + g.val) / 4 = 1 := by have := g.isLt; omega
    have e1 : (4 + g.val) % 4 = g.val := by have := g.isLt; omega
    rw [to_decRow68 h0, decRow68_4 h1]
    simp only [decGen, withDst, withDstC, withSome, withImm, zeroField, srcA, srcB, srcTop, flag, fldGuard, gScope, gA0, gB0, gC0, gS0, gR0, h, e0, e1, Dst.ofCode_code, Src.ofCode_code, Guard.ofCode_code, bit_beq_one, fin_ofNat_val, bv_ofNat_toNat, NumTy.ofCode_code, RM.ofCode_code, Policy.ofCode_code, Scope.ofCode_code, HalfTy.ofCode_code, BfpW.ofCode_code, MemOrd.ofCode_code, Aop.ofCode_code, SSize.ofCode_code, RelayMode.ofCode_code, CensusMode.ofCode_code, RedMode.ofCode_code, PeersMode.ofCode_code, LeaderMode.ofCode_code, FenceKind.ofCode_code, Comb.ofCode_code, AdjMode.ofCode_code, Stage.ofCode_code, AccFmt.ofCode_code, StMode.ofCode_code, if_true, if_false, Fin.is_lt, Nat.zero_add, Nat.add_zero, Nat.reduceMod, Nat.reduceDiv, Nat.reduceMul, Nat.reduceAdd, Nat.reduceLT, Nat.reduceLeDiff, Nat.reduceEqDiff, reduceIte, reduceCtorEq, Nat.mul_zero, and_self, and_true, true_and]
theorem gensetFreq g b : Statement (.gensetFreq g b) :=
  via (IsG 108 (8 + g.val) b.code 0 0 0) rfl (isG (by decide) (by have := g.isLt; omega) (by have := b.code_lt; omega) (by decide) (by decide) (by decide)) (fun _ h => h.1) fun v h => by
    obtain ⟨-, h0, h1, h⟩ := h
    have e0 : (8 + g.val) / 4 = 2 := by have := g.isLt; omega
    have e1 : (8 + g.val) % 4 = g.val := by have := g.isLt; omega
    rw [to_decRow68 h0, decRow68_4 h1]
    simp only [decGen, withDst, withDstC, withSome, withImm, zeroField, srcA, srcB, srcTop, flag, fldGuard, gScope, gA0, gB0, gC0, gS0, gR0, h, e0, e1, Dst.ofCode_code, Src.ofCode_code, Guard.ofCode_code, bit_beq_one, fin_ofNat_val, bv_ofNat_toNat, NumTy.ofCode_code, RM.ofCode_code, Policy.ofCode_code, Scope.ofCode_code, HalfTy.ofCode_code, BfpW.ofCode_code, MemOrd.ofCode_code, Aop.ofCode_code, SSize.ofCode_code, RelayMode.ofCode_code, CensusMode.ofCode_code, RedMode.ofCode_code, PeersMode.ofCode_code, LeaderMode.ofCode_code, FenceKind.ofCode_code, Comb.ofCode_code, AdjMode.ofCode_code, Stage.ofCode_code, AccFmt.ofCode_code, StMode.ofCode_code, if_true, if_false, Fin.is_lt, Nat.zero_add, Nat.add_zero, Nat.reduceMod, Nat.reduceDiv, Nat.reduceMul, Nat.reduceAdd, Nat.reduceLT, Nat.reduceLeDiff, Nat.reduceEqDiff, reduceIte, reduceCtorEq, Nat.mul_zero, and_self, and_true, true_and]
theorem genadvStream g b : Statement (.genadvStream g b) :=
  via (IsG 108 g.val b.code 0 1 0) rfl (isG (by decide) (by have := g.isLt; omega) (by have := b.code_lt; omega) (by decide) (by decide) (by decide)) (fun _ h => h.1) fun v h => by
    obtain ⟨-, h0, h1, h⟩ := h
    have e0 : g.val / 4 = 0 := by have := g.isLt; omega
    have e1 : g.val % 4 = g.val := by have := g.isLt; omega
    rw [to_decRow68 h0, decRow68_4 h1]
    simp only [decGen, withDst, withDstC, withSome, withImm, zeroField, srcA, srcB, srcTop, flag, fldGuard, gScope, gA0, gB0, gC0, gS0, gR0, h, e0, e1, Dst.ofCode_code, Src.ofCode_code, Guard.ofCode_code, bit_beq_one, fin_ofNat_val, bv_ofNat_toNat, NumTy.ofCode_code, RM.ofCode_code, Policy.ofCode_code, Scope.ofCode_code, HalfTy.ofCode_code, BfpW.ofCode_code, MemOrd.ofCode_code, Aop.ofCode_code, SSize.ofCode_code, RelayMode.ofCode_code, CensusMode.ofCode_code, RedMode.ofCode_code, PeersMode.ofCode_code, LeaderMode.ofCode_code, FenceKind.ofCode_code, Comb.ofCode_code, AdjMode.ofCode_code, Stage.ofCode_code, AccFmt.ofCode_code, StMode.ofCode_code, if_true, if_false, Fin.is_lt, Nat.zero_add, Nat.add_zero, Nat.reduceMod, Nat.reduceDiv, Nat.reduceMul, Nat.reduceAdd, Nat.reduceLT, Nat.reduceLeDiff, Nat.reduceEqDiff, reduceIte, reduceCtorEq, Nat.mul_zero, and_self, and_true, true_and]
theorem genadvSeed g b : Statement (.genadvSeed g b) :=
  via (IsG 108 (4 + g.val) b.code 0 1 0) rfl (isG (by decide) (by have := g.isLt; omega) (by have := b.code_lt; omega) (by decide) (by decide) (by decide)) (fun _ h => h.1) fun v h => by
    obtain ⟨-, h0, h1, h⟩ := h
    have e0 : (4 + g.val) / 4 = 1 := by have := g.isLt; omega
    have e1 : (4 + g.val) % 4 = g.val := by have := g.isLt; omega
    rw [to_decRow68 h0, decRow68_4 h1]
    simp only [decGen, withDst, withDstC, withSome, withImm, zeroField, srcA, srcB, srcTop, flag, fldGuard, gScope, gA0, gB0, gC0, gS0, gR0, h, e0, e1, Dst.ofCode_code, Src.ofCode_code, Guard.ofCode_code, bit_beq_one, fin_ofNat_val, bv_ofNat_toNat, NumTy.ofCode_code, RM.ofCode_code, Policy.ofCode_code, Scope.ofCode_code, HalfTy.ofCode_code, BfpW.ofCode_code, MemOrd.ofCode_code, Aop.ofCode_code, SSize.ofCode_code, RelayMode.ofCode_code, CensusMode.ofCode_code, RedMode.ofCode_code, PeersMode.ofCode_code, LeaderMode.ofCode_code, FenceKind.ofCode_code, Comb.ofCode_code, AdjMode.ofCode_code, Stage.ofCode_code, AccFmt.ofCode_code, StMode.ofCode_code, if_true, if_false, Fin.is_lt, Nat.zero_add, Nat.add_zero, Nat.reduceMod, Nat.reduceDiv, Nat.reduceMul, Nat.reduceAdd, Nat.reduceLT, Nat.reduceLeDiff, Nat.reduceEqDiff, reduceIte, reduceCtorEq, Nat.mul_zero, and_self, and_true, true_and]
theorem genrd d x c : Statement (.genrd d x c) :=
  via (IsG 108 d.code x.val c.code 2 0) rfl (isG (by decide) (by have := d.code_lt; omega) (by have := x.isLt; omega) (by have := c.code_lt; omega) (by decide) (by decide)) (fun _ h => h.1) fun v h => by
    obtain ⟨-, h0, h1, h⟩ := h
    rw [to_decRow68 h0, decRow68_4 h1]
    simp only [decGen, withDst, withDstC, withSome, withImm, zeroField, srcA, srcB, srcTop, flag, fldGuard, gScope, gA0, gB0, gC0, gS0, gR0, h, Dst.ofCode_code, Src.ofCode_code, Guard.ofCode_code, bit_beq_one, fin_ofNat_val, bv_ofNat_toNat, NumTy.ofCode_code, RM.ofCode_code, Policy.ofCode_code, Scope.ofCode_code, HalfTy.ofCode_code, BfpW.ofCode_code, MemOrd.ofCode_code, Aop.ofCode_code, SSize.ofCode_code, RelayMode.ofCode_code, CensusMode.ofCode_code, RedMode.ofCode_code, PeersMode.ofCode_code, LeaderMode.ofCode_code, FenceKind.ofCode_code, Comb.ofCode_code, AdjMode.ofCode_code, Stage.ofCode_code, AccFmt.ofCode_code, StMode.ofCode_code, if_true, if_false, Fin.is_lt, Nat.zero_add, Nat.add_zero, Nat.reduceMod, Nat.reduceDiv, Nat.reduceMul, Nat.reduceAdd, Nat.reduceLT, Nat.reduceLeDiff, Nat.reduceEqDiff, reduceIte, reduceCtorEq, Nat.mul_zero, and_self, and_true, true_and]
theorem accrd d acc c : Statement (.accrd d acc c) :=
  via (IsG 109 d.code acc.val c.code 0 0) rfl (isG (by decide) (by have := d.code_lt; omega) (by have := acc.isLt; omega) (by have := c.code_lt; omega) (by decide) (by decide)) (fun _ h => h.1) fun v h => by
    obtain ⟨-, h0, h1, h⟩ := h
    rw [to_decRow68 h0, decRow68_5 h1]
    simp only [decAcc, withDst, withDstC, withSome, withImm, zeroField, srcA, srcB, srcTop, flag, fldGuard, gScope, gA0, gB0, gC0, gS0, gR0, h, Dst.ofCode_code, Src.ofCode_code, Guard.ofCode_code, bit_beq_one, fin_ofNat_val, bv_ofNat_toNat, NumTy.ofCode_code, RM.ofCode_code, Policy.ofCode_code, Scope.ofCode_code, HalfTy.ofCode_code, BfpW.ofCode_code, MemOrd.ofCode_code, Aop.ofCode_code, SSize.ofCode_code, RelayMode.ofCode_code, CensusMode.ofCode_code, RedMode.ofCode_code, PeersMode.ofCode_code, LeaderMode.ofCode_code, FenceKind.ofCode_code, Comb.ofCode_code, AdjMode.ofCode_code, Stage.ofCode_code, AccFmt.ofCode_code, StMode.ofCode_code, if_true, if_false, Fin.is_lt, Nat.zero_add, Nat.add_zero, Nat.reduceMod, Nat.reduceDiv, Nat.reduceMul, Nat.reduceAdd, Nat.reduceLT, Nat.reduceLeDiff, Nat.reduceEqDiff, reduceIte, reduceCtorEq, Nat.mul_zero, and_self, and_true, true_and]
theorem accwr acc b c : Statement (.accwr acc b c) :=
  via (IsG 109 acc.val b.code c.code 1 0) rfl (isG (by decide) (by have := acc.isLt; omega) (by have := b.code_lt; omega) (by have := c.code_lt; omega) (by decide) (by decide)) (fun _ h => h.1) fun v h => by
    obtain ⟨-, h0, h1, h⟩ := h
    have e0 : acc.val < 16 := by have := acc.isLt; omega
    rw [to_decRow68 h0, decRow68_5 h1]
    simp only [decAcc, withDst, withDstC, withSome, withImm, zeroField, srcA, srcB, srcTop, flag, fldGuard, gScope, gA0, gB0, gC0, gS0, gR0, h, e0, Dst.ofCode_code, Src.ofCode_code, Guard.ofCode_code, bit_beq_one, fin_ofNat_val, bv_ofNat_toNat, NumTy.ofCode_code, RM.ofCode_code, Policy.ofCode_code, Scope.ofCode_code, HalfTy.ofCode_code, BfpW.ofCode_code, MemOrd.ofCode_code, Aop.ofCode_code, SSize.ofCode_code, RelayMode.ofCode_code, CensusMode.ofCode_code, RedMode.ofCode_code, PeersMode.ofCode_code, LeaderMode.ofCode_code, FenceKind.ofCode_code, Comb.ofCode_code, AdjMode.ofCode_code, Stage.ofCode_code, AccFmt.ofCode_code, StMode.ofCode_code, if_true, if_false, Fin.is_lt, Nat.zero_add, Nat.add_zero, Nat.reduceMod, Nat.reduceDiv, Nat.reduceMul, Nat.reduceAdd, Nat.reduceLT, Nat.reduceLeDiff, Nat.reduceEqDiff, reduceIte, reduceCtorEq, Nat.mul_zero, and_self, and_true, true_and]
theorem accclr acc : Statement (.accclr acc) :=
  via (IsG 109 acc.val 0 0 2 0) rfl (isG (by decide) (by have := acc.isLt; omega) (by decide) (by decide) (by decide) (by decide)) (fun _ h => h.1) fun v h => by
    obtain ⟨-, h0, h1, h⟩ := h
    have e0 : acc.val < 16 := by have := acc.isLt; omega
    rw [to_decRow68 h0, decRow68_5 h1]
    simp only [decAcc, withDst, withDstC, withSome, withImm, zeroField, srcA, srcB, srcTop, flag, fldGuard, gScope, gA0, gB0, gC0, gS0, gR0, h, e0, Dst.ofCode_code, Src.ofCode_code, Guard.ofCode_code, bit_beq_one, fin_ofNat_val, bv_ofNat_toNat, NumTy.ofCode_code, RM.ofCode_code, Policy.ofCode_code, Scope.ofCode_code, HalfTy.ofCode_code, BfpW.ofCode_code, MemOrd.ofCode_code, Aop.ofCode_code, SSize.ofCode_code, RelayMode.ofCode_code, CensusMode.ofCode_code, RedMode.ofCode_code, PeersMode.ofCode_code, LeaderMode.ofCode_code, FenceKind.ofCode_code, Comb.ofCode_code, AdjMode.ofCode_code, Stage.ofCode_code, AccFmt.ofCode_code, StMode.ofCode_code, if_true, if_false, Fin.is_lt, Nat.zero_add, Nat.add_zero, Nat.reduceMod, Nat.reduceDiv, Nat.reduceMul, Nat.reduceAdd, Nat.reduceLT, Nat.reduceLeDiff, Nat.reduceEqDiff, reduceIte, reduceCtorEq, Nat.mul_zero, and_self, and_true, true_and]
theorem acccvt acc m : Statement (.acccvt acc m) :=
  via (IsG 109 acc.val m.code 0 3 0) rfl (isG (by decide) (by have := acc.isLt; omega) (by have := m.code_lt; omega) (by decide) (by decide) (by decide)) (fun _ h => h.1) fun v h => by
    obtain ⟨-, h0, h1, h⟩ := h
    have e0 : acc.val < 16 := by have := acc.isLt; omega
    rw [to_decRow68 h0, decRow68_5 h1]
    simp only [decAcc, withDst, withDstC, withSome, withImm, zeroField, srcA, srcB, srcTop, flag, fldGuard, gScope, gA0, gB0, gC0, gS0, gR0, h, e0, Dst.ofCode_code, Src.ofCode_code, Guard.ofCode_code, bit_beq_one, fin_ofNat_val, bv_ofNat_toNat, NumTy.ofCode_code, RM.ofCode_code, Policy.ofCode_code, Scope.ofCode_code, HalfTy.ofCode_code, BfpW.ofCode_code, MemOrd.ofCode_code, Aop.ofCode_code, SSize.ofCode_code, RelayMode.ofCode_code, CensusMode.ofCode_code, RedMode.ofCode_code, PeersMode.ofCode_code, LeaderMode.ofCode_code, FenceKind.ofCode_code, Comb.ofCode_code, AdjMode.ofCode_code, Stage.ofCode_code, AccFmt.ofCode_code, StMode.ofCode_code, if_true, if_false, Fin.is_lt, Nat.zero_add, Nat.add_zero, Nat.reduceMod, Nat.reduceDiv, Nat.reduceMul, Nat.reduceAdd, Nat.reduceLT, Nat.reduceLeDiff, Nat.reduceEqDiff, reduceIte, reduceCtorEq, Nat.mul_zero, and_self, and_true, true_and]
theorem accst o : Statement (.accst o) :=
  via (IsG 110 o.a.code o.b.code (32 * bit o.shadow + 4 * o.slot.val + o.acc.val) o.mode.code o.sc.code) rfl (isG (by decide) (by have := o.a.code_lt; omega) (by have := o.b.code_lt; omega) (by have := bit_lt o.shadow; have := o.slot.isLt; have := o.acc.isLt; omega) (by have := o.mode.code_lt; omega) (by have := o.sc.code_lt; omega)) (fun _ h => h.1) fun v h => by
    obtain ⟨-, h0, h1, h⟩ := h
    have e0 : (32 * bit o.shadow + 4 * o.slot.val + o.acc.val) % 4 = o.acc.val := by have := bit_lt o.shadow; have := o.slot.isLt; have := o.acc.isLt; omega
    have e1 : (32 * bit o.shadow + 4 * o.slot.val + o.acc.val) / 4 % 8 = o.slot.val := by have := bit_lt o.shadow; have := o.slot.isLt; have := o.acc.isLt; omega
    have e2 : (32 * bit o.shadow + 4 * o.slot.val + o.acc.val) / 32 = bit o.shadow := by have := bit_lt o.shadow; have := o.slot.isLt; have := o.acc.isLt; omega
    rw [to_decRow68 h0, decRow68_6 h1]
    simp only [decAccst, withDst, withDstC, withSome, withImm, zeroField, srcA, srcB, srcTop, flag, fldGuard, gScope, gA0, gB0, gC0, gS0, gR0, h, e0, e1, e2, Dst.ofCode_code, Src.ofCode_code, Guard.ofCode_code, bit_beq_one, fin_ofNat_val, bv_ofNat_toNat, NumTy.ofCode_code, RM.ofCode_code, Policy.ofCode_code, Scope.ofCode_code, HalfTy.ofCode_code, BfpW.ofCode_code, MemOrd.ofCode_code, Aop.ofCode_code, SSize.ofCode_code, RelayMode.ofCode_code, CensusMode.ofCode_code, RedMode.ofCode_code, PeersMode.ofCode_code, LeaderMode.ofCode_code, FenceKind.ofCode_code, Comb.ofCode_code, AdjMode.ofCode_code, Stage.ofCode_code, AccFmt.ofCode_code, StMode.ofCode_code, if_true, if_false, Fin.is_lt, Nat.zero_add, Nat.add_zero, Nat.reduceMod, Nat.reduceDiv, Nat.reduceMul, Nat.reduceAdd, Nat.reduceLT, Nat.reduceLeDiff, Nat.reduceEqDiff, reduceIte, reduceCtorEq, Nat.mul_zero, and_self, and_true, true_and]
theorem stamp a b st : Statement (.stamp a b st) :=
  via (IsG 111 a.code b.code 0 st.code 0) rfl (isG (by decide) (by have := a.code_lt; omega) (by have := b.code_lt; omega) (by decide) (by have := st.code_lt; omega) (by decide)) (fun _ h => h.1) fun v h => by
    obtain ⟨-, h0, h1, h⟩ := h
    rw [to_decRow68 h0, decRow68_7 h1]
    simp only [decStamp, withDst, withDstC, withSome, withImm, zeroField, srcA, srcB, srcTop, flag, fldGuard, gScope, gA0, gB0, gC0, gS0, gR0, h, Dst.ofCode_code, Src.ofCode_code, Guard.ofCode_code, bit_beq_one, fin_ofNat_val, bv_ofNat_toNat, NumTy.ofCode_code, RM.ofCode_code, Policy.ofCode_code, Scope.ofCode_code, HalfTy.ofCode_code, BfpW.ofCode_code, MemOrd.ofCode_code, Aop.ofCode_code, SSize.ofCode_code, RelayMode.ofCode_code, CensusMode.ofCode_code, RedMode.ofCode_code, PeersMode.ofCode_code, LeaderMode.ofCode_code, FenceKind.ofCode_code, Comb.ofCode_code, AdjMode.ofCode_code, Stage.ofCode_code, AccFmt.ofCode_code, StMode.ofCode_code, if_true, if_false, Fin.is_lt, Nat.zero_add, Nat.add_zero, Nat.reduceMod, Nat.reduceDiv, Nat.reduceMul, Nat.reduceAdd, Nat.reduceLT, Nat.reduceLeDiff, Nat.reduceEqDiff, reduceIte, reduceCtorEq, Nat.mul_zero, and_self, and_true, true_and]
theorem bra o : Statement (.bra o) :=
  via (IsB 112 o.g.code o.off.toNat) rfl (isB (by decide) (by have := o.g.code_lt; omega) (by have := o.off.isLt; omega)) (fun _ h => h.1) fun v h => (to_decRow70 h.2.1).trans ((decRow70_0 h.2.2.1).trans (decB_of _ o h))
theorem call o : Statement (.call o) :=
  via (IsB 113 o.g.code o.off.toNat) rfl (isB (by decide) (by have := o.g.code_lt; omega) (by have := o.off.isLt; omega)) (fun _ h => h.1) fun v h => (to_decRow70 h.2.1).trans ((decRow70_1 h.2.2.1).trans (decB_of _ o h))
theorem meet o : Statement (.meet o) :=
  via (IsB 114 o.g.code o.off.toNat) rfl (isB (by decide) (by have := o.g.code_lt; omega) (by have := o.off.isLt; omega)) (fun _ h => h.1) fun v h => (to_decRow70 h.2.1).trans ((decRow70_2 h.2.2.1).trans (decB_of _ o h))
theorem rep o : Statement (.rep o) :=
  via (IsRep 115 o.n.toNat o.s.toNat) rfl (isRep (by decide) (by have := o.n.isLt; omega) (by have := o.s.isLt; omega)) (fun _ h => h.1) fun v h => by
    obtain ⟨-, h0, h1, h⟩ := h
    rw [to_decRow70 h0, decRow70_3 h1]
    simp only [withDst, withDstC, withSome, withImm, zeroField, srcA, srcB, srcTop, flag, fldGuard, gScope, gA0, gB0, gC0, gS0, gR0, h, Dst.ofCode_code, Src.ofCode_code, Guard.ofCode_code, bit_beq_one, fin_ofNat_val, bv_ofNat_toNat, NumTy.ofCode_code, RM.ofCode_code, Policy.ofCode_code, Scope.ofCode_code, HalfTy.ofCode_code, BfpW.ofCode_code, MemOrd.ofCode_code, Aop.ofCode_code, SSize.ofCode_code, RelayMode.ofCode_code, CensusMode.ofCode_code, RedMode.ofCode_code, PeersMode.ofCode_code, LeaderMode.ofCode_code, FenceKind.ofCode_code, Comb.ofCode_code, AdjMode.ofCode_code, Stage.ofCode_code, AccFmt.ofCode_code, StMode.ofCode_code, if_true, if_false, Fin.is_lt, Nat.zero_add, Nat.add_zero, Nat.reduceMod, Nat.reduceDiv, Nat.reduceMul, Nat.reduceAdd, Nat.reduceLT, Nat.reduceLeDiff, Nat.reduceEqDiff, reduceIte, reduceCtorEq, Nat.mul_zero, and_self, and_true, true_and]
theorem frame f : Statement (.frame f) :=
  via (IsFr 116 f.toNat) rfl (isFr (by decide) (by have := f.isLt; omega)) (fun _ h => h.1) fun v h => by
    obtain ⟨-, h0, h1, h⟩ := h
    rw [to_decRow70 h0, decRow70_4 h1]
    simp only [withDst, withDstC, withSome, withImm, zeroField, srcA, srcB, srcTop, flag, fldGuard, gScope, gA0, gB0, gC0, gS0, gR0, h, Dst.ofCode_code, Src.ofCode_code, Guard.ofCode_code, bit_beq_one, fin_ofNat_val, bv_ofNat_toNat, NumTy.ofCode_code, RM.ofCode_code, Policy.ofCode_code, Scope.ofCode_code, HalfTy.ofCode_code, BfpW.ofCode_code, MemOrd.ofCode_code, Aop.ofCode_code, SSize.ofCode_code, RelayMode.ofCode_code, CensusMode.ofCode_code, RedMode.ofCode_code, PeersMode.ofCode_code, LeaderMode.ofCode_code, FenceKind.ofCode_code, Comb.ofCode_code, AdjMode.ofCode_code, Stage.ofCode_code, AccFmt.ofCode_code, StMode.ofCode_code, if_true, if_false, Fin.is_lt, Nat.zero_add, Nat.add_zero, Nat.reduceMod, Nat.reduceDiv, Nat.reduceMul, Nat.reduceAdd, Nat.reduceLT, Nat.reduceLeDiff, Nat.reduceEqDiff, reduceIte, reduceCtorEq, Nat.mul_zero, and_self, and_true, true_and]
theorem crew o : Statement (.crew o) :=
  via (IsCrew 117 o.lo.code o.count.code o.c.val o.h.val (bit o.reach) o.comb.code) rfl (isCrew (by decide) (by have := o.lo.code_lt; omega) (by have := o.count.code_lt; omega) (by have := o.c.isLt; omega) (by have := o.h.isLt; omega) (by have := bit_lt o.reach; omega) (by have := o.comb.code_lt; omega)) (fun _ h => h.1) fun v h => by
    obtain ⟨-, h0, h1, h⟩ := h
    rw [to_decRow70 h0, decRow70_5 h1]
    simp only [decCrew, withDst, withDstC, withSome, withImm, zeroField, srcA, srcB, srcTop, flag, fldGuard, gScope, gA0, gB0, gC0, gS0, gR0, h, Dst.ofCode_code, Src.ofCode_code, Guard.ofCode_code, bit_beq_one, fin_ofNat_val, bv_ofNat_toNat, NumTy.ofCode_code, RM.ofCode_code, Policy.ofCode_code, Scope.ofCode_code, HalfTy.ofCode_code, BfpW.ofCode_code, MemOrd.ofCode_code, Aop.ofCode_code, SSize.ofCode_code, RelayMode.ofCode_code, CensusMode.ofCode_code, RedMode.ofCode_code, PeersMode.ofCode_code, LeaderMode.ofCode_code, FenceKind.ofCode_code, Comb.ofCode_code, AdjMode.ofCode_code, Stage.ofCode_code, AccFmt.ofCode_code, StMode.ofCode_code, if_true, if_false, Fin.is_lt, Nat.zero_add, Nat.add_zero, Nat.reduceMod, Nat.reduceDiv, Nat.reduceMul, Nat.reduceAdd, Nat.reduceLT, Nat.reduceLeDiff, Nat.reduceEqDiff, reduceIte, reduceCtorEq, Nat.mul_zero, and_self, and_true, true_and]
theorem rdsys d n : Statement (.rdsys d n) :=
  via (IsSys 118 d.code n.toNat) rfl (isSys (by decide) (by have := d.code_lt; omega) (by have := n.isLt; omega)) (fun _ h => h.1) fun v h => by
    obtain ⟨-, h0, h1, h⟩ := h
    rw [to_decRow70 h0, decRow70_6 h1]
    simp only [withDst, withDstC, withSome, withImm, zeroField, srcA, srcB, srcTop, flag, fldGuard, gScope, gA0, gB0, gC0, gS0, gR0, h, Dst.ofCode_code, Src.ofCode_code, Guard.ofCode_code, bit_beq_one, fin_ofNat_val, bv_ofNat_toNat, NumTy.ofCode_code, RM.ofCode_code, Policy.ofCode_code, Scope.ofCode_code, HalfTy.ofCode_code, BfpW.ofCode_code, MemOrd.ofCode_code, Aop.ofCode_code, SSize.ofCode_code, RelayMode.ofCode_code, CensusMode.ofCode_code, RedMode.ofCode_code, PeersMode.ofCode_code, LeaderMode.ofCode_code, FenceKind.ofCode_code, Comb.ofCode_code, AdjMode.ofCode_code, Stage.ofCode_code, AccFmt.ofCode_code, StMode.ofCode_code, if_true, if_false, Fin.is_lt, Nat.zero_add, Nat.add_zero, Nat.reduceMod, Nat.reduceDiv, Nat.reduceMul, Nat.reduceAdd, Nat.reduceLT, Nat.reduceLeDiff, Nat.reduceEqDiff, reduceIte, reduceCtorEq, Nat.mul_zero, and_self, and_true, true_and]
theorem wrsys a n : Statement (.wrsys a n) :=
  via (IsSys 119 a.code n.toNat) rfl (isSys (by decide) (by have := a.code_lt; omega) (by have := n.isLt; omega)) (fun _ h => h.1) fun v h => by
    obtain ⟨-, h0, h1, h⟩ := h
    rw [to_decRow70 h0, decRow70_7 h1]
    simp only [withDst, withDstC, withSome, withImm, zeroField, srcA, srcB, srcTop, flag, fldGuard, gScope, gA0, gB0, gC0, gS0, gR0, h, Dst.ofCode_code, Src.ofCode_code, Guard.ofCode_code, bit_beq_one, fin_ofNat_val, bv_ofNat_toNat, NumTy.ofCode_code, RM.ofCode_code, Policy.ofCode_code, Scope.ofCode_code, HalfTy.ofCode_code, BfpW.ofCode_code, MemOrd.ofCode_code, Aop.ofCode_code, SSize.ofCode_code, RelayMode.ofCode_code, CensusMode.ofCode_code, RedMode.ofCode_code, PeersMode.ofCode_code, LeaderMode.ofCode_code, FenceKind.ofCode_code, Comb.ofCode_code, AdjMode.ofCode_code, Stage.ofCode_code, AccFmt.ofCode_code, StMode.ofCode_code, if_true, if_false, Fin.is_lt, Nat.zero_add, Nat.add_zero, Nat.reduceMod, Nat.reduceDiv, Nat.reduceMul, Nat.reduceAdd, Nat.reduceLT, Nat.reduceLeDiff, Nat.reduceEqDiff, reduceIte, reduceCtorEq, Nat.mul_zero, and_self, and_true, true_and]
theorem brx a : Statement (.brx a) :=
  via (IsG 120 a.code 0 0 0 0) rfl (isG (by decide) (by have := a.code_lt; omega) (by decide) (by decide) (by decide) (by decide)) (fun _ h => h.1) fun v h => by
    obtain ⟨-, h0, h1, h⟩ := h
    rw [to_decRow78 h0, decRow78_0 h1]
    simp only [decFlow, withDst, withDstC, withSome, withImm, zeroField, srcA, srcB, srcTop, flag, fldGuard, gScope, gA0, gB0, gC0, gS0, gR0, h, Dst.ofCode_code, Src.ofCode_code, Guard.ofCode_code, bit_beq_one, fin_ofNat_val, bv_ofNat_toNat, NumTy.ofCode_code, RM.ofCode_code, Policy.ofCode_code, Scope.ofCode_code, HalfTy.ofCode_code, BfpW.ofCode_code, MemOrd.ofCode_code, Aop.ofCode_code, SSize.ofCode_code, RelayMode.ofCode_code, CensusMode.ofCode_code, RedMode.ofCode_code, PeersMode.ofCode_code, LeaderMode.ofCode_code, FenceKind.ofCode_code, Comb.ofCode_code, AdjMode.ofCode_code, Stage.ofCode_code, AccFmt.ofCode_code, StMode.ofCode_code, if_true, if_false, Fin.is_lt, Nat.zero_add, Nat.add_zero, Nat.reduceMod, Nat.reduceDiv, Nat.reduceMul, Nat.reduceAdd, Nat.reduceLT, Nat.reduceLeDiff, Nat.reduceEqDiff, reduceIte, reduceCtorEq, Nat.mul_zero, and_self, and_true, true_and]
theorem callx a : Statement (.callx a) :=
  via (IsG 120 a.code 0 0 1 0) rfl (isG (by decide) (by have := a.code_lt; omega) (by decide) (by decide) (by decide) (by decide)) (fun _ h => h.1) fun v h => by
    obtain ⟨-, h0, h1, h⟩ := h
    rw [to_decRow78 h0, decRow78_0 h1]
    simp only [decFlow, withDst, withDstC, withSome, withImm, zeroField, srcA, srcB, srcTop, flag, fldGuard, gScope, gA0, gB0, gC0, gS0, gR0, h, Dst.ofCode_code, Src.ofCode_code, Guard.ofCode_code, bit_beq_one, fin_ofNat_val, bv_ofNat_toNat, NumTy.ofCode_code, RM.ofCode_code, Policy.ofCode_code, Scope.ofCode_code, HalfTy.ofCode_code, BfpW.ofCode_code, MemOrd.ofCode_code, Aop.ofCode_code, SSize.ofCode_code, RelayMode.ofCode_code, CensusMode.ofCode_code, RedMode.ofCode_code, PeersMode.ofCode_code, LeaderMode.ofCode_code, FenceKind.ofCode_code, Comb.ofCode_code, AdjMode.ofCode_code, Stage.ofCode_code, AccFmt.ofCode_code, StMode.ofCode_code, if_true, if_false, Fin.is_lt, Nat.zero_add, Nat.add_zero, Nat.reduceMod, Nat.reduceDiv, Nat.reduceMul, Nat.reduceAdd, Nat.reduceLT, Nat.reduceLeDiff, Nat.reduceEqDiff, reduceIte, reduceCtorEq, Nat.mul_zero, and_self, and_true, true_and]
theorem time d : Statement (.time d) :=
  via (IsG 121 d.code 0 0 1 0) rfl (isG (by decide) (by have := d.code_lt; omega) (by decide) (by decide) (by decide) (by decide)) (fun _ h => h.1) fun v h => by
    obtain ⟨-, h0, h1, h⟩ := h
    rw [to_decRow78 h0, decRow78_1 h1]
    simp only [decSystem, withDst, withDstC, withSome, withImm, zeroField, srcA, srcB, srcTop, flag, fldGuard, gScope, gA0, gB0, gC0, gS0, gR0, h, Dst.ofCode_code, Src.ofCode_code, Guard.ofCode_code, bit_beq_one, fin_ofNat_val, bv_ofNat_toNat, NumTy.ofCode_code, RM.ofCode_code, Policy.ofCode_code, Scope.ofCode_code, HalfTy.ofCode_code, BfpW.ofCode_code, MemOrd.ofCode_code, Aop.ofCode_code, SSize.ofCode_code, RelayMode.ofCode_code, CensusMode.ofCode_code, RedMode.ofCode_code, PeersMode.ofCode_code, LeaderMode.ofCode_code, FenceKind.ofCode_code, Comb.ofCode_code, AdjMode.ofCode_code, Stage.ofCode_code, AccFmt.ofCode_code, StMode.ofCode_code, if_true, if_false, Fin.is_lt, Nat.zero_add, Nat.add_zero, Nat.reduceMod, Nat.reduceDiv, Nat.reduceMul, Nat.reduceAdd, Nat.reduceLT, Nat.reduceLeDiff, Nat.reduceEqDiff, reduceIte, reduceCtorEq, Nat.mul_zero, and_self, and_true, true_and]
theorem trap b : Statement (.trap b) :=
  via (IsG 121 0 b.toNat 0 2 0) rfl (isG (by decide) (by decide) (by have := b.isLt; omega) (by decide) (by decide) (by decide)) (fun _ h => h.1) fun v h => by
    obtain ⟨-, h0, h1, h⟩ := h
    rw [to_decRow78 h0, decRow78_1 h1]
    simp only [decSystem, withDst, withDstC, withSome, withImm, zeroField, srcA, srcB, srcTop, flag, fldGuard, gScope, gA0, gB0, gC0, gS0, gR0, h, Dst.ofCode_code, Src.ofCode_code, Guard.ofCode_code, bit_beq_one, fin_ofNat_val, bv_ofNat_toNat, NumTy.ofCode_code, RM.ofCode_code, Policy.ofCode_code, Scope.ofCode_code, HalfTy.ofCode_code, BfpW.ofCode_code, MemOrd.ofCode_code, Aop.ofCode_code, SSize.ofCode_code, RelayMode.ofCode_code, CensusMode.ofCode_code, RedMode.ofCode_code, PeersMode.ofCode_code, LeaderMode.ofCode_code, FenceKind.ofCode_code, Comb.ofCode_code, AdjMode.ofCode_code, Stage.ofCode_code, AccFmt.ofCode_code, StMode.ofCode_code, if_true, if_false, Fin.is_lt, Nat.zero_add, Nat.add_zero, Nat.reduceMod, Nat.reduceDiv, Nat.reduceMul, Nat.reduceAdd, Nat.reduceLT, Nat.reduceLeDiff, Nat.reduceEqDiff, reduceIte, reduceCtorEq, Nat.mul_zero, and_self, and_true, true_and]
theorem brk b : Statement (.brk b) :=
  via (IsG 121 0 b.toNat 0 3 0) rfl (isG (by decide) (by decide) (by have := b.isLt; omega) (by decide) (by decide) (by decide)) (fun _ h => h.1) fun v h => by
    obtain ⟨-, h0, h1, h⟩ := h
    rw [to_decRow78 h0, decRow78_1 h1]
    simp only [decSystem, withDst, withDstC, withSome, withImm, zeroField, srcA, srcB, srcTop, flag, fldGuard, gScope, gA0, gB0, gC0, gS0, gR0, h, Dst.ofCode_code, Src.ofCode_code, Guard.ofCode_code, bit_beq_one, fin_ofNat_val, bv_ofNat_toNat, NumTy.ofCode_code, RM.ofCode_code, Policy.ofCode_code, Scope.ofCode_code, HalfTy.ofCode_code, BfpW.ofCode_code, MemOrd.ofCode_code, Aop.ofCode_code, SSize.ofCode_code, RelayMode.ofCode_code, CensusMode.ofCode_code, RedMode.ofCode_code, PeersMode.ofCode_code, LeaderMode.ofCode_code, FenceKind.ofCode_code, Comb.ofCode_code, AdjMode.ofCode_code, Stage.ofCode_code, AccFmt.ofCode_code, StMode.ofCode_code, if_true, if_false, Fin.is_lt, Nat.zero_add, Nat.add_zero, Nat.reduceMod, Nat.reduceDiv, Nat.reduceMul, Nat.reduceAdd, Nat.reduceLT, Nat.reduceLeDiff, Nat.reduceEqDiff, reduceIte, reduceCtorEq, Nat.mul_zero, and_self, and_true, true_and]
theorem crewacc a : Statement (.crewacc a) :=
  via (IsG 121 a.code 0 0 4 0) rfl (isG (by decide) (by have := a.code_lt; omega) (by decide) (by decide) (by decide) (by decide)) (fun _ h => h.1) fun v h => by
    obtain ⟨-, h0, h1, h⟩ := h
    rw [to_decRow78 h0, decRow78_1 h1]
    simp only [decSystem, withDst, withDstC, withSome, withImm, zeroField, srcA, srcB, srcTop, flag, fldGuard, gScope, gA0, gB0, gC0, gS0, gR0, h, Dst.ofCode_code, Src.ofCode_code, Guard.ofCode_code, bit_beq_one, fin_ofNat_val, bv_ofNat_toNat, NumTy.ofCode_code, RM.ofCode_code, Policy.ofCode_code, Scope.ofCode_code, HalfTy.ofCode_code, BfpW.ofCode_code, MemOrd.ofCode_code, Aop.ofCode_code, SSize.ofCode_code, RelayMode.ofCode_code, CensusMode.ofCode_code, RedMode.ofCode_code, PeersMode.ofCode_code, LeaderMode.ofCode_code, FenceKind.ofCode_code, Comb.ofCode_code, AdjMode.ofCode_code, Stage.ofCode_code, AccFmt.ofCode_code, StMode.ofCode_code, if_true, if_false, Fin.is_lt, Nat.zero_add, Nat.add_zero, Nat.reduceMod, Nat.reduceDiv, Nat.reduceMul, Nat.reduceAdd, Nat.reduceLT, Nat.reduceLeDiff, Nat.reduceEqDiff, reduceIte, reduceCtorEq, Nat.mul_zero, and_self, and_true, true_and]
theorem post a : Statement (.post a) :=
  via (IsG 121 a.code 0 0 6 0) rfl (isG (by decide) (by have := a.code_lt; omega) (by decide) (by decide) (by decide) (by decide)) (fun _ h => h.1) fun v h => by
    obtain ⟨-, h0, h1, h⟩ := h
    rw [to_decRow78 h0, decRow78_1 h1]
    simp only [decSystem, withDst, withDstC, withSome, withImm, zeroField, srcA, srcB, srcTop, flag, fldGuard, gScope, gA0, gB0, gC0, gS0, gR0, h, Dst.ofCode_code, Src.ofCode_code, Guard.ofCode_code, bit_beq_one, fin_ofNat_val, bv_ofNat_toNat, NumTy.ofCode_code, RM.ofCode_code, Policy.ofCode_code, Scope.ofCode_code, HalfTy.ofCode_code, BfpW.ofCode_code, MemOrd.ofCode_code, Aop.ofCode_code, SSize.ofCode_code, RelayMode.ofCode_code, CensusMode.ofCode_code, RedMode.ofCode_code, PeersMode.ofCode_code, LeaderMode.ofCode_code, FenceKind.ofCode_code, Comb.ofCode_code, AdjMode.ofCode_code, Stage.ofCode_code, AccFmt.ofCode_code, StMode.ofCode_code, if_true, if_false, Fin.is_lt, Nat.zero_add, Nat.add_zero, Nat.reduceMod, Nat.reduceDiv, Nat.reduceMul, Nat.reduceAdd, Nat.reduceLT, Nat.reduceLeDiff, Nat.reduceEqDiff, reduceIte, reduceCtorEq, Nat.mul_zero, and_self, and_true, true_and]
theorem svctake d : Statement (.svctake d) :=
  via (IsG 121 (8 * d.val) 0 0 7 0) rfl (isG (by decide) (by have := d.isLt; omega) (by decide) (by decide) (by decide) (by decide)) (fun _ h => h.1) fun v h => by
    obtain ⟨-, h0, h1, h⟩ := h
    have e0 : 8 * d.val < 32 := by have := d.isLt; omega
    have e1 : 8 * d.val % 8 = 0 := by have := d.isLt; omega
    have e2 : 8 * d.val / 8 % 4 = d.val := by have := d.isLt; omega
    rw [to_decRow78 h0, decRow78_1 h1]
    simp only [decSystem, withDst, withDstC, withSome, withImm, zeroField, srcA, srcB, srcTop, flag, fldGuard, gScope, gA0, gB0, gC0, gS0, gR0, h, e0, e1, e2, Dst.ofCode_code, Src.ofCode_code, Guard.ofCode_code, bit_beq_one, fin_ofNat_val, bv_ofNat_toNat, NumTy.ofCode_code, RM.ofCode_code, Policy.ofCode_code, Scope.ofCode_code, HalfTy.ofCode_code, BfpW.ofCode_code, MemOrd.ofCode_code, Aop.ofCode_code, SSize.ofCode_code, RelayMode.ofCode_code, CensusMode.ofCode_code, RedMode.ofCode_code, PeersMode.ofCode_code, LeaderMode.ofCode_code, FenceKind.ofCode_code, Comb.ofCode_code, AdjMode.ofCode_code, Stage.ofCode_code, AccFmt.ofCode_code, StMode.ofCode_code, if_true, if_false, Fin.is_lt, Nat.zero_add, Nat.add_zero, Nat.reduceMod, Nat.reduceDiv, Nat.reduceMul, Nat.reduceAdd, Nat.reduceLT, Nat.reduceLeDiff, Nat.reduceEqDiff, reduceIte, reduceCtorEq, Nat.mul_zero, and_self, and_true, true_and]
theorem svcgive a b : Statement (.svcgive a b) :=
  via (IsG 121 a.code b.code 0 8 0) rfl (isG (by decide) (by have := a.code_lt; omega) (by have := b.code_lt; omega) (by decide) (by decide) (by decide)) (fun _ h => h.1) fun v h => by
    obtain ⟨-, h0, h1, h⟩ := h
    rw [to_decRow78 h0, decRow78_1 h1]
    simp only [decSystem, withDst, withDstC, withSome, withImm, zeroField, srcA, srcB, srcTop, flag, fldGuard, gScope, gA0, gB0, gC0, gS0, gR0, h, Dst.ofCode_code, Src.ofCode_code, Guard.ofCode_code, bit_beq_one, fin_ofNat_val, bv_ofNat_toNat, NumTy.ofCode_code, RM.ofCode_code, Policy.ofCode_code, Scope.ofCode_code, HalfTy.ofCode_code, BfpW.ofCode_code, MemOrd.ofCode_code, Aop.ofCode_code, SSize.ofCode_code, RelayMode.ofCode_code, CensusMode.ofCode_code, RedMode.ofCode_code, PeersMode.ofCode_code, LeaderMode.ofCode_code, FenceKind.ofCode_code, Comb.ofCode_code, AdjMode.ofCode_code, Stage.ofCode_code, AccFmt.ofCode_code, StMode.ofCode_code, if_true, if_false, Fin.is_lt, Nat.zero_add, Nat.add_zero, Nat.reduceMod, Nat.reduceDiv, Nat.reduceMul, Nat.reduceAdd, Nat.reduceLT, Nat.reduceLeDiff, Nat.reduceEqDiff, reduceIte, reduceCtorEq, Nat.mul_zero, and_self, and_true, true_and]
theorem tlbinv a b : Statement (.tlbinv a b) :=
  via (IsG 121 a.code b.code 0 9 0) rfl (isG (by decide) (by have := a.code_lt; omega) (by have := b.code_lt; omega) (by decide) (by decide) (by decide)) (fun _ h => h.1) fun v h => by
    obtain ⟨-, h0, h1, h⟩ := h
    rw [to_decRow78 h0, decRow78_1 h1]
    simp only [decSystem, withDst, withDstC, withSome, withImm, zeroField, srcA, srcB, srcTop, flag, fldGuard, gScope, gA0, gB0, gC0, gS0, gR0, h, Dst.ofCode_code, Src.ofCode_code, Guard.ofCode_code, bit_beq_one, fin_ofNat_val, bv_ofNat_toNat, NumTy.ofCode_code, RM.ofCode_code, Policy.ofCode_code, Scope.ofCode_code, HalfTy.ofCode_code, BfpW.ofCode_code, MemOrd.ofCode_code, Aop.ofCode_code, SSize.ofCode_code, RelayMode.ofCode_code, CensusMode.ofCode_code, RedMode.ofCode_code, PeersMode.ofCode_code, LeaderMode.ofCode_code, FenceKind.ofCode_code, Comb.ofCode_code, AdjMode.ofCode_code, Stage.ofCode_code, AccFmt.ofCode_code, StMode.ofCode_code, if_true, if_false, Fin.is_lt, Nat.zero_add, Nat.add_zero, Nat.reduceMod, Nat.reduceDiv, Nat.reduceMul, Nat.reduceAdd, Nat.reduceLT, Nat.reduceLeDiff, Nat.reduceEqDiff, reduceIte, reduceCtorEq, Nat.mul_zero, and_self, and_true, true_and]
theorem diagMark a : Statement (.diagMark a) :=
  via (IsG 121 a.code 0 0 10 0) rfl (isG (by decide) (by have := a.code_lt; omega) (by decide) (by decide) (by decide) (by decide)) (fun _ h => h.1) fun v h => by
    obtain ⟨-, h0, h1, h⟩ := h
    rw [to_decRow78 h0, decRow78_1 h1]
    simp only [decSystem, withDst, withDstC, withSome, withImm, zeroField, srcA, srcB, srcTop, flag, fldGuard, gScope, gA0, gB0, gC0, gS0, gR0, h, Dst.ofCode_code, Src.ofCode_code, Guard.ofCode_code, bit_beq_one, fin_ofNat_val, bv_ofNat_toNat, NumTy.ofCode_code, RM.ofCode_code, Policy.ofCode_code, Scope.ofCode_code, HalfTy.ofCode_code, BfpW.ofCode_code, MemOrd.ofCode_code, Aop.ofCode_code, SSize.ofCode_code, RelayMode.ofCode_code, CensusMode.ofCode_code, RedMode.ofCode_code, PeersMode.ofCode_code, LeaderMode.ofCode_code, FenceKind.ofCode_code, Comb.ofCode_code, AdjMode.ofCode_code, Stage.ofCode_code, AccFmt.ofCode_code, StMode.ofCode_code, if_true, if_false, Fin.is_lt, Nat.zero_add, Nat.add_zero, Nat.reduceMod, Nat.reduceDiv, Nat.reduceMul, Nat.reduceAdd, Nat.reduceLT, Nat.reduceLeDiff, Nat.reduceEqDiff, reduceIte, reduceCtorEq, Nat.mul_zero, and_self, and_true, true_and]
theorem diagMask d : Statement (.diagMask d) :=
  via (IsG 121 d.code 1 0 10 0) rfl (isG (by decide) (by have := d.code_lt; omega) (by decide) (by decide) (by decide) (by decide)) (fun _ h => h.1) fun v h => by
    obtain ⟨-, h0, h1, h⟩ := h
    rw [to_decRow78 h0, decRow78_1 h1]
    simp only [decSystem, withDst, withDstC, withSome, withImm, zeroField, srcA, srcB, srcTop, flag, fldGuard, gScope, gA0, gB0, gC0, gS0, gR0, h, Dst.ofCode_code, Src.ofCode_code, Guard.ofCode_code, bit_beq_one, fin_ofNat_val, bv_ofNat_toNat, NumTy.ofCode_code, RM.ofCode_code, Policy.ofCode_code, Scope.ofCode_code, HalfTy.ofCode_code, BfpW.ofCode_code, MemOrd.ofCode_code, Aop.ofCode_code, SSize.ofCode_code, RelayMode.ofCode_code, CensusMode.ofCode_code, RedMode.ofCode_code, PeersMode.ofCode_code, LeaderMode.ofCode_code, FenceKind.ofCode_code, Comb.ofCode_code, AdjMode.ofCode_code, Stage.ofCode_code, AccFmt.ofCode_code, StMode.ofCode_code, if_true, if_false, Fin.is_lt, Nat.zero_add, Nat.add_zero, Nat.reduceMod, Nat.reduceDiv, Nat.reduceMul, Nat.reduceAdd, Nat.reduceLT, Nat.reduceLeDiff, Nat.reduceEqDiff, reduceIte, reduceCtorEq, Nat.mul_zero, and_self, and_true, true_and]
theorem runStart port : Statement (.runStart port) := event rfl
theorem progressRun port : Statement (.progressRun port) := event rfl
theorem loadFill op : Statement (.loadFill op) := event rfl
theorem longLatencyResult op : Statement (.longLatencyResult op) := event rfl
theorem storePerformed op : Statement (.storePerformed op) := event rfl
theorem tlbWalkComplete walk : Statement (.tlbWalkComplete walk) := event rfl
theorem trapEntry port : Statement (.trapEntry port) := event rfl
theorem copyStart core : Statement (.copyStart core) := event rfl
theorem copyPieceArrival op : Statement (.copyPieceArrival op) := event rfl
theorem copyComplete op : Statement (.copyComplete op) := event rfl
theorem copyFail op : Statement (.copyFail op) := event rfl
theorem mmaFetchPoint op : Statement (.mmaFetchPoint op) := event rfl
theorem mmaStart op : Statement (.mmaStart op) := event rfl
theorem mmaComplete op : Statement (.mmaComplete op) := event rfl
theorem accstComplete op : Statement (.accstComplete op) := event rfl
theorem channelMessageArrival op : Statement (.channelMessageArrival op) := event rfl
theorem channelCreditReturn op : Statement (.channelCreditReturn op) := event rfl
theorem publishSwap op : Statement (.publishSwap op) := event rfl
theorem crewBudgetOverrun team grp thr helper : Statement (.crewBudgetOverrun team grp thr helper) := event rfl
theorem holdOverrun port : Statement (.holdOverrun port) := event rfl
theorem watchdogExpiry team : Statement (.watchdogExpiry team) := event rfl
theorem durationOverrun team : Statement (.durationOverrun team) := event rfl
theorem haltDrainDone team : Statement (.haltDrainDone team) := event rfl
theorem dumpComplete part : Statement (.dumpComplete part) := event rfl
theorem teamPlace launch spot : Statement (.teamPlace launch spot) := event rfl
theorem teamLoadComplete team : Statement (.teamLoadComplete team) := event rfl
theorem restorePlace team spot : Statement (.restorePlace team spot) := event rfl
theorem groupRetire team grp : Statement (.groupRetire team grp) := event rfl
theorem teamRetire team : Statement (.teamRetire team) := event rfl
theorem preemptionRequest team slack lent : Statement (.preemptionRequest team slack lent) := event rfl
theorem drainComplete team : Statement (.drainComplete team) := event rfl
theorem discardComplete team : Statement (.discardComplete team) := event rfl
theorem saveComplete team : Statement (.saveComplete team) := event rfl
theorem launchArrival queue : Statement (.launchArrival queue) := event rfl
theorem phasePrefetch part phase : Statement (.phasePrefetch part phase) := event rfl
theorem phaseFiring part phase : Statement (.phaseFiring part phase) := event rfl
theorem quiesceDone pair : Statement (.quiesceDone pair) := event rfl
theorem flushDone pair : Statement (.flushDone pair) := event rfl
theorem alignDone pair : Statement (.alignDone pair) := event rfl
theorem unpairDone pair : Statement (.unpairDone pair) := event rfl
theorem comparatorCompare pair : Statement (.comparatorCompare pair) := event rfl
theorem rollbackDone pair : Statement (.rollbackDone pair) := event rfl
theorem checkpoint pair : Statement (.checkpoint pair) := event rfl
theorem il2Checkpoint team : Statement (.il2Checkpoint team) := event rfl
theorem shootdownComplete op : Statement (.shootdownComplete op) := event rfl
theorem contextClearComplete entry : Statement (.contextClearComplete entry) := event rfl
theorem formatRangeDisableDone range : Statement (.formatRangeDisableDone range) := event rfl
theorem cancelDone part : Statement (.cancelDone part) := event rfl
theorem singleStepStop team : Statement (.singleStepStop team) := event rfl
theorem partitionResetDone part : Statement (.partitionResetDone part) := event rfl
theorem traceSample part : Statement (.traceSample part) := event rfl
theorem traceSyncRecord part : Statement (.traceSyncRecord part) := event rfl
theorem hostQueueLineInvalidate queue : Statement (.hostQueueLineInvalidate queue) := event rfl
theorem pairRequest pair value : Statement (.pairRequest pair value) := event rfl
theorem unpairRequest pair : Statement (.unpairRequest pair) := event rfl
theorem mergeOwnershipRelease cluster : Statement (.mergeOwnershipRelease cluster) := event rfl
theorem hostAccess acc : Statement (.hostAccess acc) := event rfl
theorem peerAccess acc : Statement (.peerAccess acc) := event rfl
theorem memoryError at_ correctable : Statement (.memoryError at_ correctable) := event rfl
theorem patrolScrub pa found : Statement (.patrolScrub pa found) := event rfl
theorem pageMigration src dst size pte : Statement (.pageMigration src dst size pte) := event rfl
theorem shootdownRequest r : Statement (.shootdownRequest r) := event rfl
theorem queueRegistrationWrite queue word value : Statement (.queueRegistrationWrite queue word value) := event rfl
theorem contextEntryWrite entry word value : Statement (.contextEntryWrite entry word value) := event rfl
theorem formatRangeWrite range word value : Statement (.formatRangeWrite range word value) := event rfl
theorem retentionRangeWrite part range word value : Statement (.retentionRangeWrite part range word value) := event rfl
theorem publicationEntryWrite part entry word value : Statement (.publicationEntryWrite part entry word value) := event rfl
theorem partitionTableWrite index value : Statement (.partitionTableWrite index value) := event rfl
theorem tokenBucketWrite part value : Statement (.tokenBucketWrite part value) := event rfl
theorem cancelLaunch part : Statement (.cancelLaunch part) := event rfl
theorem cancelGraph part : Statement (.cancelGraph part) := event rfl
theorem cancelPhase part : Statement (.cancelPhase part) := event rfl
theorem cancelJob part : Statement (.cancelJob part) := event rfl
theorem dbgHalt part : Statement (.dbgHalt part) := event rfl
theorem dbgResume part : Statement (.dbgResume part) := event rfl
theorem dbgStep part : Statement (.dbgStep part) := event rfl
theorem dumpRequest part : Statement (.dumpRequest part) := event rfl
theorem dumpCtlRead part : Statement (.dumpCtlRead part) := event rfl
theorem frLostRead part : Statement (.frLostRead part) := event rfl
theorem partitionReset part : Statement (.partitionReset part) := event rfl
theorem partModeWrite mode : Statement (.partModeWrite mode) := event rfl
theorem timeCtlWrite value : Statement (.timeCtlWrite value) := event rfl
theorem phcAdjWrite value : Statement (.phcAdjWrite value) := event rfl
theorem phcStep value : Statement (.phcStep value) := event rfl
theorem ptmResponse t2 t3 : Statement (.ptmResponse t2 t3) := event rfl
theorem powerLimitWrite value : Statement (.powerLimitWrite value) := event rfl
theorem clockStepDown khz : Statement (.clockStepDown khz) := event rfl
theorem thermalThrottle temp khz : Statement (.thermalThrottle temp khz) := event rfl
theorem thermtrip recorded : Statement (.thermtrip recorded) := event rfl
theorem portbLinkUp pages : Statement (.portbLinkUp pages) := event rfl
theorem lifeHistogramSample temp watts : Statement (.lifeHistogramSample temp watts) := event rfl
theorem errorCounterClear off : Statement (.errorCounterClear off) := event rfl
theorem satMemRead part : Statement (.satMemRead part) := event rfl
theorem registerWrite w : Statement (.registerWrite w) := event rfl
theorem hostSnoop pa write : Statement (.hostSnoop pa write) := event rfl
theorem ret : Statement (.ret) :=
  via (IsG 120 0 0 0 2 0) rfl (isG (by decide) (by decide) (by decide) (by decide) (by decide) (by decide)) (fun _ h => h.1) fun v h => by
    obtain ⟨-, h0, h1, h⟩ := h
    rw [to_decRow78 h0, decRow78_0 h1]
    simp only [decFlow, withDst, withDstC, withSome, withImm, zeroField, srcA, srcB, srcTop, flag, fldGuard, gScope, gA0, gB0, gC0, gS0, gR0, h, Dst.ofCode_code, Src.ofCode_code, Guard.ofCode_code, bit_beq_one, fin_ofNat_val, bv_ofNat_toNat, NumTy.ofCode_code, RM.ofCode_code, Policy.ofCode_code, Scope.ofCode_code, HalfTy.ofCode_code, BfpW.ofCode_code, MemOrd.ofCode_code, Aop.ofCode_code, SSize.ofCode_code, RelayMode.ofCode_code, CensusMode.ofCode_code, RedMode.ofCode_code, PeersMode.ofCode_code, LeaderMode.ofCode_code, FenceKind.ofCode_code, Comb.ofCode_code, AdjMode.ofCode_code, Stage.ofCode_code, AccFmt.ofCode_code, StMode.ofCode_code, if_true, if_false, Fin.is_lt, Nat.zero_add, Nat.add_zero, Nat.reduceMod, Nat.reduceDiv, Nat.reduceMul, Nat.reduceAdd, Nat.reduceLT, Nat.reduceLeDiff, Nat.reduceEqDiff, reduceIte, reduceCtorEq, Nat.mul_zero, and_self, and_true, true_and]
theorem exit : Statement (.exit) :=
  via (IsG 120 0 0 0 3 0) rfl (isG (by decide) (by decide) (by decide) (by decide) (by decide) (by decide)) (fun _ h => h.1) fun v h => by
    obtain ⟨-, h0, h1, h⟩ := h
    rw [to_decRow78 h0, decRow78_0 h1]
    simp only [decFlow, withDst, withDstC, withSome, withImm, zeroField, srcA, srcB, srcTop, flag, fldGuard, gScope, gA0, gB0, gC0, gS0, gR0, h, Dst.ofCode_code, Src.ofCode_code, Guard.ofCode_code, bit_beq_one, fin_ofNat_val, bv_ofNat_toNat, NumTy.ofCode_code, RM.ofCode_code, Policy.ofCode_code, Scope.ofCode_code, HalfTy.ofCode_code, BfpW.ofCode_code, MemOrd.ofCode_code, Aop.ofCode_code, SSize.ofCode_code, RelayMode.ofCode_code, CensusMode.ofCode_code, RedMode.ofCode_code, PeersMode.ofCode_code, LeaderMode.ofCode_code, FenceKind.ofCode_code, Comb.ofCode_code, AdjMode.ofCode_code, Stage.ofCode_code, AccFmt.ofCode_code, StMode.ofCode_code, if_true, if_false, Fin.is_lt, Nat.zero_add, Nat.add_zero, Nat.reduceMod, Nat.reduceDiv, Nat.reduceMul, Nat.reduceAdd, Nat.reduceLT, Nat.reduceLeDiff, Nat.reduceEqDiff, reduceIte, reduceCtorEq, Nat.mul_zero, and_self, and_true, true_and]
theorem nop : Statement (.nop) :=
  via (IsG 120 0 0 0 4 0) rfl (isG (by decide) (by decide) (by decide) (by decide) (by decide) (by decide)) (fun _ h => h.1) fun v h => by
    obtain ⟨-, h0, h1, h⟩ := h
    rw [to_decRow78 h0, decRow78_0 h1]
    simp only [decFlow, withDst, withDstC, withSome, withImm, zeroField, srcA, srcB, srcTop, flag, fldGuard, gScope, gA0, gB0, gC0, gS0, gR0, h, Dst.ofCode_code, Src.ofCode_code, Guard.ofCode_code, bit_beq_one, fin_ofNat_val, bv_ofNat_toNat, NumTy.ofCode_code, RM.ofCode_code, Policy.ofCode_code, Scope.ofCode_code, HalfTy.ofCode_code, BfpW.ofCode_code, MemOrd.ofCode_code, Aop.ofCode_code, SSize.ofCode_code, RelayMode.ofCode_code, CensusMode.ofCode_code, RedMode.ofCode_code, PeersMode.ofCode_code, LeaderMode.ofCode_code, FenceKind.ofCode_code, Comb.ofCode_code, AdjMode.ofCode_code, Stage.ofCode_code, AccFmt.ofCode_code, StMode.ofCode_code, if_true, if_false, Fin.is_lt, Nat.zero_add, Nat.add_zero, Nat.reduceMod, Nat.reduceDiv, Nat.reduceMul, Nat.reduceAdd, Nat.reduceLT, Nat.reduceLeDiff, Nat.reduceEqDiff, reduceIte, reduceCtorEq, Nat.mul_zero, and_self, and_true, true_and]
theorem yield : Statement (.yield) :=
  via (IsG 120 0 0 0 5 0) rfl (isG (by decide) (by decide) (by decide) (by decide) (by decide) (by decide)) (fun _ h => h.1) fun v h => by
    obtain ⟨-, h0, h1, h⟩ := h
    rw [to_decRow78 h0, decRow78_0 h1]
    simp only [decFlow, withDst, withDstC, withSome, withImm, zeroField, srcA, srcB, srcTop, flag, fldGuard, gScope, gA0, gB0, gC0, gS0, gR0, h, Dst.ofCode_code, Src.ofCode_code, Guard.ofCode_code, bit_beq_one, fin_ofNat_val, bv_ofNat_toNat, NumTy.ofCode_code, RM.ofCode_code, Policy.ofCode_code, Scope.ofCode_code, HalfTy.ofCode_code, BfpW.ofCode_code, MemOrd.ofCode_code, Aop.ofCode_code, SSize.ofCode_code, RelayMode.ofCode_code, CensusMode.ofCode_code, RedMode.ofCode_code, PeersMode.ofCode_code, LeaderMode.ofCode_code, FenceKind.ofCode_code, Comb.ofCode_code, AdjMode.ofCode_code, Stage.ofCode_code, AccFmt.ofCode_code, StMode.ofCode_code, if_true, if_false, Fin.is_lt, Nat.zero_add, Nat.add_zero, Nat.reduceMod, Nat.reduceDiv, Nat.reduceMul, Nat.reduceAdd, Nat.reduceLT, Nat.reduceLeDiff, Nat.reduceEqDiff, reduceIte, reduceCtorEq, Nat.mul_zero, and_self, and_true, true_and]
theorem rejoin : Statement (.rejoin) :=
  via (IsG 120 0 0 0 6 0) rfl (isG (by decide) (by decide) (by decide) (by decide) (by decide) (by decide)) (fun _ h => h.1) fun v h => by
    obtain ⟨-, h0, h1, h⟩ := h
    rw [to_decRow78 h0, decRow78_0 h1]
    simp only [decFlow, withDst, withDstC, withSome, withImm, zeroField, srcA, srcB, srcTop, flag, fldGuard, gScope, gA0, gB0, gC0, gS0, gR0, h, Dst.ofCode_code, Src.ofCode_code, Guard.ofCode_code, bit_beq_one, fin_ofNat_val, bv_ofNat_toNat, NumTy.ofCode_code, RM.ofCode_code, Policy.ofCode_code, Scope.ofCode_code, HalfTy.ofCode_code, BfpW.ofCode_code, MemOrd.ofCode_code, Aop.ofCode_code, SSize.ofCode_code, RelayMode.ofCode_code, CensusMode.ofCode_code, RedMode.ofCode_code, PeersMode.ofCode_code, LeaderMode.ofCode_code, FenceKind.ofCode_code, Comb.ofCode_code, AdjMode.ofCode_code, Stage.ofCode_code, AccFmt.ofCode_code, StMode.ofCode_code, if_true, if_false, Fin.is_lt, Nat.zero_add, Nat.add_zero, Nat.reduceMod, Nat.reduceDiv, Nat.reduceMul, Nat.reduceAdd, Nat.reduceLT, Nat.reduceLeDiff, Nat.reduceEqDiff, reduceIte, reduceCtorEq, Nat.mul_zero, and_self, and_true, true_and]
theorem eret : Statement (.eret) :=
  via (IsG 120 0 0 0 7 0) rfl (isG (by decide) (by decide) (by decide) (by decide) (by decide) (by decide)) (fun _ h => h.1) fun v h => by
    obtain ⟨-, h0, h1, h⟩ := h
    rw [to_decRow78 h0, decRow78_0 h1]
    simp only [decFlow, withDst, withDstC, withSome, withImm, zeroField, srcA, srcB, srcTop, flag, fldGuard, gScope, gA0, gB0, gC0, gS0, gR0, h, Dst.ofCode_code, Src.ofCode_code, Guard.ofCode_code, bit_beq_one, fin_ofNat_val, bv_ofNat_toNat, NumTy.ofCode_code, RM.ofCode_code, Policy.ofCode_code, Scope.ofCode_code, HalfTy.ofCode_code, BfpW.ofCode_code, MemOrd.ofCode_code, Aop.ofCode_code, SSize.ofCode_code, RelayMode.ofCode_code, CensusMode.ofCode_code, RedMode.ofCode_code, PeersMode.ofCode_code, LeaderMode.ofCode_code, FenceKind.ofCode_code, Comb.ofCode_code, AdjMode.ofCode_code, Stage.ofCode_code, AccFmt.ofCode_code, StMode.ofCode_code, if_true, if_false, Fin.is_lt, Nat.zero_add, Nat.add_zero, Nat.reduceMod, Nat.reduceDiv, Nat.reduceMul, Nat.reduceAdd, Nat.reduceLT, Nat.reduceLeDiff, Nat.reduceEqDiff, reduceIte, reduceCtorEq, Nat.mul_zero, and_self, and_true, true_and]
theorem ckpt : Statement (.ckpt) :=
  via (IsG 121 0 0 0 0 0) rfl (isG (by decide) (by decide) (by decide) (by decide) (by decide) (by decide)) (fun _ h => h.1) fun v h => by
    obtain ⟨-, h0, h1, h⟩ := h
    rw [to_decRow78 h0, decRow78_1 h1]
    simp only [decSystem, withDst, withDstC, withSome, withImm, zeroField, srcA, srcB, srcTop, flag, fldGuard, gScope, gA0, gB0, gC0, gS0, gR0, h, Dst.ofCode_code, Src.ofCode_code, Guard.ofCode_code, bit_beq_one, fin_ofNat_val, bv_ofNat_toNat, NumTy.ofCode_code, RM.ofCode_code, Policy.ofCode_code, Scope.ofCode_code, HalfTy.ofCode_code, BfpW.ofCode_code, MemOrd.ofCode_code, Aop.ofCode_code, SSize.ofCode_code, RelayMode.ofCode_code, CensusMode.ofCode_code, RedMode.ofCode_code, PeersMode.ofCode_code, LeaderMode.ofCode_code, FenceKind.ofCode_code, Comb.ofCode_code, AdjMode.ofCode_code, Stage.ofCode_code, AccFmt.ofCode_code, StMode.ofCode_code, if_true, if_false, Fin.is_lt, Nat.zero_add, Nat.add_zero, Nat.reduceMod, Nat.reduceDiv, Nat.reduceMul, Nat.reduceAdd, Nat.reduceLT, Nat.reduceLeDiff, Nat.reduceEqDiff, reduceIte, reduceCtorEq, Nat.mul_zero, and_self, and_true, true_and]
theorem crewend : Statement (.crewend) :=
  via (IsG 121 0 0 0 5 0) rfl (isG (by decide) (by decide) (by decide) (by decide) (by decide) (by decide)) (fun _ h => h.1) fun v h => by
    obtain ⟨-, h0, h1, h⟩ := h
    rw [to_decRow78 h0, decRow78_1 h1]
    simp only [decSystem, withDst, withDstC, withSome, withImm, zeroField, srcA, srcB, srcTop, flag, fldGuard, gScope, gA0, gB0, gC0, gS0, gR0, h, Dst.ofCode_code, Src.ofCode_code, Guard.ofCode_code, bit_beq_one, fin_ofNat_val, bv_ofNat_toNat, NumTy.ofCode_code, RM.ofCode_code, Policy.ofCode_code, Scope.ofCode_code, HalfTy.ofCode_code, BfpW.ofCode_code, MemOrd.ofCode_code, Aop.ofCode_code, SSize.ofCode_code, RelayMode.ofCode_code, CensusMode.ofCode_code, RedMode.ofCode_code, PeersMode.ofCode_code, LeaderMode.ofCode_code, FenceKind.ofCode_code, Comb.ofCode_code, AdjMode.ofCode_code, Stage.ofCode_code, AccFmt.ofCode_code, StMode.ofCode_code, if_true, if_false, Fin.is_lt, Nat.zero_add, Nat.add_zero, Nat.reduceMod, Nat.reduceDiv, Nat.reduceMul, Nat.reduceAdd, Nat.reduceLT, Nat.reduceLeDiff, Nat.reduceEqDiff, reduceIte, reduceCtorEq, Nat.mul_zero, and_self, and_true, true_and]
theorem tlbWalkStart : Statement (.tlbWalkStart) := event rfl
theorem migrationDone : Statement (.migrationDone) := event rfl
theorem mbxIdentityClaim : Statement (.mbxIdentityClaim) := event rfl
theorem mbxRaiseFusedMinimum : Statement (.mbxRaiseFusedMinimum) := event rfl
theorem mbxLifeHistograms : Statement (.mbxLifeHistograms) := event rfl
theorem mbxRecoveryImage : Statement (.mbxRecoveryImage) := event rfl
theorem mbxFaultLog : Statement (.mbxFaultLog) := event rfl
theorem mbxCommandDone : Statement (.mbxCommandDone) := event rfl
theorem mbxStatusRead : Statement (.mbxStatusRead) := event rfl
theorem ptmRequest : Statement (.ptmRequest) := event rfl
theorem ptmCtlRead : Statement (.ptmCtlRead) := event rfl
theorem ppsEdge : Statement (.ppsEdge) := event rfl
theorem portbLinkLoss : Statement (.portbLinkLoss) := event rfl
theorem portbStatusRead : Statement (.portbStatusRead) := event rfl
theorem deviceReset : Statement (.deviceReset) := event rfl
theorem bootStageComplete : Statement (.bootStageComplete) := event rfl
theorem lifeHistogramSave : Statement (.lifeHistogramSave) := event rfl
theorem portbPtmRequest : Statement (.portbPtmRequest) := event rfl
theorem powerLoss : Statement (.powerLoss) := event rfl
theorem orderlyShutdown : Statement (.orderlyShutdown) := event rfl

end Sys2Proof.Laws.RoundTrip
end

