-- ==== Sys2Proof/Safety.lean ====
section
/-! DEFINITION. What a safe run is, and the words that claims use: where a member of a team stands, what a lane
instruction changes, and what it leaves alone. -/

namespace Sys2Proof

open Machine

/-- A step answers a next state: the machine neither stops nor meets an instruction without a meaning. -/
def Machine.State.goesOn (s : Machine.State) : Prop := ∃ t, Machine.step s = .next t

/-- What every step keeps: memory in its canonical form (R100). -/
def Machine.State.sound (s : Machine.State) : Prop := Machine.Memory.wf s.mem = true

/-! ## Members and lanes -/

namespace Claims

/-- Member `w` of group `g` of team `tid` exists: a thread, or a helper of an open crew. -/
def present (s : State) (tid g : Nat) : Who → Bool
  | .lane t => tid < s.teams.length && g < (getCore s tid).groups.length && t < ((getCore s tid).group g).threads.length
  | .helper thr hg ht =>
    tid < s.teams.length &&
    (match (getCore s tid).crew g thr with
     | none => false
     | some c => c.helpers.any fun h => h.grp == hg && h.thr == ht)
  | .group => false

/-- The run at the head of the list issues for lanes that exist, each listed once. -/
structure Issuing (s : State) (r : Run) (rest : List Run) : Prop where
  head : s.runs = r :: rest
  once : r.lanes.Nodup
  here : ∀ c ∈ r.lanes, present s r.team r.grp (r.who c) = true

/-- The state in which the head run's word has issued (R28). -/
def issued (s : State) (r : Run) (rest : List Run) : State := { s with runs := { r with sig := .word } :: rest }

/-- A helper, a crew and a group with their threads blanked out. -/
def blankHelper (h : Helper) : Helper := { h with th := Thread.empty }
def blankCrew (c : Crew) : Crew := { c with helpers := c.helpers.map blankHelper }
def blankGroup (g : Group) : Group := { g with threads := g.threads.map fun _ => Thread.empty }
/-- A team with its threads and helpers blanked out: everything else it holds. -/
def besidesThreads (t : Team) : Team :=
  { t with body := { t.body with groups := t.body.groups.map blankGroup, crews := t.body.crews.map blankCrew } }

/-- A team with the slots of its groups (R22) blanked out: each LOADING team takes its slots anew as another is placed. -/
def slotless (t : Team) : Team :=
  { t with body := { t.body with groups := t.body.groups.map fun g => { g with slot := 0 } } }

/-- Nothing differs between two states but threads and runs. -/
def SameBesidesThreads (s t : State) : Prop :=
  { t with teams := s.teams, runs := s.runs } = s ∧ t.teams.map besidesThreads = s.teams.map besidesThreads

/-- Between `s` and `t` the head run's word has issued, each of its lanes has changed by `f`, and nothing else has: no
other thread, no memory, no register of a group or of the device, no operation in flight. -/
def LaneChange (s : State) (r : Run) (rest : List Run) (f : Nat → Thread → Thread) (t : State) : Prop :=
  (∀ c ∈ r.lanes, laneTh t r c = f c (laneTh s r c)) ∧
  (∀ tid g w, (∀ c ∈ r.lanes, (tid, g, w) ≠ (r.team, r.grp, r.who c)) → getTh t tid g w = getTh s tid g w) ∧
  t.runs = { r with sig := .word } :: rest ∧ SameBesidesThreads s t

/-- The instruction completes, and changes its lanes by `f` and nothing else. -/
def LaneAct (i : Instr) (s : State) (r : Run) (rest : List Run) (f : Nat → Thread → Thread) : Prop :=
  ∃ t, exec i s = .next t ∧ LaneChange s r rest f t

/-! ## Results in a thread (R74, R216) -/

/-- A destination that a thread may name where it stands: an n register outside crew bodies, an h register inside one
(R79), or none but the queue. -/
def DstHere (th : Thread) : Dst → Prop
  | .n _ => th.inBody = false
  | .k i => th.inBody = true ∧ 8 ≤ i.val
  | .push => True

/-- The cell of destination register `d + off`, as the thread holds it; zero for code 63. -/
def oldCell (th : Thread) (d : Dst) (off : Nat) : Cell :=
  match d with
  | .n i => th.n (i.val + off)
  | .k i => th.h.getD (i.val - 8 + off) (.word 0)
  | .push => .word 0

/-- Writes a cell to destination register `d + off`. -/
def put (th : Thread) (d : Dst) (off : Nat) (v : Cell) : Thread :=
  match d with
  | .n i => th.setN (i.val + off) v
  | .k i => { th with h := listSet th.h (i.val - 8 + off) v }
  | .push => th

/-- Writes one or two words to a destination and pushes them, highest first (R74). -/
def give1 (th : Thread) (d : Dst) (v : Cell) : Thread := (put th d 0 v).push v
def give2 (th : Thread) (d : Dst) (lo hi : Cell) : Thread := ((put (put th d 0 lo) d 1 hi).push hi).push lo

/-- Flags go to the cc register where the F bit is set (R239). -/
def withFlags (th : Thread) (f : Bool) (cc : Fin 4) (v : CcCell) : Thread :=
  if f then { th with cc := listSet th.cc cc.val v } else th

/-- Exact integers that fit I32 (R49). -/
def fitsI32 (x : Int) : Bool := -2147483648 ≤ x && x ≤ 2147483647

/-- S and Z from a result, with the given C and V (R239). -/
def resultFlags (r : Word) (c v : Bool) : Flags := { s := r.msb, z := r == 0, c := c, v := v }

/-- What a lane instruction asks of each lane: a destination it may name there, a guard that reads (`on` says where it
holds), readable flags where the F bit will replace them, and, where the guard does not hold, an old destination word that
waits for no value (R236). -/
structure LanesReady (s : State) (r : Run) (d : Dst) (f : Bool) (g : Guard) (on : Nat → Bool) : Prop where
  dst : ∀ c ∈ r.lanes, DstHere (laneTh s r c) d
  guard : ∀ c ∈ r.lanes, guardTrue s r c g = .ok (on c)
  flags : ∀ c ∈ r.lanes, on c = true → f = true → ∃ x, readCc s r c g.cc = .ok x
  old : ∀ c ∈ r.lanes, on c = false → (oldCell (laneTh s r c) d 0).isPend = false

/-- Under a true guard every lane receives `val` and, with F, `flg`; under a false guard the old destination word is
pushed and nothing is written (R74, R234 to R236). The operands are those that the lanes read before the instruction. -/
def LaneResults (i : Instr) (s : State) (r : Run) (rest : List Run) (d : Dst) (f : Bool) (g : Guard) (on : Nat → Bool)
    (val : Nat → Word) (flg : Nat → Flags) : Prop :=
  LaneAct i s r rest fun c th =>
    if on c then withFlags (give1 th d (.word (val c))) f g.cc (.flags (flg c)) else th.push (oldCell th d 0)

/-- Instructions of one, two and three sources. -/
def Gives1 (i : Instr) (d : Dst) (a : Src) (f : Bool) (g : Guard) (val : Word → Word) (flg : Word → Flags) : Prop :=
  ∀ s r rest on (x : Nat → Word), Issuing s r rest → LanesReady s r d f g on →
    (∀ c ∈ r.lanes, on c = true → readSrc s r c a = .ok (x c)) →
    LaneResults i s r rest d f g on (fun c => val (x c)) fun c => flg (x c)
def Gives2 (i : Instr) (d : Dst) (a b : Src) (f : Bool) (g : Guard) (val : Word → Word → Word)
    (flg : Word → Word → Flags) : Prop :=
  ∀ s r rest on (x y : Nat → Word), Issuing s r rest → LanesReady s r d f g on →
    (∀ c ∈ r.lanes, on c = true → readSrc s r c a = .ok (x c) ∧ readSrc s r c b = .ok (y c)) →
    LaneResults i s r rest d f g on (fun c => val (x c) (y c)) fun c => flg (x c) (y c)
def Gives3 (i : Instr) (d : Dst) (a b e : Src) (f : Bool) (val : Word → Word → Word → Word)
    (flg : Word → Word → Word → Flags) : Prop :=
  ∀ s r rest (x y z : Nat → Word), Issuing s r rest → LanesReady s r d f noGuard (fun _ => true) →
    (∀ c ∈ r.lanes, readSrc s r c a = .ok (x c) ∧ readSrc s r c b = .ok (y c) ∧ readSrc s r c e = .ok (z c)) →
    LaneResults i s r rest d f noGuard (fun _ => true) (fun c => val (x c) (y c) (z c)) fun c => flg (x c) (y c) (z c)
/-- As `Gives2`, where the instruction also reads the carry of its guard's cc register (R240). -/
def GivesCarry (i : Instr) (o : RFmt) (val : Bool → Word → Word → Word) (flg : Bool → Word → Word → Flags) : Prop :=
  ∀ s r rest on (x y : Nat → Word) (k : Nat → Flags), Issuing s r rest → LanesReady s r o.d o.f o.g on →
    (∀ c ∈ r.lanes, on c = true →
      readSrc s r c o.a = .ok (x c) ∧ readSrc s r c o.b = .ok (y c) ∧ readCc s r c o.g.cc = .ok (k c)) →
    LaneResults i s r rest o.d o.f o.g on (fun c => val (k c).c (x c) (y c)) fun c => flg (k c).c (x c) (y c)
/-- Instructions that write no flags, with one and two sources and no guard. -/
def Moves1 (i : Instr) (d : Dst) (a : Src) (val : Word → Word) : Prop := Gives1 i d a false noGuard val fun _ => {}
def Moves2 (i : Instr) (d : Dst) (a b : Src) (val : Word → Word → Word) : Prop :=
  Gives2 i d a b false noGuard val fun _ _ => {}

/-- A compare writes the selected cc register under its guard and nothing else (R248). -/
def Compares (i : Instr) (cc : Fin 4) (a b : Src) (g : Guard) (flg : Word → Word → Flags) : Prop :=
  ∀ s r rest (on : Nat → Bool) (x y : Nat → Word), Issuing s r rest → (∀ c ∈ r.lanes, guardTrue s r c g = .ok (on c)) →
    (∀ c ∈ r.lanes, on c = true → (∃ z, readCc s r c cc = .ok z) ∧ readSrc s r c a = .ok (x c) ∧ readSrc s r c b = .ok (y c)) →
    LaneAct i s r rest fun c th =>
      if on c then { th with cc := listSet th.cc cc.val (.flags (flg (x c) (y c))) } else th

/-- A result that comes later (R75, R236): the destination and, with F, the flags wait for operation `s.nextId`, which
carries the results of the lanes whose guard holds. Nothing else changes. -/
def LaterResults (i : Instr) (s : State) (r : Run) (rest : List Run) (d : Dst) (f : Bool) (g : Guard) (on : Nat → Bool)
    (val : Nat → Word) (flg : Nat → Flags) : Prop :=
  ∃ t, exec i s = .next t ∧
    LaneChange s r rest (fun c th =>
      if on c then withFlags (give1 th d (.pend s.nextId 0)) f g.cc (.pend s.nextId) else th.push (oldCell th d 0))
      { t with ops := s.ops, nextId := s.nextId } ∧
    (if r.lanes.any on then
      t.nextId = s.nextId + 1 ∧
      t.ops = s.ops ++ [⟨s.nextId, r.team, r.grp, r.pc, r.nameOf r.lowest, .lane ((r.lanes.filter on).map fun c =>
        { who := r.who c, words := [val c], poison := none, addr := 0, bytes := 0
          flags := if f then some (g.cc, flg c) else none })⟩]
    else t.nextId = s.nextId ∧ t.ops = s.ops)

/-- A uniform register as destination (R80, R218, R235): every lane is outside crew bodies, and the sources are uniform.
The register is written once and nothing is pushed. -/
def Uniform (i : Instr) (s : State) (r : Run) (rest : List Run) (k : Fin 16) (v : Word) : Prop :=
  exec i s = .next (setGroupK (issued s r rest) r k.val (.word v))
structure UniformReady (s : State) (r : Run) (rest : List Run) : Prop where
  head : s.runs = r :: rest
  some : r.lanes ≠ []
  outside : ∀ c ∈ r.lanes, (laneTh s r c).inBody = false
def UniformGives1 (i : Instr) (k : Fin 16) (a : Src) (val : Word → Word) : Prop :=
  ∀ s r rest x, UniformReady s r rest → a.isK = true → readSrc s r r.lowest a = .ok x → Uniform i s r rest k (val x)
def UniformGives2 (i : Instr) (k : Fin 16) (a b : Src) (val : Word → Word → Word) : Prop :=
  ∀ s r rest x y, UniformReady s r rest → a.isK = true → b.isK = true → readSrc s r r.lowest a = .ok x →
    readSrc s r r.lowest b = .ok y → Uniform i s r rest k (val x y)
def UniformGives3 (i : Instr) (k : Fin 16) (a b e : Src) (val : Word → Word → Word → Word) : Prop :=
  ∀ s r rest x y z, UniformReady s r rest → a.isK = true → b.isK = true → e.isK = true →
    readSrc s r r.lowest a = .ok x → readSrc s r r.lowest b = .ok y → readSrc s r r.lowest e = .ok z →
    Uniform i s r rest k (val x y z)

/-- A uniform destination of a long-latency instruction waits for operation `s.nextId` (R235, R236). -/
def UniformLater (i : Instr) (s : State) (r : Run) (rest : List Run) (k : Fin 16) (v : Word) : Prop :=
  exec i s = .next (addOp (setGroupK (issued s r rest) r k.val (.pend s.nextId 0)) r.team r.grp r.pc (r.nameOf r.lowest)
    (.lane [{ who := .group, words := [v], poison := none, addr := 0, bytes := 0 }]))

/-- What a cross-thread instruction asks: no lane in a crew body, and no k destination (R237, R261). -/
structure CrossReady (s : State) (r : Run) (rest : List Run) (d : Dst) : Prop where
  issuing : Issuing s r rest
  outside : ∀ c ∈ r.lanes, (laneTh s r c).inBody = false
  notK : d.isK = false

/-! ## Values -/

/-- `sat_i32` (R226). -/
def clampI32 (x : Int) : Word :=
  if x < -2147483648 then 0x80000000#32 else if 2147483647 < x then 0x7FFFFFFF#32 else BitVec.ofInt 32 x
/-- Byte i of a word, and the exact sum of R259's four products of I8 values. -/
def byteOf (a : Word) (i : Nat) : BitVec 8 := a.extractLsb' (8 * i) 8
def byteDot (a b : Word) : Int :=
  (byteOf a 0).toInt * (byteOf b 0).toInt + (byteOf a 1).toInt * (byteOf b 1).toInt +
  (byteOf a 2).toInt * (byteOf b 2).toInt + (byteOf a 3).toInt * (byteOf b 3).toInt
/-- R246. -/
def leadingZeros (a : Word) : Word := BitVec.ofNat 32 (((List.range 32).find? fun n => a.getLsbD (31 - n)).getD 32)
def setBits (a : Word) : Word := BitVec.ofNat 32 ((List.range 32).countP fun i => a.getLsbD i)
/-- R247: the position of a field, BFX over a 64-bit view, and BFI. -/
def fieldLsb (b : Word) : Nat := (b.extractLsb' 0 5).toNat
def fieldLen (b : Word) : Nat := (b.extractLsb' 8 5).toNat + 1
def extractField (a b : Word) : Word :=
  if b.getLsbD 16 then (((a.signExtend 64) >>> fieldLsb b).setWidth (fieldLen b)).signExtend 32
  else (((a.setWidth 64) >>> fieldLsb b).setWidth (fieldLen b)).setWidth 32
def insertField (a b c : Word) : Word :=
  let mask := (BitVec.allOnes 32 >>> (32 - fieldLen c)) <<< fieldLsb c
  (a &&& ~~~mask) ||| ((b <<< fieldLsb c) &&& mask)

/-- `round_fp32(x, RNE)` as a word (R226, R251). -/
def roundFp32 (x : FVal) : Word := BitVec.ofNat 32 (roundF fp32 .rne x)
/-- R239: the flags of an FP32 result. -/
def floatFlags (r : Word) : Flags := { s := r.msb, z := r.toNat % 2 ^ 31 == 0, c := false, v := isNanW r }
/-- R252: an order of the encodings that are no NaN, −0 below +0, and the lesser and greater of two. -/
def floatOrder (a : Word) : Int := if a.msb then -((a.toNat % 2 ^ 31 : Nat) : Int) - 1 else a.toNat
def floatMin (a b : Word) : Word :=
  if isNanW a then (if isNanW b then 0x7FC00000#32 else b)
  else if isNanW b then a else if floatOrder a ≤ floatOrder b then a else b
def floatMax (a b : Word) : Word :=
  if isNanW a then (if isNanW b then 0x7FC00000#32 else b)
  else if isNanW b then a else if floatOrder a ≤ floatOrder b then b else a

/-- R255: two halves, element 1 in the high one. -/
def eachHalf (f : Nat → Nat → Nat) (a b : Word) : Word :=
  BitVec.ofNat 32 (f (a.toNat / 65536) (b.toNat / 65536) * 65536 + f (a.toNat % 65536) (b.toNat % 65536))
def halvesFma (f : FloatFmt) (a b c : Word) : Word :=
  let one := fun (x y z : Nat) => roundF f .rne (((unpackF f x).mul (unpackF f y)).add (unpackF f z))
  BitVec.ofNat 32 (one (a.toNat / 65536) (b.toNat / 65536) (c.toNat / 65536) * 65536 +
    one (a.toNat % 65536) (b.toNat % 65536) (c.toNat % 65536))

/-- R257, with 32 / w elements in a register: `e` shifted in above the elements of `a`, and element i of `a`. -/
def clampTo (w : Nat) (x : Int) : Int := max (-(2 ^ (w - 1))) (min x (2 ^ (w - 1) - 1))
def packedIn (w : Nat) (e : Int) (a : Word) : Word :=
  BitVec.ofNat 32 (a.toNat % 2 ^ (32 / w * w) / 2 ^ w + (e % 2 ^ w).toNat * 2 ^ (w * (32 / w - 1)))
def elementAt (w : Nat) (a : Word) (i : Nat) : BitVec w := a.extractLsb' (i * w) w
def unpackedAt (w up : Nat) (a : Word) (i : Nat) : Word :=
  if 32 / w ≤ i then 0 else (elementAt w a i).signExtend 32 <<< up
def expandAt (w e : Nat) (a : Word) (i : Nat) : FVal :=
  if 32 / w ≤ i ∨ e = 0 then .fin false 0 0
  else if e = 255 then .nan
  else FVal.ofInt ((elementAt w a i).toInt * 2 ^ (8 - w)) ((e : Int) - 134)

/-- R262: the thread whose value thread c receives, none where it lies outside the group. -/
def relayedFrom (m : RelayMode) (c : Nat) (b : Word) : Option Nat :=
  match m with
  | .atThread => some b.toNat
  | .behind => if b.toNat ≤ c then some (c - b.toNat) else none
  | .ahead => some (c + b.toNat)
  | .flip => some (c ^^^ (b.toNat % 32))

/-! ## Accesses to memory (R191, R213, R269, R273 to R285) -/

/-- Writes cells to a destination, lowest register first. -/
def puts (d : Dst) : Nat → List Cell → Thread → Thread
  | _, [], th => th
  | off, v :: rest, th => puts d (off + 1) rest (put th d off v)
/-- Writes the cells of a result and pushes them, highest first (R74). -/
def giveAll (th : Thread) (d : Dst) (cells : List Cell) : Thread := (puts d 0 cells th).pushAll cells.reverse
/-- A false guard pushes the `n` old words of the destination (R74). -/
def oldAll (th : Thread) (d : Dst) (n : Nat) : Thread := th.pushAll ((List.range n).map (oldCell th d)).reverse
/-- `n` entries that wait for operation `id`. -/
def waiting (id n : Nat) : List Cell := (List.range n).map (Cell.pend id)

/-- The byte at a physical address as a team sees it (R147). -/
def seenByte (s : State) (tid a : Nat) : Byte := (viewOverlay s tid a).getD (mapGet memDefault s.mem a)
/-- The bytes of [pa, pa+n) as a team sees them, and as memory holds them, little-endian. -/
def seenNat (s : State) (tid pa n : Nat) : Nat := bytesNat ((List.range n).map fun i => seenByte s tid (pa + i))

/-- Nothing stands between an access to [pa, pa+n) and memory: no aperture, no port B window, no stash line. -/
structure Direct (s : State) (pa n : Nat) : Prop where
  target : targetOf s pa = .device ∨ targetOf s pa = .host ∨ targetOf s pa = .peer
  backing : ∀ l ∈ s.aper, backingMeets s pa n l = false
  stash : ∀ t ∈ s.teams, ∀ l ∈ t.body.stashLines, l.pa ∉ linesOf pa n

/-- Each live lane's address passes the checks of R269 and reaches memory directly at `pa`. -/
def Reaches (s : State) (r : Run) (k : AccKind) (sysPol : Bool) (n : Nat) (live : Nat → Bool) (va : Nat → Dword)
    (pa : Nat → Nat) : Prop :=
  ∀ c ∈ r.lanes, live c = true →
    (∃ sa, checkGlobal s (envOf s r) k sysPol false n (va c) = .ok (pa c) sa) ∧ Direct s (pa c) n

/-- The caches, the first-level TLBs and their counters as `s` holds them (R104, R105, R107, R109, R111, R164, R174, R202,
R203). -/
def withCaches (s t : State) : State :=
  { t with dcache := s.dcache, icache := s.icache, shares := s.shares, l2 := s.l2, watches := s.watches
           retention := s.retention, perf := s.perf, evict := s.evict, tlb := s.tlb }

/-- An instruction puts an operation in flight, and counts it in a counter of its group (R191). -/
def started (s : State) (r : Run) (k : OpKind) (c : Ctr) : State :=
  raiseCtr (addOp s r.team r.grp r.pc (r.nameOf r.lowest) k) r.team r.grp c

/-- A load completes at issue (R27, R75, R191): each live lane's destination and its pushed entries wait for operation
`s.nextId`, which carries `fill`; the others push their old words. LDC rises by one where a lane is live. Nothing else
changes, but for what the caches hold. -/
def Loads (i : Instr) (s : State) (r : Run) (rest : List Run) (d : Dst) (n : Nat) (live : Nat → Bool) (fill : Nat → Fill) :
    Prop :=
  let fills := (r.lanes.filter live).map fill
  let s0 := if r.lanes.any live then started s r (.load fills) .ld else s
  ∃ t, exec i s = .next t ∧ t.ops = s0.ops ∧ t.nextId = s0.nextId ∧
    LaneChange s0 r rest (fun c th => if live c then giveAll th d (waiting s.nextId n) else oldAll th d n)
      (withCaches s t)

/-- What a load of `n` bytes from memory brings a lane (R124, R273). -/
def memFill (s : State) (r : Run) (n : Nat) (sx : Bool) (va : Nat → Dword) (pa : Nat → Nat) (c : Nat) : Fill :=
  { who := r.who c, words := loadWords n sx (seenNat s r.team (pa c) n)
    poison := (seenPoison s r.team (pa c) n (poisonIn s.poison (pa c) n)).map (sectorAddr (va c) (pa c)), addr := va c, bytes := n }

/-- The `n` old words of a destination wait for no value, so that a false guard may push them (R236). -/
def OldReads (th : Thread) (d : Dst) (n : Nat) : Prop := ∀ j < n, (oldCell th d j).isPend = false

/-- The MU and MP forms of a load (R213, R273). -/
def LoadsMu (i : Instr) (o : MuLd) (n : Nat) (sx : Bool) : Prop :=
  ∀ s r rest (a : Nat → Dword) (pa : Nat → Nat), Issuing s r rest → (∀ c ∈ r.lanes, DstHere (laneTh s r c) o.d) →
    (∀ c ∈ r.lanes, muAddr s r o.kp o.ix o.x o.imm n c = .ok (a c)) →
    let va := fun c => a c + BitVec.ofInt 64 (repShift s r n)
    Reaches s r .load (o.pol == .sys) n (fun _ => true) va pa → (getGroup s r.team r.grp).ldc < 63 →
    Loads i s r rest o.d (loadCount n) (fun _ => true) (memFill s r n sx va pa)
def LoadsMp (i : Instr) (o : MpLd) (n : Nat) (sx : Bool) : Prop :=
  ∀ s r rest (a : Nat → Option Dword) (pa : Nat → Nat), Issuing s r rest → (∀ c ∈ r.lanes, DstHere (laneTh s r c) o.d) →
    (∀ c ∈ r.lanes, mpAddr s r o.np o.imm n o.g c = .ok (a c)) →
    let live := fun c => (a c).isSome
    let va := fun c => (a c).getD 0 + BitVec.ofInt 64 (repShift s r n)
    (∀ c ∈ r.lanes, live c = false → OldReads (laneTh s r c) o.d (loadCount n)) →
    Reaches s r .load (o.pol == .sys) n live va pa → (getGroup s r.team r.grp).ldc < 63 →
    Loads i s r rest o.d (loadCount n) live (memFill s r n sx va pa)

/-- The bytes of a store of `n` bytes from consecutive registers `w` (R217, R273). -/
def storedBytes (n : Nat) (w : Nat → Word) : List Byte := (List.range n).map fun i => byteOf (w (i / 4)) (i % 4)
/-- The registers of a store's data operand, as a lane reads them. -/
def StoreReads (s : State) (r : Run) (a : Src) (n c : Nat) (w : Nat → Word) : Prop :=
  ∀ j < (n + 3) / 4, readSrc s r c (Src.plus a j) = .ok (w j)

/-- A thread may name a store's data: a register code of its own, or in a crew body an h register (R79, R273). -/
def DataHere (th : Thread) (a : Src) : Prop := ∀ i, a = .k i → th.inBody = true ∧ 8 ≤ i.val
/-- R124: cells write every byte of a 32-byte sector. -/
def coversSector (cells : List Host.Cell) (sec : Nat) : Bool :=
  (List.range 32).all fun i => cells.any fun c => c.1 == 32 * sec + i

/-- A team without the marks that stores leave for fault records (R409) and the armed error of R96. -/
def markless (t : Team) : Team :=
  { t with errinj := none, body := { t.body with crews := t.body.crews.map fun c =>
      { c with helpers := c.helpers.map fun h => { h with effects := [] } } } }

/-- A store completes at issue, in a team that has no items to compare (R273, R191): memory reads as the last live lane
wrote it, and everywhere else as before; the sectors that the lanes together write whole are no longer poison (R124). STC
rises by one where a lane is live; a release restarts the watchdog (R411). No register changes. -/
def StoresCells (i : Instr) (s : State) (r : Run) (rest : List Run) (live : Nat → Bool) (cells : Nat → List Host.Cell)
    (rel : Bool) : Prop :=
  let s0 := if r.lanes.any live then started (if rel then restartWatchdog s r.team else s) r (.store []) .st else s
  ∃ t, exec i s = .next t ∧
    (∀ x, mapGet memDefault t.mem x =
      (lastWrite ((r.lanes.filter live).flatMap cells) x).getD (mapGet memDefault s.mem x)) ∧
    t.poison = s.poison.filter (fun sec => !coversSector ((r.lanes.filter live).flatMap cells) sec) ∧
    t.teams.map markless = s0.teams.map markless ∧ t.runs = { r with sig := .word } :: rest ∧
    withCaches s { t with mem := s.mem, poison := s.poison, teams := s0.teams, runs := s.runs } = s0
/-- A store of a list of bytes at one place for each lane. -/
def Stores (i : Instr) (s : State) (r : Run) (rest : List Run) (live : Nat → Bool) (pa : Nat → Nat)
    (data : Nat → List Byte) (rel : Bool) : Prop :=
  StoresCells i s r rest live (fun c => cellsAt (pa c) (data c)) rel

/-- R103: a local access of `n` bytes at `va` reaches memory in parts, one for each page that it meets, each through its
own translation and directly. -/
structure LocalReach (s : State) (r : Run) (k : AccKind) (va : Dword) (n : Nat) (parts : List LocalPart) : Prop where
  pages : parts.map (fun p => (p.va, p.n)) =
    if va.toNat % 4096 + n ≤ 4096 then [(va, n)]
    else [(va, 4096 - va.toNat % 4096), (va + BitVec.ofNat 64 (4096 - va.toNat % 4096), n - (4096 - va.toNat % 4096))]
  reach : ∀ p ∈ parts, Direct s p.pa p.n ∧ ∃ sa, checkGlobal s (envOf s r) k false false 1 p.va = .ok p.pa sa
/-- The bytes of parts as a team sees them, and the first poisoned sector, as an address (R124). -/
def partsNat (s : State) (tid : Nat) (parts : List LocalPart) : Nat :=
  bytesNat (parts.flatMap fun p => (List.range p.n).map fun i => seenByte s tid (p.pa + i))
def partsPoison (s : State) (tid : Nat) (parts : List LocalPart) : Option Dword :=
  parts.findSome? fun p => (seenPoison s tid p.pa p.n (poisonIn s.poison p.pa p.n)).map (sectorAddr p.va p.pa)
/-- The cells that bytes given to parts in turn write. -/
def partCells : List LocalPart → List Byte → List Host.Cell
  | [], _ => []
  | p :: rest, bs => cellsAt p.pa (bs.take p.n) ++ partCells rest (bs.drop p.n)

/-- The MU and MP forms of a store. -/
def StoresMu (i : Instr) (o : MuSt) (n : Nat) : Prop :=
  ∀ s r rest (a : Nat → Dword) (pa : Nat → Nat) (w : Nat → Nat → Word), Issuing s r rest → s.sound →
    hasItems s r.team = false → (∀ c ∈ r.lanes, DataHere (laneTh s r c) o.a) → (∀ c ∈ r.lanes, muAddr s r o.kp o.ix o.x o.imm n c = .ok (a c)) →
    (∀ c ∈ r.lanes, StoreReads s r o.a n c (w c)) →
    Reaches s r .store (o.pol == .sys) n (fun _ => true) (fun c => a c + BitVec.ofInt 64 (repShift s r n)) pa →
    (getGroup s r.team r.grp).stc < 63 →
    Stores i s r rest (fun _ => true) pa (fun c => storedBytes n (w c)) false
def StoresMp (i : Instr) (o : MpSt) (n : Nat) (rel : Bool) : Prop :=
  ∀ s r rest (a : Nat → Option Dword) (pa : Nat → Nat) (w : Nat → Nat → Word), Issuing s r rest → s.sound →
    hasItems s r.team = false → (∀ c ∈ r.lanes, DataHere (laneTh s r c) o.a) → (∀ c ∈ r.lanes, mpAddr s r o.np o.imm n o.g c = .ok (a c)) →
    (∀ c ∈ r.lanes, (a c).isSome = true → StoreReads s r o.a n c (w c)) →
    Reaches s r .store (o.pol == .sys) n (fun c => (a c).isSome) (fun c => (a c).getD 0 + BitVec.ofInt 64 (repShift s r n)) pa →
    (getGroup s r.team r.grp).stc < 63 →
    Stores i s r rest (fun c => (a c).isSome) pa (fun c => storedBytes n (w c)) rel

/-- Scratchpad offsets of the lanes that pass R102 and need no stash fill (R114). -/
def InScratch (s : State) (r : Run) (n : Nat) (off : Nat → Nat) : Prop :=
  ∀ c ∈ r.lanes, off c % n = 0 ∧ off c + n ≤ (teamLaunch s r.team).kernel.scratch ∧
    ∀ x, off c ≤ x → x < off c + n →
      stashEntryAt (getCore s r.team) x = none ∨ (stashLineAt (getCore s r.team) x).isSome = true
/-- The offsets that an S-format instruction forms (R213). -/
def scratchOffsets (s : State) (r : Run) (imm : BitVec 7) (n : Nat) (b : Nat → Word) (c : Nat) : Nat :=
  (b c + BitVec.ofInt 32 (imm.toInt * n) + BitVec.ofInt 32 (repShift s r n)).toNat
/-- A stash line of which [off, off+n) is written: it is dirty, and so are those of its bytes (R115). -/
def markLine (off n : Nat) (l : StashLine) : StashLine :=
  if l.off < off + n ∧ off < l.off + 128 then
    { l with dirty := true, mask := l.mask ||| (2 ^ (min (off + n) (l.off + 128) - l.off) - 2 ^ (max off l.off - l.off)) }
  else l
/-- A team's scratchpad after ranges of bytes are written in turn, each at its offset and size: the stash lines that they touch
are dirty (R115). -/
def withScratch (s : State) (tid : Nat) (mem : SMap Byte) (ranges : List (Nat × Nat)) : State :=
  modCore s tid fun tc => { tc with
    scratch := mem, stashLines := ranges.foldl (fun ls x => ls.map (markLine x.1 x.2)) tc.stashLines }
/-- The sectors of a team's scratchpad that the ranges cover whole are no longer poison (R124). -/
def withoutPoison (s : State) (tid : Nat) (ranges : List (Nat × Nat)) : State :=
  modCore s tid fun tc => { tc with scratchPoison := tc.scratchPoison.filter fun sec =>
    !((List.range 32).all fun i => ranges.any fun x => decide (x.1 ≤ 32 * sec + i) && decide (32 * sec + i < x.1 + x.2)) }

/-- Two states that differ in the marks of `markless` alone. -/
def SameButMarks (s t : State) : Prop :=
  { t with teams := s.teams } = s ∧ t.teams.map markless = s.teams.map markless

/-- `new` of R281 from the value in memory and the operand; a 32-bit aop uses the low words. -/
def newValue (aop : Aop) (old v : Dword) : Dword :=
  let a : Word := old.setWidth 32
  let b : Word := v.setWidth 32
  match aop with
  | .add => (a + b).setWidth 64
  | .min => (if b.slt a then b else a).setWidth 64
  | .max => (if a.slt b then b else a).setWidth 64
  | .minn => (if b.ult a then b else a).setWidth 64
  | .maxn => (if a.ult b then b else a).setWidth 64
  | .and => (a &&& b).setWidth 64
  | .or => (a ||| b).setWidth 64
  | .xor => (a ^^^ b).setWidth 64
  | .swap => b.setWidth 64
  | .fadd | .faddRa => (roundFp32 ((valF a).add (valF b))).setWidth 64
  | .add64 => old + v
  | .swap64 => v
/-- R283: CAS replaces `old` by the high word of its operand where `old` equals the low word. -/
def casValue (old v : Dword) : Dword :=
  if old.setWidth 32 = (v.setWidth 32 : Word) then (v >>> 32).setWidth 32 |>.setWidth 64 else old
/-- One update after another of little-endian values of `n` bytes, with the values found. -/
def updates (n : Nat) (new : Dword → Dword → Dword) : List (Nat × Dword) → List Host.Cell → List Host.Cell × List Dword
  | [], m => (m, [])
  | (pa, v) :: rest, m =>
    let old : Dword := BitVec.ofNat 64 (bytesNat (readBytes m pa n))
    let x := updates n new rest (writeBytes m pa (natBytes n (new old v).toNat))
    (x.1, old :: x.2)

/-- The lanes of an atomic: addresses, operands, and homes that memory serves at once (R144): no integrity items, no
deterministic mode, no firmware, no poison. -/
structure AtomReady (s : State) (r : Run) (np : Fin 16) (v : Src) (wide : Bool) (n : Nat) (k : AccKind) (p : Bool)
    (va : Nat → Dword) (pa : Nat → Nat) (x : Nat → Dword) : Prop where
  some : r.lanes ≠ []
  plain : hasItems s r.team = false ∧ (teamLaunch s r.team).kernel.det = false
  fresh : ∀ o ∈ s.ops, o.id ≠ s.nextId
  addr : ∀ c ∈ r.lanes, ∃ a, readPairN s r c np = .ok a ∧ va c = a + BitVec.ofInt 64 (repShift s r n)
  operand : ∀ c ∈ r.lanes,
    if wide then readSrc64 s r c v = .ok (x c) else ∃ w, readSrc s r c v = .ok w ∧ x c = w.setWidth 64
  reaches : Reaches s r k p n (fun _ => true) va pa
  clean : ∀ c ∈ r.lanes, poisonIn s.poison (pa c) n = none ∧ firmwareOf s (homeCluster (pa c)) = false

/-- A sum of the operands `x` of listed lanes, grouped in some way, each partial sum rounded (R144, R282, R284). -/
inductive SumOf (x : Nat → Dword) : List Nat → Dword → Prop
  | alone (c : Nat) : SumOf x [c] (x c)
  | join {l m : List Nat} {a b : Dword} : SumOf x l a → SumOf x m b → SumOf x (l ++ m) (newValue .fadd a b)
/-- Lanes parted into lists that each name one location, in the order of their updates, with a sum for each (R282). -/
structure Parted (lanes : List Nat) (pa : Nat → Nat) (x : Nat → Dword) (parts : List (List Nat × Dword)) : Prop where
  sums : ∀ p ∈ parts, SumOf x p.1 p.2
  all : (parts.flatMap Prod.fst).Perm lanes
  one : ∀ p ∈ parts, ∀ c ∈ p.1, pa c = pa (p.1.headD 0)
/-- An atomic completes at issue: one update for each of some parts of its lanes, which meet `ok`, the value found going
to all lanes of the part (R144, R282, R283): with a destination, which waits for operation `s.nextId` that carries the
values, or without. Nothing else changes but what caches and service groups hold (R104, R145). -/
def Atomics (i : Instr) (s : State) (r : Run) (rest : List Run) (d : Dst) (n : Nat) (new : Dword → Dword → Dword)
    (va : Nat → Dword) (pa : Nat → Nat) (x : Nat → Dword) (rel : Bool) (ok : List (List Nat × Dword) → Prop) : Prop :=
  ∃ (parts : List (List Nat × Dword)) (value : Nat → Dword), Parted r.lanes pa x parts ∧ ok parts ∧
  let u := updates n new (parts.map fun p => (pa (p.1.headD 0), p.2)) s.mem
  (∀ (j : Nat) p, parts[j]? = some p → ∀ c ∈ p.1, value c = u.2.getD j 0) ∧
  let fills := r.lanes.map fun c =>
    ({ who := r.who c, words := if d = .push then [] else wordsOf (n / 4) (value c).toNat, poison := none, addr := va c, bytes := n, atomic := true } : Fill)
  let s0 := started (if rel then restartWatchdog s r.team else s) r
    (if d = .push then .store fills else .load fills) (if d = .push then .st else .ld)
  ∃ t, exec i s = .next t ∧ t.mem = u.1 ∧ t.ops = s0.ops ∧ t.nextId = s0.nextId ∧
    ∃ t', SameButMarks t t' ∧
      LaneChange s0 r rest (fun _ th => if d = .push then th else giveAll th d (waiting s.nextId (n / 4)))
        (withCaches s { t' with mem := s.mem, merge := s.merge })

/-- A scratchpad atomic completes at issue on unpoisoned bytes, its lanes performed in ascending order (R285). -/
def ScratchAtomics (i : Instr) (s : State) (r : Run) (rest : List Run) (d : Dst) (base v : Src) (wide : Bool) (n : Nat)
    (new : Dword → Dword → Dword) (b : Nat → Word) (x : Nat → Dword) : Prop :=
  let off := fun c => (b c + BitVec.ofInt 32 (repShift s r n)).toNat
  let core := getCore s r.team
  (∀ c ∈ r.lanes, readSrc s r c base = .ok (b c)) →
  (∀ c ∈ r.lanes, if wide then readSrc64 s r c v = .ok (x c) else ∃ w, readSrc s r c v = .ok w ∧ x c = w.setWidth 64) →
  InScratch s r n off → (∀ c ∈ r.lanes, poisonIn core.scratchPoison (off c) n = none) →
  let u := updates n new (r.lanes.map fun c => (off c, x c)) core.scratch
  let fill := fun (c : Nat) (ws : List Word) =>
    ({ who := r.who c, words := ws, poison := none, addr := BitVec.ofNat 64 (off c), bytes := n, atomic := true } : Fill)
  let fills := if d = .push then r.lanes.map fun c => fill c []
    else (r.lanes.zip u.2).map fun y => fill y.1 (wordsOf (n / 4) y.2.toNat)
  let s0 := started (withScratch s r.team u.1 (r.lanes.map fun c => (off c, n))) r
    (if d = .push then .store fills else .load fills) (if d = .push then .st else .ld)
  ∃ t t', exec i s = .next t ∧ SameButMarks t t' ∧
    LaneChange s0 r rest (fun _ th => if d = .push then th else giveAll th d (waiting s.nextId (n / 4))) (withCaches s t')

/-! ## Blocking (R29), barriers and copies -/

/-- A blocking instruction whose condition holds ends its run with the threads at the next word, over state `s'`. -/
def Passes (i : Instr) (s : State) (r : Run) (s' : State) : Prop :=
  exec i s = .next (signal (advanceLanes s' r) .block)
/-- One whose condition does not hold leaves its group, or helper set, waiting on it, and does nothing more. -/
def Waits (i : Instr) (s : State) (r : Run) (rest : List Run) : Prop :=
  exec i s = .next (signal (setWait (issued s r rest) r (some ⟨i, r.lanes⟩)) .block)

/-- A run of a group's threads, none of them in a crew body. -/
structure GroupRun (s : State) (r : Run) (rest : List Run) : Prop where
  issuing : Issuing s r rest
  group : r.helpers = none
  some : r.lanes ≠ []
  outside : ∀ c ∈ r.lanes, (laneTh s r c).inBody = false

/-- The word of a scratchpad at an offset. -/
def scratchWord (s : State) (tid off : Nat) : Word := BitVec.ofNat 32 (bytesNat (readBytes (getCore s tid).scratch off 4))

/-- A queue of a team changed, and the watchdog restarted (R411). -/
def withQueue (s : State) (tid q : Nat) (f : NamedQueue → NamedQueue) : State :=
  restartWatchdog (modCore s tid fun tc => { tc with queues := listMod tc.queues q f }) tid
/-- R157: what an enqueue step of handles and a dequeue step of `n` handles make of a queue. -/
def enqueued (nq : NamedQueue) (g : Nat) (hs : List Word) : NamedQueue :=
  { nq with ring := nq.ring ++ hs.map fun h => (h, g), allow := listMod nq.allow g (· - hs.length) }
def dequeued (nq : NamedQueue) (n : Nat) : NamedQueue :=
  { nq with
    ring := nq.ring.drop n
    head := (nq.head + n) % max 1 nq.depth
    allow := (List.range nq.allow.length).map fun g => nq.allow.getD g 0 + (nq.ring.take n).countP fun x => x.2 == g }
/-- R157: the handle that a lane receives, oldest first in the order of the lanes. -/
def handleFor (nq : NamedQueue) (r : Run) (c : Nat) : Word := (nq.ring.getD (r.lanes.idxOf c) (0, 0)).1
/-- A step of a group on queue `q` that the checks of R157 allow. -/
def QueueReady (s : State) (r : Run) (rest : List Run) (q : Nat) (enq : Bool) : Prop :=
  GroupRun s r rest ∧ q < (getCore s r.team).queues.length ∧
  (if enq then r.lanes.length ≤ ((getCore s r.team).queue q).initial.getD r.grp 0
   else r.lanes.length ≤ ((getCore s r.team).queue q).depth)

/-- A channel that the team takes part in, open, with 64 bytes of scratchpad at `off` that need no stash fill (R291). -/
structure ChannelReady (s : State) (r : Run) (rest : List Run) (ch : Nat) (d : ChannelDecl) (a : Src) (off : Word)
    (send : Bool) : Prop where
  run : GroupRun s r rest
  decl : channelDecl s r.team ch = some d
  part : (if send then d.sender else d.receiver) = (getTeam s r.team).idx
  operand : readSrc s r r.lowest a = .ok off
  fits : off.toNat % 64 = 0 ∧ off.toNat + 64 ≤ (teamLaunch s r.team).kernel.scratch
  mapped : ∀ x, off.toNat ≤ x → x < off.toNat + 64 →
    stashEntryAt (getCore s r.team) x = none ∨ (stashLineAt (getCore s r.team) x).isSome = true
  plain : hasItems s r.team = false
  opened : if send then d.receiver ∉ (teamLaunch s r.team).ended else d.sender ∉ (teamLaunch s r.team).ended

/-- R193: a barrier after `n` more arrivals. -/
def arrived (b : Barrier) (n : Nat) : Barrier := { b with arr := (b.arr + n) % b.exp, gen := (b.gen + (b.arr + n) / b.exp) % 65536 }
/-- A barrier of the team, as R193 keeps it, that the run names. -/
structure BarrierReady (s : State) (r : Run) (rest : List Run) (a : Src) (b : Word) (x : Barrier) : Prop where
  run : GroupRun s r rest
  operand : readSrc s r r.lowest a = .ok b
  some : (getCore s r.team).barriers[b.toNat]? = some x
  legal : 0 < x.exp ∧ x.arr < x.exp ∧ x.gen < 65536
  plain : (teamLaunch s r.team).kernel.det = false
/-- The state in which barrier `old` has become `x`, and the watchdog is restarted where its generation has advanced (R411). -/
def withBarrier (s : State) (tid b : Nat) (old x : Barrier) : State :=
  let t := modCore s tid fun tc => { tc with barriers := listSet tc.barriers b x }
  if x.gen = old.gen then t else restartWatchdog t tid

/-- R294, R295: a copy whose addresses, lengths, spaces and sync word pass the checks at issue, and that has room
(R163, R377). -/
structure CopyFits (s : State) (r : Run) (cmd : CopyCmd) (dstLen srcLen : Nat) : Prop where
  aligned : cmd.dst.toNat % 4 = 0 ∧ (∀ a ∈ cmd.srcs, a.toNat % 4 = 0) ∧ cmd.len % 4 = 0
  dst : if cmd.dstSpace = .scratch then cmd.dst.toNat + dstLen ≤ (teamLaunch s r.team).kernel.scratch else cmd.dst.toNat < 2 ^ 56
  srcs : ∀ a ∈ cmd.srcs, if cmd.srcSpace = .scratch then a.toNat + srcLen ≤ (teamLaunch s r.team).kernel.scratch else a.toNat < 2 ^ 56
  sync : ∀ o, cmd.sync = some o → o + 16 ≤ (teamLaunch s r.team).kernel.scratch
  shadow : cmd.shadow = true → cmd.dstSpace = .global
  plain : hasItems s r.team = false ∧ (teamLaunch s r.team).desc.bounded = false
  fresh : r.copied = []
  room : (getGroup s r.team r.grp).cpc < 63 ∧ copyQueued s (getTeam s r.team).core < 128

/-! ## Control (R33 to R35, R74, R77, R85, R210, R305 to R322) -/

/-- A thread whose counter arrives at `pc` is held where it is a clause header equal to its MEET (R35). -/
def reach (l : Launch) (pc : Dword) (th : Thread) : Thread :=
  { th with pc := pc, life := if l.isHeader pc = true ∧ th.meet = pc then .held else .runnable }
/-- A transfer that sets its lanes' counters and changes them by `f`, over `base`; the group selects next (R33). -/
def Jumps (i : Instr) (s : State) (r : Run) (rest : List Run) (base : State) (f : Nat → Thread → Thread) : Prop :=
  ∃ t, exec i s = .next (signal t .jump) ∧ LaneChange base r rest f t
/-- A trap is raised at the head run's word, with no effect of its instruction (R85, R224). -/
def Raises (i : Instr) (s : State) (r : Run) (rest : List Run) (lane cause : Nat) (addr : Dword) (info : Word) : Prop :=
  exec i s = .next (raise (issued s r rest) { r with sig := .word } lane { cause := cause, addr := addr, info := info, epc := r.pc })
/-- A target that the lane may go to: a clause header, inside the body of its crew if it is in one (R210, R316). -/
def MayGo (s : State) (r : Run) (c : Nat) (t : Dword) : Prop :=
  (teamLaunch s r.team).isHeader t = true ∧ ∀ lo hi, bodyOf s r c = some (lo, hi) → lo.toNat ≤ t.toNat ∧ t.toNat ≤ hi.toNat
/-- The word of code at an address, which the run may fetch and reaches directly. -/
structure CodeAt (s : State) (r : Run) (va : Dword) (w : Word) : Prop where
  read : ∃ pa sa, checkGlobal s (envOf s r) .fetch false false 4 va = .ok pa sa ∧ Direct s pa 4 ∧
    w = BitVec.ofNat 32 (seenNat s r.team pa 4)
/-- The caches that hold code, and their counters, as `s` holds them (R105, R111, R203). -/
def withIcache (s t : State) : State := { t with icache := s.icache, l2 := s.l2, retention := s.retention, evict := s.evict }

/-- No word of the register stack goes to local memory or comes back between two windows (R78): both lie in the
resident storage from its first word. -/
def NoSpill (s : State) (r : Run) (base : Int) : Prop := base + 32 ≤ (teamLaunch s r.team).kernel.stack
/-- R310: what a CALL does to a thread that transfers. -/
def called (ret : Dword) (th : Thread) : Thread :=
  { th with links := ⟨ret, th.cf⟩ :: th.links, wb := th.wb + th.cf, cf := 32 }
/-- R78, R310: a thread that may call: its new window fits, and needs no word of local memory. -/
def MayCall (s : State) (r : Run) (th : Thread) : Prop :=
  th.links.length ≠ 64 ∧ th.wb + th.cf + 32 ≤ ((teamLaunch s r.team).desc.l : Int) ∧ NoSpill s r (th.wb + th.cf) ∧
  (th.inHandlerFrame = true → 16 ≤ th.cf)
/-- R311: what a RET does to a thread, and where the thread goes. -/
def callersReturn (l : Launch) (th : Thread) : Thread :=
  match th.links with
  | k :: ks => reach l k.ret { th with links := ks, wb := th.wb - k.cf, cf := k.cf }
  | [] => th

/-- A run in which a trap can be entered at once: of a group, no lane in a handler, nothing pending or due, and a
handler given (R75, R85, R86, R407). -/
structure TrapReady (s : State) (r : Run) (rest : List Run) : Prop where
  run : Issuing s r rest
  group : r.helpers = none
  clear : ∀ c ∈ r.lanes, (laneTh s r c).inTrap = false ∧ (laneTh s r c).hasPend = false ∧
    (laneTh s r c).reports = [] ∧ (laneTh s r c).marks = []
  handler : (teamLaunch s r.team).desc.trap ≠ 0
/-- R85, R93: a thread after trap entry; a poison mark is written as 0 (R271). -/
def entered (base epc addr : Dword) (code : Nat) (info : Word) (th : Thread) : Thread :=
  { th with
    tf := th.q.map Cell.unmarked, q := th.q.map Cell.unmarked, econd := BitVec.ofNat 32 (th.repc.toNat * 65536 + condWord th.cc), epc := epc
    cause := BitVec.ofNat 32 (2 ^ 31 + code), faultAddr := addr, faultInfo := info, hidBase := th.wb, hidCf := th.cf
    wb := th.wb - 16, cf := 32, trapDepth := th.links.length, inTrap := true, resume := false, pc := base }
/-- The head run has ended and is counted (R28, R197, R202), and its lanes have changed by `f`. -/
def RunEnded (s : State) (r : Run) (rest : List Run) (f : Nat → Thread → Thread) (t : State) : Prop :=
  t.runs = rest ∧ LaneChange (countEnd s r.team) r rest f { t with runs := { r with sig := .word } :: rest }
/-- R85, R322: a thread after ERET. -/
def returned (l : Launch) (th : Thread) : Thread :=
  reach l th.epc { th with
    wb := th.hidBase, cf := th.hidCf, links := th.links.drop (th.links.length - th.trapDepth), q := th.tf
    cc := (List.range 4).map fun i => .flags (Flags.ofNibble (field th.econd (4 * i) 4))
    repc := th.econd.extractLsb' 16 16, resume := true, inTrap := false }

/-- R91 to R95, R192, R197 to R202: the words of a system register that is no counter of the counters chapter, and of one
that is, as a lane reads them. -/
def statusBits (s : State) (r : Run) (c : Nat) : Nat :=
  let th := laneTh s r c
  let l := teamLaunch s r.team
  l.prio + (if th.stepArmed then 2 ^ 17 else 0) + (if th.inTrap then 2 ^ 18 else 0) + (if th.inCrew then 2 ^ 19 else 0) +
    (if r.helpers.isSome then 2 ^ 20 else 0) + (if l.kernel.det then 2 ^ 21 else 0) + th.meetStk.length * 2 ^ 8 +
    l.kernel.mdepth * 2 ^ 12 + l.kernel.il * 2 ^ 22
def plainRegister (s : State) (r : Run) (c n : Nat) : Option (List Word) :=
  let th := laneTh s r c
  let t := getTeam s r.team
  let g := getGroup s r.team r.grp
  let two := fun (v : Dword) => some [v.extractLsb' 0 32, v.extractLsb' 32 32]
  match n with
  | 0x000 => some [BitVec.ofNat 32 (statusBits s r c)]
  | 0x001 => some [th.cause]
  | 0x002 => two th.epc
  | 0x003 => two th.faultAddr
  | 0x004 => some [th.faultInfo]
  | 0x005 => some [th.econd]
  | 0x006 => some [th.crewStatus]
  | 0x007 => some [th.repc.setWidth 32]
  | 0x008 => two th.meet
  | 0x009 => two (teamLaunch s r.team).desc.trap
  | 0x00A => some [BitVec.ofNat 32 (t.core * 2 ^ 20 + t.part * 2 ^ 16 + t.s0 * 2 ^ 13 + t.p0 * 2 ^ 11 + g.sub * 2 ^ 8 + g.port * 2 ^ 6)]
  | 0x00B => some [t.ckptId]
  | 0x00C => some [0]
  | 0x020 => two Config.deviceId
  | n => if 0x010 ≤ n ∧ n < 0x020 then some [(g.k.getD n (.word 0)).plain] else none
def counterRegister (s : State) (r : Run) (n : Nat) : Option (List Word) :=
  let t := getTeam s r.team
  let g := getGroup s r.team r.grp
  let two := fun (v : Dword) => some [v.extractLsb' 0 32, v.extractLsb' 32 32]
  match n with
  | 0x100 => two s.cycle
  | 0x101 => two s.phcNs
  | 0x102 => some [s.steps.setWidth 32]
  | 0x103 => some [BitVec.ofNat 32 (g.ldc + g.stc * 2 ^ 8 + g.cpc * 2 ^ 16 + g.tlc * 2 ^ 24)]
  | 0x104 => some [t.runs]
  | 0x105 => two (t.issued.setWidth 64)
  | 0x106 => some [t.satTeam]
  | 0x110 => two ((mapGet 0 s.interf t.core).setWidth 64)
  | n => if 0x108 ≤ n ∧ n < 0x110 then
      two (if (teamLaunch s r.team).desc.perf then (mapGet 0 s.perf (8 * t.core + (n - 0x108))).setWidth 64 else 0)
    else none
/-- Consecutive uniform registers written. -/
def setKs (s : State) (r : Run) (k : Nat) (cells : List Cell) : State :=
  (List.range cells.length).foldl (fun s j => setGroupK s r (k + j) (cells.getD j (.word 0))) s

/-! ## Service groups (R162, R327) -/

/-- A request of a cluster's queue that firmware may take. -/
def openRequest (cl : Nat) (q : SvcReq) : Bool := q.cluster == cl && !q.taken && !q.waits
/-- The first request of a list that waits for room in a cluster's queue waits no more. -/
def roomMade (cl : Nat) (l : List SvcReq) : List SvcReq :=
  let waits := fun (q : SvcReq) => q.cluster == cl && q.waits
  l.takeWhile (fun q => !waits q) ++ (match l.dropWhile (fun q => !waits q) with
    | q :: rest => { q with waits := false } :: rest
    | [] => [])
/-- The oldest request of a cluster's queue that firmware has not taken is taken, which makes room for another (R162). -/
def takeRequest (cl : Nat) (l : List SvcReq) : List SvcReq :=
  match l.find? (openRequest cl) with
  | some q => roomMade cl (l.eraseP (openRequest cl)) ++ [{ q with taken := true }]
  | none => l
/-- A cluster's requests after `n` lanes of a SVCTAKE have each taken one. -/
def takes (cl : Nat) : Nat → List SvcReq → List SvcReq
  | 0, l => l
  | n + 1, l => takeRequest cl (takes cl n l)
/-- The eight words of R327's record; all zero where there is no request. -/
def requestWords : Option SvcReq → List Word
  | none => List.replicate 8 0
  | some q =>
    [BitVec.ofNat 32 (2 ^ 31 + q.aop * 2 ^ 27 + q.ord * 2 ^ 25 + q.scope * 2 ^ 23 + (if q.p then 2 ^ 22 else 0) + q.kind * 2 ^ 20),
     BitVec.ofNat 32 q.slot, BitVec.ofNat 32 q.pa, BitVec.ofNat 32 (q.pa / 2 ^ 32), q.value.extractLsb' 0 32,
     q.value.extractLsb' 32 32, 0, 0]
/-- A value given to a slot: the taken request of that slot is answered, with one word or two, or retired; the atomic log has
its value (R392), a release restarts the watchdog (R411), and a helper's atomic is noted for fault records (R409). A slot
that names no request drops the value. -/
def givenTo (cl : Nat) (s : State) (v : Dword) (b : Word) : State :=
  let named := fun (q : SvcReq) => q.taken && q.cluster == cl && q.slot == b.toNat % 2 ^ 20 && (2 ≤ q.kind) == b.msb
  match s.svc.find? named with
  | none => s
  | some q =>
    let s := q.reqs.foldl (fun s x => (findOp s x.2.op).elim s fun o => atomDone s x.1 o.grp x.2 v)
      (closeLog { s with svc := s.svc.eraseP named } q v)
    if b.msb then s
    else q.gives.foldl (fun s x =>
      setFill s x.1 x.2 (if q.aop < 11 then [v.extractLsb' 0 32] else [v.extractLsb' 0 32, v.extractLsb' 32 32]) none) s

/-- R320: the post word after a POST of `v` by group `g`. -/
def posted (rop : Nat) (old : Option (Word × Nat)) (v : Word) (g : Nat) : Option (Word × Nat) :=
  match old with
  | none => some (v, g)
  | some (w, h) => match rop with
    | 0 => some (w ||| v, max h g)
    | 1 => some (if w.ult v then v else w, max h g)
    | 2 => some (if v.ult w then v else w, max h g)
    | 3 => some (w + v, max h g)
    | _ => if h ≤ g then some (v, g) else some (w, h)

/-! ## Matrix instructions (R81, R340 to R359) -/

/-- A generator register of the run's group changed. -/
def withGen (s : State) (r : Run) (gi : Nat) (f : GenReg → GenReg) : State :=
  modGroup s r.team r.grp fun g => { g with gens := listMod g.gens gi f }
/-- Words other than those listed are the same in two records. -/
def SameWords (ws vs : List Word) (but : List Nat) : Prop := ∀ j < 8, j ∉ but → recWord vs j = recWord ws j
/-- A base moved by `d`, modulo 2^56 or, in scratchpad, 2^32 (R342). -/
def movedBase (ws : List Word) (base : Nat) (d : Int) : Nat := (((base : Int) + d) % (if recScratch ws then 2 ^ 32 else 2 ^ 56)).toNat
/-- The bytes by which .KSTEP moves a base, where the step has a size. -/
def stepBytes (ws : List Word) : Option Nat :=
  let w := recW ws
  if recKind ws = 3 then
    (if recFmt ws ≤ 1 ∧ 2 ≤ w ∧ w ≤ 8 ∧ recSpn ws ≠ 0 then some (16 + 8 * ((recSpn ws * w + 63) / 64)) else none)
  else if recFmt ws ≤ 1 then (if 2 ≤ w ∧ w ≤ 8 then some (4 * w) else none)
  else if recFmt ws ≤ 3 then some 64 else if recFmt ws = 4 then some 32 else none
/-- R342: the fault of an adjustment. -/
def adjustFault (ws : List Word) (mode : AdjMode) : Option Nat :=
  let k := recKind ws
  if k = 0 ∨ 5 < k then some 0x18 else
  match mode with
  | .tap => if k ≠ 4 then some 0x18 else if (windowOf ws).fh = 0 ∨ (windowOf ws).fw = 0 then some 0x19 else none
  | .outer => none
  | .kstep => if k = 4 then some 0x18 else if k ≠ 5 ∧ stepBytes ws = none then some 0x19 else none
/-- R342: record `vs` is `ws` after an adjustment by `b` that raises no fault. -/
def Adjusted (ws vs : List Word) (mode : AdjMode) (b : Word) : Prop :=
  let k := recKind ws
  let bases := fun (d e : Int) => recBase vs = movedBase ws (recBase ws) d ∧ recEbase vs = movedBase ws (recEbase ws) e ∧
    SameWords ws vs [1, 2, 3, 4] ∧ recWord vs 2 >>> 24 = recWord ws 2 >>> 24 ∧ recWord vs 4 >>> 24 = recWord ws 4 >>> 24
  let base := fun (d : Int) => recBase vs = movedBase ws (recBase ws) d ∧ SameWords ws vs [1, 2] ∧
    recWord vs 2 >>> 24 = recWord ws 2 >>> 24
  match mode with
  | .tap => SameWords ws vs [2] ∧ (recWord vs 2).setWidth 24 = (recWord ws 2).setWidth 24 ∧
    windowOf vs = { windowOf ws with tap := ((windowOf ws).tap + b.toNat) % ((windowOf ws).fh * (windowOf ws).fw) }
  | .outer =>
    (k ≤ 2 → bases (b.toInt * recOstr ws) (b.toInt * ((recWord ws 6).toNat / 65536 : Nat))) ∧
    (k = 3 → base (b.toInt * recOstr ws)) ∧
    (k = 4 → SameWords ws vs [7] ∧ (recWord vs 7).setWidth 8 = (recWord ws 7).setWidth 8 ∧
      windowOf vs = { windowOf ws with p0 := ((((windowOf ws).p0 : Int) + b.toInt) % 2 ^ 24).toNat }) ∧
    (k = 5 → SameWords ws vs [1] ∧ recWord vs 1 = recWord ws 1 + b)
  | .kstep =>
    (k ≤ 2 → ∀ n, stepBytes ws = some n → bases (b.toInt * n) b.toInt) ∧
    (k = 3 → ∀ n, stepBytes ws = some n → base (b.toInt * n)) ∧
    (k = 5 → SameWords ws vs [2] ∧ recWord vs 2 = recWord ws 2 + b)

/-- What an instruction on accumulators asks: each in range, none the target of an MMA in flight, no report due (R81, R351). -/
structure AccReady (s : State) (r : Run) (rest : List Run) (accs : List Nat) : Prop where
  run : GroupRun s r rest
  range : ∀ a ∈ accs, a < (teamLaunch s r.team).kernel.accum
  free : ∀ o ∈ s.ops, ∀ m, o.team = r.team → o.grp = r.grp → o.kind = .mma m → m.acc ∉ accs
  clear : ∀ c ∈ r.lanes, (laneTh s r c).reports = []
/-- One whose accumulator an MMA in flight will write: the instruction waits (R81). -/
def AccBusy (s : State) (r : Run) (rest : List Run) (accs : List Nat) : Prop :=
  GroupRun s r rest ∧ (∀ a ∈ accs, a < (teamLaunch s r.team).kernel.accum) ∧
  ∃ o ∈ s.ops, ∃ m, o.team = r.team ∧ o.grp = r.grp ∧ o.kind = .mma m ∧ m.acc ∈ accs
/-- The instruction holds its port, with no effect (R30). -/
def Stalls (i : Instr) (s : State) (r : Run) (rest : List Run) : Prop := exec i s = .next (signal (issued s r rest) .stall)
/-- A row of an accumulator replaced. -/
def withRow (th : Thread) (acc : Nat) (ws : Nat → Word) : Thread :=
  (List.range 16).foldl (fun th j => setAccWord th acc j (ws j)) th
/-- R355: two columns of a row rounded to a 16-bit format and packed. -/
def roundedPair (f : FloatFmt) (th : Thread) (acc j : Nat) : Word :=
  let half := fun (c : Nat) => roundF f .rne (valF (accWord th acc c))
  BitVec.ofNat 32 (half (2 * j) + 65536 * half (2 * j + 1))
/-- R355: the 32 values of two rows as a block of width `w`, with the saturations of forming and narrowing it. -/
def rowBlock (w : Nat) (th : Thread) (acc : Nat) : Nat × List Int × Nat :=
  let b := formBlock ((accWords th acc ++ accWords th (acc + 1)).map valF)
  let q := narrowBlock w b.1
  (b.1.e, q.1, b.2 + q.2)

/-- A field of a manifest (R358), and one of its stage fields after a stamp. -/
def manifestField (bs : List Byte) (off n : Nat) : Nat := bytesNat ((bs.drop off).take n)
def stamped (bs : List Byte) (stage at_ : Stage) (off : Nat) (now : Dword) : List Byte :=
  let v := manifestField bs off 4
  natBytes 4 (if stage = at_ then min (v + (now - BitVec.ofNat 64 (manifestField bs 0x18 8)).toNat) 0xFFFFFFFF else v)

/-- The record, generator and footprint checks of R347 pass, and the MMA has room (R106, R107, R191, R349). -/
structure MmaFits (s : State) (r : Run) (op : MmaOp) (o : XFmt) (tap : Nat) (xlat : List (Nat × Nat)) (lines : List Nat) :
    Prop where
  kinds : recKindOk op false (recOf (getGroup s r.team r.grp) o.ra.val) = true ∧
    recKindOk op true (recOf (getGroup s r.team r.grp) o.rb.val) = true
  fields : ∀ (b : Bool) ws, ws = recOf (getGroup s r.team r.grp) (if b then o.rb.val else o.ra.val) →
    recFieldOk b ((getGroup s r.team r.grp).gens.getD (recGen ws) {}) ws = true
  inner : recK (recOf (getGroup s r.team r.grp) o.ra.val) = recK (recOf (getGroup s r.team r.grp) o.rb.val)
  tapIs : tap = if op = .mmat ∧ recKind (recOf (getGroup s r.team r.grp) o.rb.val) ≠ 5
    then (windowOf (recOf (getGroup s r.team r.grp) o.ra.val)).tap else 0
  extents : ∀ (b : Bool) ws, ws = recOf (getGroup s r.team r.grp) (if b then o.rb.val else o.ra.val) → recScratch ws = true →
    (∀ e ∈ recExtents ws (if b then tap else 0), e.1 + e.2 ≤ (teamLaunch s r.team).kernel.scratch) ∧
    ∀ p ∈ recPieces ws (if b then tap else 0), ∀ x, p.1 ≤ x → x < p.1 + p.2 → stashEntryAt (getCore s r.team) x = none
  pages : ((checkOperand s r 0 (recOf (getGroup s r.team r.grp) o.ra.val)
      (recPieces (recOf (getGroup s r.team r.grp) o.ra.val) 0) []).andThen fun x =>
    checkOperand s r 1 (recOf (getGroup s r.team r.grp) o.rb.val)
      (recPieces (recOf (getGroup s r.team r.grp) o.rb.val) tap) x) = .ok xlat
  linesAre : lines = addNew
    (addNew [] (shareLines r.team (recOf (getGroup s r.team r.grp) o.ra.val) (recPieces (recOf (getGroup s r.team r.grp) o.ra.val) 0) xlat))
    (shareLines r.team (recOf (getGroup s r.team r.grp) o.rb.val) (recPieces (recOf (getGroup s r.team r.grp) o.rb.val) tap) xlat)
  footprint : lines.length ≤ 512
  share : (addNew lines (mmaLines s (getTeam s r.team).core (getGroup s r.team r.grp).sub)).length ≤ 512
  room : mmaWaiting s (getTeam s r.team).core (getGroup s r.team r.grp).sub < 16 ∧ (getGroup s r.team r.grp).tlc < 63 ∧
    (getGroup s r.team r.grp).d.getD o.set.val 0 < 63
/-- R348: an MMA at issue: copies of its records and generators, its rows and waits, in flight in its slot and in TLC. -/
def MmaIssues (i : Instr) (op : MmaOp) (o : XFmt) : Prop :=
  ∀ s r rest tap xlat lines, GroupRun s r rest → o.acc.val < (teamLaunch s r.team).kernel.accum →
    (∀ c ∈ r.lanes, (laneTh s r c).reports = []) → MmaFits s r op o tap xlat lines →
    let g := getGroup s r.team r.grp
    let ra := recOf g o.ra.val
    let rb := recOf g o.rb.val
    let ga := g.gens.getD (recGen ra) {}
    let gb := g.gens.getD (recGen rb) {}
    let m : MmaCmd :=
      { acc := o.acc.val, ra := ra, rb := rb, ga := ga, gb := gb, tap := tap, sparse := op == .mmas
        integer := recInteger ra ga && recInteger rb gb, lanes := r.lanes, z := o.z, slot := o.set.val
        waits := slotOps s r.team r.grp o.wait, xlat := xlat, lines := lines }
    let pinned := s.shares.map fun x => if x.core = (getTeam s r.team).core ∧ x.sub = g.sub ∧ x.valid = true ∧ x.line ∈ lines
      then { x with pins := setAdd x.pins s.nextId } else x
    exec i s = .next (raiseSlot (raiseCtr (addOp { issued s r rest with shares := pinned } r.team r.grp r.pc r.lowest (.mma m))
      r.team r.grp .tl) r.team r.grp o.set.val)

/-! ## Crews (R38 to R45, R82, R94, R315 to R319) -/

/-- R43, R94: what CREW pushes and writes for `n` helpers granted of 2^h. -/
def withGrant (th : Thread) (h n reason : Nat) : Thread :=
  { th.push (.word (BitVec.ofNat 32 n)) with
    cc := listSet th.cc 3 (.flags { s := false, z := n == 0, c := n < 2 ^ h, v := false })
    crewStatus := BitVec.ofNat 32 (2 ^ h * 65536 + n * 256 + reason) }
/-- R82: a member at the start of a chunk whose first iteration is `k * 2 ^ e`. -/
def atChunk (th : Thread) (start : Dword) (lo : Word) (k e : Nat) : Thread :=
  { th with
    pc := start, life := .runnable, q := List.replicate 16 (.word 0), cc := List.replicate 4 (.flags {}), repc := 0
    meet := 0xFFFFFFFFFFFFFFFF, meetStk := [], h := .word (lo + BitVec.ofNat 32 (k * 2 ^ e)) :: List.replicate 7 (.word 0)
    member := some { chunk := k, iter := k * 2 ^ e, seq := 0, nested := none } }
/-- What CREW holds of a thread (R82). -/
def heldOf (th : Thread) : Held := { q := th.q, cc := th.cc, repc := th.repc, meet := th.meet, meetStk := th.meetStk }
/-- A thread with what was held restored, and a value pushed (R82, R318). -/
def restored (th : Thread) (h : Held) (v : Word) : Thread :=
  Thread.push { th with q := h.q, cc := h.cc, repc := h.repc, meet := h.meet, meetStk := h.meetStk } (.word v)
/-- The word that names the matching CREWEND of a CREW (R315); finding it only fills the instruction cache. -/
def BodyEnds (s : State) (r : Run) (rest : List Run) (s' : State) (e : Dword) : Prop :=
  findCrewEnd (issued s r rest) { r with sig := .word } r.lowest 4096 0 (r.pc + 4) = .ok (s', e) ∧ withIcache s s' = issued s r rest
/-- Every lane runs an iteration of its crew `cr`, with no nested crew open. -/
def InChunk (s : State) (r : Run) (m : Nat → Member) (cr : Nat → Crew) : Prop :=
  ∀ c ∈ r.lanes, (laneTh s r c).inBody = true ∧ (laneTh s r c).member = some (m c) ∧ (m c).nested = none ∧
    (getCore s r.team).crew r.grp (r.nameOf c) = some (cr c)
/-- The iterations of a member's chunk that are over when iteration `m.iter` is. -/
def lastOfChunk (cr : Crew) (m : Member) : Prop := m.iter + 1 = m.chunk * 2 ^ cr.c + cr.chunkSize m.chunk
/-- A blocking instruction of a crew ends its run, its lanes having changed by `f` over `base`. -/
def CrewSteps (i : Instr) (s : State) (r : Run) (rest : List Run) (base : State) (f : Nat → Thread → Thread) : Prop :=
  ∃ t, exec i s = .next (signal t .block) ∧ LaneChange base r rest f t

/-! ## Completions (R75, R139, R195, R236, R271) -/

/-- A register cell after the value of operation `op` has arrived: the word it waited for, or a poison mark. -/
def arrivedCell (op : Nat) (f : Fill) (c : Cell) : Cell :=
  match c with
  | .pend o part =>
    if o = op then f.poison.elim (.word (f.words.getD part 0)) (Cell.mark op) else c
  | _ => c
/-- A thread after the value of an operation has arrived, wherever its pending entries had got to. -/
structure Took (op : Nat) (f : Fill) (a b : Thread) : Prop where
  queue : b.q = a.q.map (arrivedCell op f)
  window : ∀ i, b.n i = arrivedCell op f (a.n i)
  crewWords : b.h = a.h.map (arrivedCell op f)
  codes : ∀ (i : Nat) (x : CcCell), a.cc[i]? = some x → b.cc[i]? = some (if x = CcCell.pend op then .flags ((f.flags.map Prod.snd).getD {}) else x)
  rest : { b with q := a.q, stk := a.stk, h := a.h, tf := a.tf, cc := a.cc, member := a.member, marks := a.marks } = a
/-- The receivers of an operation's values are threads or helpers that exist, each named once. -/
def Receivers (s : State) (o : Op) (fs : List Fill) : Prop :=
  (fs.map (·.who)).Nodup ∧ ∀ f ∈ fs, f.who ≠ .group ∧ present s o.team o.grp f.who = true ∧ f.words ≠ [] ∧
    mapWf (.word 0) (getTh s o.team o.grp f.who).stk = true
/-- Every receiver has its value, the operation is over, and no other thread and no memory has changed. -/
def ValuesArrive (s : State) (o : Op) (fs : List Fill) (t : State) : Prop :=
  findOp t o.id = none ∧ (∀ f ∈ fs, Took o.id f (getTh s o.team o.grp f.who) (getTh t o.team o.grp f.who)) ∧
  (∀ tid g w, (∀ f ∈ fs, (tid, g, w) ≠ (o.team, o.grp, f.who)) → getTh t tid g w = getTh s tid g w) ∧ t.mem = s.mem

/-- A copy that has begun holds what it read in pieces, in the order of its destination (R195): each follows the one before,
and ends at the next multiple of 128 or with the copy. -/
def InPieces (c : CopyCmd) (bytes : List Byte) : Prop :=
  c.pieces.flatMap (·.bytes) = bytes ∧ ∀ i p, c.pieces[i]? = some p →
    p.dst = c.dst + BitVec.ofNat 64 ((c.pieces.take i).flatMap (·.bytes)).length ∧ p.bytes ≠ [] ∧
    p.dst.toNat % 128 + p.bytes.length ≤ 128 ∧ (i + 1 < c.pieces.length → p.dst.toNat % 128 + p.bytes.length = 128)
/-- No two entries of one TLB translate an address of one context in two ways. -/
def Apart (l : List (Nat × TlbEntry)) : Prop := ∀ x ∈ l, ∀ y ∈ l, x.1 = y.1 → x.2.meets y.2 = true → x.2 = y.2
/-- Between two states the TLBs that asked for a walk have lost the entries of its page, and no other (R173). -/
def PageDropped (w : Walk) (s t : State) : Prop :=
  (∀ x, x ∈ t.tlb ↔ x ∈ s.tlb ∧ ∀ b ∈ w.by_, b.core = x.1 → x.2.covers w.ctx (w.page * 4096) = false) ∧
  (∀ x, x ∈ t.ctlb ↔ x ∈ s.ctlb ∧ ∀ b ∈ w.by_, b.core / 4 = x.1 → x.2.covers w.ctx (w.page * 4096) = false)
/-- The copy of operation `id` is now `c`. -/
def CopyIs (t : State) (id : Nat) (c : CopyCmd) : Prop := ∃ o ∈ t.ops, o.id = id ∧ o.kind = .copy c
/-- R195: the counts of a sync word after an arrival of `n` bytes. -/
def countedOn (target count gen n : Nat) : Nat × Nat :=
  let sum := (count + n) % 2 ^ 32
  if target = 0 then (sum, gen) else (sum % target, (gen + sum / target) % 2 ^ 32)
/-- A word that a copy engine may access, and that it reaches directly at `pa` (R173, R269, R296). -/
def EngineReaches (s : State) (o : Op) (k : AccKind) (shadow : Bool) (va : Dword) (pa : Nat) : Prop :=
  Direct s pa 4 ∧ ∃ sa, checkGlobal s (envOf s (engineRun o)) k false shadow 1 va = .ok pa sa

/-- After a firing NEXT is the first firing time after the present, and without a period EN is clear (R372). -/
def NextFiring (s t : State) (part n : Nat) : Prop :=
  let period := (phaseWord s part n 1).toNat
  (period = 0 → (phaseWord t part n 2).msb = false) ∧
  (0 < period → phaseWord t part n 2 = phaseWord s part n 2 ∧ (s.phcNs.toNat + period < 2 ^ 64 →
    s.phcNs.toNat < (phaseWord t part n 3).toNat ∧ (phaseWord t part n 3).toNat ≤ s.phcNs.toNat + period ∧
    period ∣ (phaseWord t part n 3).toNat - phaseNext s part n))
/-- A checked pair is in a state, and PAIR_CTL shows it (R386). -/
def ModeIs (t : State) (p : Nat) (m : PairMode) : Prop :=
  (t.pairs.getD p {}).mode = m ∧ field (bar t (Config.oPairCtl p)) 48 8 = modeNum m

/-! ## Registers of the management window (R5, R425) -/

/-- An event writes one register of the window, whose new value satisfies `good`, and changes nothing else. -/
def WritesBar (i : Instr) (s : State) (at_ : Nat) (good : Dword → Prop) : Prop :=
  ∃ t, exec i s = .next t ∧ { t with bar := s.bar } = s ∧ good (bar t at_) ∧ ∀ off, off ≠ at_ → bar t off = bar s off
/-- `x` holds the bits of `v` in the fields (low bit, width) of a list, and zero elsewhere (R5). -/
def OnlyBits (v : Dword) (fs : List (Nat × Nat)) (x : Dword) : Prop :=
  ∀ i < 64, x.getLsbD i = (v.getLsbD i && fs.any fun f => decide (f.1 ≤ i) && decide (i < f.1 + f.2))

/-- A cancel ends at once with a result, and does nothing else (R428). -/
def CancelEnds (i : Instr) (s : State) (d result : Nat) : Prop :=
  WritesBar i s (Config.oPart d + Config.oCancelCtl) fun x => field x 2 3 = result ∧ field x 1 1 = 0 ∧
    ∀ j < 64, (j < 1 ∨ 5 ≤ j) → x.getLsbD j = (cancelCtl s d).getLsbD j
/-- A team stops for the debugger, to resume where it stands (R413, R416). -/
def Stops (i : Instr) (s : State) (tid code : Nat) : Prop :=
  ∃ t h, exec i s = .next t ∧ (getTeam t tid).halt = some h ∧ h.cause = code ∧ h.resumable = true ∧ (getTeam t tid).stopped = true ∧
    t.runs = s.runs.filter (fun r => r.team ≠ tid) ∧ t.mem = s.mem ∧
    (∀ g c, getTh t tid g (.lane c) = { getTh s tid g (.lane c) with
      resume := (getTh t tid g (.lane c)).resume, reports := (getTh t tid g (.lane c)).reports }) ∧
    ((∀ r ∈ s.runs, r.team = tid → r.rep = none) → (∀ k ∈ (getCore s tid).crews, k.helpers = []) →
      (getTeam t tid).body.groups = (getTeam s tid).body.groups) ∧ t.ops = s.ops ∧ ∀ x, x ≠ tid → getTeam t x = getTeam s x

/-- The supervisor takes a mailbox command, and will complete it with a result (R429). -/
def MbxTakes (i : Instr) (s : State) (result : Nat) (more : State → Prop) : Prop :=
  ∃ t, exec i s = .next t ∧ (mapWf 0 s.bar = true → mbxBusy t = true) ∧ t.mbx.result = result ∧ t.mbx.page = mbxPage s ∧
    t.mem = s.mem ∧ t.teams = s.teams ∧ more t

/-! ## Steps and invariants -/

/-- Nothing comes before the next word of the head run: no event is due, no event from outside, no clk that an event of the
device takes; the run stands at a word, with nothing due, no helper out of budget and no lane that looks for its REP
(R28, R33, R44, R211, R314). -/
structure ReadyToIssue (s : State) (r : Run) (rest : List Run) : Prop where
  alive : s.dead = false
  quiet : s.due = [] ∧ (∀ x ∈ s.inputs, s.cycle.toNat < x.1) ∧ s.cycle.toNat % 4 ≠ 3
  head : s.runs = r :: rest ∧ r.sig ≠ .stall
  alone : ∀ x ∈ rest, (x.team, x.grp, x.helpers) ≠ (r.team, r.grp, r.helpers)
  word : r.due = none ∧ (teamLaunch s r.team).isHeader r.pc = false ∧ r.words < 24 ∧ kLong s r = false
  plain : budgetSpent s r = false ∧ ∀ c ∈ r.lanes, (laneTh s r c).resume = false
/-- A word of code that the run may fetch and reaches directly, in a line that its instruction cache holds (R105). -/
def CachedWord (s : State) (r : Run) (va : Dword) (w : Word) : Prop :=
  ∃ pa sa, checkGlobal s (envOf s r) .fetch false false 4 va = .ok pa sa ∧ Direct s pa 4 ∧
    ((getTeam s r.team).core, pa / 128 * 128) ∈ s.icache ∧ w = BitVec.ofNat 32 (seenNat s r.team pa 4)

/-- The stores of a thread, and of what a team holds, are in their canonical form. -/
def ThreadKept (th : Thread) : Prop := mapWf (.word 0) th.stk = true ∧ mapWf 0 th.acc = true
def CoreKept (tc : TeamCore) : Prop :=
  mapWf memDefault tc.scratch = true ∧
  (∀ g ∈ tc.groups, mapWf 0 g.x = true ∧ mapWf 0 g.freq = true ∧ ∀ th ∈ g.threads, ThreadKept th) ∧
  ∀ c ∈ tc.crews, ∀ h ∈ c.helpers, ThreadKept h.th
/-- The stores of the whole machine are in their canonical form, and identifiers in flight lie below the next. -/
def MapsKept (s : State) : Prop :=
  mapWf 0 s.bar = true ∧ mapWf 0 s.hist = true ∧ mapWf 0 s.nor.hist = true ∧ (∀ o ∈ s.ops, o.id < s.nextId) ∧
  ∀ t ∈ s.teams, CoreKept t.body ∧ ∀ b, t.snap = some b → CoreKept b

end Claims

end Sys2Proof
end

