-- ==== Sys2Proof/Certificates/Slice0/Obligations.lean ====
section
/-! DEFINITION. Statements for the provers. -/

open Sys2Proof Sys2Proof.Machine Sys2Proof.Claims


/-- ADD, SUB, ADDC, SUBB, NEG and ADDI complete, give every active lane the result of R240, push it, and with F write S,
Z, C and V of that rule; ADDC and SUBB read the carry of the guard's cc register even when F is clear. Every form is
covered: an n or h register or code 63 as destination, any readable source, a true or a false guard, F set or clear;
a uniform destination is UniformDestinationWritesOnce. Nothing else changes: no other thread, register, flag or byte
of memory (LaneChange). (R240) -/
def Obligations.IntegerAddSubtractResults : Prop :=
  (∀ o : RFmt, Gives2 (.add o) o.d o.a o.b o.f o.g (fun a b => a + b) fun a b => resultFlags (a + b) (decide (2 ^ 32 ≤ a.toNat + b.toNat)) (!fitsI32 (a.toInt + b.toInt))) ∧
  (∀ o : RFmt, Gives2 (.sub o) o.d o.a o.b o.f o.g (fun a b => a - b) fun a b => resultFlags (a - b) (decide (b.toNat ≤ a.toNat)) (!fitsI32 (a.toInt - b.toInt))) ∧
  (∀ o : RFmt, GivesCarry (.addc o) o (fun k a b => a + b + (BitVec.ofBool k).setWidth 32) fun k a b =>
    resultFlags (a + b + (BitVec.ofBool k).setWidth 32) (decide (2 ^ 32 ≤ a.toNat + b.toNat + k.toNat))
      (!fitsI32 (a.toInt + b.toInt + k.toNat))) ∧
  (∀ o : RFmt, GivesCarry (.subb o) o (fun k a b => a - b - (BitVec.ofBool (!k)).setWidth 32) fun k a b =>
    resultFlags (a - b - (BitVec.ofBool (!k)).setWidth 32) (decide (b.toNat + (!k).toNat ≤ a.toNat))
      (!fitsI32 (a.toInt - b.toInt - (!k).toNat))) ∧
  (∀ o : UFmt, Gives1 (.neg o) o.d o.a o.f o.g (fun a => -a) fun a => resultFlags (-a) (a == 0) (a == 0x80000000#32)) ∧
  (∀ o : IFmt, Moves1 (.addi o) o.d o.a fun a => a + o.imm.signExtend 32)

/-- MUL, MULH, MULHN, MAD, MULI and DOT4 complete and give every active lane the product of R241, or the sum of byte
products of R259, with the flags of those rules. Every form is covered: an n or h register or code 63 as
destination, any readable source, a true or a false guard, F set or clear; a uniform destination is
UniformDestinationWritesOnce. Nothing else changes: no other thread, register, flag or byte of memory (LaneChange).
(R241, R259) -/
def Obligations.IntegerMultiplyResults : Prop :=
  (∀ o : RFmt, Gives2 (.mul o) o.d o.a o.b o.f o.g (fun a b => a * b) fun a b => resultFlags (a * b) (false) (!fitsI32 (a.toInt * b.toInt))) ∧
  (∀ o : RFmt, Gives2 (.mulh o) o.d o.a o.b o.f o.g (fun a b => (a.signExtend 64 * b.signExtend 64).extractLsb' 32 32) fun a b => resultFlags ((a.signExtend 64 * b.signExtend 64).extractLsb' 32 32) (false) (false)) ∧
  (∀ o : RFmt, Gives2 (.mulhn o) o.d o.a o.b o.f o.g (fun a b => (a.setWidth 64 * b.setWidth 64).extractLsb' 32 32) fun a b => resultFlags ((a.setWidth 64 * b.setWidth 64).extractLsb' 32 32) (false) (false)) ∧
  (∀ o : TFmt, Gives3 (.mad o) o.d o.a o.b o.c o.f (fun a b c => a * b + c) fun a b c => resultFlags (a * b + c) (false) (false)) ∧
  (∀ o : IFmt, Moves1 (.muli o) o.d o.a fun a => a * o.imm.signExtend 32) ∧
  (∀ o : TFmt, Gives3 (.dot4 o) o.d o.a o.b o.c o.f (fun a b c => BitVec.ofInt 32 (c.toInt + byteDot a b)) fun a b c => resultFlags (BitVec.ofInt 32 (c.toInt + byteDot a b)) (false) (!fitsI32 (c.toInt + byteDot a b)))

/-- MIN, MAX, MINN, MAXN, ABS, ADDSAT and SUBSAT complete and give every active lane the result of R243 with its V; C is
clear. Every form is covered: an n or h register or code 63 as destination, any readable source, a true or a false
guard, F set or clear; a uniform destination is UniformDestinationWritesOnce. Nothing else changes: no other thread,
register, flag or byte of memory (LaneChange). (R243) -/
def Obligations.MinMaxAbsSaturatingResults : Prop :=
  (∀ o : RFmt, Gives2 (.min o) o.d o.a o.b o.f o.g (fun a b => if b.slt a then b else a) fun a b => resultFlags (if b.slt a then b else a) (false) (false)) ∧
  (∀ o : RFmt, Gives2 (.max o) o.d o.a o.b o.f o.g (fun a b => if a.slt b then b else a) fun a b => resultFlags (if a.slt b then b else a) (false) (false)) ∧
  (∀ o : RFmt, Gives2 (.minn o) o.d o.a o.b o.f o.g (fun a b => if b.ult a then b else a) fun a b => resultFlags (if b.ult a then b else a) (false) (false)) ∧
  (∀ o : RFmt, Gives2 (.maxn o) o.d o.a o.b o.f o.g (fun a b => if a.ult b then b else a) fun a b => resultFlags (if a.ult b then b else a) (false) (false)) ∧
  (∀ o : UFmt, Gives1 (.abs o) o.d o.a o.f o.g (fun a => if a.msb then -a else a) fun a => resultFlags (if a.msb then -a else a) (false) (a == 0x80000000#32)) ∧
  (∀ o : RFmt, Gives2 (.addsat o) o.d o.a o.b o.f o.g (fun a b => clampI32 (a.toInt + b.toInt)) fun a b => resultFlags (clampI32 (a.toInt + b.toInt)) (false) (!fitsI32 (a.toInt + b.toInt))) ∧
  (∀ o : RFmt, Gives2 (.subsat o) o.d o.a o.b o.f o.g (fun a b => clampI32 (a.toInt - b.toInt)) fun a b => resultFlags (clampI32 (a.toInt - b.toInt)) (false) (!fitsI32 (a.toInt - b.toInt)))

/-- AND, OR, XOR, ANDN, NOT, ANDI, ORI, XORI, SHL, SHR, SAR, ROT, SLA, SHLI, SHRI, SARI, ROTI, CLZ, POPC, BREV, BFX and
BFI complete and give every active lane the result of R244 to R247 with the flags of R239; SLA sets V when its
result was clamped. A register count of 32 or more shifts every bit out. Every form is covered: an n or h register
or code 63 as destination, any readable source, a true or a false guard, F set or clear; a uniform destination is
UniformDestinationWritesOnce. Nothing else changes: no other thread, register, flag or byte of memory (LaneChange).
(R244, R245, R246, R247) -/
def Obligations.LogicalShiftAndBitResults : Prop :=
  (∀ o : RFmt, Gives2 (.and o) o.d o.a o.b o.f o.g (fun a b => a &&& b) fun a b => resultFlags (a &&& b) (false) (false)) ∧
  (∀ o : RFmt, Gives2 (.or o) o.d o.a o.b o.f o.g (fun a b => a ||| b) fun a b => resultFlags (a ||| b) (false) (false)) ∧
  (∀ o : RFmt, Gives2 (.xor o) o.d o.a o.b o.f o.g (fun a b => a ^^^ b) fun a b => resultFlags (a ^^^ b) (false) (false)) ∧
  (∀ o : RFmt, Gives2 (.andn o) o.d o.a o.b o.f o.g (fun a b => a &&& ~~~b) fun a b => resultFlags (a &&& ~~~b) (false) (false)) ∧
  (∀ o : UFmt, Gives1 (.not o) o.d o.a o.f o.g (fun a => ~~~a) fun a => resultFlags (~~~a) (false) (false)) ∧
  (∀ o : IFmt, Moves1 (.andi o) o.d o.a fun a => a &&& o.imm.setWidth 32) ∧
  (∀ o : IFmt, Moves1 (.ori o) o.d o.a fun a => a ||| o.imm.setWidth 32) ∧
  (∀ o : IFmt, Moves1 (.xori o) o.d o.a fun a => a ^^^ o.imm.setWidth 32) ∧
  (∀ o : RFmt, Gives2 (.shl o) o.d o.a o.b o.f o.g (fun a b => a <<< b.toNat) fun a b => resultFlags (a <<< b.toNat) (false) (false)) ∧
  (∀ o : RFmt, Gives2 (.shr o) o.d o.a o.b o.f o.g (fun a b => a >>> b.toNat) fun a b => resultFlags (a >>> b.toNat) (false) (false)) ∧
  (∀ o : RFmt, Gives2 (.sar o) o.d o.a o.b o.f o.g (fun a b => a.sshiftRight b.toNat) fun a b => resultFlags (a.sshiftRight b.toNat) (false) (false)) ∧
  (∀ o : RFmt, Gives2 (.rot o) o.d o.a o.b o.f o.g (fun a b => a.rotateLeft (b.toNat % 32)) fun a b => resultFlags (a.rotateLeft (b.toNat % 32)) (false) (false)) ∧
  (∀ o : RFmt, Gives2 (.sla o) o.d o.a o.b o.f o.g (fun a b => clampI32 (a.toInt * 2 ^ min b.toNat 32)) fun a b => resultFlags (clampI32 (a.toInt * 2 ^ min b.toNat 32)) (false) (!fitsI32 (a.toInt * 2 ^ min b.toNat 32))) ∧
  (∀ o : ShFmt, Moves1 (.shli o) o.d o.a fun a => a <<< o.n.toNat) ∧
  (∀ o : ShFmt, Moves1 (.shri o) o.d o.a fun a => a >>> o.n.toNat) ∧
  (∀ o : ShFmt, Moves1 (.sari o) o.d o.a fun a => a.sshiftRight o.n.toNat) ∧
  (∀ o : ShFmt, Moves1 (.roti o) o.d o.a fun a => a.rotateLeft o.n.toNat) ∧
  (∀ o : UFmt, Gives1 (.clz o) o.d o.a o.f o.g (fun a => leadingZeros a) fun a => resultFlags (leadingZeros a) (false) (false)) ∧
  (∀ o : UFmt, Gives1 (.popc o) o.d o.a o.f o.g (fun a => setBits a) fun a => resultFlags (setBits a) (false) (false)) ∧
  (∀ o : UFmt, Gives1 (.brev o) o.d o.a o.f o.g (fun a => a.reverse) fun a => resultFlags (a.reverse) (false) (false)) ∧
  (∀ o : RFmt, Gives2 (.bfx o) o.d o.a o.b o.f o.g (fun a b => extractField a b) fun a b => resultFlags (extractField a b) (false) (false)) ∧
  (∀ o : TFmt, Gives3 (.bfi o) o.d o.a o.b o.c o.f (fun a b c => insertField a b c) fun a b c => resultFlags (insertField a b c) (false) (false))

/-- CMP, CMPN, TST, FCMP and CMPI complete, write the selected cc register with the flags of R248 and R253 in every lane
whose guard holds, push nothing, and change nothing else. (R248, R253) -/
def Obligations.CompareFlags : Prop :=
  (∀ o : CmpFmt, Compares (.cmp o) o.cc o.a o.b o.g fun a b =>
    ⟨(a - b).msb, a == b, decide (b.toNat ≤ a.toNat), !fitsI32 (a.toInt - b.toInt)⟩) ∧
  (∀ o : CmpFmt, Compares (.cmpn o) o.cc o.a o.b o.g fun a b => ⟨decide (a.toNat < b.toNat), a == b, decide (b.toNat ≤ a.toNat), false⟩) ∧
  (∀ o : CmpFmt, Compares (.tst o) o.cc o.a o.b o.g fun a b => ⟨(a &&& b).msb, (a &&& b) == 0, false, false⟩) ∧
  (∀ o : CmpFmt, Compares (.fcmp o) o.cc o.a o.b o.g fun a b =>
    if isNanW a ∨ isNanW b then ⟨false, false, true, true⟩
    else if ltF (valF a) (valF b) then ⟨true, false, false, false⟩
    else if ltF (valF b) (valF a) then ⟨false, false, true, false⟩ else ⟨false, true, true, false⟩) ∧
  (∀ o : CmpiFmt, Compares (.cmpi o) o.cc o.a o.a noGuard fun a _ =>
    ⟨(a - o.imm.signExtend 32).msb, a == o.imm.signExtend 32, decide ((o.imm.signExtend 32).toNat ≤ a.toNat),
      !fitsI32 (a.toInt - (o.imm.signExtend 32).toInt)⟩)

/-- SEL gives every active lane a where its condition holds and b elsewhere, reading both; MOV copies; MOVI gives its
sign-extended immediate and LDHI its immediate in bits [31:13] (R249, R250). Each pushes its result and changes
nothing else. (R250) -/
def Obligations.SelectAndMoveResults : Prop :=
  (∀ (o : SelFmt) s r rest (on : Nat → Bool) (x y : Nat → Word), Issuing s r rest → (∀ c ∈ r.lanes, DstHere (laneTh s r c) o.d) →
    (∀ c ∈ r.lanes, guardTrue s r c o.g = .ok (on c)) →
    (∀ c ∈ r.lanes, readSrc s r c o.a = .ok (x c) ∧ readSrc s r c o.b = .ok (y c)) →
    LaneAct (.sel o) s r rest fun c th => give1 th o.d (.word (if on c then x c else y c))) ∧
  (∀ o : UFmt, Gives1 (.mov o) o.d o.a o.f o.g (fun a => a) fun a => resultFlags a false false) ∧
  (∀ (o : MoviFmt) s r rest, Issuing s r rest → (∀ c ∈ r.lanes, DstHere (laneTh s r c) o.d) →
    LaneAct (.movi o) s r rest fun _ th => give1 th o.d (.word (o.imm.signExtend 32))) ∧
  (∀ (o : LFmt) s r rest, Issuing s r rest → (∀ c ∈ r.lanes, DstHere (laneTh s r c) o.d) →
    LaneAct (.ldhi o) s r rest fun _ th => give1 th o.d (.word (o.imm.setWidth 32 <<< 13)))

/-- FADD, FSUB, FMUL, FFMA, FMIN, FMAX, FSGN, FRND and FCLASS complete and give every active lane the result of R251,
R252 and R254: the exact value of the operands rounded once, a NaN made canonical, with S from bit 31, Z for a zero
of either sign, C clear and V for a NaN; FCLASS uses the integer flags. The exact operations on unpacked values are
those of Machine/Float.lean. Every form is covered: an n or h register or code 63 as destination, any readable
source, a true or a false guard, F set or clear; a uniform destination is UniformDestinationWritesOnce. Nothing else
changes: no other thread, register, flag or byte of memory (LaneChange). (R252) -/
def Obligations.FloatArithmeticResults : Prop :=
  (∀ o : RFmt, Gives2 (.fadd o) o.d o.a o.b o.f o.g (fun a b => roundFp32 ((valF a).add (valF b))) fun a b => floatFlags (roundFp32 ((valF a).add (valF b)))) ∧
  (∀ o : RFmt, Gives2 (.fsub o) o.d o.a o.b o.f o.g (fun a b => roundFp32 ((valF a).sub (valF b))) fun a b => floatFlags (roundFp32 ((valF a).sub (valF b)))) ∧
  (∀ o : RFmt, Gives2 (.fmul o) o.d o.a o.b o.f o.g (fun a b => roundFp32 ((valF a).mul (valF b))) fun a b => floatFlags (roundFp32 ((valF a).mul (valF b)))) ∧
  (∀ o : TFmt, Gives3 (.ffma o) o.d o.a o.b o.c o.f (fun a b c => roundFp32 (((valF a).mul (valF b)).add (valF c))) fun a b c => floatFlags (roundFp32 (((valF a).mul (valF b)).add (valF c)))) ∧
  (∀ o : RFmt, Gives2 (.fmin o) o.d o.a o.b o.f o.g (fun a b => floatMin a b) fun a b => floatFlags (floatMin a b)) ∧
  (∀ o : RFmt, Gives2 (.fmax o) o.d o.a o.b o.f o.g (fun a b => floatMax a b) fun a b => floatFlags (floatMax a b)) ∧
  (∀ o : RFmt, Gives2 (.fsgn o) o.d o.a o.b o.f o.g (fun a b => if isNanW a then 0x7FC00000#32 else (a &&& 0x7FFFFFFF#32) ||| (b &&& 0x80000000#32)) fun a b => floatFlags (if isNanW a then 0x7FC00000#32 else (a &&& 0x7FFFFFFF#32) ||| (b &&& 0x80000000#32))) ∧
  (∀ o : FrndFmt, Gives1 (.frnd o) o.d o.a o.f o.g (fun a => roundFp32 (frndBits o.rm a)) fun a => floatFlags (roundFp32 (frndBits o.rm a))) ∧
  (∀ o : UFmt, Gives1 (.fclass o) o.d o.a o.f o.g (fun a => BitVec.ofNat 32 (2 ^ fclassBit a)) fun a => resultFlags (BitVec.ofNat 32 (2 ^ fclassBit a)) false false)

/-- PRADD, PRSUB, PRMUL, PRMIN, PRMAX and PRFMA work on the two 16-bit halves alone, each rounded once to the named
format (R255). CVT converts one or two source words to one or two result words (R256), a 64-bit result being pushed
high word first. PACK shifts one element in at the top, UNPK and BFPX extract one element (R257), and BFPQ.EXP
quantises each lane's value against the exponent of srcB and counts its saturations in SAT_TEAM (R258; with E = 0 and
an x that is Inf or NaN the clause for x decides, log entry 123). None writes
flags, and nothing else changes. (R255) -/
def Obligations.PackedConvertAndNarrowResults : Prop :=
  (∀ o : PrFmt, Moves2 (.pradd o) o.d o.a o.b fun a b => eachHalf (fun x y => roundF (halfFmt o.ty) .rne ((unpackF (halfFmt o.ty) x).add (unpackF (halfFmt o.ty) y))) a b) ∧
  (∀ o : PrFmt, Moves2 (.prsub o) o.d o.a o.b fun a b => eachHalf (fun x y => roundF (halfFmt o.ty) .rne ((unpackF (halfFmt o.ty) x).sub (unpackF (halfFmt o.ty) y))) a b) ∧
  (∀ o : PrFmt, Moves2 (.prmul o) o.d o.a o.b fun a b => eachHalf (fun x y => roundF (halfFmt o.ty) .rne ((unpackF (halfFmt o.ty) x).mul (unpackF (halfFmt o.ty) y))) a b) ∧
  (∀ o : PrFmt, Moves2 (.prmin o) o.d o.a o.b fun a b => eachHalf (fun x y => minMaxBits (halfFmt o.ty) true x y) a b) ∧
  (∀ o : PrFmt, Moves2 (.prmax o) o.d o.a o.b fun a b => eachHalf (fun x y => minMaxBits (halfFmt o.ty) false x y) a b) ∧
  (∀ (o : T0Fmt) s r rest (x y z : Nat → Word), Issuing s r rest → (∀ c ∈ r.lanes, DstHere (laneTh s r c) o.d) →
    (∀ c ∈ r.lanes, readSrc s r c o.a = .ok (x c) ∧ readSrc s r c o.b = .ok (y c) ∧ readSrc s r c o.c = .ok (z c)) →
    LaneAct (.prfmaF16 o) s r rest fun c th => give1 th o.d (.word (halvesFma fp16 (x c) (y c) (z c)))) ∧
  (∀ (o : T0Fmt) s r rest (x y z : Nat → Word), Issuing s r rest → (∀ c ∈ r.lanes, DstHere (laneTh s r c) o.d) →
    (∀ c ∈ r.lanes, readSrc s r c o.a = .ok (x c) ∧ readSrc s r c o.b = .ok (y c) ∧ readSrc s r c o.c = .ok (z c)) →
    LaneAct (.prfmaB16 o) s r rest fun c th => give1 th o.d (.word (halvesFma bf16 (x c) (y c) (z c)))) ∧
  (∀ (o : VFmt) s r rest (x : Nat → Nat), Issuing s r rest → (∀ c ∈ r.lanes, DstHere (laneTh s r c) o.d) →
    (∀ c ∈ r.lanes, if o.src.is64 then ∃ v, readSrc64 s r c o.a = .ok v ∧ x c = v.toNat
      else ∃ v, readSrc s r c o.a = .ok v ∧ x c = v.toNat) →
    LaneAct (.cvt o) s r rest fun c th =>
      let v := cvtValue o.src o.dst o.rm o.sat (x c)
      if o.dst.is64 then give2 th o.d (.word (v.extractLsb' 0 32)) (.word (v.extractLsb' 32 32))
      else give1 th o.d (.word (v.extractLsb' 0 32))) ∧
  (∀ o : NarFmt, Moves2 (.pack o) o.d o.a o.b fun a b => packedIn (widthOf o.w) (if o.o then clampTo (widthOf o.w) b.toInt else b.toNat) a) ∧
  (∀ o : NarFmt, Moves2 (.unpk o) o.d o.a o.b fun a b => unpackedAt (widthOf o.w) (if o.o then 8 - widthOf o.w else 0) a (b.toNat % 32)) ∧
  (∀ o : NarFmt, Moves2 (.bfpx o) o.d o.a o.b fun a b => BitVec.ofNat 32 (roundF (if o.o then fp16 else fp32) .rne (expandAt (widthOf o.w) (b.toNat / 2 ^ 24) a (b.toNat % 32)))) ∧
  (∀ (o : NarFmt) s r rest (x y : Nat → Word), o.o = true → Issuing s r rest → (∀ c ∈ r.lanes, DstHere (laneTh s r c) o.d) →
    (∀ c ∈ r.lanes, readSrc s r c o.a = .ok (x c) ∧ readSrc s r c o.b = .ok (y c)) →
    ∃ t, exec (.bfpq o) s = .next (addSat t r.team ((r.lanes.map fun c => (bfpqExp (widthOf o.w) (x c) (y c)).2).foldl (· + ·) 0)) ∧
      LaneChange s r rest (fun c th => give1 th o.d (.word (bfpqExp (widthOf o.w) (x c) (y c)).1)) t)

/-- DIV, DIVN, REM, REMN, FDIV, FRCP, FSQRT, FRSQ, FEXP2, FLOG2, FSIN and FCOS complete at issue: in every lane with a
true guard the destination, a pushed queue entry and, with F, the cc register become pending on one new operation,
which carries the lanes' results (R50, R55, R242) and flags; a false guard pushes the old value and waits for
nothing (R236). A zero divisor gives R50's values and sets V. Nothing else changes. (R242) -/
def Obligations.LongLatencyIssueAndValue : Prop :=
  (∀ (o : RFmt) s r rest on (x y : Nat → Word), Issuing s r rest → LanesReady s r o.d o.f o.g on →
    (∀ c ∈ r.lanes, on c = true → readSrc s r c o.a = .ok (x c) ∧ readSrc s r c o.b = .ok (y c)) →
    LaterResults (.div o) s r rest o.d o.f o.g on (fun c => (fun a b => if b = 0 then (if a.msb then 0x80000001#32 else 0x7FFFFFFF#32) else a.sdiv b) (x c) (y c)) fun c => (fun a b => resultFlags (if b = 0 then (if a.msb then 0x80000001#32 else 0x7FFFFFFF#32) else a.sdiv b) false (b == 0 || (a == 0x80000000#32 && b == 0xFFFFFFFF#32))) (x c) (y c)) ∧
  (∀ (o : RFmt) s r rest on (x y : Nat → Word), Issuing s r rest → LanesReady s r o.d o.f o.g on →
    (∀ c ∈ r.lanes, on c = true → readSrc s r c o.a = .ok (x c) ∧ readSrc s r c o.b = .ok (y c)) →
    LaterResults (.divn o) s r rest o.d o.f o.g on (fun c => (fun a b => if b = 0 then 0xFFFFFFFF#32 else a / b) (x c) (y c)) fun c => (fun a b => resultFlags (if b = 0 then 0xFFFFFFFF#32 else a / b) false (b == 0)) (x c) (y c)) ∧
  (∀ (o : RFmt) s r rest on (x y : Nat → Word), Issuing s r rest → LanesReady s r o.d o.f o.g on →
    (∀ c ∈ r.lanes, on c = true → readSrc s r c o.a = .ok (x c) ∧ readSrc s r c o.b = .ok (y c)) →
    LaterResults (.rem o) s r rest o.d o.f o.g on (fun c => (fun a b => if b = 0 then a else a.srem b) (x c) (y c)) fun c => (fun a b => resultFlags (if b = 0 then a else a.srem b) false (b == 0 || (a == 0x80000000#32 && b == 0xFFFFFFFF#32))) (x c) (y c)) ∧
  (∀ (o : RFmt) s r rest on (x y : Nat → Word), Issuing s r rest → LanesReady s r o.d o.f o.g on →
    (∀ c ∈ r.lanes, on c = true → readSrc s r c o.a = .ok (x c) ∧ readSrc s r c o.b = .ok (y c)) →
    LaterResults (.remn o) s r rest o.d o.f o.g on (fun c => (fun a b => a % b) (x c) (y c)) fun c => (fun a b => resultFlags (a % b) false (b == 0)) (x c) (y c)) ∧
  (∀ (o : RFmt) s r rest on (x y : Nat → Word), Issuing s r rest → LanesReady s r o.d o.f o.g on →
    (∀ c ∈ r.lanes, on c = true → readSrc s r c o.a = .ok (x c) ∧ readSrc s r c o.b = .ok (y c)) →
    LaterResults (.fdiv o) s r rest o.d o.f o.g on (fun c => (fun a b => roundFp32 ((valF a).div (valF b))) (x c) (y c)) fun c => (fun a b => floatFlags (roundFp32 ((valF a).div (valF b)))) (x c) (y c)) ∧
  (∀ (o : UFmt) s r rest on (x : Nat → Word), Issuing s r rest → LanesReady s r o.d o.f o.g on →
    (∀ c ∈ r.lanes, on c = true → readSrc s r c o.a = .ok (x c)) →
    LaterResults (.frcp o) s r rest o.d o.f o.g on (fun c => roundFp32 (valF (x c)).rcp) fun c => floatFlags (roundFp32 (valF (x c)).rcp)) ∧
  (∀ (o : UFmt) s r rest on (x : Nat → Word), Issuing s r rest → LanesReady s r o.d o.f o.g on →
    (∀ c ∈ r.lanes, on c = true → readSrc s r c o.a = .ok (x c)) →
    LaterResults (.fsqrt o) s r rest o.d o.f o.g on (fun c => roundFp32 (valF (x c)).sqrt) fun c => floatFlags (roundFp32 (valF (x c)).sqrt)) ∧
  (∀ (o : UFmt) s r rest on (x : Nat → Word), Issuing s r rest → LanesReady s r o.d o.f o.g on →
    (∀ c ∈ r.lanes, on c = true → readSrc s r c o.a = .ok (x c)) →
    LaterResults (.frsq o) s r rest o.d o.f o.g on (fun c => roundFp32 (valF (x c)).rsqrt) fun c => floatFlags (roundFp32 (valF (x c)).rsqrt)) ∧
  (∀ (o : UFmt) s r rest on (x : Nat → Word), Issuing s r rest → LanesReady s r o.d o.f o.g on →
    (∀ c ∈ r.lanes, on c = true → readSrc s r c o.a = .ok (x c)) →
    LaterResults (.fexp2 o) s r rest o.d o.f o.g on (fun c => roundFp32 (valF (x c)).exp2) fun c => floatFlags (roundFp32 (valF (x c)).exp2)) ∧
  (∀ (o : UFmt) s r rest on (x : Nat → Word), Issuing s r rest → LanesReady s r o.d o.f o.g on →
    (∀ c ∈ r.lanes, on c = true → readSrc s r c o.a = .ok (x c)) →
    LaterResults (.flog2 o) s r rest o.d o.f o.g on (fun c => roundFp32 (valF (x c)).log2) fun c => floatFlags (roundFp32 (valF (x c)).log2)) ∧
  (∀ (o : UFmt) s r rest on (x : Nat → Word), Issuing s r rest → LanesReady s r o.d o.f o.g on →
    (∀ c ∈ r.lanes, on c = true → readSrc s r c o.a = .ok (x c)) →
    LaterResults (.fsin o) s r rest o.d o.f o.g on (fun c => roundFp32 (valF (x c)).sin) fun c => floatFlags (roundFp32 (valF (x c)).sin)) ∧
  (∀ (o : UFmt) s r rest on (x : Nat → Word), Issuing s r rest → LanesReady s r o.d o.f o.g on →
    (∀ c ∈ r.lanes, on c = true → readSrc s r c o.a = .ok (x c)) →
    LaterResults (.fcos o) s r rest o.d o.f o.g on (fun c => roundFp32 (valF (x c)).cos) fun c => floatFlags (roundFp32 (valF (x c)).cos))

/-- RELAY gives each lane the value of the active lane that its mode and srcB name, and its own value where that lane is
inactive or outside the group (R262). CENSUS, REDG, SCANG, PEERS and LEADER give the results of R263 to R265 over
the active lanes, in the order of the run's lanes. BFPQ without .EXP forms one block of the group's 32 values, an
inactive thread giving +0, and counts saturations in SAT_TEAM (R258). Each pushes its result, writes no flags and
changes nothing else. Where a lane is in a crew body, or with a k destination, each raises illegal-instruction instead,
in the lowest such lane (R237, R261). (R262,
R264, R265) -/
def Obligations.CrossThreadResults : Prop :=
  (∀ (o : RelayFmt) s r rest (x y : Nat → Word), CrossReady s r rest o.d → (∀ c ∈ r.lanes, readSrc s r c o.a = .ok (x c) ∧ readSrc s r c o.b = .ok (y c)) →
    LaneAct (.relay o) s r rest fun c th => give1 th o.d (.word ((relayedFrom o.mode c (y c)).elim (x c) fun j => if j ∈ r.lanes then x j else x c))) ∧
  (∀ (o : CensusFmt) s r rest (x : Nat → Word), CrossReady s r rest o.d → (∀ c ∈ r.lanes, readSrc s r c o.a = .ok (x c)) →
    LaneAct (.census o) s r rest fun _ th => give1 th o.d (.word (match o.mode with
      | .every => if ∀ j ∈ r.lanes, x j ≠ 0 then 1 else 0
      | .some => if ∃ j ∈ r.lanes, x j ≠ 0 then 1 else 0
      | .mask => maskOf (r.lanes.filter fun j => x j != 0)
      | .live => maskOf r.lanes))) ∧
  (∀ (o : CensusFmt) s r rest, o.mode = .live → CrossReady s r rest o.d →
    LaneAct (.census o) s r rest fun _ th => give1 th o.d (.word (maskOf r.lanes))) ∧
  (∀ (o : RedFmt) s r rest (x : Nat → Word), CrossReady s r rest o.d → (∀ c ∈ r.lanes, readSrc s r c o.a = .ok (x c)) →
    LaneAct (.redg o) s r rest fun _ th => give1 th o.d (.word (redFold o.mode (r.lanes.map x)))) ∧
  (∀ (o : RedFmt) s r rest (x : Nat → Word), CrossReady s r rest o.d → (∀ c ∈ r.lanes, readSrc s r c o.a = .ok (x c)) →
    LaneAct (.scang o) s r rest fun c th => give1 th o.d (.word (redFold o.mode ((r.lanes.filter (· ≤ c)).map x)))) ∧
  (∀ (o : PeersFmt) s r rest (x : Nat → Word), CrossReady s r rest o.d → (∀ c ∈ r.lanes, readSrc s r c o.a = .ok (x c)) →
    LaneAct (.peers o) s r rest fun c th => give1 th o.d (.word (match o.mode with
      | .eq => maskOf (r.lanes.filter fun j => x j == x c)
      | .uniform => if ∀ j ∈ r.lanes, x j = x c then maskOf r.lanes else 0))) ∧
  (∀ (o : LeaderFmt) s r rest, CrossReady s r rest o.d →
    LaneAct (.leader o) s r rest fun c th => give1 th o.d (.word (match o.mode with
      | .flag => if c = r.lowest then 1 else 0
      | .id => BitVec.ofNat 32 r.lowest))) ∧
  (∀ (o : NarFmt) s r rest (x : Nat → Word), o.o = false → CrossReady s r rest o.d → (∀ c ∈ r.lanes, readSrc s r c o.a = .ok (x c)) →
    let block := formBlock ((List.range 32).map fun j => valF (if j ∈ r.lanes then x j else 0))
    let narrow := narrowBlock (widthOf o.w) block.1
    ∃ t, exec (.bfpq o) s = .next (addSat t r.team (block.2 + narrow.2)) ∧
      LaneChange s r rest (fun c th => give1 th o.d (.word (bfpqWord block.1.e (narrow.1.getD c 0)))) t) ∧
  (∀ i (d : Dst) s r rest, s.runs = r :: rest →
    (∃ o : RelayFmt, i = .relay o ∧ o.d = d) ∨ (∃ o : CensusFmt, i = .census o ∧ o.d = d) ∨
      (∃ o : RedFmt, (i = .redg o ∨ i = .scang o) ∧ o.d = d) ∨ (∃ o : PeersFmt, i = .peers o ∧ o.d = d) ∨
      (∃ o : LeaderFmt, i = .leader o ∧ o.d = d) ∨ (∃ o : NarFmt, i = .bfpq o ∧ o.o = false ∧ o.d = d) →
    (∀ c, r.lanes.find? (fun c => (laneTh s r c).inBody) = some c → Raises i s r rest c 0x01 0 (BitVec.ofNat 32 (repNumber s r))) ∧
    ((∀ c ∈ r.lanes, (laneTh s r c).inBody = false) → d.isK = true →
      Raises i s r rest r.lowest 0x01 0 (BitVec.ofNat 32 (repNumber s r))))

/-- Outside crew bodies, a lane instruction whose destination is a k register, whose sources are k registers, whose
guard is AL and whose F bit is clear writes its result to that register of the group once, pushes nothing, and
changes nothing else (R80, R218, R235). A long-latency instruction leaves the register pending on one operation that
carries the result. Stated for every instruction that takes such a destination; the operands are read in the lowest
active lane, where every lane reads the same. (spec/11_isa_lane.md (R235), spec/10_encoding.md (R218)) -/
def Obligations.UniformDestinationWritesOnce : Prop :=
  (∀ k a b cc, UniformGives2 (.add ⟨.k k, a, b, false, ⟨cc, .al⟩⟩) k a b fun a b => a + b) ∧
  (∀ k a b cc, UniformGives2 (.sub ⟨.k k, a, b, false, ⟨cc, .al⟩⟩) k a b fun a b => a - b) ∧
  (∀ k a b cc, UniformGives2 (.mul ⟨.k k, a, b, false, ⟨cc, .al⟩⟩) k a b fun a b => a * b) ∧
  (∀ k a b cc, UniformGives2 (.and ⟨.k k, a, b, false, ⟨cc, .al⟩⟩) k a b fun a b => a &&& b) ∧
  (∀ k a b cc, UniformGives2 (.or ⟨.k k, a, b, false, ⟨cc, .al⟩⟩) k a b fun a b => a ||| b) ∧
  (∀ k a b cc, UniformGives2 (.xor ⟨.k k, a, b, false, ⟨cc, .al⟩⟩) k a b fun a b => a ^^^ b) ∧
  (∀ k a b cc, UniformGives2 (.andn ⟨.k k, a, b, false, ⟨cc, .al⟩⟩) k a b fun a b => a &&& ~~~b) ∧
  (∀ k a b cc, UniformGives2 (.mulh ⟨.k k, a, b, false, ⟨cc, .al⟩⟩) k a b fun a b => (a.signExtend 64 * b.signExtend 64).extractLsb' 32 32) ∧
  (∀ k a b cc, UniformGives2 (.mulhn ⟨.k k, a, b, false, ⟨cc, .al⟩⟩) k a b fun a b => (a.setWidth 64 * b.setWidth 64).extractLsb' 32 32) ∧
  (∀ k a b cc, UniformGives2 (.min ⟨.k k, a, b, false, ⟨cc, .al⟩⟩) k a b fun a b => if b.slt a then b else a) ∧
  (∀ k a b cc, UniformGives2 (.max ⟨.k k, a, b, false, ⟨cc, .al⟩⟩) k a b fun a b => if a.slt b then b else a) ∧
  (∀ k a b cc, UniformGives2 (.minn ⟨.k k, a, b, false, ⟨cc, .al⟩⟩) k a b fun a b => if b.ult a then b else a) ∧
  (∀ k a b cc, UniformGives2 (.maxn ⟨.k k, a, b, false, ⟨cc, .al⟩⟩) k a b fun a b => if a.ult b then b else a) ∧
  (∀ k a b cc, UniformGives2 (.addsat ⟨.k k, a, b, false, ⟨cc, .al⟩⟩) k a b fun a b => clampI32 (a.toInt + b.toInt)) ∧
  (∀ k a b cc, UniformGives2 (.subsat ⟨.k k, a, b, false, ⟨cc, .al⟩⟩) k a b fun a b => clampI32 (a.toInt - b.toInt)) ∧
  (∀ k a b cc, UniformGives2 (.sla ⟨.k k, a, b, false, ⟨cc, .al⟩⟩) k a b fun a b => clampI32 (a.toInt * 2 ^ min b.toNat 32)) ∧
  (∀ k a b cc, UniformGives2 (.shl ⟨.k k, a, b, false, ⟨cc, .al⟩⟩) k a b fun a b => a <<< b.toNat) ∧
  (∀ k a b cc, UniformGives2 (.shr ⟨.k k, a, b, false, ⟨cc, .al⟩⟩) k a b fun a b => a >>> b.toNat) ∧
  (∀ k a b cc, UniformGives2 (.sar ⟨.k k, a, b, false, ⟨cc, .al⟩⟩) k a b fun a b => a.sshiftRight b.toNat) ∧
  (∀ k a b cc, UniformGives2 (.rot ⟨.k k, a, b, false, ⟨cc, .al⟩⟩) k a b fun a b => a.rotateLeft (b.toNat % 32)) ∧
  (∀ k a b cc, UniformGives2 (.bfx ⟨.k k, a, b, false, ⟨cc, .al⟩⟩) k a b fun a b => extractField a b) ∧
  (∀ k a b cc, UniformGives2 (.fadd ⟨.k k, a, b, false, ⟨cc, .al⟩⟩) k a b fun a b => roundFp32 ((valF a).add (valF b))) ∧
  (∀ k a b cc, UniformGives2 (.fsub ⟨.k k, a, b, false, ⟨cc, .al⟩⟩) k a b fun a b => roundFp32 ((valF a).sub (valF b))) ∧
  (∀ k a b cc, UniformGives2 (.fmul ⟨.k k, a, b, false, ⟨cc, .al⟩⟩) k a b fun a b => roundFp32 ((valF a).mul (valF b))) ∧
  (∀ k a b cc, UniformGives2 (.fmin ⟨.k k, a, b, false, ⟨cc, .al⟩⟩) k a b fun a b => floatMin a b) ∧
  (∀ k a b cc, UniformGives2 (.fmax ⟨.k k, a, b, false, ⟨cc, .al⟩⟩) k a b fun a b => floatMax a b) ∧
  (∀ k a cc, UniformGives1 (.neg ⟨.k k, a, false, ⟨cc, .al⟩⟩) k a fun a => -a) ∧
  (∀ k a cc, UniformGives1 (.abs ⟨.k k, a, false, ⟨cc, .al⟩⟩) k a fun a => if a.msb then -a else a) ∧
  (∀ k a cc, UniformGives1 (.not ⟨.k k, a, false, ⟨cc, .al⟩⟩) k a fun a => ~~~a) ∧
  (∀ k a cc, UniformGives1 (.clz ⟨.k k, a, false, ⟨cc, .al⟩⟩) k a fun a => leadingZeros a) ∧
  (∀ k a cc, UniformGives1 (.popc ⟨.k k, a, false, ⟨cc, .al⟩⟩) k a fun a => setBits a) ∧
  (∀ k a cc, UniformGives1 (.brev ⟨.k k, a, false, ⟨cc, .al⟩⟩) k a fun a => a.reverse) ∧
  (∀ k a cc, UniformGives1 (.mov ⟨.k k, a, false, ⟨cc, .al⟩⟩) k a fun a => a) ∧
  (∀ k a (m : BitVec 13), UniformGives1 (.addi ⟨.k k, a, m⟩) k a fun a => a + m.signExtend 32) ∧
  (∀ k a (m : BitVec 13), UniformGives1 (.muli ⟨.k k, a, m⟩) k a fun a => a * m.signExtend 32) ∧
  (∀ k a (m : BitVec 13), UniformGives1 (.andi ⟨.k k, a, m⟩) k a fun a => a &&& m.setWidth 32) ∧
  (∀ k a (m : BitVec 13), UniformGives1 (.ori ⟨.k k, a, m⟩) k a fun a => a ||| m.setWidth 32) ∧
  (∀ k a (m : BitVec 13), UniformGives1 (.xori ⟨.k k, a, m⟩) k a fun a => a ^^^ m.setWidth 32) ∧
  (∀ k a (m : BitVec 5), UniformGives1 (.shli ⟨.k k, a, m⟩) k a fun a => a <<< m.toNat) ∧
  (∀ k a (m : BitVec 5), UniformGives1 (.shri ⟨.k k, a, m⟩) k a fun a => a >>> m.toNat) ∧
  (∀ k a (m : BitVec 5), UniformGives1 (.sari ⟨.k k, a, m⟩) k a fun a => a.sshiftRight m.toNat) ∧
  (∀ k a (m : BitVec 5), UniformGives1 (.roti ⟨.k k, a, m⟩) k a fun a => a.rotateLeft m.toNat) ∧
  (∀ k a b c, UniformGives3 (.mad ⟨.k k, a, b, c, false⟩) k a b c fun a b c => a * b + c) ∧
  (∀ k a b c, UniformGives3 (.bfi ⟨.k k, a, b, c, false⟩) k a b c fun a b c => insertField a b c) ∧
  (∀ k a b c, UniformGives3 (.dot4 ⟨.k k, a, b, c, false⟩) k a b c fun a b c => BitVec.ofInt 32 (c.toInt + byteDot a b)) ∧
  (∀ k a b c, UniformGives3 (.ffma ⟨.k k, a, b, c, false⟩) k a b c fun a b c => roundFp32 (((valF a).mul (valF b)).add (valF c))) ∧
  (∀ k a b cc, UniformGives2 (.fsgn ⟨.k k, a, b, false, ⟨cc, .al⟩⟩) k a b fun a b => if isNanW a then 0x7FC00000#32 else (a &&& 0x7FFFFFFF#32) ||| (b &&& 0x80000000#32)) ∧
  (∀ k a cc, UniformGives1 (.fclass ⟨.k k, a, false, ⟨cc, .al⟩⟩) k a fun a => BitVec.ofNat 32 (2 ^ fclassBit a)) ∧
  (∀ k a rm cc, UniformGives1 (.frnd ⟨.k k, a, rm, false, ⟨cc, .al⟩⟩) k a fun a => roundFp32 (frndBits rm a)) ∧
  (∀ k a b ty, UniformGives2 (.prsub ⟨.k k, a, b, ty⟩) k a b fun a b => eachHalf (fun x y => roundF (halfFmt ty) .rne ((unpackF (halfFmt ty) x).sub (unpackF (halfFmt ty) y))) a b) ∧
  (∀ k a b ty, UniformGives2 (.prmin ⟨.k k, a, b, ty⟩) k a b fun a b => eachHalf (minMaxBits (halfFmt ty) true) a b) ∧
  (∀ k a b ty, UniformGives2 (.prmax ⟨.k k, a, b, ty⟩) k a b fun a b => eachHalf (minMaxBits (halfFmt ty) false) a b) ∧
  (∀ k a b w e, UniformGives2 (.unpk ⟨.k k, a, b, w, e⟩) k a b fun a b => unpackedAt (widthOf w) (if e then 8 - widthOf w else 0) a (b.toNat % 32)) ∧
  (∀ k a b w e, UniformGives2 (.bfpx ⟨.k k, a, b, w, e⟩) k a b fun a b => BitVec.ofNat 32 (roundF (if e then fp16 else fp32) .rne (expandAt (widthOf w) (b.toNat / 2 ^ 24) a (b.toNat % 32)))) ∧
  (∀ s r rest k a b cc (f : Flags) x y, UniformReady s r rest → a.isK = true → b.isK = true → readCc s r r.lowest cc = .ok f →
    readSrc s r r.lowest a = .ok x → readSrc s r r.lowest b = .ok y →
    Uniform (.subb ⟨.k k, a, b, false, ⟨cc, .al⟩⟩) s r rest k (x - y - (BitVec.ofBool (!f.c)).setWidth 32)) ∧
  (∀ s r rest k a src dst rm sat (x : Nat), UniformReady s r rest → a.isK = true →
    (if src.is64 then ∃ v, readSrc64 s r r.lowest a = .ok v ∧ x = v.toNat else ∃ v, readSrc s r r.lowest a = .ok v ∧ x = v.toNat) →
    let v := cvtValue src dst rm sat x
    let one := setGroupK (issued s r rest) r k.val (.word (v.extractLsb' 0 32))
    exec (.cvt ⟨.k k, a, src, dst, rm, sat⟩) s =
      .next (if dst.is64 then setGroupK one r (k.val + 1) (.word (v.extractLsb' 32 32)) else one)) ∧
  (∀ k a b c, UniformGives3 (.prfmaF16 ⟨.k k, a, b, c⟩) k a b c fun a b c => halvesFma fp16 a b c) ∧
  (∀ k a b c, UniformGives3 (.prfmaB16 ⟨.k k, a, b, c⟩) k a b c fun a b c => halvesFma bf16 a b c) ∧
  (∀ k a b ty, UniformGives2 (.pradd ⟨.k k, a, b, ty⟩) k a b fun a b => eachHalf (fun x y => roundF (halfFmt ty) .rne ((unpackF (halfFmt ty) x).add (unpackF (halfFmt ty) y))) a b) ∧
  (∀ k a b ty, UniformGives2 (.prmul ⟨.k k, a, b, ty⟩) k a b fun a b => eachHalf (fun x y => roundF (halfFmt ty) .rne ((unpackF (halfFmt ty) x).mul (unpackF (halfFmt ty) y))) a b) ∧
  (∀ k a b w e, UniformGives2 (.pack ⟨.k k, a, b, w, e⟩) k a b fun a b => packedIn (widthOf w) (if e then clampTo (widthOf w) b.toInt else b.toNat) a) ∧
  (∀ s r rest k a b cc x y, UniformReady s r rest → a.isK = true → b.isK = true → readSrc s r r.lowest a = .ok x →
    readSrc s r r.lowest b = .ok y → UniformLater (.div ⟨.k k, a, b, false, ⟨cc, .al⟩⟩) s r rest k ((fun a b : Word => if b = 0 then (if a.msb then 0x80000001#32 else 0x7FFFFFFF#32) else a.sdiv b) x y)) ∧
  (∀ s r rest k a b cc x y, UniformReady s r rest → a.isK = true → b.isK = true → readSrc s r r.lowest a = .ok x →
    readSrc s r r.lowest b = .ok y → UniformLater (.divn ⟨.k k, a, b, false, ⟨cc, .al⟩⟩) s r rest k ((fun a b : Word => if b = 0 then 0xFFFFFFFF#32 else a / b) x y)) ∧
  (∀ s r rest k a b cc x y, UniformReady s r rest → a.isK = true → b.isK = true → readSrc s r r.lowest a = .ok x →
    readSrc s r r.lowest b = .ok y → UniformLater (.rem ⟨.k k, a, b, false, ⟨cc, .al⟩⟩) s r rest k ((fun a b : Word => if b = 0 then a else a.srem b) x y)) ∧
  (∀ s r rest k a b cc x y, UniformReady s r rest → a.isK = true → b.isK = true → readSrc s r r.lowest a = .ok x →
    readSrc s r r.lowest b = .ok y → UniformLater (.remn ⟨.k k, a, b, false, ⟨cc, .al⟩⟩) s r rest k ((fun a b : Word => a % b) x y)) ∧
  (∀ s r rest k a b cc x y, UniformReady s r rest → a.isK = true → b.isK = true → readSrc s r r.lowest a = .ok x →
    readSrc s r r.lowest b = .ok y → UniformLater (.fdiv ⟨.k k, a, b, false, ⟨cc, .al⟩⟩) s r rest k ((fun a b : Word => roundFp32 ((valF a).div (valF b))) x y)) ∧
  (∀ s r rest k a cc x, UniformReady s r rest → a.isK = true → readSrc s r r.lowest a = .ok x →
    UniformLater (.frcp ⟨.k k, a, false, ⟨cc, .al⟩⟩) s r rest k (roundFp32 (valF x).rcp)) ∧
  (∀ s r rest k a cc x, UniformReady s r rest → a.isK = true → readSrc s r r.lowest a = .ok x →
    UniformLater (.fsqrt ⟨.k k, a, false, ⟨cc, .al⟩⟩) s r rest k (roundFp32 (valF x).sqrt)) ∧
  (∀ s r rest k a cc x, UniformReady s r rest → a.isK = true → readSrc s r r.lowest a = .ok x →
    UniformLater (.frsq ⟨.k k, a, false, ⟨cc, .al⟩⟩) s r rest k (roundFp32 (valF x).rsqrt)) ∧
  (∀ s r rest k a cc x, UniformReady s r rest → a.isK = true → readSrc s r r.lowest a = .ok x →
    UniformLater (.fexp2 ⟨.k k, a, false, ⟨cc, .al⟩⟩) s r rest k (roundFp32 (valF x).exp2)) ∧
  (∀ s r rest k a cc x, UniformReady s r rest → a.isK = true → readSrc s r r.lowest a = .ok x →
    UniformLater (.flog2 ⟨.k k, a, false, ⟨cc, .al⟩⟩) s r rest k (roundFp32 (valF x).log2)) ∧
  (∀ s r rest k a cc x, UniformReady s r rest → a.isK = true → readSrc s r r.lowest a = .ok x →
    UniformLater (.fsin ⟨.k k, a, false, ⟨cc, .al⟩⟩) s r rest k (roundFp32 (valF x).sin)) ∧
  (∀ s r rest k a cc x, UniformReady s r rest → a.isK = true → readSrc s r r.lowest a = .ok x →
    UniformLater (.fcos ⟨.k k, a, false, ⟨cc, .al⟩⟩) s r rest k (roundFp32 (valF x).cos)) ∧
  (∀ k a b cc, UniformGives2 (.sel ⟨.k k, a, b, ⟨cc, .al⟩⟩) k a b fun a _ => a) ∧
  (∀ s r rest k (m : BitVec 13), UniformReady s r rest → Uniform (.movi ⟨.k k, m⟩) s r rest k (m.signExtend 32)) ∧
  (∀ s r rest k (m : BitVec 19), UniformReady s r rest → Uniform (.ldhi ⟨.k k, m⟩) s r rest k (m.setWidth 32 <<< 13)) ∧
  (∀ s r rest k a b cc (f : Flags) x y, UniformReady s r rest → a.isK = true → b.isK = true → readCc s r r.lowest cc = .ok f →
    readSrc s r r.lowest a = .ok x → readSrc s r r.lowest b = .ok y →
    Uniform (.addc ⟨.k k, a, b, false, ⟨cc, .al⟩⟩) s r rest k (x + y + (BitVec.ofBool f.c).setWidth 32))

/-- R213: an MU address is the uniform pair plus the index, sign-extended where X is set and else zero-extended, and the
immediate, both times the width; an MP address is the named pair plus the signed immediate times the width, and none
under a false guard; an S offset is the 32-bit base plus the signed immediate times the width, with what a REP adds
to it. A thread's local region begins at LBASE + (1024·team + thread)·(4L + LD). (spec/10_encoding.md (R213),
spec/05_state_memories.md (R103)) -/
def Obligations.AddressForms : Prop :=
  (∀ s r kp ix x imm size c base i, readPairK s r c kp = .ok base → laneN s r c ix.val = .word i →
    muAddr s r kp ix x imm size c =
      .ok (base + (if x then i.signExtend 64 else i.setWidth 64) * BitVec.ofNat 64 size + imm.setWidth 64 * BitVec.ofNat 64 size)) ∧
  (∀ s r np imm size g c base, guardTrue s r c g = .ok true → readPairN s r c np = .ok base →
    mpAddr s r np imm size g c = .ok (some (base + imm.signExtend 64 * BitVec.ofNat 64 size))) ∧
  (∀ s r np imm size g c, guardTrue s r c g = .ok false → mpAddr s r np imm size g c = .ok none) ∧
  (∀ s r a (imm : BitVec 7) size c b, readSrc s r c a = .ok b →
    sOffset s r a imm size c =
      .ok (b + imm.signExtend 32 * BitVec.ofNat 32 size + BitVec.ofInt 32 (repShift s r size)).toNat) ∧
  (∀ s r c, localRegion s r c = (teamLaunch s r.team).desc.localBase +
    BitVec.ofNat 64 (((getTeam s r.team).idx * 1024 + r.teamThread c) * (4 * (teamLaunch s r.team).desc.l + (teamLaunch s r.team).desc.ld)))

/-- The global loads of R273 in both forms, LDACQ, LDK, LDS and LDL complete at issue where every live lane's address
passes its checks (R102, R269), reaches memory directly (no aperture, port B window or stash line stands between)
and LDC is below 63. Each live lane's destination and its pushed entries become pending on one new operation that
carries the bytes its team sees there (R147), extended as the table says, with the poisoned sector where one was
read; a lane under a false guard pushes its old words. LDC rises by one where a lane is live. LDK does so for a k
register of the group and pushes nothing. LDL goes to the thread's local region, in two
parts where it crosses a page (R103). No other register changes, and no
byte of memory does. (spec/12_isa_memory_sync.md (R273), spec/12_isa_memory_sync.md (R274),
spec/12_isa_memory_sync.md (R276), spec/09_state_counters.md (R191)) -/
def Obligations.LoadResults : Prop :=
  (∀ o : MuLd, LoadsMu (.ldbMu o) o 1 true) ∧
  (∀ o : MuLd, LoadsMu (.ldbzMu o) o 1 false) ∧
  (∀ o : MuLd, LoadsMu (.ldhMu o) o 2 true) ∧
  (∀ o : MuLd, LoadsMu (.ldhzMu o) o 2 false) ∧
  (∀ o : MuLd, LoadsMu (.ldwMu o) o 4 false) ∧
  (∀ o : MuLd, LoadsMu (.lddMu o) o 8 false) ∧
  (∀ o : MuLd, LoadsMu (.ldqMu o) o 16 false) ∧
  (∀ o : MpLd, LoadsMp (.ldbMp o) o 1 true) ∧
  (∀ o : MpLd, LoadsMp (.ldbzMp o) o 1 false) ∧
  (∀ o : MpLd, LoadsMp (.ldhMp o) o 2 true) ∧
  (∀ o : MpLd, LoadsMp (.ldhzMp o) o 2 false) ∧
  (∀ o : MpLd, LoadsMp (.ldwMp o) o 4 false) ∧
  (∀ o : MpLd, LoadsMp (.lddMp o) o 8 false) ∧
  (∀ o : MpLd, LoadsMp (.ldqMp o) o 16 false) ∧
  (∀ o : MpLd, LoadsMp (.ldacq o) o 4 false) ∧
  (∀ (o : LdkFmt) s r rest k base pa sa, s.runs = r :: rest → r.lanes ≠ [] → (∀ c ∈ r.lanes, (laneTh s r c).inBody = false) → o.d = .k k →
    readPairK s r r.lowest o.kp = .ok base →
    let va := base + o.imm.setWidth 64 * 4 + BitVec.ofInt 64 (repShift s r 4)
    checkGlobal s (envOf s r) .load (o.pol == .sys) false 4 va = .ok pa sa → Direct s pa 4 → (getGroup s r.team r.grp).ldc < 63 →
    ∃ t, exec (.ldk o) s = .next t ∧ withCaches s t =
      started (setGroupK (issued s r rest) r k.val (.pend s.nextId 0)) r (.load [{ memFill s r 4 false (fun _ => va) (fun _ => pa) 0 with who := .group }]) .ld) ∧
  (∀ (o : SLd) s r rest (b : Nat → Word), Issuing s r rest → (∀ c ∈ r.lanes, DstHere (laneTh s r c) o.d) →
    (∀ c ∈ r.lanes, readSrc s r c o.base = .ok (b c)) →
    let n := o.size.bytes
    let off := scratchOffsets s r o.imm n b
    InScratch s r n off → (getGroup s r.team r.grp).ldc < 63 →
    Loads (.lds o) s r rest o.d (loadCount n) (fun _ => true) fun c =>
      { who := r.who c, words := loadWords n (o.size == .b || o.size == .h) (bytesNat (readBytes (getCore s r.team).scratch (off c) n))
        poison := (poisonIn (getCore s r.team).scratchPoison (off c) n).map fun x => BitVec.ofNat 64 (32 * x)
        addr := BitVec.ofNat 64 (off c), bytes := n }) ∧
  (∀ (o : SLd) s r rest (b : Nat → Word) (parts : Nat → List LocalPart), Issuing s r rest → (∀ c ∈ r.lanes, DstHere (laneTh s r c) o.d) →
    (∀ c ∈ r.lanes, readSrc s r c o.base = .ok (b c)) →
    let n := o.size.bytes
    let l := teamLaunch s r.team
    let off := scratchOffsets s r o.imm n b
    let va := fun c => localRegion s r c + BitVec.ofNat 64 (4 * l.desc.l + off c)
    (∀ c ∈ r.lanes, off c % n = 0 ∧ off c + n ≤ l.desc.ld ∧ LocalReach s r .load (va c) n (parts c)) →
    (getGroup s r.team r.grp).ldc < 63 →
    Loads (.ldl o) s r rest o.d (loadCount n) (fun _ => true) fun c =>
      { who := r.who c, words := loadWords n (o.size == .b || o.size == .h) (partsNat s r.team (parts c))
        poison := partsPoison s r.team (parts c), addr := BitVec.ofNat 64 (off c), bytes := n })

/-- The global stores of R273 in both forms, STREL, STS and STL complete at issue, in a team that has no items to
compare (neither IL3 nor a core pair), where every live lane's address passes its checks and reaches memory directly
and STC is below 63. Memory then reads as the last live lane wrote it at the addresses stored to and as before at
every other address, and the sectors that the lanes together write whole are no longer poison; STS writes the team's
scratchpad instead, likewise, and makes the stash lines it meets dirty. A k register as data is none outside a crew body. STC
rises by one; STREL restarts the watchdog. No register changes, and a false guard stores nothing. (spec/12_isa_memory_sync.md
(R273), spec/12_isa_memory_sync.md (R275), spec/12_isa_memory_sync.md (R276)) -/
def Obligations.StoreResults : Prop :=
  (∀ o : MuSt, StoresMu (.stbMu o) o 1) ∧
  (∀ o : MuSt, StoresMu (.sthMu o) o 2) ∧
  (∀ o : MuSt, StoresMu (.stwMu o) o 4) ∧
  (∀ o : MuSt, StoresMu (.stdMu o) o 8) ∧
  (∀ o : MuSt, StoresMu (.stqMu o) o 16) ∧
  (∀ o : MpSt, StoresMp (.stbMp o) o 1 false) ∧
  (∀ o : MpSt, StoresMp (.sthMp o) o 2 false) ∧
  (∀ o : MpSt, StoresMp (.stwMp o) o 4 false) ∧
  (∀ o : MpSt, StoresMp (.stdMp o) o 8 false) ∧
  (∀ o : MpSt, StoresMp (.stqMp o) o 16 false) ∧
  (∀ o : MpSt, StoresMp (.strel o) o 4 true) ∧
  (∀ (o : SSt) s r rest (b : Nat → Word) (w : Nat → Nat → Word), Issuing s r rest →
    (∀ c ∈ r.lanes, readSrc s r c o.base = .ok (b c)) →
    let n := o.size.bytes
    let off := scratchOffsets s r o.imm n b
    (∀ c ∈ r.lanes, StoreReads s r o.a n c (w c)) → InScratch s r n off → (getGroup s r.team r.grp).stc < 63 →
    let places := r.lanes.map fun c => (off c, n)
    ∃ t, exec (.sts o) s = .next t ∧
      SameButMarks (started (withoutPoison (withScratch (issued s r rest) r.team
        (r.lanes.foldl (fun m c => writeBytes m (off c) (storedBytes n (w c))) (getCore s r.team).scratch) places) r.team places)
        r (.store []) .st) (withCaches s t)) ∧
  (∀ (o : SSt) s r rest (b : Nat → Word) (w : Nat → Nat → Word) (parts : Nat → List LocalPart), Issuing s r rest → r.lanes ≠ [] → s.sound →
    hasItems s r.team = false → (∀ c ∈ r.lanes, readSrc s r c o.base = .ok (b c)) →
    let n := o.size.bytes
    let l := teamLaunch s r.team
    let off := scratchOffsets s r o.imm n b
    let va := fun c => localRegion s r c + BitVec.ofNat 64 (4 * l.desc.l + off c)
    (∀ c ∈ r.lanes, StoreReads s r o.a n c (w c)) →
    (∀ c ∈ r.lanes, off c % n = 0 ∧ off c + n ≤ l.desc.ld ∧ LocalReach s r .store (va c) n (parts c)) →
    (getGroup s r.team r.grp).stc < 63 →
    StoresCells (.stl o) s r rest (fun _ => true) (fun c => partCells (parts c) (storedBytes n (w c))) false)

/-- In a team with no items to compare, outside deterministic mode and firmware, ATOM and CAS perform each active lane's
read-modify-write on memory, in ascending lane order for .FADD and else in some order, with `new` of R281 (CAS: the
replacement where the value found equals the expected one), and each lane's destination and pushed entries wait for
one operation that carries the values found; with destination 63 they return nothing and count in STC. With .FADD.RA
lanes of one location part into partial sums, of some grouping, each one update whose value found all its lanes get.
RED combines the lanes that name one location, in ascending order, or in some grouping with .FADD.RA, and performs
one update per location (R284). ATOMS and CASS do what ATOM and CAS do on the scratchpad (R285). Every other byte is
unchanged, and no other register. (spec/12_isa_memory_sync.md (R281), spec/12_isa_memory_sync.md (R282),
spec/12_isa_memory_sync.md (R283), spec/12_isa_memory_sync.md (R284), spec/12_isa_memory_sync.md (R285)) -/
def Obligations.AtomicResults : Prop :=
  (∀ (o : AtomFmt) s r rest va pa x, Issuing s r rest → (∀ c ∈ r.lanes, DstHere (laneTh s r c) o.d) →
    AtomReady s r o.np o.v o.aop.is64 (aopBytes o.aop) (.atomic (some o.aop) false) o.p va pa x →
    (if o.d = .push then (getGroup s r.team r.grp).stc < 63 else (getGroup s r.team r.grp).ldc < 63) →
    Atomics (.atom o) s r rest o.d (aopBytes o.aop) (newValue o.aop) va pa x (o.ord == .rel || o.ord == .both) fun parts =>
      (o.aop ≠ .faddRa → ∀ p ∈ parts, p.1.length = 1) ∧ (o.aop = .fadd → parts.map Prod.fst = r.lanes.map fun c => [c])) ∧
  (∀ (o : CasFmt) s r rest va pa x, Issuing s r rest → (∀ c ∈ r.lanes, DstHere (laneTh s r c) o.d) →
    AtomReady s r o.np o.v true 4 (.atomic none false) o.p va pa x →
    (if o.d = .push then (getGroup s r.team r.grp).stc < 63 else (getGroup s r.team r.grp).ldc < 63) →
    Atomics (.cas o) s r rest o.d 4 casValue va pa x (o.ord == .rel || o.ord == .both) fun parts => ∀ p ∈ parts, p.1.length = 1) ∧
  (∀ (o : RedMemFmt) s r rest va pa x, Issuing s r rest → s.sound →
    let n := aopBytes o.aop
    AtomReady s r o.np o.v o.aop.is64 n (.atomic (some o.aop) true) o.p va pa x → (getGroup s r.team r.grp).stc < 63 →
    let s0 := started (if o.rel then restartWatchdog s r.team else s) r (.store (r.lanes.map fun c =>
      ({ who := r.who c, words := [], poison := none, addr := va c, bytes := n, atomic := true } : Fill))) .st
    ∃ t, exec (.red o) s = .next t ∧
      (∀ a, (∀ c ∈ r.lanes, a < pa c ∨ pa c + n ≤ a) → mapGet memDefault t.mem a = mapGet memDefault s.mem a) ∧
      (o.aop ≠ .faddRa → ∀ c ∈ r.lanes, readBytes t.mem (pa c) n = natBytes n (((r.lanes.filter fun j => pa j = pa c).map x).tail.foldl (newValue o.aop)
          (((r.lanes.filter fun j => pa j = pa c).map x).headD 0)
        |> newValue o.aop (BitVec.ofNat 64 (bytesNat (readBytes s.mem (pa c) n)))).toNat) ∧
      (o.aop = .faddRa → ∀ c ∈ r.lanes, ∃ l v, SumOf x l v ∧ l.Perm (r.lanes.filter fun j => pa j = pa c) ∧
        readBytes t.mem (pa c) 4 = natBytes 4 (newValue .fadd (BitVec.ofNat 64 (bytesNat (readBytes s.mem (pa c) 4))) v).toNat) ∧
      t.runs = { r with sig := .word } :: rest ∧
      SameButMarks s0 (withCaches s { t with mem := s.mem, merge := s.merge, runs := s.runs })) ∧
  (∀ (o : AtomsFmt) s r rest b x, Issuing s r rest → (∀ c ∈ r.lanes, DstHere (laneTh s r c) o.d) →
    (if o.d = .push then (getGroup s r.team r.grp).stc < 63 else (getGroup s r.team r.grp).ldc < 63) →
    ScratchAtomics (.atoms o) s r rest o.d o.base o.v o.aop.is64 (aopBytes o.aop) (newValue o.aop) b x) ∧
  (∀ (o : CassFmt) s r rest b x, Issuing s r rest → (∀ c ∈ r.lanes, DstHere (laneTh s r c) o.d) →
    (if o.d = .push then (getGroup s r.team r.grp).stc < 63 else (getGroup s r.team r.grp).ldc < 63) →
    ScratchAtomics (.cass o) s r rest o.d o.base o.v true 4 casValue b x)

/-- PREF changes at most what caches hold. CFLUSH and CINV, where their lanes' addresses pass the checks of a load and
no dirty stash line holds a line of theirs (nor, for a flush to the system, a dirty aperture line), count one
operation in STC; CFLUSH leaves no dirty private copy of the lines, and CINV removes the core's copies, a pinned
operand line staying invalid; neither changes a register or a byte of memory. FENCE, outside IL3 or
below device scope, changes nothing, but that a release restarts the watchdog. (spec/12_isa_memory_sync.md (R278),
spec/12_isa_memory_sync.md (R279)) -/
def Obligations.CacheOperationsAndFences : Prop :=
  (∀ a l2 s r rest (x : Nat → Dword), s.runs = r :: rest → (∀ c ∈ r.lanes, readSrc64 s r c a = .ok (x c)) →
    ∃ t, exec (.pref a l2) s = .next t ∧ withCaches s t = issued s r rest) ∧
  (∀ a sc s r rest (x : Nat → Dword) (pa : Nat → Nat), s.runs = r :: rest → (∀ c ∈ r.lanes, readSrc64 s r c a = .ok (x c) ∧
      ∃ sa, checkGlobal s (envOf s r) .load false false 1 (x c) = .ok (pa c) sa) → (getGroup s r.team r.grp).stc < 63 →
    (∀ t ∈ s.teams, ∀ l ∈ t.body.stashLines, l.dirty = true → ∀ c ∈ r.lanes, l.pa ≠ pa c / 128 * 128) →
    (sc = .sys → ∀ l ∈ s.aper, l.dirty = true → ∀ c ∈ r.lanes, l.line ≠ pa c / 128 * 128) →
    ∃ t, exec (.cflush a sc) s = .next t ∧ withCaches s t = started (issued s r rest) r (.store []) .st ∧
      ∀ y ∈ t.dcache, (∃ c ∈ r.lanes, y.line = pa c / 128 * 128) → y.st ≠ .ownedDirty) ∧
  (∀ a s r rest (x : Nat → Dword) (pa : Nat → Nat), s.runs = r :: rest → (∀ c ∈ r.lanes, readSrc64 s r c a = .ok (x c) ∧
      ∃ sa, checkGlobal s (envOf s r) .load false false 1 (x c) = .ok (pa c) sa) → (getGroup s r.team r.grp).stc < 63 →
    ∃ t, exec (.cinv a) s = .next t ∧ withCaches s t = started (issued s r rest) r (.store []) .st ∧
      ∀ c ∈ r.lanes, (∀ y ∈ t.dcache, y.core = (getTeam s r.team).core → y.line ≠ pa c / 128 * 128) ∧
        (∀ y ∈ t.icache, y.1 = (getTeam s r.team).core → y.2 ≠ pa c / 128 * 128) ∧
        ∀ y ∈ t.shares, y.core = (getTeam s r.team).core → y.line = pa c / 128 * 128 → y.valid = false ∧ y.pins ≠ []) ∧
  (∀ kind sc s r rest, s.runs = r :: rest → teamIl s r.team ≠ 3 ∨ sc = .grp ∨ sc = .clu →
    exec (.fence kind sc) s = .next (if kind = .acq then issued s r rest else restartWatchdog (issued s r rest) r.team))

/-- STASHMAP checks alignment, canonicality, bounds and the stash map in R280's order, each fault raised before any
effect; it then adds the entry, or does nothing for a length of 0. STASHDROP removes the lines of the range, and the
entries that it covers whole. STASHWB, outside IL3 and core pairs, counts in STC and, where no line of the range is
dirty, does nothing more; a single dirty line whose home nothing stands before is written to memory as the
scratchpad holds it, and stays, clean. No register changes. (spec/12_isa_memory_sync.md (R280),
spec/05_state_memories.md (R115)) -/
def Obligations.StashOperations : Prop :=
  (∀ a b c s r rest (sb ln : Word) (gb : Dword), s.runs = r :: rest → (∀ x ∈ r.lanes, (laneTh s r x).inBody = false) →
    readSrc s r r.lowest a = .ok sb → readSrc64 s r r.lowest b = .ok gb → readSrc s r r.lowest c = .ok ln →
    let core := (getTeam s r.team).core
    let held : Nat := ((s.teams.filter fun t => t.core == core && t.holds).map fun t => t.body.stash.length).foldl (· + ·) 0
    let trap := fun cause (addr : Dword) => raise (issued s r rest) { r with sig := .word } r.lowest
      { cause := cause, addr := addr, info := if cause = 0x0E then 0 else BitVec.ofNat 32 (repNumber s r), epc := r.pc }
    exec (.stashmap a b c) s = .next (
      if sb.toNat % 128 ≠ 0 ∨ ln.toNat % 128 ≠ 0 then trap 0x05 (sb.setWidth 64)
      else if gb.toNat % 128 ≠ 0 then trap 0x05 gb
      else if 2 ^ 56 ≤ gb.toNat then trap 0x06 gb
      else if (teamLaunch s r.team).kernel.scratch < sb.toNat + ln.toNat then trap 0x0B (sb.setWidth 64)
      else if ln = 0 then issued s r rest
      else if 32 ≤ held ∨ ((getTeam s r.team).body.stash.any fun e => decide (e.sbase < sb.toNat + ln.toNat) && decide (sb.toNat < e.sbase + e.len)) = true
      then trap 0x0E (sb.setWidth 64)
      else modCore (issued s r rest) r.team fun tc => { tc with stash := tc.stash ++ [⟨sb.toNat, gb, ln.toNat⟩] })) ∧
  (∀ a c s r rest (sb ln : Word), s.runs = r :: rest → (∀ x ∈ r.lanes, (laneTh s r x).inBody = false) →
    readSrc s r r.lowest a = .ok sb → readSrc s r r.lowest c = .ok ln → sb.toNat % 128 = 0 → ln.toNat % 128 = 0 →
    exec (.stashdrop a c) s = .next (modCore (issued s r rest) r.team fun tc => { tc with
      stashLines := tc.stashLines.filter fun l => !decide (sb.toNat ≤ l.off ∧ l.off < sb.toNat + ln.toNat)
      stash := tc.stash.filter fun e => !decide (sb.toNat ≤ e.sbase ∧ e.sbase + e.len ≤ sb.toNat + ln.toNat) })) ∧
  (∀ a c s r rest (sb ln : Word), s.runs = r :: rest → (∀ x ∈ r.lanes, (laneTh s r x).inBody = false) →
    readSrc s r r.lowest a = .ok sb → readSrc s r r.lowest c = .ok ln → sb.toNat % 128 = 0 → ln.toNat % 128 = 0 →
    hasItems s r.team = false → (getGroup s r.team r.grp).stc < 63 →
    let dirty := (getCore s r.team).stashLines.filter fun l => l.dirty && decide (sb.toNat ≤ l.off) && decide (l.off < sb.toNat + ln.toNat)
    (dirty = [] → exec (.stashwb a c) s = .next (started (issued s r rest) r (.store []) .st)) ∧
    (∀ l, dirty = [l] → r.team < s.teams.length → targetOf s l.pa ≠ .aperture → targetOf s l.pa ≠ .window →
      (∀ x ∈ s.aper, backingMeets s l.pa 128 x = false) →
      ∃ t, exec (.stashwb a c) s = .next t ∧
        t.mem = writeBytes s.mem l.pa (readBytes (getCore s r.team).scratch l.off 128) ∧
        t.teams = (modCore (started (issued s r rest) r (.store []) .st) r.team fun tc => { tc with
          stashLines := tc.stashLines.map fun x => if x.off = l.off then { x with dirty := false, mask := 0 } else x }).teams))

/-- WAIT passes exactly where each of LDC, STC, CPC and TLC is at or below its limit, a limit of 63 waiting for nothing
(no deferred report being due); else its group waits. YIELD passes. SWINIT writes TARGET = b and zeros to the 16
bytes of each lane's sync word and counts in STC. SWGEN loads GEN with a pending entry and LDC. SWWAIT passes where
GEN − b is not negative as I32 in every lane, and waits otherwise. Passing ends the run with the threads at the next
word; waiting changes nothing but that the group waits (R29). (R287, R288) -/
def Obligations.WaitYieldAndSyncWords : Prop :=
  (∀ (o : WFmt) s r rest, Issuing s r rest → (∀ c ∈ r.lanes, (laneTh s r c).reports = []) →
    let g := getGroup s r.team r.grp
    let holds := (o.ld = 63 ∨ g.ldc ≤ o.ld.toNat) ∧ (o.st = 63 ∨ g.stc ≤ o.st.toNat) ∧ (o.cp = 63 ∨ g.cpc ≤ o.cp.toNat) ∧
      (o.tl = 63 ∨ g.tlc ≤ o.tl.toNat)
    (holds → Passes (.wait o) s r (issued s r rest)) ∧ (¬holds → Waits (.wait o) s r rest)) ∧
  (∀ s r rest, s.runs = r :: rest → Passes .yield s r (issued s r rest)) ∧
  (∀ a b s r rest (off v : Nat → Word), GroupRun s r rest →
    (∀ c ∈ r.lanes, readSrc s r c a = .ok (off c) ∧ readSrc s r c b = .ok (v c)) → InScratch s r 16 (fun c => (off c).toNat) →
    (getGroup s r.team r.grp).stc < 63 →
    let places := r.lanes.map fun c => ((off c).toNat, 16)
    ∃ t, exec (.swinit a b) s = .next t ∧ withCaches s t = started (withoutPoison (withScratch (issued s r rest) r.team
      (r.lanes.foldl (fun m c => writeBytes m (off c).toNat (natBytes 16 (v c).toNat)) (getCore s r.team).scratch) places) r.team places)
      r (.store []) .st) ∧
  (∀ d b s r rest (off : Nat → Word), Issuing s r rest → (∀ c ∈ r.lanes, DstHere (laneTh s r c) d) →
    (∀ c ∈ r.lanes, readSrc s r c b = .ok (off c)) → InScratch s r 16 (fun c => (off c).toNat) →
    (getGroup s r.team r.grp).ldc < 63 →
    Loads (.swgen d b) s r rest d 1 (fun _ => true) fun c =>
      { who := r.who c, words := [scratchWord s r.team ((off c).toNat + 8)]
        poison := (poisonIn (getCore s r.team).scratchPoison ((off c).toNat + 8) 4).map fun x => BitVec.ofNat 64 (32 * x)
        addr := BitVec.ofNat 64 ((off c).toNat + 8), bytes := 4 }) ∧
  (∀ a b sc s r rest (off v : Nat → Word), GroupRun s r rest →
    (∀ c ∈ r.lanes, readSrc s r c a = .ok (off c) ∧ readSrc s r c b = .ok (v c)) → InScratch s r 16 (fun c => (off c).toNat) →
    let reached := ∀ c ∈ r.lanes, 0 ≤ (scratchWord s r.team ((off c).toNat + 8) - v c).toInt
    (reached → Passes (.swwait a b sc) s r (restartWatchdog (issued s r rest) r.team)) ∧
    (¬reached → Waits (.swwait a b sc) s r rest))

/-- ENQ appends one handle per lane in ascending order, lowers its group's allowance by their number and passes where
the allowance suffices, and waits otherwise. DEQ gives each lane one handle, oldest first, in ascending order,
raises the allowance of each item's producer group, and passes where the ring holds enough, and waits otherwise. The
TRY forms perform the same step and give status 0, or change no queue and give status 1, DEQTRY then pushing 0 as
the handle (R290). In all four, a queue number at or above the count raises illegal-instruction; an enqueue of more lanes
than the group's initial allowance, and a dequeue of more than the depth, raise queue-capacity. No other register, queue or byte changes. (R157) -/
def Obligations.NamedQueueSteps : Prop :=
  (∀ a (q : Fin 16) s r rest (h : Nat → Word), QueueReady s r rest q.val true → (∀ c ∈ r.lanes, readSrc s r c a = .ok (h c)) →
    let nq := (getCore s r.team).queue q.val
    (r.lanes.length ≤ nq.allow.getD r.grp 0 →
      Passes (.enq a q) s r (withQueue (issued s r rest) r.team q.val fun x => enqueued x r.grp (r.lanes.map h))) ∧
    (nq.allow.getD r.grp 0 < r.lanes.length → Waits (.enq a q) s r rest)) ∧
  (∀ a (q : Fin 16) st s r rest (h : Nat → Word), QueueReady s r rest q.val true → (∀ c ∈ r.lanes, readSrc s r c a = .ok (h c)) →
    (∀ c ∈ r.lanes, DstHere (laneTh s r c) st) →
    let nq := (getCore s r.team).queue q.val
    ∃ t, exec (.enqtry a q st) s = .next t ∧
      (if r.lanes.length ≤ nq.allow.getD r.grp 0 then
        LaneChange (withQueue s r.team q.val fun x => enqueued x r.grp (r.lanes.map h)) r rest (fun _ th => give1 th st (.word 0)) t
      else LaneChange s r rest (fun _ th => give1 th st (.word 1)) t)) ∧
  (∀ d (q : Fin 16) s r rest, QueueReady s r rest q.val false → (∀ c ∈ r.lanes, DstHere (laneTh s r c) d) →
    let nq := (getCore s r.team).queue q.val
    (r.lanes.length ≤ nq.ring.length →
      ∃ t, Passes (.deq d q) s r t ∧ LaneChange (withQueue s r.team q.val fun x => dequeued x r.lanes.length) r rest
        (fun c th => give1 th d (.word (handleFor nq r c))) t) ∧
    (nq.ring.length < r.lanes.length → Waits (.deq d q) s r rest)) ∧
  (∀ d (q : Fin 16) st s r rest, QueueReady s r rest q.val false →
    (∀ c ∈ r.lanes, DstHere (laneTh s r c) d ∧ DstHere (laneTh s r c) st) →
    let nq := (getCore s r.team).queue q.val
    ∃ t, exec (.deqtry d q st) s = .next t ∧
      (if r.lanes.length ≤ nq.ring.length then
        LaneChange (withQueue s r.team q.val fun x => dequeued x r.lanes.length) r rest
          (fun c th => give1 (give1 th d (.word (handleFor nq r c))) st (.word 0)) t
      else LaneChange s r rest (fun _ th => give1 (th.push (.word 0)) st (.word 1)) t)) ∧
  (∀ i (q : Fin 16) s r rest, GroupRun s r rest →
    let enqueues := (∃ a, i = Instr.enq a q) ∨ ∃ a st, i = .enqtry a q st
    let dequeues := (∃ d, i = Instr.deq d q) ∨ ∃ d st, i = .deqtry d q st
    let nq := (getCore s r.team).queue q.val
    (enqueues ∨ dequeues → (getCore s r.team).queues.length ≤ q.val →
      Raises i s r rest r.lowest 0x01 0 (BitVec.ofNat 32 (repNumber s r))) ∧
    (enqueues → q.val < (getCore s r.team).queues.length → nq.initial.getD r.grp 0 < r.lanes.length →
      Raises i s r rest r.lowest 0x14 0 (BitVec.ofNat 32 q.val)) ∧
    (dequeues → q.val < (getCore s r.team).queues.length → nq.depth < r.lanes.length →
      Raises i s r rest r.lowest 0x14 0 (BitVec.ofNat 32 q.val)))

/-- In a team with no items to compare, CHSEND takes one credit and puts the 64 bytes at its offset in flight as one
message, and passes, where it has a credit and the receiver is placed; it waits while the credit count is 0. CHRECV
removes the oldest message, writes it to the 64 bytes at its offset, puts its credit in flight and passes; it waits
while no message is present. CHPOLL gives every lane the number of messages present. Nothing else changes. (R160) -/
def Obligations.ChannelMessages : Prop :=
  (∀ a (ch : Fin 16) s r rest d off rt, ChannelReady s r rest ch.val d a off true → teamByIdx s r.team d.receiver = some rt →
    ((getTeam s rt).life = .resident → 0 < creditOf (getCore s r.team) ch.val →
      Passes (.chsend a ch) s r (restartWatchdog (addOp (modCore (issued s r rest) r.team fun tc =>
        setCredit tc ch.val (creditOf tc ch.val - 1)) r.team r.grp r.pc r.lowest
        (.message ch.val (readBytes (getCore s r.team).scratch off.toNat 64))) r.team)) ∧
    ((getTeam s rt).life = .saved ∨ creditOf (getCore s r.team) ch.val = 0 → Waits (.chsend a ch) s r rest)) ∧
  (∀ a (ch : Fin 16) s r rest d off, ChannelReady s r rest ch.val d a off false →
    (∀ m ms, boxMsgs (getCore s r.team) ch.val = m :: ms →
      Passes (.chrecv a ch) s r (restartWatchdog (addOp (writeScratch (modCore (issued s r rest) r.team fun tc =>
        setBox tc ch.val ms 1) r.team off.toNat m) r.team r.grp r.pc r.lowest (.credit ch.val)) r.team)) ∧
    (boxMsgs (getCore s r.team) ch.val = [] → Waits (.chrecv a ch) s r rest)) ∧
  (∀ d (ch : Fin 16) s r rest dc, GroupRun s r rest → (∀ c ∈ r.lanes, DstHere (laneTh s r c) d) →
    channelDecl s r.team ch.val = some dc → dc.receiver = (getTeam s r.team).idx →
    LaneAct (.chpoll d ch) s r rest fun _ th => give1 th d (.word (BitVec.ofNat 32 (boxMsgs (getCore s r.team) ch.val).length)))

/-- BARARR adds its lanes to ARR, completing as many generations as EXP divides, and records (barrier, generation
before) in each lane. BARWAIT passes, clearing the records, where every lane holds a record of the barrier whose
generation has passed, and otherwise records the present generation where a lane has none and waits. BARSYNC does
BARARR and then BARWAIT: it passes where its arrival completed a generation. A generation that advances restarts the watchdog
(R411). SYNCM, issued by lanes of a group of
which no thread waits at a SYNCM, releases to the next word exactly the lanes whose mask names only lanes whose
masks name them, and the others wait, having seen those partners. Outside deterministic mode; nothing else changes.
(R292) -/
def Obligations.BarriersAndMaskedSync : Prop :=
  (∀ a s r rest b x, BarrierReady s r rest a b x →
    ∃ t, exec (.bararr a) s = .next t ∧ LaneChange (withBarrier s r.team b.toNat x (arrived x r.lanes.length)) r rest
      (fun _ th => th.noteArrival b.toNat x.gen s.nextId) t) ∧
  (∀ a s r rest b x, BarrierReady s r rest a b x →
    let passed := ∀ c ∈ r.lanes, ∃ g, (laneTh s r c).arrival = some (b.toNat, g) ∧ g ≠ x.gen
    (passed → ∃ t, Passes (.barwait a) s r t ∧ LaneChange s r rest (fun _ th => { th with arrival := none }) t) ∧
    (¬passed → ∃ t, exec (.barwait a) s = .next (signal (setWait t r (some ⟨.barwait a, r.lanes⟩)) .block) ∧
      LaneChange s r rest (fun _ th => { th with arrival := match th.arrival with
        | some (y, g) => if y = b.toNat then some (y, g) else some (b.toNat, x.gen)
        | none => some (b.toNat, x.gen) }) t)) ∧
  (∀ a s r rest b x, BarrierReady s r rest a b x →
    let y := arrived x r.lanes.length
    (y.gen ≠ x.gen → ∃ t, Passes (.barsync a) s r t ∧ LaneChange (withBarrier s r.team b.toNat x y) r rest
      (fun _ th => { th.noteArrival b.toNat x.gen s.nextId with arrival := none }) t) ∧
    (y.gen = x.gen → ∃ t, exec (.barsync a) s = .next (signal (setWait t r (some ⟨.barsync a, r.lanes⟩)) .block) ∧
      LaneChange (withBarrier s r.team b.toNat x y) r rest
        (fun _ th => th.noteArrival b.toNat x.gen s.nextId) t)) ∧
  (∀ a s r rest (v : Nat → Word), GroupRun s r rest → (getGroup s r.team r.grp).threads.length ≤ 32 →
    (∀ th ∈ (getGroup s r.team r.grp).threads, th.syncm = none) → (∀ c ∈ r.lanes, readSrc s r c a = .ok (v c)) →
    let m := fun c => v c ||| BitVec.ofNat 32 (2 ^ c)
    (∀ c ∈ r.lanes, ∀ j, (m c).getLsbD j = true → (getTh s r.team r.grp (.lane j)).life ≠ .exited ∧
      (j ∈ r.lanes → (m j).getLsbD c = true)) →
    let seen := fun c => maskOf (r.lanes.filter fun j => (m c).getLsbD j)
    ∃ t, exec (.syncm a) s = .next (signal t .block) ∧
      LaneChange (if r.lanes.any fun c => seen c == m c then restartWatchdog s r.team else s) r rest
        (fun c th => if seen c = m c then ({ th with syncm := none, life := .waiting }).arrive (teamLaunch s r.team) (r.pc + 4)
          else { th with syncm := some (r.pc, m c, seen c), life := .waiting, pc := r.pc }) t)

/-- In a team with no items to compare, from a run of a group, COPY, COPYG and REGRP whose operands pass the checks of
R295 and whose queue has room hand one command, read from their operands as R294, R297 and R298 say, to the copy
engine and raise CPC by one; a COPY of length 0 does nothing. PUBLISH of a valid entry of its context restarts the
watchdog, puts the swap in flight and raises STC. Memory and registers do not change at issue.
(spec/12_isa_memory_sync.md (R294), spec/12_isa_memory_sync.md (R295), spec/12_isa_memory_sync.md (R297),
spec/12_isa_memory_sync.md (R298), spec/12_isa_memory_sync.md (R299)) -/
def Obligations.CopiesAndPublication : Prop :=
  (∀ (o : CopyFmt) s r rest x y k, GroupRun s r rest → readSrc64 s r r.lowest o.a = .ok x → readSrc64 s r r.lowest o.b = .ok y →
    readSrc64 s r r.lowest o.c = .ok k →
    let dir := k.extractLsb' 24 2
    let toScratch := dir == 0 || dir == 3
    let fromScratch := dir == 1 || dir == 3
    let len := (k.extractLsb' 44 20).toNat
    let cmd : CopyCmd := {
      dst := if toScratch then x &&& 0xFFFFFFFF#64 else x, dstSpace := if toScratch then .scratch else .global
      srcs := [if fromScratch then y &&& 0xFFFFFFFF#64 else y], srcSpace := if fromScratch then .scratch else .global
      len := len, sync := if k.getLsbD 27 then some ((k.extractLsb' 28 16).toNat * 16) else none
      shadow := k.getLsbD 26, scope := o.sc }
    CopyFits s r cmd len len →
    exec (.copy o) s = .next (if len = 0 then issued s r rest else started (issued s r rest) r (.copy cmd) .cp)) ∧
  (∀ (o : CopyFmt) s r rest x (y : Nat → Dword) k, GroupRun s r rest → readSrc64 s r r.lowest o.a = .ok x →
    (∀ c ∈ r.lanes, readSrc64 s r c o.b = .ok (y c)) → readSrc64 s r r.lowest o.c = .ok k →
    let dir := k.extractLsb' 24 2
    let len := (k.extractLsb' 44 20).toNat
    let cmd : CopyCmd := {
      dst := if dir == 0 then x &&& 0xFFFFFFFF#64 else x, dstSpace := if dir == 0 then .scratch else .global
      srcs := r.lanes.map y, srcSpace := .global
      len := len, sync := if k.getLsbD 27 then some ((k.extractLsb' 28 16).toNat * 16) else none
      shadow := k.getLsbD 26, scope := o.sc }
    (dir = 0 ∨ dir = 2) → 4 ≤ len → len ≤ 4096 → CopyFits s r cmd (len * r.lanes.length) len →
    exec (.copyg o) s = .next (started (issued s r rest) r (.copy cmd) .cp)) ∧
  (∀ (o : CopyFmt) s r rest (x : Word) y k, GroupRun s r rest → readSrc s r r.lowest o.a = .ok x → readSrc64 s r r.lowest o.b = .ok y →
    readSrc64 s r r.lowest o.c = .ok k →
    let g : Regroup := { w := (k.extractLsb' 52 12).toNat, h := (k.extractLsb' 40 12).toNat, c := (k.extractLsb' 34 6).toNat
                         es := 2 ^ (k.extractLsb' 32 2).toNat, f := (k.extractLsb' 29 3).toNat + 1, inv := k.getLsbD 28 }
    let src := if g.inv then ((g.h + g.f - 1) / g.f) * ((g.w + g.f - 1) / g.f) * (g.c * g.f * g.f) * g.es else g.h * g.w * g.c * g.es
    let dst := if g.inv then g.h * g.w * g.c * g.es else ((g.h + g.f - 1) / g.f) * ((g.w + g.f - 1) / g.f) * (g.c * g.f * g.f) * g.es
    let cmd : CopyCmd := {
      dst := x.setWidth 64, dstSpace := .scratch, srcs := [y], srcSpace := .global, len := (src + 3) / 4 * 4, regroup := some g
      sync := if k.getLsbD 27 then some ((k.extractLsb' 11 16).toNat * 16) else none, shadow := false, scope := o.sc }
    g.w ≠ 0 → g.h ≠ 0 → g.c ≠ 0 → k.extractLsb' 32 2 ≠ 3 → CopyFits s r cmd dst src →
    exec (.regrp o) s = .next (started (issued s r rest) r (.copy cmd) .cp)) ∧
  (∀ a sc s r rest w, GroupRun s r rest → readSrc s r r.lowest a = .ok w → hasItems s r.team = false → (getGroup s r.team r.grp).stc < 63 →
    let e := w.toNat % 256
    let d := if partitioned s then (getTeam s r.team).part else 0
    let entry := bar s (Config.oPart d + Config.oPublication e)
    exec (.publish a sc) s = .next (if entry.msb = true ∧ (entry.extractLsb' 16 16).toNat = (teamLaunch s r.team).ctx
      then started (restartWatchdog (issued s r rest) r.team) r (.publish d e) .st
      else raise (issued s r rest) { r with sig := .word } r.lowest
        { cause := 0x0D, addr := 0, info := BitVec.ofNat 32 (repNumber s r), epc := r.pc }))

/-- In a team with no items to compare: BRA sends each lane whose guard is true to the target of R214 and every other
lane to the fall-through; a target that is no clause header raises misaligned-target, whatever the guards. BRX sends
each lane to code base + 4 × its operand. A thread whose counter arrives at a clause header equal to its MEET is
held (R35). MEET stacks each guarded lane's MEET and replaces it, checking the depth in those lanes; a target out of
range raises misaligned-target at issue whatever the guards, as R224's row 6 orders it (log entry 124). REJOIN pops. FRAME
sets CF. NOP does nothing. EXIT, with nothing pending or due, exits its threads and clears STATUS.TRAP, and is a transfer
after which the group selects (log entry 106). REP before a clause whose first word it may repeat sets REPC and the run's
repetition. Each completes under the conditions named, and nothing else changes.
(spec/13_isa_control.md (R305), spec/13_isa_control.md (R306), spec/13_isa_control.md (R307), spec/13_isa_control.md
(R308), spec/13_isa_control.md (R309), spec/13_isa_control.md (R312), spec/13_isa_control.md (R313), spec/10_encoding.md (R224)) -/
def Obligations.ControlTransfers : Prop :=
  (∀ (o : BFmt) s r rest (on : Nat → Bool), Issuing s r rest → hasItems s r.team = false → (∀ c ∈ r.lanes, guardTrue s r c o.g = .ok (on c)) →
    let t := r.pc + BitVec.ofInt 64 (4 * o.off.toInt)
    ((∀ c ∈ r.lanes, MayGo s r c t) →
      Jumps (.bra o) s r rest s fun c => reach (teamLaunch s r.team) (if on c then t else r.pc + 4)) ∧
    (r.lanes ≠ [] → (teamLaunch s r.team).isHeader t = false →
      Raises (.bra o) s r rest r.lowest 0x04 t (BitVec.ofNat 32 (repNumber s r)))) ∧
  (∀ a s r rest (v : Nat → Word), Issuing s r rest → hasItems s r.team = false → (∀ c ∈ r.lanes, readSrc s r c a = .ok (v c)) →
    let t := fun c => (teamLaunch s r.team).desc.kernel + BitVec.ofNat 64 (4 * (v c).toNat)
    ((∀ c ∈ r.lanes, MayGo s r c (t c)) → Jumps (.brx a) s r rest s fun c => reach (teamLaunch s r.team) (t c)) ∧
    (r.lanes ≠ [] → (teamLaunch s r.team).isHeader (t r.lowest) = false →
      Raises (.brx a) s r rest r.lowest 0x04 (t r.lowest) (BitVec.ofNat 32 (repNumber s r)))) ∧
  (∀ (o : BFmt) s r rest (on : Nat → Bool), Issuing s r rest → (∀ c ∈ r.lanes, guardTrue s r c o.g = .ok (on c)) →
    let a := r.pc + BitVec.ofInt 64 (4 * o.off.toInt)
    let base := (teamLaunch s r.team).desc.kernel
    let deep := fun c => (teamLaunch s r.team).kernel.mdepth ≤ (laneTh s r c).meetStk.length
    let inRange := base.toNat ≤ a.toNat ∧ a.toNat < base.toNat + 2 ^ 34 - 4
    ((∀ c ∈ r.lanes, on c = true → ¬deep c) → inRange → LaneAct (.meet o) s r rest fun c th =>
      if on c then { th with meet := a, meetStk := (if th.meet = 0xFFFFFFFFFFFFFFFF#64 then 0xFFFFFFFF#32
        else BitVec.ofNat 32 ((th.meet - base).toNat / 4)) :: th.meetStk } else th) ∧
    (r.lanes ≠ [] → on r.lowest = true → deep r.lowest → Raises (.meet o) s r rest r.lowest 0x12 0 0) ∧
    (r.lanes ≠ [] → ¬(on r.lowest = true ∧ deep r.lowest) → ¬inRange →
      Raises (.meet o) s r rest r.lowest 0x04 a (BitVec.ofNat 32 (repNumber s r)))) ∧
  (∀ s r rest, Issuing s r rest → LaneAct .rejoin s r rest fun _ th => match th.meetStk with
    | w :: ws => { th with meet := if w = 0xFFFFFFFF#32 then 0xFFFFFFFFFFFFFFFF#64
        else (teamLaunch s r.team).desc.kernel + BitVec.ofNat 64 (4 * w.toNat), meetStk := ws }
    | [] => { th with meet := 0xFFFFFFFFFFFFFFFF#64 }) ∧
  (∀ f s r rest, GroupRun s r rest → LaneAct (.frame f) s r rest fun _ th => { th with cf := f.toNat }) ∧
  (∀ s r rest, s.runs = r :: rest → exec .nop s = .next (issued s r rest)) ∧
  (∀ s r rest, GroupRun s r rest → (∀ t < 32, (getTh s r.team r.grp (.lane t)).syncm = none) →
    (∀ c ∈ r.lanes, (laneTh s r c).hasPend = false ∧ (laneTh s r c).reports = [] ∧ (laneTh s r c).marks = []) →
    Jumps .exit s r rest (restartWatchdog s r.team) fun _ th => { th with life := .exited, inTrap := false }) ∧
  (∀ (o : RepFmt) s r rest w i, Issuing s r rest → (teamLaunch s r.team).isHeader (r.pc + 4) = true → CodeAt s r (r.pc + 8) w →
    decode w = .ok i → w.toNat / 2 ^ 25 ≤ 0x61 → w.toNat / 2 ^ 25 ≠ 0x4F → (o.s = 0 ∨ 0x40 ≤ w.toNat / 2 ^ 25) →
    ∃ t, exec (.rep o) s = .next (modRun t fun x => { x with rep := some (o.n.toNat, o.s.toInt) }) ∧
      LaneChange s r rest (fun _ th => { th with repc := o.n.setWidth 16 }) (withIcache s t))

/-- In a team with no items to compare, where no stack word leaves or re-enters the resident range: CALL pushes (the
word after it, CF) and adds CF to WB, sets CF to 32 and goes to its target in each lane whose guard is true, the
others falling through; CALLX does so in every lane with indexed targets; RET pops, restores CF, lowers WB and goes
to the return address in every lane. A full link stack or a window past L raises stack-overflow, and an empty link
stack return-underflow, in the lowest lane where it has one. Nothing else changes. (spec/13_isa_control.md (R310),
spec/13_isa_control.md (R311), spec/04_state_registers.md (R77)) -/
def Obligations.CallsAndReturns : Prop :=
  (∀ (o : BFmt) s r rest (on : Nat → Bool), GroupRun s r rest → hasItems s r.team = false → (∀ c ∈ r.lanes, guardTrue s r c o.g = .ok (on c)) →
    let l := teamLaunch s r.team
    let t := r.pc + BitVec.ofInt 64 (4 * o.off.toInt)
    l.isHeader t = true →
    ((∀ c ∈ r.lanes, on c = true → MayCall s r (laneTh s r c)) →
      Jumps (.call o) s r rest s fun c th => if on c then reach l t (called (r.pc + 4) th) else reach l (r.pc + 4) th) ∧
    (on r.lowest = true → ((laneTh s r r.lowest).links.length = 64 ∨ (l.desc.l : Int) < (laneTh s r r.lowest).wb + (laneTh s r r.lowest).cf + 32) →
      Raises (.call o) s r rest r.lowest 0x10 0 0)) ∧
  (∀ a s r rest (v : Nat → Word), GroupRun s r rest → hasItems s r.team = false → (∀ c ∈ r.lanes, readSrc s r c a = .ok (v c)) →
    let l := teamLaunch s r.team
    let t := fun c => l.desc.kernel + BitVec.ofNat 64 (4 * (v c).toNat)
    (∀ c ∈ r.lanes, l.isHeader (t c) = true) →
    ((∀ c ∈ r.lanes, MayCall s r (laneTh s r c)) →
      Jumps (.callx a) s r rest s fun c th => reach l (t c) (called (r.pc + 4) th)) ∧
    (((laneTh s r r.lowest).links.length = 64 ∨ (l.desc.l : Int) < (laneTh s r r.lowest).wb + (laneTh s r r.lowest).cf + 32) →
      Raises (.callx a) s r rest r.lowest 0x10 0 0)) ∧
  (∀ s r rest, GroupRun s r rest → hasItems s r.team = false →
    ((∀ c ∈ r.lanes, ∃ k ks, (laneTh s r c).links = k :: ks ∧ (teamLaunch s r.team).isHeader k.ret = true ∧
        NoSpill s r (laneTh s r c).wb) →
      Jumps .ret s r rest s fun _ => callersReturn (teamLaunch s r.team)) ∧
    ((laneTh s r r.lowest).links = [] → Raises .ret s r rest r.lowest 0x11 0 0))

/-- Where no lane is in a handler, waits for an entry or owes a report, and the launch gives a handler, any raised fault
that is not of class T ends the run, and each of its threads saves its queue in the trap frame, its flags and REPC
in ECOND and its WB and CF, sets CAUSE, EPC, FAULT_ADDR and FAULT_INFO, takes a window 16 words lower with CF 32,
sets STATUS.TRAP and goes to TRAP_BASE. TRAP b (b below 63) raises 0x28 and BRK, without the debugger, 0x29, with
FAULT_ADDR zext(b, 6) and EPC the word after, the word being counted as issued (R197). A second fault in a handler ends the team as a double trap. ERET
undoes the entry in every lane, and goes to EPC, if that is covered by a clause; outside a handler it raises
illegal-instruction. Entry and return together leave a thread's queue, flags, window, links and REPC as they were.
(spec/04_state_registers.md (R85), spec/04_state_registers.md (R86), spec/04_state_registers.md (R93),
spec/13_isa_control.md (R321), spec/13_isa_control.md (R322)) -/
def Obligations.TrapEntryAndReturn : Prop :=
  (∀ s r rest lane (d : TrapDue), TrapReady s r rest → classT d.cause = false → d.charged = false → d.others = 0 → d.mark = none →
    RunEnded (stepDone s r) r rest (fun _ => entered (teamLaunch s r.team).desc.trap d.epc d.addr d.cause d.info)
      (raise (issued s r rest) { r with sig := .word } lane d)) ∧
  (∀ (b : BitVec 6) s r rest, TrapReady s r rest → b.toNat ≠ 63 → ∃ t, exec (.trap b) s = .next t ∧
    RunEnded (stepDone (countWord s r) r) r rest (fun _ => entered (teamLaunch s r.team).desc.trap (r.pc + 4) (b.setWidth 64) 0x28 0) t) ∧
  (∀ (b : BitVec 6) s r rest, TrapReady s r rest → (teamLaunch s r.team).desc.dbg = false → ∃ t, exec (.brk b) s = .next t ∧
    RunEnded (stepDone (countWord s r) r) r rest (fun _ => entered (teamLaunch s r.team).desc.trap (r.pc + 4) (b.setWidth 64) 0x29 0) t) ∧
  (∀ (b : BitVec 6) s r rest c, Issuing s r rest → r.helpers = none → b.toNat ≠ 63 →
    (∀ x ∈ r.lanes, (laneTh s r x).hasPend = false ∧ (laneTh s r x).reports = [] ∧ (laneTh s r x).marks = []) →
    r.lanes.find? (fun x => (laneTh s r x).inTrap) = some c →
    exec (.trap b) s = .next (failTeamWith { countWord (issued s r rest) r with runs := { r with sig := .word, due := some ⟨0x28, b.setWidth 64, 0, r.pc + 4, false, 0, r.lowest, [], false, none⟩ } :: rest }
      r.team 0x32 (r.pc + 4) (b.setWidth 64) (BitVec.ofNat 32 (((laneTh s r c).cause.toNat % 256) * 256 + 0x28)) (r.teamThread r.lowest) [])) ∧
  (∀ s r rest, GroupRun s r rest →
    let l := teamLaunch s r.team
    ((∀ c ∈ r.lanes, let th := laneTh s r c
        th.inTrap = true ∧ th.hasPend = false ∧ (th.wb ≤ th.hidBase ∨ NoSpill s r th.wb) ∧
        (l.isHeader th.epc = true ∨ ∃ h w, l.headerBelow th.epc = some h ∧ CodeAt s r h w ∧
          (th.epc - h).toNat ≤ 4 * (w.toNat / 2 ^ 28))) →
      ∃ t, exec .eret s = .next (signal t .jump) ∧ LaneChange s r rest (fun _ => returned l) (withIcache s t)) ∧
    ((∀ c ∈ r.lanes, (laneTh s r c).inTrap = false) → Raises .eret s r rest r.lowest 0x01 0 (BitVec.ofNat 32 (repNumber s r)))) ∧
  (∀ (l : Launch) base epc addr code info (th : Thread), (∀ x ∈ th.q, ∀ op a, x ≠ .mark op a) →
    (∃ a b c d, th.cc = [.flags a, .flags b, .flags c, .flags d]) → th.inTrap = false →
    returned l (entered base epc addr code info th) =
      reach l epc { th with tf := th.q, econd := (entered base epc addr code info th).econd, epc := epc
                            cause := BitVec.ofNat 32 (2 ^ 31 + code), faultAddr := addr, faultInfo := info, hidBase := th.wb
                            resume := true, hidCf := th.cf, trapDepth := th.links.length })

/-- RDSYS of a system register gives each lane the register's words at once, to an n or h register (a pair for 64 bits)
or the queue alone; a register that is not a thread's may also go once to k registers. RDSYS of a counter gives
pending entries that wait for an operation carrying one sample, and counts in LDC; SAT_TEAM is then cleared. WRSYS
writes EPC and ECOND in each lane, and k16–k23 once; a write to any other assigned number but ERRINJ is ignored.
ERRINJ without the launch's grant raises privileged-access, and with it counts the write and, at IL2 or IL3 in a
single team, arms or disarms the error. An unassigned number raises illegal-instruction. Nothing else changes.
(spec/13_isa_control.md (R323), spec/13_isa_control.md (R324), spec/04_state_registers.md (R91),
spec/04_state_registers.md (R92), spec/04_state_registers.md (R96), spec/09_state_counters.md (R478)) -/
def Obligations.SystemRegisters : Prop :=
  (∀ d (num : BitVec 12) s r rest (ws : Nat → List Word), Issuing s r rest → r.lanes ≠ [] → (∀ c ∈ r.lanes, DstHere (laneTh s r c) d) →
    (∀ c ∈ r.lanes, plainRegister s r c num.toNat = some (ws c) ∧ ((ws c).length = 1 ∨ d.pairOk = true)) →
    LaneAct (.rdsys d num) s r rest fun c th => giveAll th d ((ws c).map Cell.word)) ∧
  (∀ (k : Fin 16) (num : BitVec 12) s r rest ws, GroupRun s r rest → 9 ≤ num.toNat → plainRegister s r r.lowest num.toNat = some ws →
    (ws.length = 1 ∨ (Dst.k k).pairOk = true) →
    exec (.rdsys (.k k) num) s = .next (setKs (issued s r rest) r k.val (ws.map Cell.word))) ∧
  (∀ d (num : BitVec 12) s r rest ws, Issuing s r rest → r.lanes ≠ [] → (∀ c ∈ r.lanes, DstHere (laneTh s r c) d) →
    counterRegister s r num.toNat = some ws → (ws.length = 1 ∨ d.pairOk = true) → (getGroup s r.team r.grp).ldc < 63 →
    let fills := r.lanes.map fun c => ({ who := r.who c, words := ws, poison := none, addr := 0, bytes := 0 } : Fill)
    let s0 := if num = 0x106 then modTeam s r.team fun t => { t with satTeam := 0 } else s
    ∃ t, exec (.rdsys d num) s = .next t ∧
      LaneChange (started s0 r (.load fills) .ld) r rest (fun _ th => giveAll th d (waiting s.nextId ws.length)) t) ∧
  (∀ (k : Fin 16) (num : BitVec 12) s r rest ws, GroupRun s r rest → counterRegister s r num.toNat = some ws →
    (ws.length = 1 ∨ (Dst.k k).pairOk = true) → (getGroup s r.team r.grp).ldc < 63 →
    let s0 := if num = 0x106 then modTeam (issued s r rest) r.team fun t => { t with satTeam := 0 } else issued s r rest
    exec (.rdsys (.k k) num) s = .next (started (setKs s0 r k.val (waiting s.nextId ws.length)) r
      (.load [{ who := .group, words := ws, poison := none, addr := 0, bytes := 0 }]) .ld)) ∧
  (∀ a s r rest (v : Nat → Dword), Issuing s r rest → a.pairOk = true → (∀ c ∈ r.lanes, readSrc64 s r c a = .ok (v c)) →
    LaneAct (.wrsys a 0x002) s r rest fun c th => { th with epc := v c }) ∧
  (∀ a s r rest (v : Nat → Word), Issuing s r rest → (∀ c ∈ r.lanes, readSrc s r c a = .ok (v c)) →
    LaneAct (.wrsys a 0x005) s r rest fun c th => { th with econd := v c }) ∧
  (∀ a (num : BitVec 12) s r rest v, GroupRun s r rest → 0x010 ≤ num.toNat → num.toNat < 0x018 → readSrc s r r.lowest a = .ok v →
    exec (.wrsys a num) s = .next (setGroupK (issued s r rest) r num.toNat (.word v))) ∧
  (∀ a (num : BitVec 12) s r rest, GroupRun s r rest → num ≠ 0x002 → num ≠ 0x005 → num ≠ 0x00C → ¬(0x010 ≤ num.toNat ∧ num.toNat < 0x018) →
    (∃ ws, (plainRegister s r r.lowest num.toNat = some ws ∨ counterRegister s r num.toNat = some ws) ∧
      (ws.length = 1 ∨ a.pairOk = true)) →
    exec (.wrsys a num) s = .next (issued s r rest)) ∧
  (∀ a s r rest v, s.runs = r :: rest → readSrc s r r.lowest a = .ok v →
    ((teamLaunch s r.team).desc.inj = false → Raises (.wrsys a 0x00C) s r rest r.lowest 0x0F 0 0) ∧
    ((teamLaunch s r.team).desc.inj = true → (getTeam s r.team).side = .single → v.extractLsb' 29 2 ≠ 3 →
      exec (.wrsys a 0x00C) s = .next (modTeam (issued s r rest) r.team fun t =>
        { t with errinjCount := t.errinjCount + 1
                 errinj := if (teamLaunch s r.team).kernel.il < 2 then t.errinj else if v.msb then
                   some { kind := (v.extractLsb' 29 2).toNat, side := v.getLsbD 28, bit := (v.extractLsb' 22 6).toNat
                          thread := (v.extractLsb' 12 10).toNat, skip := (v.extractLsb' 8 4).toNat } else none }))) ∧
  (∀ d a (num : BitVec 12) s r rest, s.runs = r :: rest → plainRegister s r r.lowest num.toNat = none →
    counterRegister s r num.toNat = none →
    Raises (.rdsys d num) s r rest r.lowest 0x01 0 (BitVec.ofNat 32 (repNumber s r)) ∧
    Raises (.wrsys a num) s r rest r.lowest 0x01 0 (BitVec.ofNat 32 (repNumber s r)))

/-- In a single team: POST combines the lowest lane's operand into the post word by the launch's operator. TIME gives
every lane one sample of the PTP clock. CKPT, once nothing is pending or due, flushes in deterministic mode, does no
more below IL2, and at IL2 or above waits for a checkpoint and then passes. SVCTAKE gives each lane the oldest
request of its cluster's queue that is not taken, which lets the oldest request that waits for room in, and SVCGIVE answers or retires the request of a slot; both raise
privileged-access outside firmware. TLBINV puts one shoot-down of its context in flight and counts it in STC; a non-
canonical address raises non-canonical. DIAG.MARK writes a marker record where tracing is on, and DIAG.MASK gives
each lane, or once a k register, the active mask. (spec/13_isa_control.md (R320), spec/13_isa_control.md (R325), spec/13_isa_control.md
(R326), spec/13_isa_control.md (R327), spec/13_isa_control.md (R328), spec/13_isa_control.md (R329)) -/
def Obligations.GroupAndServiceInstructions : Prop :=
  (∀ a s r rest v, GroupRun s r rest → readSrc s r r.lowest a = .ok v → hasItems s r.team = false → (teamLaunch s r.team).desc.rop ≤ 4 →
    exec (.post a) s = .next (restartWatchdog (modCore (issued s r rest) r.team fun tc =>
      { tc with post := posted (teamLaunch s r.team).desc.rop tc.post v r.grp }) r.team)) ∧
  (∀ d s r rest, Issuing s r rest → (getTeam s r.team).side = .single → (∀ c ∈ r.lanes, DstHere (laneTh s r c) d) →
    LaneAct (.time d) s r rest fun _ th =>
      give2 th d (.word (s.phcNs.extractLsb' 0 32)) (.word (s.phcNs.extractLsb' 32 32))) ∧
  (∀ (k : Fin 16) s r rest, GroupRun s r rest → (getTeam s r.team).side = .single →
    exec (.time (.k k)) s = .next (setKs (issued s r rest) r k.val
      [.word (s.phcNs.extractLsb' 0 32), .word (s.phcNs.extractLsb' 32 32)])) ∧
  (∀ s r rest, GroupRun s r rest → (∀ th ∈ (getGroup s r.team r.grp).threads, th.hasPend = false) →
    (∀ x ∈ (getGroup s r.team r.grp).k, x.isPend = false) →
    (∀ c ∈ r.lanes, (laneTh s r c).reports = [] ∧ (laneTh s r c).marks = []) →
    let t := getTeam s r.team
    let flushed := if (teamLaunch s r.team).kernel.det then flushDet (issued s r rest) r.team fun _ => true else issued s r rest
    (32 + r.grp ∈ t.ckptWaiting → exec .ckpt s = .next (modTeam (issued s r rest) r.team fun t =>
      { t with ckptWaiting := t.ckptWaiting.filter (· != 32 + r.grp) })) ∧
    (32 + r.grp ∉ t.ckptWaiting → (teamLaunch s r.team).kernel.il < 2 → exec .ckpt s = .next flushed) ∧
    (32 + r.grp ∉ t.ckptWaiting → 2 ≤ (teamLaunch s r.team).kernel.il → ∃ w : List Nat → List Nat, exec .ckpt s = .next (signal (modTeam flushed r.team fun t =>
      { t with ckptWaiting := w t.ckptWaiting }) .stall) ∧ ∀ l x, x ∈ w l ↔ x = r.grp ∨ x ∈ l)) ∧
  (∀ (d : Fin 4) s r rest cl, GroupRun s r rest → (getTeam s r.team).firmware = some cl →
    ∃ t, exec (.svctake d) s = .next t ∧ LaneChange { s with svc := takes cl r.lanes.length s.svc } r rest
      (fun c th => let ws := (requestWords ((takes cl (r.lanes.idxOf c) s.svc).find? (openRequest cl))).map Cell.word
        (puts (.n (Fin.ofNat 32 (8 * d.val))) 0 ws th).pushAll ws) t) ∧
  (∀ a b s r rest cl (v : Nat → Dword) (w : Nat → Word), GroupRun s r rest → (getTeam s r.team).firmware = some cl →
    (∀ c ∈ r.lanes, readSrc64 s r c a = .ok (v c) ∧ readSrc s r c b = .ok (w c)) →
    exec (.svcgive a b) s = .next (r.lanes.foldl (fun s c => givenTo cl s (v c) (w c)) (issued s r rest))) ∧
  (∀ a b d s r rest, GroupRun s r rest → (getTeam s r.team).firmware = none →
    Raises (.svctake d) s r rest r.lowest 0x0F 0 0 ∧ Raises (.svcgive a b) s r rest r.lowest 0x0F 0 0) ∧
  (∀ a b s r rest va n, GroupRun s r rest → readSrc64 s r r.lowest a = .ok va → readSrc s r r.lowest b = .ok n →
    let ctx := BitVec.ofNat 16 (teamLaunch s r.team).ctx
    let range : ShootRange := if n = 0 then .context ctx else .pages ctx (va.toNat / 4096 * 4096) n.toNat
    (2 ^ 56 ≤ va.toNat → Raises (.tlbinv a b) s r rest r.lowest 0x06 va (BitVec.ofNat 32 (repNumber s r))) ∧
    (va.toNat < 2 ^ 56 → (getGroup s r.team r.grp).stc < 63 →
      exec (.tlbinv a b) s = .next (started (staleWalks (issued s r rest) range) r (.shootdown range true) .st))) ∧
  (∀ a s r rest v, s.runs = r :: rest → readSrc s r r.lowest a = .ok v →
    let ctl := pbar s (getTeam s r.team).part Config.oTrCtl
    ((ctl.msb = false ∨ ctl.getLsbD 48 = false) → exec (.diagMark a) s = .next (issued s r rest)) ∧
    (r.helpers = none → exec (.diagMark a) s = .next (trace (issued s r rest) (getTeam s r.team).part 3
      { ctx := (teamLaunch s r.team).ctx, team := (getTeam s r.team).idx, thread := 32 * r.grp + r.lowest
        helper := false, launch := (teamLaunch s r.team).num } (natBytes 4 v.toNat)))) ∧
  (∀ d s r rest, Issuing s r rest → r.helpers = none → (∀ c ∈ r.lanes, c < 32 ∧ DstHere (laneTh s r c) d) →
    LaneAct (.diagMask d) s r rest fun _ th => give1 th d (.word (BitVec.ofNat 32 (r.lanes.map (2 ^ ·)).sum))) ∧
  (∀ k s r rest, UniformReady s r rest → r.helpers = none → (∀ c ∈ r.lanes, c < 32) → r.lanes.Nodup →
    Uniform (.diagMask (.k k)) s r rest k (BitVec.ofNat 32 (r.lanes.map (2 ^ ·)).sum))

/-- RECLD gives a record the words of its 32-byte image, from scratchpad or memory, with reserved bits zero. RECSET
writes one word, with reserved bits zero. RECADJ moves the field that R342 names and no other, or raises the fault
that R342 names. GENSET.SEED and .CTL write a generator register, and .FREQ its frequency table from scratchpad,
waiting while an MMA that names the generator has not fetched. GENADV.STREAM adds to the stream, and .SEED replaces
the seed and clears the scope. GENRD gives each lane the generator's value at its coordinates, or raises record-kind
or record-field. Nothing else changes. (spec/14_isa_matrix.md (R340), spec/14_isa_matrix.md (R341),
spec/14_isa_matrix.md (R342), spec/14_isa_matrix.md (R344), spec/14_isa_matrix.md (R345), spec/14_isa_matrix.md
(R346)) -/
def Obligations.RecordAndGeneratorInstructions : Prop :=
  (∀ (x : Fin 16) b s r rest off, GroupRun s r rest → readSrc s r r.lowest b = .ok off → InScratch s r 32 (fun _ => off.toNat) →
    poisonIn (getCore s r.team).scratchPoison off.toNat 32 = none →
    exec (.recld x b true) s = .next (modGroup (issued s r rest) r.team r.grp fun g =>
      setRec g x.val (imageWords (readBytes (getCore s r.team).scratch off.toNat 32)))) ∧
  (∀ (x : Fin 16) b s r rest a pa sa, GroupRun s r rest → readSrc64 s r r.lowest b = .ok a →
    checkGlobal s (envOf s r) .load false false 32 a = .ok pa sa → Direct s pa 32 →
    seenPoison s r.team pa 32 (poisonIn s.poison pa 32) = none →
    ∃ t, exec (.recld x b false) s = .next t ∧ withCaches s t = modGroup (issued s r rest) r.team r.grp fun g =>
      setRec g x.val (imageWords ((List.range 32).map fun i => seenByte s r.team (pa + i)))) ∧
  (∀ (x : Fin 16) (w : Fin 8) c s r rest v, GroupRun s r rest → readSrc s r r.lowest c = .ok v →
    let kind := if w = 0 then (v.extractLsb' 28 4).toNat else recKind (recOf (getGroup s r.team r.grp) x.val)
    exec (.recset x w c) s = .next (modGroup (issued s r rest) r.team r.grp fun g => setRecWord g x.val w.val (v &&& recMask kind w.val))) ∧
  (∀ (x : Fin 16) b mode s r rest v, GroupRun s r rest → readSrc s r r.lowest b = .ok v →
    let ws := recOf (getGroup s r.team r.grp) x.val
    (∀ f, adjustFault ws mode = some f → Raises (.recadj x b mode) s r rest r.lowest f 0 0) ∧
    (adjustFault ws mode = none → ∃ vs, Adjusted ws vs mode v ∧
      exec (.recadj x b mode) s = .next (modGroup (issued s r rest) r.team r.grp fun g => setRec g x.val vs))) ∧
  (∀ (gi : Fin 4) b s r rest v, GroupRun s r rest → readSrc64 s r r.lowest b = .ok v →
    exec (.gensetSeed gi b) s = .next (withGen (issued s r rest) r gi.val fun g => { g with seed := v })) ∧
  (∀ (gi : Fin 4) b c s r rest v w, GroupRun s r rest → readSrc s r r.lowest b = .ok v → readSrc s r r.lowest c = .ok w →
    exec (.gensetCtl gi b c) s = .next (withGen (issued s r rest) r gi.val fun g => { g with w2 := v >>> 10 <<< 10, w3 := w >>> 16 <<< 16 })) ∧
  (∀ (gi : Fin 4) b s r rest off, GroupRun s r rest → readSrc s r r.lowest b = .ok off →
    off.toNat % 4 = 0 → off.toNat + 256 ≤ (teamLaunch s r.team).kernel.scratch →
    (∀ x, off.toNat ≤ x → x < off.toNat + 256 → stashEntryAt (getCore s r.team) x = none) →
    poisonIn (getCore s r.team).scratchPoison off.toNat 256 = none →
    (genNamed s r gi.val = true → Stalls (.gensetFreq gi b) s r rest) ∧
    (genNamed s r gi.val = false → ∃ f : SMap Word → SMap Word,
      exec (.gensetFreq gi b) s = .next (modGroup (issued s r rest) r.team r.grp fun g => { g with freq := f g.freq }) ∧
      (∀ m i, mapWf 0 m = true → i < 64 → mapGet 0 (f m) (64 * gi.val + i) = scratchWord s r.team (off.toNat + 4 * i)) ∧
      ∀ m j, j < 64 * gi.val ∨ 64 * gi.val + 64 ≤ j → mapGet 0 (f m) j = mapGet 0 m j)) ∧
  (∀ (gi : Fin 4) b s r rest v, GroupRun s r rest → readSrc s r r.lowest b = .ok v →
    exec (.genadvStream gi b) s = .next (withGen (issued s r rest) r gi.val fun g =>
      { g with w2 := (g.w2.extractLsb' 16 16 + v.setWidth 16) ++ (g.w2.setWidth 16 : BitVec 16) })) ∧
  (∀ (gi : Fin 4) b s r rest v, GroupRun s r rest → readSrc s r r.lowest b = .ok v →
    exec (.genadvSeed gi b) s = .next (withGen (issued s r rest) r gi.val fun g =>
      { g with seed := fin64 (seedEff g.seed (g.w2.extractLsb' 10 2).toNat (teamLaunch s r.team).desc.salt.toNat (getTeam s r.team).idx r.grp ^^^ v.setWidth 64)
               w2 := g.w2 &&& 0xFFFFF3FF#32 })) ∧
  (∀ d (x : Fin 16) c s r rest (v : Nat → Word), Issuing s r rest → r.lanes ≠ [] → (∀ l ∈ r.lanes, DstHere (laneTh s r l) d) →
    (∀ l ∈ r.lanes, readSrc s r l c = .ok (v l)) →
    let g := getGroup s r.team r.grp
    let ws := recOf g x.val
    let gen := g.gens.getD (recGen ws) {}
    (recKind ws ≠ 5 → Raises (.genrd d x c) s r rest r.lowest 0x18 0 0) ∧
    (recKind ws = 5 → genKind gen = none → Raises (.genrd d x c) s r rest r.lowest 0x19 0 0) ∧
    (∀ k, recKind ws = 5 → genKind gen = some k → LaneAct (.genrd d x c) s r rest fun l th =>
      let ij := canonical ws ((v l).setWidth 16).toNat ((v l) >>> 16).toNat
      give1 th d (.word (genWord (genParams s r.team r.grp gen (recGen ws)) ij.1 ij.2))))

/-- With no MMA in flight on the accumulator and no report due: ACCRD gives each lane a word of its row, ACCWR writes
one, ACCCLR clears the row, and ACCCVT replaces it by its 16-bit pairs or by its block stream and exponent, counting
saturations. ACCST puts its rows in flight in its slot and TLC. While an MMA in flight writes the accumulator each
waits. STAMP.OPEN writes a whole manifest; every later stage charges the time since the last stamp to its field,
updates T_LAST and counts; RETIRE also writes a trace record. Nothing else changes. (spec/14_isa_matrix.md (R354),
spec/14_isa_matrix.md (R355), spec/14_isa_matrix.md (R356), spec/14_isa_matrix.md (R357), spec/14_isa_matrix.md
(R358), spec/14_isa_matrix.md (R359)) -/
def Obligations.AccumulatorInstructions : Prop :=
  (∀ d (acc : Fin 4) c s r rest (v : Nat → Word), AccReady s r rest [acc.val] → (∀ l ∈ r.lanes, DstHere (laneTh s r l) d) →
    (∀ l ∈ r.lanes, readSrc s r l c = .ok (v l)) →
    LaneAct (.accrd d acc c) s r rest fun l th => give1 th d (.word (accWord th acc.val ((v l).toNat % 16)))) ∧
  (∀ (acc : Fin 4) b c s r rest (i v : Nat → Word), AccReady s r rest [acc.val] →
    (∀ l ∈ r.lanes, readSrc s r l b = .ok (i l) ∧ readSrc s r l c = .ok (v l)) →
    LaneAct (.accwr acc b c) s r rest fun l th => setAccWord th acc.val ((i l).toNat % 16) (v l)) ∧
  (∀ (acc : Fin 4) s r rest, AccReady s r rest [acc.val] → LaneAct (.accclr acc) s r rest fun _ th => withRow th acc.val fun _ => 0) ∧
  (∀ (acc : Fin 4) s r rest, AccReady s r rest [acc.val] →
    (LaneAct (.acccvt acc .fp16) s r rest fun _ th => withRow th acc.val fun j => if j < 8 then roundedPair fp16 th acc.val j else 0) ∧
    (LaneAct (.acccvt acc .bf16) s r rest fun _ th => withRow th acc.val fun j => if j < 8 then roundedPair bf16 th acc.val j else 0)) ∧
  (∀ (acc : Fin 4) w s r rest, AccReady s r rest [acc.val, acc.val + 1] →
    let n := widthOf w
    let sat := (r.lanes.map fun c => (rowBlock n (laneTh s r c) acc.val).2.2).sum
    ∃ t, exec (.acccvt acc (.bfp w)) s = .next t ∧
      LaneChange (modTeam s r.team fun t => { t with satTeam := satAdd t.satTeam sat }) r rest (fun _ th =>
        let b := rowBlock n th acc.val
        withRow th acc.val fun j => if j < n then BitVec.ofNat 32 (streamNat n b.2.1 / 2 ^ (32 * j))
          else if j = 8 then BitVec.ofNat 32 b.1 else 0) t) ∧
  (∀ (o : AccstFmt) s r rest (rows : Nat → List AccstRow) (sat : Nat → Nat),
    AccReady s r rest (match o.mode with | .bfp _ => [o.acc.val, o.acc.val + 1] | _ => [o.acc.val]) → hasItems s r.team = false →
    (∀ c ∈ r.lanes, accstRow s r o c = .ok (rows c, sat c)) →
    (s.ops.filter fun x => (match x.kind with | .accst _ _ => true | _ => false) &&
      subCoreOf s x == ((getTeam s r.team).core, (getGroup s r.team r.grp).sub)).length < 16 → (getGroup s r.team r.grp).tlc < 63 → (getGroup s r.team r.grp).d.getD o.slot.val 0 < 63 →
    ∃ t, exec (.accst o) s = .next t ∧ withCaches s t = raiseSlot (raiseCtr (addOp (addSat (issued s r rest) r.team (r.lanes.map sat).sum)
      r.team r.grp r.pc r.lowest (.accst (r.lanes.flatMap rows) o.slot.val)) r.team r.grp .tl) r.team r.grp o.slot.val) ∧
  (∀ (o : AccstFmt) s r c a pa sa, readSrc64 s r c o.a = .ok a → o.shadow = false →
    checkGlobal s (envOf s r) .accst false false 16 a = .ok pa sa → Direct s pa 64 → a.toNat % 4096 + 64 ≤ 4096 →
    let th := laneTh s r c
    let row := fun (n : Nat) (w : Nat → Word) => AccstRow.mk c a pa ((List.range n).flatMap fun j => natBytes 4 (w j).toNat) none 0 false false 0
    (o.mode = .w32 → accstRow s r o c = .ok ([row 16 (accWord th o.acc.val)], 0)) ∧
    (o.mode = .w16 → accstRow s r o c = .ok ([row 8 (accWord th o.acc.val)], 0)) ∧
    (o.mode = .fp16 → accstRow s r o c = .ok ([row 8 (roundedPair fp16 th o.acc.val)], 0)) ∧
    (o.mode = .bf16 → accstRow s r o c = .ok ([row 8 (roundedPair bf16 th o.acc.val)], 0))) ∧
  (∀ d (acc : Fin 4) a b s r rest, AccBusy s r rest [acc.val] →
    Stalls (.accrd d acc a) s r rest ∧ Stalls (.accwr acc a b) s r rest ∧ Stalls (.accclr acc) s r rest ∧
    Stalls (.acccvt acc .fp16) s r rest ∧ Stalls (.acccvt acc .bf16) s r rest) ∧
  (∀ a b stage s r rest off tile, GroupRun s r rest → readSrc s r r.lowest a = .ok off → readSrc s r r.lowest b = .ok tile →
    InScratch s r 64 (fun _ => off.toNat) → (getTeam s r.team).side = .single →
    let l := teamLaunch s r.team
    let old := readBytes (getCore s r.team).scratch off.toNat 64
    let opened := natBytes 4 tile.toNat ++ natBytes 4 l.num ++ natBytes 4 (getTeam s r.team).idx ++ natBytes 4 (l.ctx * 65536 + r.grp) ++
      natBytes 8 s.cycle.toNat ++ natBytes 8 s.cycle.toNat ++ List.replicate 24 0 ++ natBytes 8 s.phcNs.toNat
    let later := old.take 0x18 ++ natBytes 8 s.cycle.toNat ++ stamped old stage .cin 0x20 s.cycle ++ stamped old stage .opw 0x24 s.cycle ++
      stamped old stage .mma 0x28 s.cycle ++ stamped old stage .cout 0x2C s.cycle ++ natBytes 2 (min (manifestField old 0x30 2 + 1) 0xFFFF) ++
      old.drop 0x32
    let put := fun (bs : List Byte) => writeScratch (issued s r rest) r.team off.toNat bs
    exec (.stamp a b stage) s = .next (match stage with
      | .opn => put opened
      | .retire => trace (put later) (getTeam s r.team).part 4 (nameOfLane s r r.lowest) later
      | _ => put later))

/-- An MMA whose records, operands and resources pass R347 and R349 goes in flight with copies of its records and
generators and the active rows, and raises its slot and TLC; a record of a wrong kind or field or an inner dimension
that differs raises its fault with FAULT_INFO telling the record. Its fetch point, once its wait mask is clear and
its footprint fits, unless its team stops for a discard (R377), reads its operands and pins its lines. It starts when its engine is free, no earlier MMA of its
group remains and no other MMA of the sub-core was fetched as early. At completion each active row that exists is,
in every column, the fold of R65's or R66's step over the block pairs in ascending order, from zero or the old
value; other words stay, the slot and TLC fall and the operation is gone. (spec/14_isa_matrix.md (R347),
spec/14_isa_matrix.md (R348), spec/14_isa_matrix.md (R349), spec/05_state_memories.md (R107),
spec/05_state_memories.md (R108)) -/
def Obligations.MatrixOperations : Prop :=
  (∀ o : XFmt, MmaIssues (.mma o) .mma o ∧ MmaIssues (.mmas o) .mmas o ∧ MmaIssues (.mmat o) .mmat o) ∧
  (∀ i op (o : XFmt) s r rest, (i, op) ∈ [(Instr.mma o, MmaOp.mma), (.mmas o, .mmas), (.mmat o, .mmat)] → GroupRun s r rest →
    o.acc.val < (teamLaunch s r.team).kernel.accum → (∀ c ∈ r.lanes, (laneTh s r c).reports = []) →
    let g := getGroup s r.team r.grp
    let ra := recOf g o.ra.val
    let rb := recOf g o.rb.val
    let fieldA := recFieldOk false (g.gens.getD (recGen ra) {}) ra
    let fieldB := recFieldOk true (g.gens.getD (recGen rb) {}) rb
    (recKindOk op false ra = false → Raises i s r rest r.lowest 0x18 0 0) ∧
    (recKindOk op false ra = true → recKindOk op true rb = false → Raises i s r rest r.lowest 0x18 0 1) ∧
    (recKindOk op false ra = true → recKindOk op true rb = true →
      (fieldA = false → Raises i s r rest r.lowest 0x19 0 0) ∧
      (fieldA = true → fieldB = false → Raises i s r rest r.lowest 0x19 0 1) ∧
      (fieldA = true → fieldB = true → recK ra ≠ recK rb → Raises i s r rest r.lowest 0x1A 0 0))) ∧
  (∀ op s o m, opMma s op = some (o, m) → fetchReady s o m = true →
    ∃ s0, withCaches s s0 = s ∧
    let f := fetchMma s0 o.team o.grp m
    ∃ t, exec (.mmaFetchPoint op) s = .next t ∧ t.teams = (addSat f.1 o.team f.2.2).teams ∧
      t.ops = s.ops.map (fun x => if x.id = op then { x with kind := .mma { f.2.1 with fetchedAt := s.cycle.toNat } } else x) ∧
      (∀ l ∈ m.lines, ∃ x ∈ t.shares, x.core = (getTeam s o.team).core ∧ x.sub = (getGroup s o.team o.grp).sub ∧ x.line = l ∧
        (cachedTarget (targetOf s l) = true → x.valid = true) ∧ op ∈ x.pins) ∧
      ((∀ l ∈ s.aper, l.dirty = false) → (∀ x ∈ s.teams, ∀ l ∈ x.body.stashLines, l.dirty = false) → s.window = [] →
        t.mem = s.mem)) ∧
  (∀ op s o m, opMma s op = some (o, m) → o.id = op → m.stage = .fetched → (∀ x ∈ s.ops, ∀ y, x.kind = .mma y →
      ¬(x.team = o.team ∧ x.grp = o.grp ∧ x.id < o.id) ∧
      (subCoreOf s x = subCoreOf s o → y.stage ≠ .started ∧ (x = o ∨ y.stage = .queued ∨ m.fetchedAt < y.fetchedAt))) →
    discarding s o.team = false → exec (.mmaStart op) s = .next { s with ops := s.ops.map fun x => if x.id = op then { x with kind := .mma { m with stage := .started } } else x }) ∧
  (∀ op s o m, opMma s op = some (o, m) → m.stage = .started → m.fault = none → s.perfProg = [] → m.lanes.Nodup → m.cols.length ≤ 16 →
    (∀ c ∈ m.lanes, mapWf 0 (getTh s o.team o.grp (.lane c)).acc = true) →
    ∃ t, exec (.mmaComplete op) s = .next t ∧ t.ops = s.ops.filter (·.id != op) ∧ t.mem = s.mem ∧
      (∀ c, present s o.team o.grp (.lane c) = true → ∀ j, mapGet 0 (getTh t o.team o.grp (.lane c)).acc j =
        match m.rows.getD c none with
        | some row => if c ∈ m.lanes ∧ 16 * m.acc ≤ j ∧ j < 16 * m.acc + m.cols.length then
            (row.zip (m.cols.getD (j - 16 * m.acc) [])).foldl (fun a p => if m.integer then accStepI a p.1 p.2 else accStepF a p.1 p.2)
              (if m.z then 0 else mapGet 0 (getTh s o.team o.grp (.lane c)).acc j)
          else mapGet 0 (getTh s o.team o.grp (.lane c)).acc j
        | none => mapGet 0 (getTh s o.team o.grp (.lane c)).acc j) ∧
      (o.team < s.teams.length → o.grp < (getCore s o.team).groups.length → m.slot < (getGroup s o.team o.grp).d.length →
        (getGroup t o.team o.grp).tlc = (getGroup s o.team o.grp).tlc - 1 ∧
        (getGroup t o.team o.grp).d.getD m.slot 0 = (getGroup s o.team o.grp).d.getD m.slot 0 - 1)) ∧
  (∀ op s o rows slot, findOp s op = some o → o.kind = .accst rows slot → hasItems s o.team = false → opHeld s op = false → s.sound →
    (∀ x ∈ rows, x.aperture = false ∧ Direct s x.pa x.bytes.length ∧ ∀ p, x.expPa = some p → Direct s p 1) →
    ∃ t, exec (.accstComplete op) s = .next t ∧
      (∀ a, mapGet memDefault t.mem a = (lastWrite (rows.flatMap AccstRow.cells) a).getD (mapGet memDefault s.mem a)) ∧
      withCaches s { t with mem := s.mem, poison := s.poison } = lowerSlot (lowerCtr (dropOp s op) o.team o.grp .tl) o.team o.grp slot)

/-- CREW by one thread outside a body pushes its grant, sets c3 and CREW_STATUS, snapshots n0–n31, holds its state and
starts chunk 0, its granted helpers starting the chunks after it; with no iterations it goes to the CREWEND. By
members, it opens a nested crew in each alone, without helpers; in a nested body it raises illegal-instruction.
CREWACC adds one contribution per lane to its crew, or folds it in a nested crew. CREWEND goes on to the next
iteration, which in a nested crew may start a chunk (R319); a recruiter that ends its chunk claims the next, and where none remains, no helper is left and no fault
is charged, its held state returns, the combined result is pushed and the crew closes. Outside a body CREWACC and
CREWEND raise illegal-instruction. (spec/02_execution_model.md (R38), spec/02_execution_model.md (R40),
spec/02_execution_model.md (R41), spec/02_execution_model.md (R43), spec/04_state_registers.md (R82),
spec/04_state_registers.md (R94), spec/13_isa_control.md (R315), spec/13_isa_control.md (R317),
spec/13_isa_control.md (R318), spec/13_isa_control.md (R319)) -/
def Obligations.CrewInstructions : Prop :=
  (∀ (o : CrewFmt) s r rest s' e c lo n, Issuing s r rest → r.helpers = none → r.lanes = [c] → (laneTh s r c).inBody = false →
    (getCore s r.team).crew r.grp c = none → readSrc s r c o.lo = .ok lo → readSrc s r c o.count = .ok n → BodyEnds s r rest s' e →
    let g := crewGrant s r c o
    let th := { withGrant (laneTh s r c) o.h.val g.1.length g.2 with inCrew := true }
    let chunks := (n.toNat + 2 ^ o.c.val - 1) / 2 ^ o.c.val
    ∃ t cr, exec (.crew o) s = .next (signal t .jump) ∧ (getCore t r.team).crew r.grp c = some cr ∧
      laneTh t r c = (if n = 0 then { th with pc := e, life := .runnable, member := none, h := List.replicate 8 (.word 0) }
        else atChunk th (r.pc + 4) lo 0 o.c.val) ∧
      cr.lo = lo ∧ cr.count = n.toNat ∧ cr.c = o.c.val ∧ cr.comb = o.comb ∧ cr.start = r.pc + 4 ∧ cr.crewEnd = e ∧
      cr.snap = (List.range 32).map (laneTh s r c).n ∧ cr.held = heldOf th ∧ cr.contrib = [] ∧ cr.buffered = !g.1.isEmpty ∧
      cr.next = min chunks (1 + g.1.length) ∧ cr.helpers.length = min (chunks - 1) g.1.length ∧
      (∀ i h x, cr.helpers[i]? = some h → g.1[i]? = some x → (h.grp, h.thr) = x ∧
        h.th = atChunk { Thread.fresh (r.pc + 4) 0 0 with inCrew := true } (r.pc + 4) lo (i + 1) o.c.val) ∧
      (∀ tid g x, (tid, g, x) ≠ (r.team, r.grp, c) → getTh t tid g (.lane x) = getTh s tid g (.lane x)) ∧ t.mem = s.mem) ∧
  (∀ (o : CrewFmt) s r rest s' e (m : Nat → Member) (lo n : Nat → Word), Issuing s r rest → BodyEnds s r rest s' e →
    (∀ c ∈ r.lanes, (laneTh s r c).inBody = true ∧ (laneTh s r c).member = some (m c) ∧ (m c).nested = none ∧
      readSrc s r c o.lo = .ok (lo c) ∧ readSrc s r c o.count = .ok (n c)) →
    ∃ t, exec (.crew o) s = .next (signal t .jump) ∧ LaneChange s r rest (fun c th =>
      let th' := withGrant th o.h.val 0 3
      let x : Nested := { lo := lo c, count := (n c).toNat, c := o.c.val, comb := o.comb, start := r.pc + 4, crewEnd := e, iter := 0, fold := none
                          held := heldOf th', h := th.h }
      if n c = 0 then { th' with pc := e, life := .runnable, member := some { m c with nested := some x } }
      else { atChunk th' (r.pc + 4) (lo c) 0 0 with member := some { m c with nested := some x } }) (withIcache s t)) ∧
  (∀ (o : CrewFmt) s r rest, Issuing s r rest → r.lanes ≠ [] → (laneTh s r r.lowest).inBody = true →
    (∀ m, (laneTh s r r.lowest).member = some m → m.nested ≠ none) →
    Raises (.crew o) s r rest r.lowest 0x01 0 (BitVec.ofNat 32 (repNumber s r))) ∧
  (∀ a s r rest m cr (v : Nat → Word), Issuing s r rest → InChunk s r m cr → (∀ c ∈ r.lanes, readSrc s r c a = .ok (v c)) →
    (∀ c ∈ r.lanes, (m c).iter = (cr c).lowIter (getTh s r.team r.grp (.lane (r.nameOf c))) ∨
      (cr c).stored (getTh s r.team r.grp (.lane (r.nameOf c))) + r.lanes.length ≤ 1024) →
    ∃ t, exec (.crewacc a) s = .next t ∧ LaneChange (modCore s r.team fun tc => { tc with crews := tc.crews.map fun x =>
        if x.grp = r.grp then { x with contrib := x.contrib ++ (r.lanes.filter fun c => r.nameOf c == x.thr).map fun c =>
          { iter := (m c).iter, seq := (m c).seq, chunk := (m c).chunk, value := v c } } else x }) r rest
      (fun c th => { th with member := some { m c with seq := (m c).seq + 1 } }) t) ∧
  (∀ a s r rest (m : Nat → Member) (x : Nat → Nested) (v : Nat → Word), Issuing s r rest →
    (∀ c ∈ r.lanes, (laneTh s r c).inBody = true ∧ (laneTh s r c).member = some (m c) ∧ (m c).nested = some (x c) ∧ readSrc s r c a = .ok (v c)) →
    LaneAct (.crewacc a) s r rest fun c th => { th with member := some { m c with nested := some { x c with fold := combFold (x c).comb (x c).fold (v c) } } }) ∧
  (∀ s r rest m cr, Issuing s r rest → InChunk s r m cr →
    (∀ c ∈ r.lanes, (m c).iter + 1 < (m c).chunk * 2 ^ (cr c).c + (cr c).chunkSize (m c).chunk) →
    CrewSteps .crewend s r rest s fun c th => { th with pc := (cr c).start, life := .runnable, h := listSet th.h 0 (.word ((cr c).lo + BitVec.ofNat 32 ((m c).iter + 1))), member := some { m c with iter := (m c).iter + 1, seq := 0 } }) ∧
  (∀ s r rest m x c0, Issuing s r rest → r.lanes = [c0] → (laneTh s r c0).inBody = true → (laneTh s r c0).member = some m → m.nested = some x →
    (∃ cr, (getCore s r.team).crew r.grp (r.nameOf c0) = some cr) →
    (x.iter + 1 < x.count → CrewSteps .crewend s r rest s fun _ th =>
      let m' := some { m with nested := some { x with iter := x.iter + 1 } }
      if (x.iter + 1) % 2 ^ x.c = 0 then { atChunk th x.start (x.lo + BitVec.ofNat 32 (x.iter + 1)) 0 0 with member := m' }
      else { th with pc := x.start, life := .runnable, h := listSet th.h 0 (.word (x.lo + BitVec.ofNat 32 (x.iter + 1))), member := m' }) ∧
    (x.count ≤ x.iter + 1 → CrewSteps .crewend s r rest (restartWatchdog s r.team) fun _ th => reach (teamLaunch s r.team) (r.pc + 4)
      (restored { th with h := x.h, member := some { m with nested := none } } x.held (x.fold.getD (combEmpty x.comb))))) ∧
  (∀ s r rest c m cr k, Issuing s r rest → r.helpers = none → r.lanes = [c] → InChunk s r (fun _ => m) (fun _ => cr) → lastOfChunk cr m →
    Crew.nextChunk { cr with done := setAdd cr.done m.chunk } = some k →
    CrewSteps .crewend s r rest (modCore s r.team fun tc => tc.modCrew r.grp c fun x => Crew.claimed { x with done := setAdd x.done m.chunk } k)
      fun _ th => atChunk th cr.start cr.lo k cr.c) ∧
  (∀ s r rest c m cr, Issuing s r rest → r.helpers = none → r.lanes = [c] → InChunk s r (fun _ => m) (fun _ => cr) → lastOfChunk cr m →
    cr.nextChunk = none → cr.helpers = [] → cr.charged = [] → cr.overruns = [] → cr.chunks ≤ (setAdd cr.done m.chunk).length →
    CrewSteps .crewend s r rest (restartWatchdog (modCore s r.team fun tc =>
        { tc with crews := tc.crews.filter fun x => !(x.grp == r.grp && x.thr == c) }) r.team) fun _ th =>
      reach (teamLaunch s r.team) (r.pc + 4)
        (restored { th with inCrew := false, member := none, h := List.replicate 8 (.word 0) } cr.held cr.result)) ∧
  (∀ a s r rest, Issuing s r rest → r.lanes ≠ [] → (laneTh s r r.lowest).inBody = false →
    Raises (.crewacc a) s r rest r.lowest 0x01 0 (BitVec.ofNat 32 (repNumber s r)) ∧
    Raises .crewend s r rest r.lowest 0x01 0 (BitVec.ofNat 32 (repNumber s r)))

/-- Two crews whose contributions are the same, in any order of arrival, no two of one iteration with one place in it,
have the same combined result: it does not depend on which member ran which chunk, nor on how many helpers were
granted. Contributions are combined in ascending iteration index and, within an iteration, in the order of the
CREWACC instructions. (R42) -/
def Obligations.CrewResultWhoeverRan : Prop :=
  (∀ (a b : Crew), a.comb = b.comb → a.contrib.Perm b.contrib →
    (∀ x ∈ a.contrib, ∀ y ∈ a.contrib, x.iter = y.iter → x.seq = y.seq → x = y) → a.contrib.Nodup → a.result = b.result) ∧
  (∀ (a : Crew), a.contrib = [] → a.result = (match a.comb with
    | .min => 0x7FFFFFFF#32 | .max => 0x80000000#32 | .minn => 0xFFFFFFFF#32 | .fmin => 0x7F800000#32 | .fmax => 0xFF800000#32
    | .add | .maxn | .fadd => 0)) ∧
  (∀ (a : Crew) l x, a.contrib = l ++ [x] → (∀ y ∈ l, y.iter < x.iter ∨ (y.iter = x.iter ∧ y.seq < x.seq)) → l ≠ [] →
    a.result = combStep a.comb (Crew.result { a with contrib := l }) x.value)

/-- When a port that holds no run has a ready entry, a run of the chosen entry begins; no other ready entry of the port
has a smaller (priority, ready age, team, group, helper set). Its lanes are exactly the considered runnable members
at its address, the lowest of any of them, or, in a progress run, the address of the lowest-numbered such thread,
whose group's count is then cleared. With no entry nothing happens. A trap that is due, whose threads wait for no
entry, is entered as R85 lays down. (spec/02_execution_model.md (R31), spec/02_execution_model.md (R33),
spec/02_execution_model.md (R36), spec/04_state_registers.md (R85)) -/
def Obligations.RunsBeginAndTrapsEnter : Prop :=
  (∀ s port e, startable s port false = some e → ∃ t r, exec (.runStart port) s = .next t ∧ t.runs = s.runs ++ [r] ∧
    r.team = e.team ∧ r.grp = e.grp ∧ r.helpers = e.helpers ∧ r.words = 0 ∧ r.progress = false ∧ r.lanes ≠ [] ∧ t.mem = s.mem ∧
    let tc := getCore t e.team
    let at_ := fun c => (tc.th e.grp (laneWho e.helpers c)).pc
    (∀ c, c ∈ r.lanes ↔ c ∈ tc.considered e.grp e.helpers ∧ tc.runnable e.grp e.helpers c = true ∧ at_ c = r.pc) ∧
    ∀ c ∈ tc.considered e.grp e.helpers, tc.runnable e.grp e.helpers c = true → r.pc.toNat ≤ (at_ c).toNat) ∧
  (∀ s port e, startable s port true = some e → ∃ t r low, exec (.progressRun port) s = .next t ∧ t.runs = s.runs ++ [r] ∧
    r.team = e.team ∧ r.grp = e.grp ∧ r.helpers = none ∧ r.progress = true ∧ low ∈ r.lanes ∧ (getGroup t e.team e.grp).progress = 0 ∧
    let tc := getCore t e.team
    (∀ c ∈ tc.considered e.grp none, tc.runnable e.grp none c = true → low ≤ c) ∧
    ∀ c, c ∈ r.lanes ↔ c ∈ tc.considered e.grp none ∧ tc.runnable e.grp none c = true ∧ (tc.th e.grp (.lane c)).pc = r.pc) ∧
  (∀ s port p e, startable s port p = some e → (∀ r ∈ s.runs, runPort s r ≠ port) ∧ e ∈ entriesOf s port ∧
    ∀ e' ∈ entriesOf s port, keyLt e'.key e.key = false) ∧
  (∀ s port, (startable s port false = none → exec (.runStart port) s = .next s) ∧
    (startable s port true = none → exec (.progressRun port) s = .next s)) ∧
  (∀ s port r rest d, runOn s port = some r → TrapReady (toHead s r) r rest → r.due = some d → classT d.cause = false →
    d.charged = false → d.others = 0 → d.mark = none → ∃ t, exec (.trapEntry port) s = .next t ∧
    RunEnded (stepDone (toHead s r) r) r rest (fun _ => entered (teamLaunch s r.team).desc.trap d.epc d.addr d.cause d.info) t) ∧
  (∀ s port, (∀ r, runOn s port = some r → trapReady s r = false) → exec (.trapEntry port) s = .next s)

/-- A helper that has used 512 issue clk leaves; its chunk returns to the pool without its contributions and an overrun
is charged. A stalled run held past HOLD_LIMIT takes hold-overrun at its word. A watchdog or a declared duration
that has passed halts a single team for good with its cause, ends its runs and leaves other teams as they were. A
halted team whose drain is complete and that writes no dump is FAILED; one stopped for the debugger goes on. Before
its limit each event changes nothing. (spec/02_execution_model.md (R44), spec/15_scheduling.md (R376),
spec/16_integrity.md (R384), spec/17_faults_debug.md (R407), spec/17_faults_debug.md (R411), spec/17_faults_debug.md
(R413)) -/
def Obligations.LimitsAndHalts : Prop :=
  (∀ s tid g thr code h c m, findHelper s tid g thr code = some h → (getCore s tid).crew g thr = some c → h.th.member = some m →
    (h.clk < 512 → exec (.crewBudgetOverrun tid g thr code) s = .next s) ∧
    (512 ≤ h.clk → ∃ t c', exec (.crewBudgetOverrun tid g thr code) s = .next t ∧ (getCore t tid).crew g thr = some c' ∧
      c'.helpers = c.helpers.filter (fun x => 32 * x.grp + x.thr ≠ code) ∧ m.chunk ∈ c'.repooled ∧
      c'.contrib = c.contrib.filter (fun x => x.chunk ≠ m.chunk) ∧
      c'.overruns = c.overruns ++ [{ cause := 0x23, iter := c.lo + BitVec.ofNat 32 m.iter, addr := 0, chunk := m.chunk }])) ∧
  (∀ s port r rest, runOn s port = some r → TrapReady (toHead s r) r rest → holdExpired s r = true → ∃ t, exec (.holdOverrun port) s = .next t ∧
    RunEnded (stepDone (toHead s r) r) r rest (fun _ => entered (teamLaunch s r.team).desc.trap r.pc 0 0x1E 0) t) ∧
  (∀ s port, (∀ r, runOn s port = some r → holdExpired s r = false) → exec (.holdOverrun port) s = .next s) ∧
  (∀ s tid, (getTeam s tid).side = .single → teamIl s tid ≠ 3 →
    (wdExpired s tid = false → exec (.watchdogExpiry tid) s = .next s) ∧
    (pastDuration s tid = false → exec (.durationOverrun tid) s = .next s) ∧
    (wdExpired s tid = true → ∃ t h, exec (.watchdogExpiry tid) s = .next t ∧ (getTeam t tid).halt = some h ∧ h.cause = 0x31 ∧
      h.resumable = false ∧ t.runs = s.runs.filter (fun r => r.team ≠ tid) ∧ t.mem = s.mem ∧ ∀ x, x ≠ tid → getTeam t x = getTeam s x) ∧
    (pastDuration s tid = true → ∃ t h, exec (.durationOverrun tid) s = .next t ∧ (getTeam t tid).halt = some h ∧ h.cause = 0x36 ∧
      h.resumable = false ∧ t.runs = s.runs.filter (fun r => r.team ≠ tid) ∧ t.mem = s.mem ∧ ∀ x, x ≠ tid → getTeam t x = getTeam s x)) ∧
  (∀ s tid h, (getTeam s tid).halt = some h →
    (haltDone s tid = false → exec (.haltDrainDone tid) s = .next s) ∧
    (haltDone s tid = true → h.resumable = false → (pbar s (getTeam s tid).part Config.oDumpCtl).getLsbD 0 = false →
      ∃ t, exec (.haltDrainDone tid) s = .next t ∧ (getTeam t tid).life = .failed ∧ (getTeam t tid).halt = none ∧
        (∀ r ∈ t.runs, r.team ≠ tid) ∧ (getTeam t tid).body.crews = []) ∧
    (haltDone s tid = true → h.resumable = true → h.asked = false → h.thenStop = false → (getTeam s tid).stopped = true → dumpRoom s (getTeam s tid).part = false →
      ∃ t, exec (.haltDrainDone tid) s = .next t ∧ (getTeam t tid).halt = none ∧ (getTeam t tid).stopped = true ∧
        (getTeam t tid).life = (getTeam s tid).life))

/-- The lowest PENDING team of a launch takes a spot that R20 to R22 allow: it is LOADING there, its groups bound to
sub-cores and ports by R21, with the initial registers of R73, R88, R89 and R193; an IL2 team takes its pair of
cores. A loaded team becomes RESIDENT, an IL2 pair together, with every register as it was loaded. A SAVED team that
can be restored is LOADING at its spot with every register kept, unless its save area was written to, when it is
halted as cancelled. Where nothing is to be placed or loaded, nothing changes. (spec/02_execution_model.md (R20),
spec/02_execution_model.md (R21), spec/02_execution_model.md (R23), spec/04_state_registers.md (R73),
spec/04_state_registers.md (R88), spec/04_state_registers.md (R89), spec/09_state_counters.md (R193),
spec/16_integrity.md (R397), spec/17_faults_debug.md (R410)) -/
def Obligations.TeamPlacementAndLoading : Prop :=
  (∀ s li spot idx, nextPending (s.launches.getD li Launch.empty) = some idx → canTake s li idx 0 spot [] = true →
    let l := s.launches.getD li Launch.empty
    l.kernel.il ≠ 2 → l.desc.trace ≠ 1 → l.again = [] → (∀ u ∈ s.teams, u.launch = li → u.life ≠ .pending) → ∃ t x, exec (.teamPlace li spot) s = .next t ∧ t.teams[s.teams.length]? = some x ∧
      t.teams.map slotless = (s.teams ++ [x]).map slotless ∧ t.mem = s.mem ∧ (li < s.launches.length → (t.launches.getD li Launch.empty).nextTeam = l.nextTeam + 1) ∧
      x.launch = li ∧ x.idx = idx ∧ x.core = spot.core ∧ x.s0 = spot.s0 ∧ x.p0 = spot.p0 ∧ x.life = .loading ∧ x.side = .single ∧
      x.body.groups.length = l.kernel.groups ∧ x.body.scratch = [] ∧ ∀ g < l.kernel.groups,
        let gr := x.body.group g
        gr.sub = (g + spot.s0) % 8 ∧ gr.port = (g / 8 + spot.p0) % 4 ∧ (gr.ldc, gr.stc, gr.cpc, gr.tlc) = (0, 0, 0, 0) ∧ gr.d = List.replicate 8 0 ∧
        (∀ j < 24, gr.k[j]? = some (.word (l.args.getD j 0))) ∧
        gr.k[24]? = some (.word (BitVec.ofNat 32 idx)) ∧ gr.k[25]? = some (.word (BitVec.ofNat 32 l.desc.teams)) ∧
        gr.k[26]? = some (.word (BitVec.ofNat 32 g)) ∧ gr.k[27]? = some (.word (BitVec.ofNat 32 l.kernel.groups)) ∧
        gr.k[28]? = some (.word (BitVec.ofNat 32 l.num)) ∧ gr.k[30]? = some (.word (BitVec.ofNat 32 l.kernel.scratch)) ∧
        gr.k[31]? = some (.word l.desc.salt) ∧ gr.threads.length = 32 ∧ ∀ c < 32,
          let th := gr.threads.getD c Thread.empty
          th.pc = BitVec.ofNat 64 (l.desc.kernel.toNat + l.kernel.entry) ∧ th.life = .runnable ∧
          th.n 0 = .word (BitVec.ofNat 32 (32 * g + c)) ∧ th.n 1 = .word (BitVec.ofNat 32 idx) ∧
          (∀ j, 2 ≤ j → j < 32 → th.n j = .word 0) ∧ th.q = List.replicate 16 (.word 0) ∧ th.cc = List.replicate 4 (.flags {}) ∧
          (th.wb, th.cf, th.repc) = (0, 32, 0) ∧ th.links = [] ∧ th.meet = 0xFFFFFFFFFFFFFFFF ∧ th.meetStk = [] ∧ th.acc = [] ∧ th.inTrap = false) ∧
  (∀ s li spot idx, nextPending (s.launches.getD li Launch.empty) = some idx → canTake s li idx 0 spot [] = true →
    let l := s.launches.getD li Launch.empty
    l.kernel.il = 2 → l.desc.trace ≠ 1 → l.again = [] → (∀ u ∈ s.teams, u.launch = li → u.life ≠ .pending) → ∃ t x y, exec (.teamPlace li spot) s = .next t ∧
      t.teams[s.teams.length]? = some x ∧ t.teams[s.teams.length + 1]? = some y ∧
      t.teams.map slotless = (s.teams ++ [x, y]).map slotless ∧ x.side = .lead (s.teams.length + 1) ∧ y.side = .trail s.teams.length ∧ x.core = spot.core ∧
      y.core = (if partitioned s then spot.core ^^^ 8 else spot.core ^^^ 32) ∧ (slotless y).body = (slotless x).body ∧ (x.life, y.life) = (.loading, .loading)) ∧
  (∀ s li spot, (∀ idx, nextPending (s.launches.getD li Launch.empty) = some idx → canTake s li idx 0 spot [] = false) →
    exec (.teamPlace li spot) s = .next s) ∧
  (∀ s tid, tid < s.teams.length → (getTeam s tid).life = .loading → (getTeam s tid).halt = none →
    ∃ t, exec (.teamLoadComplete tid) s = .next t ∧ (getTeam t tid).life = .resident ∧
      ((∀ l ∈ s.aper, l.dirty = false) → (∀ x ∈ s.teams, ∀ l ∈ x.body.stashLines, l.dirty = false) → t.mem = s.mem) ∧
      (∀ x g w, getTh t x g w = getTh s x g w) ∧
      (∀ p, (getTeam s tid).partner = some p → p < s.teams.length → (getTeam t p).life = .resident) ∧
      ∀ x, x ≠ tid → (getTeam s tid).partner ≠ some x → (getTeam t x).life = (getTeam s x).life) ∧
  (∀ s tid, (getTeam s tid).life ≠ .loading → exec (.teamLoadComplete tid) s = .next s) ∧
  (∀ s tid spot, tid < s.teams.length → (getTeam s tid).partner = none → canRestore s tid spot = true →
    ((getTeam s tid).areaSpoiled = false → ∃ t, exec (.restorePlace tid spot) s = .next t ∧ (getTeam t tid).life = .loading ∧
      (getTeam t tid).core = spot.core ∧ (getTeam t tid).s0 = spot.s0 ∧ (getTeam t tid).p0 = spot.p0 ∧
      (∀ g < (getCore s tid).groups.length, (getGroup t tid g).sub = (g + spot.s0) % 8 ∧ (getGroup t tid g).port = (g / 8 + spot.p0) % 4 ∧
        (getGroup t tid g).k = (getGroup s tid g).k) ∧
      (∀ x g w, (∀ c, (x, w) ≠ (tid, Who.lane c)) → getTh t x g w = getTh s x g w) ∧
      (∀ g c, present s tid g (.lane c) = true → getTh t tid g (.lane c) = getTh s tid g (.lane c)) ∧
      (getCore t tid).scratch = (getCore s tid).scratch ∧ t.mem = s.mem) ∧
    ((getTeam s tid).areaSpoiled = true → (getTeam s tid).halt = none → ∃ t h, exec (.restorePlace tid spot) s = .next t ∧
      (getTeam t tid).halt = some h ∧ h.cause = 0x37 ∧ h.resumable = false)) ∧
  (∀ s tid spot, canRestore s tid spot = false → exec (.restorePlace tid spot) s = .next s)

/-- A group whose threads have all exited, none lent to a helper, with LDC, STC, CPC, TLC and its slots at zero and no
run, retires and restarts the watchdog; nothing else changes. A single team all of whose groups have retired, with
no copy, publication or shoot-down in flight, becomes DONE, RESIDENT by TEAM_RETIRE and STOPPING to drain by
DRAIN_COMPLETE: its runs end, its crews and stash map are gone, and its launch counts one more team done. A core
pair whose compare agrees ends both teams. Otherwise nothing changes. (spec/02_execution_model.md (R25),
spec/02_execution_model.md (R23), spec/09_state_counters.md (R198), spec/16_integrity.md (R399)) -/
def Obligations.GroupAndTeamEnds : Prop :=
  (∀ s tid g, g < (getCore s tid).groups.length →
    let gr := getGroup s tid g
    gr.retired = false → (∀ th ∈ gr.threads, th.life = .exited) → (∀ c < 32, (getCore s tid).borrowed g c = false) →
    gr.ldc = 0 → gr.stc = 0 → gr.cpc = 0 → gr.tlc = 0 → (∀ n ∈ gr.d, n = 0) → (∀ r ∈ s.runs, r.team = tid → r.grp ≠ g) →
    (getTeam s tid).life = .resident → (getTeam s tid).halt = none → (getTeam s tid).stopped = false →
    exec (.groupRetire tid g) s = .next (restartWatchdog (modGroup s tid g fun x => { x with retired := true }) tid)) ∧
  (∀ s tid g, let gr := getGroup s tid g
    (gr.retired = true ∨ (∃ th ∈ gr.threads, th.life ≠ .exited) ∨ gr.ldc ≠ 0 ∨ gr.stc ≠ 0 ∨ gr.cpc ≠ 0 ∨ gr.tlc ≠ 0 ∨
      (∃ n ∈ gr.d, n ≠ 0) ∨ (∃ c < 32, (getCore s tid).borrowed g c = true)) → exec (.groupRetire tid g) s = .next s) ∧
  (∀ s tid, tid < s.teams.length → (getTeam s tid).side = .single → retireReady s tid = true →
    let done := fun (t : State) => (getTeam t tid).life = .done ∧ (∀ r ∈ t.runs, r.team ≠ tid) ∧ (getTeam t tid).body.crews = [] ∧
      (getTeam t tid).body.stash = [] ∧ ((getTeam s tid).launch < s.launches.length →
        (t.launches.getD (getTeam s tid).launch Launch.empty).done = (s.launches.getD (getTeam s tid).launch Launch.empty).done + 1)
    ((getTeam s tid).life = .resident → (∃ t, exec (.teamRetire tid) s = .next t ∧ done t) ∧ exec (.drainComplete tid) s = .next s) ∧
    ((getTeam s tid).life = .stopping → (∃ t, exec (.drainComplete tid) s = .next t ∧ done t) ∧ exec (.teamRetire tid) s = .next s)) ∧
  (∀ s tid p, tid < s.teams.length → p < s.teams.length → tid ≠ p → (getTeam s tid).side = .lead p → (getTeam s p).side = .trail tid →
    retireReady s tid = true → il2EndAgrees s tid p = true → (getTeam s tid).life = .resident →
    ∃ t, exec (.teamRetire tid) s = .next t ∧ (getTeam t tid).life = .done ∧ (getTeam t p).life = .done) ∧
  (∀ s tid, retireReady s tid = false → exec (.teamRetire tid) s = .next s ∧ exec (.drainComplete tid) s = .next s)

/-- A request to a RESIDENT team that no halt or debugger holds makes it STOPPING with the action of R378's order, its
registers as they were; any other team is left alone. A single team that stands still to be discarded becomes
PENDING with nothing of its state but SAT_TEAM, none of its operations in flight and no provisional write, and its
index is to be placed again. One that stands still to be saved, with no report or mark due, is SAVED with its
registers kept, its stash lines unfilled, and a header that begins with the magic word in the first 256 bytes of its save area. Otherwise nothing changes.
(spec/02_execution_model.md (R46), spec/02_execution_model.md (R23), spec/15_scheduling.md (R370),
spec/15_scheduling.md (R378), spec/17_faults_debug.md (R410)) -/
def Obligations.PreemptionActions : Prop :=
  (∀ s tid slack lent, (getTeam s tid).partner = none → (getTeam s tid).side = .single →
    ((getTeam s tid).life = .resident → (getTeam s tid).halt = none → (getTeam s tid).stopped = false → (getTeam s tid).stepping = none →
      tid < s.teams.length → ∃ t, exec (.preemptionRequest tid slack lent) s = .next t ∧ (getTeam t tid).life = .stopping ∧
        (getTeam t tid).action = chooseAction s tid slack lent ∧ (getTeam t tid).body = (getTeam s tid).body ∧ t.runs = s.runs ∧ t.mem = s.mem ∧
        ∀ x, x ≠ tid → getTeam t x = getTeam s x) ∧
    ((getTeam s tid).life ≠ .resident ∨ (getTeam s tid).halt ≠ none ∨ (getTeam s tid).stopped = true →
      exec (.preemptionRequest tid slack lent) s = .next s)) ∧
  (∀ s tid slack lent, let l := teamLaunch s tid
    (l.desc.bounded = false → chooseAction s tid slack lent = .drain) ∧
    (l.desc.bounded = true → lent = true → chooseAction s tid slack lent = .discard) ∧
    (l.desc.bounded = true → lent = false → (getTeam s tid).runs = 0 → l.kernel.restart = true → chooseAction s tid slack lent = .discard) ∧
    (l.desc.bounded = true → lent = false → ¬((getTeam s tid).runs = 0 ∧ l.kernel.restart = true) →
      (drainCost s tid ≤ slack → chooseAction s tid slack lent = .drain) ∧
      (slack < drainCost s tid → l.kernel.restart = true → elapsedCost s tid ≤ saveCost s tid → chooseAction s tid slack lent = .discard) ∧
      (slack < drainCost s tid → (l.kernel.restart = false ∨ saveCost s tid < elapsedCost s tid) →
        (carveArea s (getTeam s tid).part (saveBytes s tid true)).isSome = true → chooseAction s tid slack lent = .save))) ∧
  (∀ s tid, tid < s.teams.length → (getTeam s tid).side = .single → discardReady s tid = true → ∃ t, exec (.discardComplete tid) s = .next t ∧
    (getTeam t tid).life = .pending ∧ (getTeam t tid).body = TeamCore.empty ∧ (getTeam t tid).satTeam = (getTeam s tid).satTeam ∧
    t.ops = s.ops.filter (fun o => o.team ≠ tid) ∧ (∀ p ∈ t.pairs, ∀ x ∈ p.prov, x.1 ≠ tid) ∧ t.mem = s.mem ∧
    ((getTeam s tid).launch < s.launches.length → (getTeam s tid).idx ∈ (t.launches.getD (getTeam s tid).launch Launch.empty).again) ∧
    ∀ x, x ≠ tid → getTeam t x = getTeam s x) ∧
  (∀ s tid, discardReady s tid = false → exec (.discardComplete tid) s = .next s) ∧
  (∀ s tid a n, tid < s.teams.length → (getTeam s tid).side = .single → saveReady s tid = true → s.sound → (getTeam s tid).area = some (a, n) →
    (∀ g th, th ∈ (getGroup s tid g).threads → th.reports = [] ∧ th.marks = []) → Direct s a 256 → (getTeam s tid).body.stashLines = [] →
    ∃ t, exec (.saveComplete tid) s = .next t ∧ (getTeam t tid).life = .saved ∧ (∀ x g w, getTh t x g w = getTh s x g w) ∧
      bytesNat (readBytes t.mem a 4) = 0x4B375341 ∧ (∀ x, x < a ∨ a + 256 ≤ x → mapGet memDefault t.mem x = mapGet memDefault s.mem x) ∧
      (getCore t tid).scratch = (getCore s tid).scratch) ∧
  (∀ s tid, saveReady s tid = false → exec (.saveComplete tid) s = .next s)

/-- When the values of a load have arrived, each receiving thread or helper has them in every register, queue entry and
condition-code register that waited, or poison marks there; LDC falls by one and no other thread changes. A scalar
load fills k registers. A long-latency result does the same with no counter. A store with nothing left to perform
lowers STC; one that is held changes nothing. (spec/04_state_registers.md (R75), spec/09_state_counters.md (R191),
spec/11_isa_lane.md (R236), spec/12_isa_memory_sync.md (R271)) -/
def Obligations.ValuesAndStoresComplete : Prop :=
  (∀ s op o fs, findOp s op = some o → o.kind = .load fs → opHeld s op = false → Receivers s o fs →
    ∃ t, exec (.loadFill op) s = .next t ∧ ValuesArrive s o fs t ∧
      (getGroup t o.team o.grp).ldc = (getGroup s o.team o.grp).ldc - 1) ∧
  (∀ s op o f, findOp s op = some o → o.kind = .load [f] → opHeld s op = false → f.who = .group → f.words ≠ [] →
    o.team < s.teams.length → o.grp < (getCore s o.team).groups.length → ∃ t, exec (.loadFill op) s = .next t ∧ findOp t op = none ∧
      (getGroup t o.team o.grp).k = (getGroup s o.team o.grp).k.map (arrivedCell op f) ∧
      (getGroup t o.team o.grp).ldc = (getGroup s o.team o.grp).ldc - 1 ∧ t.mem = s.mem) ∧
  (∀ s op o fs, findOp s op = some o → o.kind = .load fs → ((∃ f ∈ fs, f.words = []) ∨ opHeld s op = true) →
    exec (.loadFill op) s = .next s) ∧
  (∀ s op o fs, findOp s op = some o → o.kind = .lane fs → Receivers s o fs →
    ∃ t, exec (.longLatencyResult op) s = .next t ∧ ValuesArrive s o fs t ∧
      (getGroup t o.team o.grp).ldc = (getGroup s o.team o.grp).ldc) ∧
  (∀ s op o fs, findOp s op = some o → o.kind = .store fs → storeReady s o = true → o.team < s.teams.length →
    o.grp < (getCore s o.team).groups.length → ∃ t, exec (.storePerformed op) s = .next t ∧ findOp t op = none ∧
      (getGroup t o.team o.grp).stc = (getGroup s o.team o.grp).stc - 1 ∧ ((∀ x ∈ s.window, x.op ≠ op) → t.mem = s.mem)) ∧
  (∀ s op o fs, findOp s op = some o → o.kind = .store fs → opHeld s op = true → exec (.storePerformed op) s = .next s)

/-- Of the walks that wait, the oldest begins while fewer than 64 have begun. A walk that ends with a translation puts
it into the TLBs of its requesters, unless every access through it would fault, and tells each; one that ends with
a fault tells each its cause; where it faults, or every access would, those TLBs hold nothing of the page; a stale one fills
nothing and tells nothing. A shoot-down's request puts it in flight and takes the entries of its range from every TLB; one that
is ready leaves no TLB entry of its range, keeps the others and lowers STC where TLBINV counted it. A merge-buffer release drops
the oldest line of the cluster. A TLB's entries stay apart through fills, uses and drops, and a fill keeps its size (R12, R174). (spec/06_memory_model.md (R145), spec/08_state_tables.md (R173),
spec/08_state_tables.md (R175), spec/08_state_tables.md (R176), spec/13_isa_control.md (R328)) -/
def Obligations.WalksShootdownsAndMergeLines : Prop :=
  (∀ s pre w post, s.walks = pre ++ w :: post → (∀ x ∈ pre, x.started = true) → w.started = false →
    (s.walks.map (·.id)).Nodup → (∀ x ∈ s.walks, x.id < w.id → x ∈ pre) →
    exec .tlbWalkStart s = .next (if (s.walks.filter (·.started)).length < 64
      then { s with walks := pre ++ { w with started := true } :: post } else s)) ∧
  (∀ s w s1 e, w ∈ s.walks → (s.walks.map (·.id)).Nodup → w.started = true → w.stale = false →
    walkPage { s with walks := s.walks.filter (·.id != w.id) } w.ctx w.part (w.page * 4096) = (s1, .page e) →
    let useless := frameFaults s1 w.part (e.pa + (w.page * 4096 - e.va))
    ∃ t, exec (.tlbWalkComplete w.id) s = .next t ∧ w ∉ t.walks ∧ t.mem = s1.mem ∧
      (∀ b ∈ w.by_, ⟨b, w.ctx, w.page, .page e⟩ ∈ t.outcomes) ∧
      (useless = false → ∀ b ∈ w.by_, (b.core, e) ∈ t.tlb ∧ (b.core / 4, e) ∈ t.ctlb) ∧
      (useless = true → PageDropped w s1 t)) ∧
  (∀ s w s1 c, w ∈ s.walks → (s.walks.map (·.id)).Nodup → w.started = true → w.stale = false →
    walkPage { s with walks := s.walks.filter (·.id != w.id) } w.ctx w.part (w.page * 4096) = (s1, .fault c) →
    ∃ t, exec (.tlbWalkComplete w.id) s = .next t ∧ w ∉ t.walks ∧ PageDropped w s1 t ∧ t.mem = s1.mem ∧
      ∀ b ∈ w.by_, ⟨b, w.ctx, w.page, .fault c⟩ ∈ t.outcomes) ∧
  (∀ s w, w ∈ s.walks → (s.walks.map (·.id)).Nodup → w.started = true → w.stale = true →
    exec (.tlbWalkComplete w.id) s = .next { s with walks := s.walks.filter (·.id != w.id) }) ∧
  (∀ s op o range counted, findOp s op = some o → o.kind = .shootdown range counted → shootReady s o range counted = true →
    o.team < s.teams.length ∨ counted = false → o.grp < (getCore s o.team).groups.length ∨ counted = false →
    ∃ t, exec (.shootdownComplete op) s = .next t ∧ findOp t op = none ∧ (s.window = [] → t.mem = s.mem) ∧
      (∀ x, x ∈ t.tlb ↔ x ∈ s.tlb ∧ shootNames range x.2.ctx x.2.va (2 ^ x.2.bits) = false) ∧
      (∀ x, x ∈ t.ctlb ↔ x ∈ s.ctlb ∧ shootNames range x.2.ctx x.2.va (2 ^ x.2.bits) = false) ∧
      (getGroup t o.team o.grp).stc = (getGroup s o.team o.grp).stc - (if counted then 1 else 0)) ∧
  (∀ s range, ∃ t o, exec (.shootdownRequest range) s = .next t ∧ t.ops = s.ops ++ [o] ∧ o.kind = .shootdown range false ∧
    o.id = s.nextId ∧ t.teams = s.teams ∧ t.mem = s.mem ∧
    (∀ x, x ∈ t.tlb ↔ x ∈ s.tlb ∧ shootNames range x.2.ctx x.2.va (2 ^ x.2.bits) = false) ∧
    (∀ x, x ∈ t.ctlb ↔ x ∈ s.ctlb ∧ shootNames range x.2.ctx x.2.va (2 ^ x.2.bits) = false) ∧
    ∀ w ∈ t.walks, w.started = true → shootNames range w.ctx (w.page * 4096) 4096 = true → w.stale = true) ∧
  (∀ s cluster line pre post, s.merge = pre ++ (cluster, line) :: post → (∀ x ∈ pre, x.1 ≠ cluster) →
    exec (.mergeOwnershipRelease cluster) s = .next { s with merge := pre ++ post }) ∧
  (∀ l cap unit e ctx va, Apart l → Apart (tlbFill cap l unit e) ∧ Apart (tlbUse l unit ctx va) ∧ Apart (tlbDrop l unit ctx va) ∧
    (0 < cap → (unit, e) ∈ tlbFill cap l unit e ∧ ((tlbFill cap l unit e).filter (·.1 == unit)).length ≤ cap))

/-- The oldest copy of a core's queue reads all its source bytes before it writes, and holds them in pieces that end at
multiples of 128 bytes (log entry 9). An arriving piece writes its bytes at its place in the scratchpad or in memory and no other byte, and
counts them on the sync word as the listing of R195 says. A finished copy lowers CPC; a failed one lowers CPC too
and leaves a copy-failed report with its cause in bits 31:24. (spec/06_memory_model.md (R139),
spec/07_state_queues.md (R163), spec/09_state_counters.md (R195), spec/12_isa_memory_sync.md (R296)) -/
def Obligations.CopiesRunToTheirEnd : Prop :=
  (∀ s core o c, nextCopy s core = some (o, c) → c.regroup = none → c.len % 4 = 0 → c.srcSpace = .scratch →
    (getCore s o.team).stash = [] → (∀ a ∈ c.srcs, a.toNat + c.len < 2 ^ 32) →
    ∃ t c', exec (.copyStart core) s = .next t ∧ CopyIs t o.id c' ∧ c'.started = true ∧ c'.failed = none ∧ c'.dst = c.dst ∧
      InPieces c' (c.srcs.flatMap fun a => readBytes (getCore s o.team).scratch a.toNat c.len) ∧ t.mem = s.mem ∧ t.teams = s.teams) ∧
  (∀ s core o c (pa : Dword → Nat), nextCopy s core = some (o, c) → c.regroup = none → c.len % 4 = 0 → c.srcSpace = .global →
    Apart s.tlb → (∀ a ∈ copySources c, EngineReaches s o .copySrc false a.1 (pa a.1)) →
    ∃ t c', exec (.copyStart core) s = .next t ∧ CopyIs t o.id c' ∧ c'.started = true ∧ c'.failed = none ∧ c'.dst = c.dst ∧
      InPieces c' ((copySources c).flatMap fun a => (List.range 4).map fun i => seenByte s o.team (pa a.1 + i)) ∧ t.mem = s.mem) ∧
  (∀ s core, nextCopy s core = none → exec (.copyStart core) s = .next s) ∧
  (∀ s op o c p, findOp s op = some o → o.kind = .copy c → c.started = true → c.pieces[c.written]? = some p → c.dstSpace = .scratch →
    c.mute = false → p.dst.toNat + p.bytes.length < 2 ^ 32 → o.team < s.teams.length → (getCore s o.team).stash = [] →
    (∀ off, c.sync = some off → ∀ i < p.bytes.length, p.dst.toNat + i < off ∨ off + 16 ≤ p.dst.toNat + i) →
    ∃ t, exec (.copyPieceArrival op) s = .next t ∧ CopyIs t op { c with bytesDone := c.bytesDone + p.bytes.length, written := c.written + 1 } ∧
      t.mem = s.mem ∧ (mapWf 0 (getCore s o.team).scratch = true →
      (∀ i < p.bytes.length, mapGet 0 (getCore t o.team).scratch (p.dst.toNat + i) = p.bytes.getD i 0) ∧
      (∀ x, (∀ i < p.bytes.length, x ≠ p.dst.toNat + i) → (∀ off, c.sync = some off → x < off + 4 ∨ off + 12 ≤ x) →
        mapGet 0 (getCore t o.team).scratch x = mapGet 0 (getCore s o.team).scratch x) ∧
      ∀ off, c.sync = some off →
        let n := countedOn (scratchWord s o.team off).toNat (scratchWord s o.team (off + 4)).toNat (scratchWord s o.team (off + 8)).toNat p.bytes.length
        (scratchWord t o.team (off + 4)).toNat = n.1 ∧ (scratchWord t o.team (off + 8)).toNat = n.2)) ∧
  (∀ s op o c p (pa : Nat → Nat), findOp s op = some o → o.kind = .copy c → c.started = true → c.pieces[c.written]? = some p →
    c.dstSpace = .global → c.mute = false → c.sync = none → teamIl s o.team ≠ 3 → p.poison = [] → p.bytes.length % 4 = 0 →
    Memory.wf s.mem = true → Apart s.tlb → (∀ i < p.bytes.length / 4, EngineReaches s o .copyDst c.shadow (p.dst + BitVec.ofNat 64 (4 * i)) (pa i)) →
    ∃ t, exec (.copyPieceArrival op) s = .next t ∧ CopyIs t op { c with bytesDone := c.bytesDone + p.bytes.length, written := c.written + 1 } ∧
      ∀ x, mapGet memDefault t.mem x = (lastWrite ((List.range (p.bytes.length / 4)).flatMap fun i =>
        cellsAt (pa i) ((p.bytes.drop (4 * i)).take 4)) x).getD (mapGet memDefault s.mem x)) ∧
  (∀ s op o c, copyEnd s op = some (o, c) → o.team < s.teams.length → o.grp < (getCore s o.team).groups.length →
    (c.failed = none → ∃ t, exec (.copyComplete op) s = .next t ∧ findOp t op = none ∧ t.mem = s.mem ∧
      (getGroup t o.team o.grp).cpc = (getGroup s o.team o.grp).cpc - 1) ∧
    (∀ cause a, c.failed = some (cause, a) → (getTeam s o.team).halt = none → present s o.team o.grp (.lane o.reporter) = true →
      o.reporter < 1024 → ∃ t, exec (.copyFail op) s = .next t ∧ findOp t op = none ∧ t.mem = s.mem ∧
      (getGroup t o.team o.grp).cpc = (getGroup s o.team o.grp).cpc - 1 ∧
      (getTh t o.team o.grp (.lane o.reporter)).reports = (getTh s o.team o.grp (.lane o.reporter)).reports ++
        [⟨0x21, a, BitVec.ofNat 32 (cause * 2 ^ 24 + o.pc.toNat % 2 ^ 24), .cpc⟩])) ∧
  (∀ s op, copyEnd s op = none → exec (.copyComplete op) s = .next s ∧ exec (.copyFail op) s = .next s)

/-- A message that no earlier one of its group precedes arrives behind those present at a receiver that has not ended,
or counts as discarded where the receiver has, once for a core pair. A returning credit adds one at the sender. A swap that is ready
inverts FRONT, adds one to VERSION and changes nothing else of its entry, and no memory unless a stash holds a line of
the window; the trailing team of a pair swaps nothing.
It lowers STC and restarts the watchdog. (spec/07_state_queues.md (R160), spec/07_state_queues.md (R161),
spec/08_state_tables.md (R182), spec/12_isa_memory_sync.md (R299)) -/
def Obligations.MessagesCreditsAndSwaps : Prop :=
  (∀ s op o ch bs d rt, findOp s op = some o → o.kind = .message ch bs → messageReady s o = true → channelDecl s o.team ch = some d →
    teamByIdx s o.team d.receiver = some rt → (getTeam s rt).life ≠ .done → (getTeam s rt).life ≠ .failed →
    ∃ t, exec (.channelMessageArrival op) s = .next t ∧ findOp t op = none ∧ boxMsgs (getCore t rt) ch = boxMsgs (getCore s rt) ch ++ [bs] ∧
      (∀ c, c ≠ ch → boxMsgs (getCore t rt) c = boxMsgs (getCore s rt) c) ∧ t.mem = s.mem ∧ ∀ x, x ≠ rt → getTeam t x = getTeam s x) ∧
  (∀ s op o ch bs d rt, findOp s op = some o → o.kind = .message ch bs → messageReady s o = true → channelDecl s o.team ch = some d →
    teamByIdx s o.team d.receiver = some rt → (getTeam s rt).life = .done ∨ (getTeam s rt).life = .failed →
    (getTeam s o.team).launch < s.launches.length → ∃ t, exec (.channelMessageArrival op) s = .next t ∧ findOp t op = none ∧
      t.teams = s.teams ∧ (teamLaunch t o.team).residue = (teamLaunch s o.team).residue +
        (match (getTeam s o.team).side with | .trail _ => 0 | _ => 1)) ∧
  (∀ s op o ch bs, findOp s op = some o → o.kind = .message ch bs → messageReady s o = false →
    exec (.channelMessageArrival op) s = .next s) ∧
  (∀ s op o ch d st, findOp s op = some o → o.kind = .credit ch → channelDecl s o.team ch = some d → teamByIdx s o.team d.sender = some st →
    ∃ t, exec (.channelCreditReturn op) s = .next t ∧ findOp t op = none ∧ creditOf (getCore t st) ch = creditOf (getCore s st) ch + 1 ∧
      (∀ c, c ≠ ch → creditOf (getCore t st) c = creditOf (getCore s st) c) ∧ t.mem = s.mem ∧ ∀ x, x ≠ st → getTeam t x = getTeam s x) ∧
  (∀ s op o d e, findOp s op = some o → o.kind = .publish d e → publishReady s o = true → (∀ n, (getTeam s o.team).side ≠ .trail n) →
    o.team < s.teams.length → o.grp < (getCore s o.team).groups.length → mapWf 0 s.bar = true →
    ∃ t, exec (.publishSwap op) s = .next t ∧ findOp t op = none ∧
      (let w := fun u => bar u (Config.oPart d + Config.oPublication e)
       let v := fun u => bar u (Config.oPart d + Config.oPublication e + 0x18)
       (∀ i < 64, (w t).getLsbD i = ((w s).getLsbD i != (i == 62))) ∧ (v t).toNat = ((v s).toNat + 1) % 2 ^ 32) ∧
      (getGroup t o.team o.grp).stc = (getGroup s o.team o.grp).stc - 1 ∧ (getTeam t o.team).wd = 0 ∧
      ((∀ x ∈ s.teams, ∀ l ∈ x.body.stashLines, inWindow s d e l.pa = false) → t.mem = s.mem)) ∧
  (∀ s op o d e, findOp s op = some o → o.kind = .publish d e → publishReady s o = false → exec (.publishSwap op) s = .next s)

/-- A descriptor that can be consumed takes the next launch number of its context. One that passes every check of R366
becomes the newest launch; one that fails makes none and counts towards the job as failed. HEAD in the header
becomes one more. Descriptor fields out of range are found first. A due phase whose graph is loaded fires: the launch
of its root, which passes every check, its predicate word read with it (R187), becomes the newest launch of a new traversal, NEXT becomes the first firing
time after the present, and without a period EN clears; without a time-triggered queue it counts a failed graph and
moves NEXT all the same. Reading line 0 stops a queue whose header or pointers are bad, or one of whose rings lies in
port B's window (log entry 116). (spec/07_state_queues.md (R164), spec/15_scheduling.md (R366),
spec/15_scheduling.md (R372), spec/09_state_counters.md (R198)) -/
def Obligations.LaunchesArriveAndPhasesFire : Prop :=
  (∀ s q w bs, findWatch s q = some w → arrivalReady s w = true →
    let dpa := bytesAt w.line 0 8 + 128 * (w.head % 2 ^ bytesAt w.line 8 1)
    Direct s dpa 128 → bs = readBytes s.mem dpa 128 → s.queued = [] → s.migrations = [] →
    let ctx := qCtx s q
    let num := mapGet 0 s.nextLaunch ctx
    let s1 := { s with nextLaunch := mapSet 0 s.nextLaunch ctx (num + 1) }
    (∀ s2 l f, checkDesc s1 q ctx num bs s.phcNs = (s2, .ok (l, f)) → l.desc.trace ≠ 1 → ∃ t, exec (.launchArrival q) s = .next t ∧
      t.launches = s2.launches ++ [{ l with traversal := none }] ∧ t.jobFailed = s2.jobFailed ∧ t.nextLaunch = s2.nextLaunch ∧
      (Memory.wf s2.mem = true → s2.migrations = [] → Direct s2 (w.header + 0x80) 8 →
        bytesNat (readBytes t.mem (w.header + 0x80) 8) = (w.head + 1) % 2 ^ 64) ∧
      ∀ x, findWatch s2 q = some x → findWatch t q = some { x with head := x.head + 1 }) ∧
    (∀ s2 reason, checkDesc s1 q ctx num bs s.phcNs = (s2, .error reason) → ∃ t, exec (.launchArrival q) s = .next t ∧
      t.launches = s2.launches ∧ t.jobFailed = mapSet 0 s2.jobFailed ctx (mapGet 0 s2.jobFailed ctx + 1)) ∧
    (descFieldsOk bs = false → checkDesc s1 q ctx num bs s.phcNs = (s1, .error 6))) ∧
  (∀ s q, (∀ w, findWatch s q = some w → arrivalReady s w = false) → exec (.launchArrival q) s = .next s) ∧
  (∀ s part n, prefetchDue s part n = true → exec (.phasePrefetch part n) s = .next { s with prefetched := (part, n) :: s.prefetched }) ∧
  (∀ s part n, prefetchDue s part n = false → exec (.phasePrefetch part n) s = .next s) ∧
  (∀ s part n, phaseDue s part n = false → exec (.phaseFiring part n) s = .next s) ∧
  (∀ s part n, part < 4 → n < 64 → mapWf 0 s.bar = true → phaseDue s part n = true → ttQueue s (field (phaseWord s part n 2) 16 16) = none →
    ∃ t, exec (.phaseFiring part n) s = .next t ∧ t.launches = s.launches ∧ t.traversals = s.traversals ∧ t.mem = s.mem ∧
      t.phaseDone = mapSet 0 s.phaseDone (64 * part + n) 0 ∧ (mapWf 0 s.phaseFailed = true → mapGet 0 t.phaseFailed (64 * part + n) = 1) ∧
      NextFiring s t part n) ∧
  (∀ s part n q s2 l f, part < 4 → n < 64 → mapWf 0 s.bar = true → phaseDue s part n = true →
    let ctx := field (phaseWord s part n 2) 16 16
    let graph := pbar s part (Config.oGraph (field (phaseWord s part n 2) 0 8))
    graph.msb = true → field graph 16 16 = ctx → ttQueue (fired s part n) ctx = some q →
    let root := field graph 0 12
    let desc := field (pbar (fired s part n) part (Config.oNode root)) 7 57 * 128
    desc ≠ 0 → Direct (fired s part n) desc 128 → s.queued = [] →
    let num := mapGet 0 s.nextLaunch ctx
    let v := s.traversals.length
    let s1 := { fired s part n with
      traversals := s.traversals ++ [⟨part, n, ctx, root, 1, [num], 0, 0, true, pbar (fired s part n) part (Config.oNode root + 8)⟩], nextLaunch := mapSet 0 s.nextLaunch ctx (num + 1) }
    checkDesc s1 q ctx num (readBytes s.mem desc 128)
      (BitVec.ofNat 64 (firingTimes (phaseNext s part n) (phaseWord s part n 1).toNat s.phcNs.toNat).1) = (s2, .ok (l, f)) →
    l.desc.trace ≠ 1 → ∃ t, exec (.phaseFiring part n) s = .next t ∧ t.launches = s2.launches ++ [{ l with traversal := some v }] ∧
      t.traversals = s2.traversals ∧ t.mem = s2.mem ∧ t.nextLaunch = s2.nextLaunch ∧ (s2.bar = s1.bar → NextFiring s t part n) ∧
      (s2.phaseDone = s1.phaseDone → t.phaseDone = mapSet 0 s.phaseDone (64 * part + n) 0)) ∧
  (∀ s q w, findWatch s q = some w → mustRead s w = true → Direct s w.header 128 → s.queued = [] →
    let w' := { w with line := readBytes s.mem w.header 128, lineHeld := true }
    (w'.configOk = true → w'.offPortB = true → w'.pointersOk = true → ∃ t, exec (.hostQueueLineInvalidate q) s = .next t ∧ findWatch t q = some w' ∧ t.mem = s.mem) ∧
    ((w'.configOk = false ∨ w'.offPortB = false ∨ w'.pointersOk = false) → ∃ t, exec (.hostQueueLineInvalidate q) s = .next t ∧
      ∀ x, findWatch t q = some x → x.watching = false)) ∧
  (∀ s q, (∀ w, findWatch s q = some w → mustRead s w = false) → exec (.hostQueueLineInvalidate q) s = .next s)

/-- In INDEPENDENT a pair request takes CONTEXT, keeps WAKE within 16 to 64 and, with the integrity area and the context
valid and no team on the cores, enters QUIESCE; otherwise ERR becomes 1 or 2, or 3 in another state. QUIESCE goes to
FLUSH once the cores are still, with their caches invalid; FLUSH to ALIGN, with the TLBs empty; ALIGN to PAIRED;
UNPAIR to INDEPENDENT, the trailing cluster's TLBs then holding what the leading one's hold (log entry 98). A request to unpair acts as its row says. PAIR_CTL shows the state, and memory does not
change. (spec/16_integrity.md (R386), spec/16_integrity.md (R387)) -/
def Obligations.PairModesFollowTheTable : Prop :=
  (∀ s p v, p < 8 → p < s.pairs.length → mapWf 0 s.bar = true → pairHolders s p = [] → (getPair s p).mode = .independent →
    integOk s (pairPart s p) = true →
    let good := (ctxEntry s (field v 16 16)).isSome = true ∧ ctxPart s (field v 16 16) = pairPart s p
    ∃ t, exec (.pairRequest p v) s = .next t ∧ field (pairCtl t p) 16 16 = field v 16 16 ∧
      field (pairCtl t p) 32 8 = max 16 (min 64 (field v 32 8)) ∧ t.mem = s.mem ∧ t.teams = s.teams ∧
      (good → ModeIs t p .quiesce) ∧ (¬good → (getPair t p).mode = .independent ∧ field (pairCtl t p) 40 8 = 2)) ∧
  (∀ s p v, p < 8 → p < s.pairs.length → mapWf 0 s.bar = true → (getPair s p).mode = .independent → integOk s (pairPart s p) = false →
    ∃ t, exec (.pairRequest p v) s = .next t ∧ t.pairs = s.pairs ∧ field (pairCtl t p) 40 8 = 1) ∧
  (∀ s p v, p < 8 → (getPair s p).mode ≠ .independent → exec (.pairRequest p v) s = .next (setBar s (Config.oPairCtl p) (setField (pairCtl s p) 40 8 3))) ∧
  (∀ s p, p < 8 → p < s.pairs.length → mapWf 0 s.bar = true →
    (∀ m, (getPair s p).mode = m → m = .flush ∨ m = .align ∨ m = .independent ∨ m = .unpair →
      exec (.unpairRequest p) s = .next (setBar s (Config.oPairCtl p) (setField (pairCtl s p) 40 8 3))) ∧
    ((getPair s p).mode = .quiesce → ∃ t, exec (.unpairRequest p) s = .next t ∧ ModeIs t p .independent ∧ t.mem = s.mem ∧ t.teams = s.teams) ∧
    ((getPair s p).mode = .paired → pairHolders s p = [] →
      ∃ t, exec (.unpairRequest p) s = .next t ∧ ModeIs t p .unpair ∧ t.mem = s.mem ∧ t.teams = s.teams) ∧
    ((getPair s p).mode = .rollback → ∃ t, exec (.unpairRequest p) s = .next t ∧ getPair t p = { getPair s p with unpairHeld := true } ∧
      t.bar = s.bar ∧ t.mem = s.mem)) ∧
  (∀ s p, p < s.pairs.length → mapWf 0 s.bar = true → quiesceDue s p = true → ∃ t, exec (.quiesceDone p) s = .next t ∧ ModeIs t p .flush ∧
      t.mem = s.mem ∧ (∀ x, x ∈ t.dcache ↔ x ∈ s.dcache ∧ x.core / 8 ≠ p) ∧ (∀ x, x ∈ t.icache ↔ x ∈ s.icache ∧ x.1 / 8 ≠ p) ∧
      (∀ x, x ∈ t.shares ↔ x ∈ s.shares ∧ x.core / 8 ≠ p)) ∧
  (∀ s p, p < s.pairs.length → mapWf 0 s.bar = true → flushDue s p = true → ∃ t, exec (.flushDone p) s = .next t ∧ ModeIs t p .align ∧
      t.mem = s.mem ∧ (∀ x, x ∈ t.tlb ↔ x ∈ s.tlb ∧ x.1 / 8 ≠ p) ∧ (∀ x, x ∈ t.ctlb ↔ x ∈ s.ctlb ∧ x.1 / 2 ≠ p) ∧
      (getPair t p).items = [] ∧ (getPair t p).prov = []) ∧
  (∀ s p, p < s.pairs.length → mapWf 0 s.bar = true → (getPair s p).mode = .align → ∃ t, exec (.alignDone p) s = .next t ∧ ModeIs t p .paired ∧
      t.mem = s.mem ∧ t.teams = s.teams) ∧
  (∀ s p, p < s.pairs.length → mapWf 0 s.bar = true → unpairDue s p = true → ∃ t, exec (.unpairDone p) s = .next t ∧ ModeIs t p .independent ∧
      (getPair t p).items = [] ∧ t.mem = s.mem ∧ t.teams = s.teams ∧
      ∀ c e, c / 4 = 2 * p + 1 → ((c, e) ∈ t.tlb ↔ (c - 4, e) ∈ s.tlb)) ∧
  (∀ s p, (quiesceDue s p = false → exec (.quiesceDone p) s = .next s) ∧ (flushDue s p = false → exec (.flushDone p) s = .next s) ∧
    ((getPair s p).mode ≠ .align → exec (.alignDone p) s = .next s) ∧ (unpairDue s p = false → exec (.unpairDone p) s = .next s))

/-- The oldest item on which both clusters agree leaves the comparator; its bytes become provisional and memory does not change.
A first or second disagreement of an interval is recorded in the fault log and leads to ROLLBACK with no item and no
provisional byte left. A checkpoint with nothing due in any thread, no stash to write back and no drained atomic makes every
provisional byte memory, snapshots each team and raises CKPT_ID but for a start (log entry 37). A rollback restores
each team's groups and queues from its snapshot, with no counter of an operation and no helper; a group keeps its
R36 count and PLACE (log entry 102). A checkpoint of a core pair snapshots both teams. (spec/16_integrity.md (R389), spec/16_integrity.md
(R391), spec/16_integrity.md (R393), spec/16_integrity.md (R395), spec/16_integrity.md (R399)) -/
def Obligations.ComparedItemsCheckpointsAndRollbacks : Prop :=
  (∀ s p i rest, p < s.pairs.length → compareDue s p = true → (getPair s p).items = i :: rest →
    (∀ j ∈ rest, i.clk.toNat ≤ j.clk.toNat ∧ sameItem i j = false) → i.rel = false → i.logs = false → i.lead = i.trail → (∀ cs, i.act = .write cs → (∀ c ∈ cs, c.1 < 2 ^ 52) → ∃ t, exec (.comparatorCompare p) s = .next t ∧ (getPair t p).items = rest ∧
      (getPair t p).prov = (getPair s p).prov ++ cs.map (fun c => (i.team, c)) ∧ t.mem = s.mem ∧ t.teams = s.teams) ∧
    (i.act = .go → ∃ t, exec (.comparatorCompare p) s = .next t ∧ (getPair t p).items = rest ∧ (getPair t p).prov = (getPair s p).prov ∧
      t.mem = s.mem ∧ t.teams = s.teams)) ∧
  (∀ s p i rest, p < s.pairs.length → mapWf 0 s.bar = true → compareDue s p = true → (getPair s p).items = i :: rest →
    (∀ j ∈ rest, i.clk.toNat ≤ j.clk.toNat) → i.lead ≠ i.trail → (getPair s p).mismatches < 2 → (getPair s p).mode = .paired → ∃ t rec, exec (.comparatorCompare p) s = .next t ∧ ModeIs t p .rollback ∧
      (getPair t p).mismatches = (getPair s p).mismatches + 1 ∧ (getPair t p).items = [] ∧ (getPair t p).prov = [] ∧
      t.faultLog = s.faultLog ++ [rec] ∧ t.mem = s.mem ∧ t.teams = s.teams) ∧
  (∀ s p, compareDue s p = false → exec (.comparatorCompare p) s = .next s) ∧
  (∀ s p, p < s.pairs.length → mapWf 0 s.bar = true → (getPair s p).mode = .rollback → (getPair s p).unpairHeld = false →
    ∃ t, exec (.rollbackDone p) s = .next t ∧ ModeIs t p .paired ∧ t.mem = s.mem ∧
      ∀ i ∈ memberTeams s p, ∀ b, (getTeam s i).snap = some b → (getCore t i).groups.length = b.groups.length ∧
        (getCore t i).queues = b.queues ∧ (getCore t i).scratch = b.scratch ∧ (getCore t i).barriers = b.barriers ∧
        (∀ c ∈ (getCore t i).crews, c.helpers = []) ∧ (∀ r ∈ t.runs, r.team ≠ i) ∧
        ((∀ c ∈ b.crews, ∀ h ∈ c.helpers, h.th.reports = []) → ∀ g < b.groups.length, getGroup t i g = { b.group g with
          interval := 0, ldc := 0, stc := 0, cpc := 0, tlc := 0, d := List.replicate 8 0
          progress := (getGroup s i g).progress, sub := (getGroup s i g).sub, port := (getGroup s i g).port
          slot := (getGroup s i g).slot })) ∧
  (∀ s p, (getPair s p).mode ≠ .rollback → exec (.rollbackDone p) s = .next s) ∧
  (∀ s p, p < s.pairs.length → Memory.wf s.mem = true → checkpointDue s p = true →
    (∀ i ∈ memberTeams s p, (∀ g, ∀ th ∈ (getGroup s i g).threads, th.reports = [] ∧ th.marks = []) ∧ (getTeam s i).halt = none ∧
      backLines (getTeam s i) = [] ∧ (getTeam s i).detOut = []) →
    (∀ x ∈ (getPair s p).prov, Direct s x.2.1 1) → ∃ t, exec (.checkpoint p) s = .next t ∧
      (∀ a, mapGet memDefault t.mem a = (lastWrite ((getPair s p).prov.map Prod.snd) a).getD (mapGet memDefault s.mem a)) ∧
      (getPair t p).prov = [] ∧ (getPair t p).mismatches = 0 ∧ (getPair t p).request = false ∧ (getPair t p).mode = (getPair s p).mode ∧
      ∀ i ∈ memberTeams s p, (getTeam t i).snap = some (getCore t i) ∧
        (getCore t i).groups = (getCore s i).groups.map (fun g => { g with interval := 0 }) ∧
        (getTeam t i).ckptId = if (getTeam s i).starting = true then (getTeam s i).ckptId else (getTeam s i).ckptId + 1) ∧
  (∀ s p, checkpointDue s p = false → exec (.checkpoint p) s = .next s) ∧
  (∀ s l p, (getTeam s l).side = .lead p → l < s.teams.length → p < s.teams.length → l ≠ p → il2CheckpointDue s l = true →
    (∀ g < (getCore s l).groups.length, countsAgree s l p g = true) → il2EndAgrees s l p = true → takeDue s l = s → takeDue s p = s →
    backsOf (getTeam s l) = [] → ∃ t, exec (.il2Checkpoint l) s = .next t ∧ t.mem = s.mem ∧
      (getTeam t l).snap = some (getCore t l) ∧ (getTeam t p).snap = some (getCore t p) ∧ (getTeam t l).retries = 0 ∧
      (getTeam t l).ckptRequest = false ∧ (getCore t l).groups = (getCore s l).groups.map (fun g => { g with interval := 0 }) ∧
      (getCore t p).groups = (getCore s p).groups.map (fun g => { g with interval := 0 })) ∧
  (∀ s l, il2CheckpointDue s l = false → exec (.il2Checkpoint l) s = .next s)

/-- A write that answers changes only its own register, stores the bits that its table names and leaves reserved bits
zero: a context entry whose context is not taken, a format range that is disabled, a retention range with its
bounds, a publication entry with V clear, a host window of the partition table, a queue registration with V clear
and a token bucket. A write with V set to a taken context changes nothing; clearing V of a context, of a format
range or of a publication entry with a swap in progress waits; an enabled range, valid publication entry or valid queue ignores other writes. (spec/08_state_tables.md
(R169), spec/08_state_tables.md (R177), spec/08_state_tables.md (R178), spec/08_state_tables.md (R179),
spec/08_state_tables.md (R181), spec/08_state_tables.md (R185), spec/15_scheduling.md (R363), spec/18_host_system.md
(R428)) -/
def Obligations.TableWritesOfTheHost : Prop :=
  (∀ s e v, e < 64 → mapWf 0 s.bar = true → barLive s (Config.oContext e) = true → (∀ x ∈ s.ctxWrites, x.1 ≠ e) →
    WritesBar (.contextEntryWrite e 1 v) s (Config.oContext e + 8) (OnlyBits v [(12, 40)]) ∧
    (v.msb = true → ctxTaken s e (field v 0 16) = true → exec (.contextEntryWrite e 0 v) s = .next s) ∧
    (v.msb = false → (bar s (Config.oContext e)).msb = true → ∃ t x, exec (.contextEntryWrite e 0 v) s = .next t ∧
      t = { s with ctxWrites := s.ctxWrites ++ [(e, 0, x)] } ∧ OnlyBits v [(63, 1), (16, 2), (0, 16)] x) ∧
    (v.msb = false → (bar s (Config.oContext e)).msb = false →
      WritesBar (.contextEntryWrite e 0 v) s (Config.oContext e) (OnlyBits v [(63, 1), (16, 2), (0, 16)])) ∧
    (v.msb = true → ctxTaken s e (field v 0 16) = false → ∃ t, exec (.contextEntryWrite e 0 v) s = .next t ∧
      OnlyBits v [(63, 1), (16, 2), (0, 16)] (bar t (Config.oContext e)) ∧ t.mem = s.mem ∧ t.ctxWrites = s.ctxWrites ∧
      ((bar s (Config.oContext e)).msb = false → t.jobDone = mapSet 0 s.jobDone (field v 0 16) 0 ∧
        t.jobFailed = mapSet 0 s.jobFailed (field v 0 16) 0))) ∧
  (∀ s e x, s.ctxWrites = [(e, 0, x)] → mapWf 0 s.bar = true → ctxBusy s (field (bar s (Config.oContext e)) 0 16) = false → ∃ t o,
    exec (.contextClearComplete e) s = .next t ∧ t.ctxWrites = [] ∧ bar t (Config.oContext e) = x ∧ t.ops = s.ops ++ [o] ∧
    o.kind = .shootdown (.context ((bar s (Config.oContext e)).setWidth 16)) false ∧ t.mem = s.mem ∧ t.teams = s.teams) ∧
  (∀ s e, clearDue s e = false → exec (.contextClearComplete e) s = .next s) ∧
  (∀ s f w v, f < 16 → w < 4 → mapWf 0 s.bar = true → barLive s (Config.oFormat f) = true →
    (aperEnabled s f = true → exec (.formatRangeWrite f w v) s = .next (if w = 0 ∧ v.msb = false
      then { s with fmtDisables := setAdd s.fmtDisables f } else s)) ∧
    (aperEnabled s f = false → w = 1 → WritesBar (.formatRangeWrite f w v) s (Config.oFormat f + 8) (OnlyBits v [(12, 35)])) ∧
    (aperEnabled s f = false → 2 ≤ w → WritesBar (.formatRangeWrite f w v) s (Config.oFormat f + 8 * w) (OnlyBits v [(7, 45)])) ∧
    (aperEnabled s f = false → w = 0 → ∀ r, r = { formatFields s f with
        base := 0xF000000000000 + field v 12 35 * 4096, plain := field v 60 1 = 1, width := field v 56 4 } →
      WritesBar (.formatRangeWrite f w v) s (Config.oFormat f) fun x =>
        field x 60 1 = field v 60 1 ∧ field x 56 4 = field v 56 4 ∧ field x 12 35 = field v 12 35 ∧
        x.msb = (v.msb && formatValid r && !formatConflict s f r) ∧
        (v.msb = true → field x 61 2 = if formatValid r = false then 2 else if formatConflict s f r = true then 1 else 0))) ∧
  (∀ s f, f < 16 → mapWf 0 s.bar = true → disableDue s f = true → (∀ l ∈ s.aper, l.dirty = false) →
    let inside := fun line => (formatFields s f).base ≤ line ∧ line < (formatFields s f).limit
    (∀ tm ∈ s.teams, ∀ x ∈ tm.body.stashLines, ¬inside x.pa) → ∃ t, exec (.formatRangeDisableDone f) s = .next t ∧
      (∀ l, l ∈ t.aper ↔ l ∈ s.aper ∧ ¬inside l.line) ∧ (∀ x, x ∈ t.dcache ↔ x ∈ s.dcache ∧ ¬inside x.line) ∧
      (∀ x, x ∈ t.shares ↔ x ∈ s.shares ∧ ¬inside x.line) ∧ aperEnabled t f = false ∧ f ∉ t.fmtDisables ∧ t.mem = s.mem) ∧
  (∀ s f, disableDue s f = false → exec (.formatRangeDisableDone f) s = .next s) ∧
  (∀ s d r w v, d < 4 → r < 16 → w < 2 → mapWf 0 s.bar = true → barLive s (Config.oPart d) = true → ∃ t, exec (.retentionRangeWrite d r w v) s = .next t ∧
      t.retention = mapSet 0 s.retention (16 * d + r) 0 ∧ t.mem = s.mem ∧
      let x := pbar t d (Config.oRetention r + 8 * w)
      (w = 1 → OnlyBits v [(12, 40)] x) ∧ (w = 0 → x.msb = v.msb ∧ field x 12 40 = field v 12 40 ∧ field x 8 4 = min 8 (field v 8 4) ∧
        field x 0 5 = min 16 (field v 0 5))) ∧
  (∀ s d e w v, d < 4 → e < 256 → w < 4 → mapWf 0 s.bar = true → barLive s (Config.oPart d) = true →
    let at_ := Config.oPart d + Config.oPublication e
    ((bar s at_).msb = true → (w ≠ 0 ∨ v.msb = true) → exec (.publicationEntryWrite d e w v) s = .next s) ∧
    ((bar s at_).msb = true → w = 0 → v.msb = false → swapPending s d e = false → WritesBar (.publicationEntryWrite d e w v) s at_ fun x =>
      x.msb = false ∧ ∀ i < 63, x.getLsbD i = (bar s at_).getLsbD i) ∧
    ((bar s at_).msb = true → w = 0 → v.msb = false → swapPending s d e = true →
      exec (.publicationEntryWrite d e w v) s = .next { s with pubClears := (d, e) :: s.pubClears }) ∧
    ((bar s at_).msb = false → w = 0 → WritesBar (.publicationEntryWrite d e w v) s at_ fun x =>
      field x 56 6 = field v 56 6 ∧ field x 16 16 = field v 16 16 ∧ field x 62 1 = field (bar s at_) 62 1 ∧
      x.msb = (v.msb && decide (12 ≤ field v 56 6) && decide (field v 56 6 ≤ 30))) ∧
    ((bar s at_).msb = false → w = 1 ∨ w = 2 → WritesBar (.publicationEntryWrite d e w v) s (at_ + 8 * w) (OnlyBits v [(12, 40)])) ∧
    ((bar s at_).msb = false → w = 3 → exec (.publicationEntryWrite d e w v) s = .next s)) ∧
  (∀ s i v, i < 56 → mapWf 0 s.bar = true → barLive s (Config.oPartition i) = true →
    (24 ≤ i → WritesBar (.partitionTableWrite i v) s (Config.oPartition i)
      (OnlyBits v (if i % 2 = 0 then [(63, 1), (12, 40), (0, 2)] else [(12, 40)]))) ∧
    (i < 24 → partitioned s = false → (∀ x ∈ s.partWrites, x.1 ≠ i) → WritesBar (.partitionTableWrite i v) s (Config.oPartition i)
      fun x => ∀ b < 8, field x (8 * b) 8 = 128 * field v (8 * b + 7) 1 + field v (8 * b) 2)) ∧
  (∀ s q w v, q < 64 → w < 4 → mapWf 0 s.bar = true → barLive s (Config.oQueueReg q) = true →
    (qValid s q = true → w ≠ 0 ∨ v.msb = true → exec (.queueRegistrationWrite q w v) s = .next s) ∧
    (qValid s q = true → w = 0 → v.msb = false → ∃ t, exec (.queueRegistrationWrite q w v) s = .next t ∧ qValid t q = false ∧
      ∀ x, findWatch t q = some x → x.watching = false) ∧
    (qValid s q = false → w = 2 → WritesBar (.queueRegistrationWrite q w v) s (Config.oQueueReg q + 0x10) (· = v)) ∧
    (qValid s q = false → w = 3 → exec (.queueRegistrationWrite q w v) s = .next s) ∧
    (qValid s q = false → w = 1 → WritesBar (.queueRegistrationWrite q w v) s (Config.oQueueReg q + 8) fun x =>
      field x 48 16 = field v 48 16 ∧ field x 0 32 = field v 0 32 ∧ field x 38 2 = field (qWord s q 1) 38 2) ∧
    (qValid s q = false → w = 0 → v.msb = false → WritesBar (.queueRegistrationWrite q w v) s (Config.oQueueReg q)
      (OnlyBits v [(60, 3), (59, 1), (7, 45)])) ∧
    (qValid s q = false → w = 0 → v.msb = true → queueErr s q v ≠ 0 → ∃ t, exec (.queueRegistrationWrite q w v) s = .next t ∧
      qValid t q = false ∧ field (qWord t q 1) 38 2 = queueErr s q v ∧ t.watches = s.watches ∧ t.mem = s.mem) ∧
    (qValid s q = false → w = 0 → v.msb = true → queueErr s q v = 0 → ∃ t, exec (.queueRegistrationWrite q w v) s = .next t ∧
      qValid t q = true ∧ field (qWord t q 1) 38 2 = 0 ∧ ∃ x, findWatch t q = some x ∧ x.header = field v 7 45 * 128 ∧ x.watching = true)) ∧
  (∀ s d v, d < 4 → mapWf 0 s.bar = true → barLive s (Config.oPart d) = true →
    WritesBar (.tokenBucketWrite d v) s (Config.oPart d + Config.oTbCtl) fun x => x.msb = v.msb ∧
      field x 32 21 = max 64 (min (2 ^ 20) (field v 32 21)) ∧ field x 0 11 = min 1024 (field v 0 11)) ∧
  (∀ s v e w, (∀ off, barLive s off = false) → exec (.contextEntryWrite e w v) s = .next s ∧ exec (.formatRangeWrite e w v) s = .next s ∧
    exec (.partitionTableWrite e v) s = .next s ∧ exec (.queueRegistrationWrite e w v) s = .next s ∧ exec (.tokenBucketWrite e v) s = .next s)

/-- A cancel while BUSY is set does nothing; one whose context is not valid in the partition gives RESULT 2. A launch
number not yet assigned, a launch of no traversal, or a phase of another context gives RESULT 1, and an item already
ended gives 4. A launch that is active becomes cancelled, with BUSY set: its placed teams halt with cause cancelled,
and one none of whose teams was placed ends with all its teams failed. A phase or a job loses EN, a job's queues V.
When every launch of the cancel is over, BUSY clears with RESULT 0. (spec/15_scheduling.md (R382),
spec/15_scheduling.md (R383), spec/18_host_system.md (R428)) -/
def Obligations.CancelsAndTheirResults : Prop :=
  (∀ s d, d < 4 → cancelBusy s d = true ∨ barLive s (Config.oPart d) = false → exec (.cancelLaunch d) s = .next s ∧
    exec (.cancelGraph d) s = .next s ∧ exec (.cancelPhase d) s = .next s ∧ exec (.cancelJob d) s = .next s) ∧
  (∀ s d i, d < 4 → mapWf 0 s.bar = true → barLive s (Config.oPart d) = true → cancelBusy s d = false → cancelCtxOk s d = false →
    i ∈ [Instr.cancelLaunch d, .cancelGraph d, .cancelPhase d, .cancelJob d] → CancelEnds i s d 2) ∧
  (∀ s d, d < 4 → mapWf 0 s.bar = true → barLive s (Config.oPart d) = true → cancelBusy s d = false → cancelCtxOk s d = true →
    (mapGet 0 s.nextLaunch (cancelCtx s d) ≤ cancelItem s d → CancelEnds (.cancelLaunch d) s d 1) ∧
    (∀ li, cancelItem s d < mapGet 0 s.nextLaunch (cancelCtx s d) → findLaunch s (cancelCtx s d) (cancelItem s d) = some li →
      (s.launches.getD li Launch.empty).status ≠ .active → CancelEnds (.cancelLaunch d) s d 4) ∧
    ((∀ v < s.traversals.length, cancelItem s d ∉ (getTraversal s v).nums) → CancelEnds (.cancelGraph d) s d 1) ∧
    (field (phaseWord s d (cancelItem s d % 64) 2) 16 16 ≠ cancelCtx s d → CancelEnds (.cancelPhase d) s d 1)) ∧
  (∀ s d li, d < 4 → mapWf 0 s.bar = true → barLive s (Config.oPart d) = true → cancelBusy s d = false → cancelCtxOk s d = true →
    cancelItem s d < mapGet 0 s.nextLaunch (cancelCtx s d) → findLaunch s (cancelCtx s d) (cancelItem s d) = some li →
    let l := s.launches.getD li Launch.empty
    l.status = .active → l.done + l.failed < l.desc.teams →
    (l.again = [] → l.nextTeam = l.desc.teams → (∀ t ∈ s.teams, t.launch = li → t.life = .resident ∧ t.side = .single ∧ t.halt = none) →
      l.kernel.il < 2 → ∃ t, exec (.cancelLaunch d) s = .next t ∧ (t.launches.getD li Launch.empty).status = .cancelled ∧ cancelBusy t d = true ∧
      (⟨d, [li]⟩ ∈ t.cancels) ∧ (∀ i < s.teams.length, (getTeam s i).launch = li → ∃ h, (getTeam t i).halt = some h ∧ h.cause = 0x37 ∧ h.resumable = false) ∧
      ∀ i, (getTeam s i).launch ≠ li → getTeam t i = getTeam s i) ∧
    (l.again = [] → l.nextTeam = 0 → l.done = 0 → l.failed = 0 → (∀ t ∈ s.teams, t.launch ≠ li) → l.traversal = none →
      ∃ t, exec (.cancelLaunch d) s = .next t ∧ (t.launches.getD li Launch.empty).status = .cancelled ∧ cancelBusy t d = true ∧
      (t.launches.getD li Launch.empty).failed = l.desc.teams ∧ t.jobFailed = mapSet 0 s.jobFailed l.ctx (mapGet 0 s.jobFailed l.ctx + 1))) ∧
  (∀ s d v, d < 4 → mapWf 0 s.bar = true → barLive s (Config.oPart d) = true → cancelBusy s d = false → cancelCtxOk s d = true →
    v < s.traversals.length → (∀ u < s.traversals.length, u ≠ v → cancelItem s d ∉ (getTraversal s u).nums) →
    cancelItem s d ∈ (getTraversal s v).nums → (getTraversal s v).part = d → (getTraversal s v).ctx = cancelCtx s d →
    ((getTraversal s v).running = false → CancelEnds (.cancelGraph d) s d 4) ∧
    ((getTraversal s v).running = true → nodeLaunches s [v] = [] → ∃ t, exec (.cancelGraph d) s = .next t ∧ (getTraversal t v).running = false ∧
      t.launches = s.launches ∧ cancelBusy t d = true ∧ t.phaseFailed = mapSet 0 s.phaseFailed (64 * d + (getTraversal s v).phase)
        (mapGet 0 s.phaseFailed (64 * d + (getTraversal s v).phase) + 1))) ∧
  (∀ s d, d < 4 → mapWf 0 s.bar = true → barLive s (Config.oPart d) = true → cancelBusy s d = false → cancelCtxOk s d = true →
    let n := cancelItem s d % 64
    field (phaseWord s d n 2) 16 16 = cancelCtx s d → runningTraversals s (fun t => t.part == d && t.phase == n) = [] →
    (phaseOn s d n = false → CancelEnds (.cancelPhase d) s d 4) ∧
    (phaseOn s d n = true → ∃ t, exec (.cancelPhase d) s = .next t ∧ phaseOn t d n = false ∧ cancelBusy t d = true ∧ t.launches = s.launches)) ∧
  (∀ s d, d < 4 → mapWf 0 s.bar = true → barLive s (Config.oPart d) = true → cancelBusy s d = false → cancelCtxOk s d = true →
    (∀ i < s.launches.length, (s.launches.getD i Launch.empty).ctx = cancelCtx s d → launchOver s i = true) →
    runningTraversals s (fun t => t.part == d && t.ctx == cancelCtx s d) = [] → ∃ t, exec (.cancelJob d) s = .next t ∧ cancelBusy t d = true ∧
      (∀ q < 64, qCtx s q = cancelCtx s d → qValid t q = false) ∧
      ∀ n < 64, field (phaseWord s d n 2) 16 16 = cancelCtx s d → phaseOn t d n = false) ∧
  (∀ s d, d < 4 → mapWf 0 s.bar = true → cancelDue s d = true → ∃ t, exec (.cancelDone d) s = .next t ∧ cancelBusy t d = false ∧
      field (cancelCtl t d) 2 3 = 0 ∧ (∀ c ∈ t.cancels, c.part ≠ d) ∧ t.mem = s.mem ∧ t.teams = s.teams) ∧
  (∀ s d, cancelDue s d = false → exec (.cancelDone d) s = .next s)

/-- HALT of a resident team that is not stopped ends its runs and stops it, to resume where it stood; during the halt of a
requested dump the stop follows that halt (log entry 83). RESUME lets it go
on with STATUS.STEP clear, STEP with it set and one word for each group that has not retired; where no resident team
is named nothing happens. A stepped team all of whose groups have taken their step stops again with code 0x2A. A
dump request with no such team sets NOTEAM; with room it halts the team, or waits behind a halt or a dump under way (log
entry 84). A written
dump lets its team go on, or fail. (spec/17_faults_debug.md (R408), spec/17_faults_debug.md (R412),
spec/17_faults_debug.md (R413), spec/17_faults_debug.md (R416)) -/
def Obligations.DebuggerStopsAndDumps : Prop :=
  (∀ s d, (debugTeam s d = none ∨ barLive s (Config.oPart d) = false) → exec (.dbgHalt d) s = .next s ∧ exec (.dbgResume d) s = .next s ∧
    exec (.dbgStep d) s = .next s) ∧
  (∀ s d tid, barLive s (Config.oPart d) = true → debugTeam s d = some tid → (getTeam s tid).side = .single →
    ((getTeam s tid).stopped = false → (getTeam s tid).halt = none → Stops (.dbgHalt d) s tid 0) ∧
    (∀ h, (getTeam s tid).stopped = false → (getTeam s tid).halt = some h → h.asked = true → ∃ t, exec (.dbgHalt d) s = .next t ∧
      getTeam t tid = { getTeam s tid with halt := some { h with thenStop := true } } ∧ t.runs = s.runs ∧ t.mem = s.mem) ∧
    ((getTeam s tid).stopped = true → exec (.dbgHalt d) s = .next s) ∧
    ((getTeam s tid).stopped = false → exec (.dbgResume d) s = .next s ∧ exec (.dbgStep d) s = .next s) ∧
    ((getTeam s tid).stopped = true → ∃ t u, exec (.dbgResume d) s = .next t ∧ exec (.dbgStep d) s = .next u ∧
      (getTeam t tid).stopped = false ∧ (getTeam u tid).stopped = false ∧ (getTeam t tid).stepping = none ∧
      (∃ l, (getTeam u tid).stepping = some l ∧ ∀ g, g ∈ l ↔ g < (getCore s tid).groups.length ∧ (getGroup s tid g).retired = false) ∧
      (∀ g c, g < (getCore s tid).groups.length → c < (getGroup s tid g).threads.length →
        getTh t tid g (.lane c) = { getTh s tid g (.lane c) with stepArmed := false } ∧
        getTh u tid g (.lane c) = { getTh s tid g (.lane c) with stepArmed := true }) ∧
      t.mem = s.mem ∧ u.mem = s.mem ∧ (∀ x, x ≠ tid → getTeam t x = getTeam s x ∧ getTeam u x = getTeam s x))) ∧
  (∀ s tid, (getTeam s tid).side = .single → (getTeam s tid).life = .resident → singleStepDue s tid = true → Stops (.singleStepStop tid) s tid 0x2A) ∧
  (∀ s tid, singleStepDue s tid = false → exec (.singleStepStop tid) s = .next s) ∧
  (∀ s d, d < 4 → barLive s (Config.oPart d) = true →
    let ctx := field (pbar s d Config.oDumpCtl) 48 16
    let tgt := pbar s d Config.oDumpTgt
    (dumpBusy s d = true → exec (.dumpRequest d) s = .next { s with dumpWaits := s.dumpWaits ++ [(d, ctx, field tgt 32 32, field tgt 8 24)] }) ∧
    (dumpBusy s d = false → namedTeam s d ctx (field tgt 32 32) (field tgt 8 24) = none → mapWf 0 s.bar = true →
      WritesBar (.dumpRequest d) s (Config.oPart d + Config.oDumpCtl) fun x =>
        ∀ i < 64, x.getLsbD i = ((pbar s d Config.oDumpCtl).getLsbD i || i == 3)) ∧
    (∀ tid, dumpBusy s d = false → namedTeam s d ctx (field tgt 32 32) (field tgt 8 24) = some tid →
      (dumpRoom s d = false → exec (.dumpRequest d) s = .next s) ∧
      (dumpRoom s d = true → (getTeam s tid).halt ≠ none → exec (.dumpRequest d) s =
        .next { s with dumpWaits := s.dumpWaits ++ [(d, ctx, field tgt 32 32, field tgt 8 24)] }) ∧
      (dumpRoom s d = true → (getTeam s tid).halt = none → ∃ t h, exec (.dumpRequest d) s = .next t ∧ (getTeam t tid).halt = some h ∧
        h.cause = 0 ∧ h.resumable = true ∧ h.asked = true ∧
        (∀ r ∈ t.runs, r.team ≠ tid) ∧ t.dumps = s.dumps ++ [⟨d, tid, false⟩] ∧ t.mem = s.mem))) ∧
  (∀ s d j h, s.dumps = [j] → j.part = d → j.writing = true → s.dumpWaits = [] → j.team < s.teams.length → (getTeam s j.team).side = .single →
    (getTeam s j.team).halt = some h → h.thenStop = false → ∃ t, exec (.dumpComplete d) s = .next t ∧ t.dumps = [] ∧ (getTeam t j.team).halt = none ∧
      (h.resumable = true → (getTeam t j.team).life = (getTeam s j.team).life ∧ t.runs = s.runs) ∧
      (h.resumable = false → (getTeam t j.team).life = .failed)) ∧
  (∀ s d, (∀ j ∈ s.dumps, j.part ≠ d ∨ j.writing = false) → exec (.dumpComplete d) s = .next s) ∧
  (∀ s d, d < 4 → mapWf 0 s.bar = true → barLive s (Config.oPart d) = true →
    WritesBar (.dumpCtlRead d) s (Config.oPart d + Config.oDumpCtl) (fun x => ∀ i < 64, x.getLsbD i = ((pbar s d Config.oDumpCtl).getLsbD i && i != 3)) ∧
    WritesBar (.frLostRead d) s (Config.oPart d + Config.oFrLost) (· = 0))

/-- A reset of a partition of a partitioned device sets RBUSY, stops its queues and halts its resident teams with cause
0x38; it is ignored while one runs or the device is one partition. Once no team of it holds a place, its registers
and TLB entries are at reset, RBUSY clears and device memory is unchanged. MODE is written only while no context
entry is valid. Sampling and synchronisation write trace records and change nothing else but the rings, memory and
free values. (spec/17_faults_debug.md (R417), spec/17_faults_debug.md (R418), spec/18_host_system.md (R436),
spec/18_host_system.md (R437)) -/
def Obligations.PartitionsAndTraceRecords : Prop :=
  (∀ s d, (partitioned s = false ∨ 4 ≤ d ∨ (∃ r ∈ s.resets, r.part = d) ∨ barLive s Config.oPartCtl = false) → exec (.partitionReset d) s = .next s) ∧
  (∀ s d, d < 4 → mapWf 0 s.bar = true → partitioned s = true → barLive s Config.oPartCtl = true → (∀ r ∈ s.resets, r.part ≠ d) → partQueues s d = [] →
    runningTraversals s (fun t => t.part == d) = [] → (∀ li ∈ partLaunches s d, let l := s.launches.getD li Launch.empty
      l.again = [] ∧ l.nextTeam = l.desc.teams ∧ l.kernel.il < 2) → (∀ p < 8, pairPart s p = d → (getPair s p).mode = .independent) →
    (∀ t ∈ s.teams, t.life = .resident → t.side = .single ∧ t.halt = none) → (∀ t ∈ s.teams, t.life = .resident ∨ t.life = .done ∨ t.life = .failed) →
    ∃ t, exec (.partitionReset d) s = .next t ∧ field (bar t Config.oPartCtl) (8 + d) 1 = 1 ∧ (∃ r ∈ t.resets, r.part = d) ∧ t.mem = s.mem ∧
      (∀ i < s.teams.length, (getTeam s i).launch ∈ partLaunches s d → (getTeam s i).life = .resident →
        ∃ h, (getTeam t i).halt = some h ∧ h.cause = 0x38 ∧ h.resumable = false) ∧
      ∀ i, (getTeam s i).launch ∉ partLaunches s d → getTeam t i = getTeam s i) ∧
  (∀ s d, d < 4 → mapWf 0 s.bar = true → resetDue s d = true → (∀ l ∈ s.aper, l.dirty = false) → s.window = [] → ∃ t, exec (.partitionResetDone d) s = .next t ∧
      field (bar t Config.oPartCtl) (8 + d) 1 = 0 ∧ (∀ r ∈ t.resets, r.part ≠ d) ∧ t.mem = s.mem ∧ t.teams = s.teams ∧
      (∀ x ∈ t.tlb, x.1 / 16 ≠ d) ∧ (∀ x ∈ t.dcache, x.core / 16 ≠ d) ∧ (∀ x ∈ t.shares, x.core / 16 ≠ d) ∧
      pbar t d Config.oFrCtl = 12 ∧ pbar t d Config.oSaveSize = 0 ∧ pbar t d Config.oDumpCtl = 0 ∧ (∀ n < 64, phaseOn t d n = false) ∧
      (∀ g < 256, pbar t d (Config.oGraph g) = 0) ∧ ∀ e < 64, field (bar s (Config.oContext e)) 16 2 = d → (bar t (Config.oContext e)).msb = false) ∧
  (∀ s d, resetDue s d = false → exec (.partitionResetDone d) s = .next s) ∧
  (∀ s m, mapWf 0 s.bar = true → barLive s Config.oPartCtl = true →
    ((∀ e < 64, (bar s (Config.oContext e)).msb = false) → WritesBar (.partModeWrite m) s Config.oPartCtl fun x => x.msb = m ∧
      ∀ i < 63, x.getLsbD i = (bar s Config.oPartCtl).getLsbD i) ∧
    (∀ e < 64, (bar s (Config.oContext e)).msb = true → exec (.partModeWrite m) s = .next s)) ∧
  (∀ s d, (pbar s d Config.oTrCtl).msb = false → exec (.traceSyncRecord d) s = .next s) ∧
  (∀ s d, mapWf 0 s.bar = true → (pbar s d Config.oTrCtl).msb = true → pbar s d Config.oTrLost = 0 →
    let size := 2 ^ field (pbar s d Config.oTrCtl) 0 5
    let used := (pbar s d Config.oTrWr).toNat - (pbar s d Config.oTrRd).toNat
    (used + 48 ≤ size → (pbar s d Config.oTrWr).toNat + 48 < 2 ^ 64 → ∃ t, exec (.traceSyncRecord d) s = .next t ∧
      (pbar t d Config.oTrWr).toNat = (pbar s d Config.oTrWr).toNat + 48 ∧ pbar t d Config.oTrLost = 0 ∧
      t.runs = s.runs ∧ t.launches = s.launches ∧ t.ops = s.ops) ∧
    (size < used + 48 → WritesBar (.traceSyncRecord d) s (Config.oPart d + Config.oTrLost) (· = 1))) ∧
  (∀ s d, (∀ r ∈ s.runs, (getTeam s r.team).part ≠ d ∨ (getGroup s r.team r.grp).port ≠ 0) → exec (.traceSample d) s = .next s) ∧
  (∀ s d r, s.runs = [r] → (getTeam s r.team).part = d → (getGroup s r.team r.grp).port = 0 → r.sig ≠ .stall → r.helpers = none → mapWf 0 s.bar = true →
    (pbar s d Config.oTrCtl).msb = true → (pbar s d Config.oTrCtl).getLsbD 50 = true → pbar s d Config.oTrLost = 0 →
    (pbar s d Config.oTrWr).toNat - (pbar s d Config.oTrRd).toNat + 32 ≤ 2 ^ field (pbar s d Config.oTrCtl) 0 5 →
    (pbar s d Config.oTrWr).toNat + 32 < 2 ^ 64 → ∃ t, exec (.traceSample d) s = .next t ∧ t.nextId = s.nextId + 1 ∧
      (pbar t d Config.oTrWr).toNat = (pbar s d Config.oTrWr).toNat + 32 ∧ t.runs = s.runs ∧ t.ops = s.ops)

/-- LOCK, once set, stays and fixes SRC; a SRC of 3 stores 0. ADJ is clamped to ±2,147,484. STEP adds to the clock and
STEPS rises by one; with no partition tracing nothing else changes but that the time for which teams have run stays
the same. A PTM request notes T1; its response under SRC
1, with no step in between, latches T1 to T4 and sets VALID; otherwise it only ends the dialog. Reading PTM_CTL
clears VALID and PPSNEW. A PPS edge latches the clock under SRC 2 only. A PTM request on port B changes nothing.
(spec/18_host_system.md (R430), spec/18_host_system.md (R432), spec/09_state_counters.md (R199)) -/
def Obligations.TimeRegistersAndLatches : Prop :=
  (∀ s v, mapWf 0 s.bar = true → barLive s Config.oTimeCtl = true → WritesBar (.timeCtlWrite v) s Config.oTimeCtl fun x =>
    let old := bar s Config.oTimeCtl
    x.msb = (old.msb || v.msb) ∧ field x 0 2 = (if old.msb = true then field old 0 2 else if field v 0 2 = 3 then 0 else field v 0 2) ∧
    ∀ i < 63, 2 ≤ i → x.getLsbD i = false) ∧
  (∀ s (v : BitVec 32), mapWf 0 s.bar = true → barLive s Config.oPhcAdj = true → WritesBar (.phcAdjWrite v) s Config.oPhcAdj fun x =>
    ((x.setWidth 32).toInt = max (-2147484) (min 2147484 v.toInt)) ∧ x.toNat < 2 ^ 32) ∧
  (∀ s v, barLive s Config.oPhcStep = true → (∀ d < 4, (pbar s d Config.oTrCtl).msb = false) →
    exec (.phcStep v) s = .next { s with
      phcNs := s.phcNs + v, steps := s.steps + 1, teams := s.teams.map fun t => { t with started := t.started.map (· + v) } }) ∧
  (∀ s, barLive s Config.oPtmCtl = true → exec .ptmRequest s = .next { s with ptm := some (s.phcNs, s.steps) }) ∧
  (∀ s t2 t3, (s.ptm = none → exec (.ptmResponse t2 t3) s = .next s) ∧ (∀ t1 n, s.ptm = some (t1, n) →
    ((field (bar s Config.oTimeCtl) 0 2 ≠ 1 ∨ n ≠ s.steps) → exec (.ptmResponse t2 t3) s = .next { s with ptm := none }) ∧
    (field (bar s Config.oTimeCtl) 0 2 = 1 → n = s.steps → mapWf 0 s.bar = true → ∃ t, exec (.ptmResponse t2 t3) s = .next t ∧
      { t with bar := s.bar, ptm := s.ptm } = s ∧ t.ptm = none ∧ bar t Config.oPtmT1 = t1 ∧ bar t (Config.oPtmT1 + 8) = t2 ∧
      bar t (Config.oPtmT1 + 16) = t3 ∧ bar t (Config.oPtmT1 + 24) = s.phcNs ∧
      ∀ i < 64, (bar t Config.oPtmCtl).getLsbD i = ((bar s Config.oPtmCtl).getLsbD i || i == 1)))) ∧
  (∀ s, mapWf 0 s.bar = true → barLive s Config.oPtmCtl = true → WritesBar .ptmCtlRead s Config.oPtmCtl fun x =>
    ∀ i < 64, x.getLsbD i = ((bar s Config.oPtmCtl).getLsbD i && i != 1 && i != 2)) ∧
  (∀ s, (field (bar s Config.oTimeCtl) 0 2 ≠ 2 → exec .ppsEdge s = .next s) ∧ (field (bar s Config.oTimeCtl) 0 2 = 2 → mapWf 0 s.bar = true →
    ∃ t, exec .ppsEdge s = .next t ∧ { t with bar := s.bar } = s ∧ bar t Config.oPpsLatch = s.phcNs ∧
      ∀ i < 64, (bar t Config.oPtmCtl).getLsbD i = ((bar s Config.oPtmCtl).getLsbD i || i == 2))) ∧
  (∀ s, exec .portbPtmRequest s = .next s)

/-- POWER_LIMIT stays within 150 to 480. A clock step or a throttle lowers the clock, never raises it, and shows its bit
and the temperature. A thermal trip or a power loss stops the clock and leaves the NOR and memory outside the
device; the trip is recorded where the supply held. Boot stages follow R433: slot 1 after slot 0, recovery after
both, refusals counted, device memory zero before stage 5. A device reset starts at stage 1 with histograms kept.
Samples count in their bins, the 3,600th a powered hour, and saves copy the bins to NOR. (spec/01_device.md (R15),
spec/09_state_counters.md (R204), spec/18_host_system.md (R433), spec/18_host_system.md (R434),
spec/18_host_system.md (R440)) -/
def Obligations.PowerBootAndLifeRecords : Prop :=
  (∀ s v, mapWf 0 s.bar = true → barLive s Config.oPowerLimit = true → WritesBar (.powerLimitWrite v) s Config.oPowerLimit fun x =>
    x.toNat = max 150 (min 480 (field v 0 9))) ∧
  (∀ s k, (∀ d < 4, (pbar s d Config.oTrCtl).msb = false) → mapWf 0 s.bar = true → (k = 0 ∨ s.khz.toNat ≤ k.toNat → exec (.clockStepDown k) s = .next s) ∧
    (k ≠ 0 → k.toNat < s.khz.toNat → ∃ t, exec (.clockStepDown k) s = .next t ∧ { t with bar := s.bar, khz := s.khz } = s ∧ t.khz = k ∧
      (bar t Config.oThermStatus).getLsbD 16 = true)) ∧
  (∀ s temp k, (∀ d < 4, (pbar s d Config.oTrCtl).msb = false) → mapWf 0 s.bar = true → ∃ t, exec (.thermalThrottle temp k) s = .next t ∧
    { t with bar := s.bar, khz := s.khz } = s ∧ field (bar t Config.oThermStatus) 0 16 = temp.toNat ∧
    let hot := 16 * (if Config.gradeX = true then 125 else 105) - 160 ≤ temp.toInt
    t.khz = (if hot ∧ k ≠ 0 ∧ k.toNat < s.khz.toNat then k else s.khz) ∧
    (hot → k ≠ 0 → k.toNat < s.khz.toNat → (bar t Config.oThermStatus).getLsbD 17 = true)) ∧
  (∀ s rec, ∃ t u, exec (.thermtrip rec) s = .next t ∧ exec .powerLoss s = .next u ∧ t.dead = true ∧ u.dead = true ∧ u.nor = s.nor ∧
    t.nor = { s.nor with tripRecorded := s.nor.tripRecorded || rec } ∧ t.teams = [] ∧ u.teams = [] ∧ t.launches = [] ∧ u.launches = [] ∧
    t.mem = s.mem.filter (fun c => 0x3000000000 ≤ c.1) ∧ u.mem = s.mem.filter (fun c => 0x3000000000 ≤ c.1) ∧ t.hist = s.nor.hist) ∧
  (∀ s, exec .orderlyShutdown s = .next { s with nor := { s.nor with hist := s.hist } } ∧
    exec .lifeHistogramSave s = .next { s with nor := { s.nor with hist := s.hist } }) ∧
  (∀ s temp watts, mapWf 0 s.hist = true → (∀ x ∈ s.hist, x.2 < 0xFFFFFFFF) → ∃ t, exec (.lifeHistogramSample temp watts) s = .next t ∧ t.mem = s.mem ∧
    t.teams = s.teams ∧
    let deg := (max (-640) (min 2239 temp.toInt) + 640).toNat / 160
    let hour := 3600 ≤ s.lifeSeconds + 1
    t.lifeSeconds = (if hour then 0 else s.lifeSeconds + 1) ∧
    ∀ b, mapGet 0 t.hist b = mapGet 0 s.hist b + (if b = deg then 1 else 0) + (if b = 32 + min 15 (watts / 32) then 1 else 0) +
      (if b = 64 ∧ hour then 1 else 0)) ∧
  (∀ s, mapWf 0 s.hist = true → mapGet 0 s.hist 65 < 0xFFFFFFFF → ∃ t, exec .deviceReset s = .next t ∧ field (bar t Config.oBootStatus) 0 8 = 1 ∧ t.nor = s.nor ∧
    t.teams = [] ∧ t.launches = [] ∧ t.runs = [] ∧ t.ops = [] ∧ t.cycle = 0 ∧ t.mem = s.mem.filter (fun c => 0x3000000000 ≤ c.1) ∧
    ∀ b, mapGet 0 t.hist b = mapGet 0 s.hist b + if b = 65 then 1 else 0) ∧
  (∀ s, mapWf 0 s.bar = true → ∃ t, exec .bootStageComplete s = .next t ∧ t.teams = s.teams ∧
    let ok := fun (i : Option Image) => ∃ x, i = some x ∧ x.signatures = true ∧ x.digest = true ∧ x.keys = true ∧ s.nor.fusedMin ≤ x.version
    (stage s = 1 → stage t = 2) ∧
    (stage s = 2 → ok s.nor.slot0 → stage t = 3 ∧ field (bar t Config.oBootStatus) 8 1 = 0 ∧ t.hist = s.hist) ∧
    (stage s = 2 → ¬ok s.nor.slot0 → ok s.nor.slot1 → stage t = 3 ∧ field (bar t Config.oBootStatus) 8 1 = 1 ∧
      t.hist = mapSet 0 s.hist 66 (min (mapGet 0 s.hist 66 + 1) 0xFFFFFFFF)) ∧
    (stage s = 2 → ¬ok s.nor.slot0 → ¬ok s.nor.slot1 → stage t = 0x0F) ∧
    (stage s = 3 → ok s.nor.cp → ok s.nor.svcGroup → stage t = 4 ∧ t.hist = s.hist) ∧
    (stage s = 3 → ¬(ok s.nor.cp ∧ ok s.nor.svcGroup) → stage t = 0x0F) ∧
    (stage s = 4 → stage t = 5 ∧ ∀ a < 0x3000000000, mapGet memDefault t.mem a = 0) ∧ (stage s = 5 → stage t = 0x80) ∧
    (stage s = 0x80 ∨ stage s = 0x0F ∨ stage s = 0 → t = s) ∧ (stage s ≠ 4 → t.mem = s.mem))

/-- A write that is not naturally aligned, or that BAR0 does not answer, changes nothing. A whole write to a plain
register of a partition block stores the bits of its fields and zero elsewhere; a half write keeps the other half;
HOLD_LIMIT and the watchdog limit keep within their bounds; a ring size outside 12 to 30 stores 12. A reserved
offset stores nothing. Any write of an error counter clears it, and reading SAT_MEM clears it. (spec/00_scope.md
(R5), spec/09_state_counters.md (R200), spec/09_state_counters.md (R201), spec/17_faults_debug.md (R408),
spec/17_faults_debug.md (R412), spec/18_host_system.md (R425), spec/18_host_system.md (R427)) -/
def Obligations.RegisterWritesOfTheHost : Prop :=
  (∀ s w, (w.off % 8 ≠ 0 ∨ barLive s w.off = false) → exec (.registerWrite w) s = .next s) ∧
  (∀ s d v x, d < 4 → mapWf 0 s.bar = true → barLive s (Config.oPart d + x.1) = true →
    x ∈ [(0x40, [(0, 64)]), (0x58, [(0, 64)]), (0x80, [(0, 64)]), (0x98, [(0, 64)]), (0xC0, [(12, 40)]), (0xC8, [(12, 40)]),
      (0xE0, [(12, 40)]), (0xE8, [(0, 32)]), (0xF8, [(8, 56)]), (0x108, [(8, 56)]), (0x188, [(0, 32)])] →
    WritesBar (.registerWrite ⟨Config.oPart d + x.1, v, none⟩) s (Config.oPart d + x.1) (OnlyBits v x.2) ∧
    WritesBar (.registerWrite ⟨Config.oPart d + x.1, v, some false⟩) s (Config.oPart d + x.1)
      (OnlyBits (BitVec.ofNat 64 ((bar s (Config.oPart d + x.1)).toNat / 2 ^ 32 * 2 ^ 32 + v.toNat % 2 ^ 32)) x.2) ∧
    WritesBar (.registerWrite ⟨Config.oPart d + x.1, v, some true⟩) s (Config.oPart d + x.1)
      (OnlyBits (BitVec.ofNat 64 (v.toNat % 2 ^ 32 * 2 ^ 32 + (bar s (Config.oPart d + x.1)).toNat % 2 ^ 32)) x.2)) ∧
  (∀ s d v, d < 4 → mapWf 0 s.bar = true → barLive s (Config.oPart d) = true →
    WritesBar (.registerWrite ⟨Config.oPart d + Config.oHoldLimit, v, none⟩) s (Config.oPart d + Config.oHoldLimit)
      (fun x => x.toNat = max 64 (min 1024 (field v 0 11))) ∧
    WritesBar (.registerWrite ⟨Config.oPart d + Config.oWdLimit, v, none⟩) s (Config.oPart d + Config.oWdLimit)
      (fun x => x.toNat = max 100 (min 1000000 (field v 0 20))) ∧
    WritesBar (.registerWrite ⟨Config.oPart d + Config.oFrCtl, v, none⟩) s (Config.oPart d + Config.oFrCtl)
      (fun x => x.msb = v.msb ∧ x.toNat % 2 ^ 63 = if 12 ≤ field v 0 5 ∧ field v 0 5 ≤ 30 then field v 0 5 else 12)) ∧
  (∀ s d o v h, d < 4 → o % 8 = 0 → o ∈ [0x18, 0x28, 0x30, 0x38, 0x68, 0xA8, 0xB0, 0xD0, 0x110, 0x190, 0x2800, 0x3000, 0x6000, 0x10800, 0x30000] →
    exec (.registerWrite ⟨Config.oPart d + o, v, h⟩) s = .next s) ∧
  (∀ s off, off % 8 = 0 → Config.oErrors ≤ off → off < Config.oErrors + 0x4000 → mapWf 0 s.bar = true → barLive s off = true →
    WritesBar (.errorCounterClear off) s off (· = 0) ∧ (∀ v, WritesBar (.registerWrite ⟨off, v, none⟩) s off (· = 0))) ∧
  (∀ s d, barLive s (Config.oPart d) = true → exec (.satMemRead d) s = .next { s with satMem := mapSet 0 s.satMem d 0 })

/-- An access outside the memory that its agent reaches, or of device memory before the ports have trained, changes nothing. A write there, in plain memory, stores its
bytes and nothing else; an atomic stores its new value. A host snoop leaves no private copy after a write. A
corrected memory error counts; an uncorrectable one poisons its sectors, and one of named-register storage ends its
team below level IL2 (log entry 86). A migration that names other memory is refused; one that waits queues the
accesses of other agents to its page; when it completes it has moved the bytes of the page and the entry that maps
it, and dropped the old translations. A link that
comes up shows its size; one that is lost abandons and counts the writes past issue, and its moment is logged (log entry 73). (spec/05_state_memories.md
(R113), spec/05_state_memories.md (R121), spec/05_state_memories.md (R122), spec/05_state_memories.md (R123),
spec/05_state_memories.md (R124), spec/16_integrity.md (R384), spec/18_host_system.md (R424), spec/18_host_system.md
(R430), spec/18_host_system.md (R431), spec/18_host_system.md (R438)) -/
def Obligations.AccessesOfOtherAgents : Prop :=
  (∀ s acc, reachable s acc (fun t => t == .device || t == .host || t == .portB) = false → exec (.hostAccess acc) s = .next s) ∧
  (∀ s acc, reachable s acc (· == .device) = false → exec (.peerAccess acc) s = .next s) ∧
  (∀ s i pa bs, (i = Instr.hostAccess (.write pa bs) ∧ (reachable s (.write pa bs) fun t => t == .device || t == .host) = true ∨
      i = .peerAccess (.write pa bs) ∧ reachable s (.write pa bs) (· == .device) = true) →
    Memory.wf s.mem = true → bs ≠ [] → Direct s pa bs.length → pageMoving s pa = false → ∃ t, exec i s = .next t ∧ t.runs = s.runs ∧ t.ops = s.ops ∧
      ∀ a, mapGet memDefault t.mem a = if pa ≤ a ∧ a < pa + bs.length then bs.getD (a - pa) 0 else mapGet memDefault s.mem a) ∧
  (∀ s i pa v wide, let aop := if wide = true then Aop.add64 else .add
    let n := if wide = true then 8 else 4
    (i = Instr.hostAccess (.atomic aop pa v) ∧ (reachable s (.atomic aop pa v) fun t => t == .device || t == .host) = true ∨
      i = .peerAccess (.atomic aop pa v) ∧ reachable s (.atomic aop pa v) (· == .device) = true) →
    Memory.wf s.mem = true → Direct s pa n → poisonIn s.poison pa n = none → pageMoving s pa = false → ∃ t, exec i s = .next t ∧
      bytesNat (readBytes t.mem pa n) = (bytesNat (readBytes s.mem pa n) + v.toNat) % 2 ^ (8 * n) ∧
      ∀ a, (a < pa ∨ pa + n ≤ a) → mapGet memDefault t.mem a = mapGet memDefault s.mem a) ∧
  (∀ s i pa n, i = Instr.hostAccess (.read pa n) ∨ i = .peerAccess (.read pa n) → Direct s pa n → pageMoving s pa = false →
    ∃ t, exec i s = .next t ∧ t.mem = s.mem ∧ t.teams = s.teams) ∧
  (∀ s acc, reachable s acc (· == .device) = true → pageMoving s (accPa acc) = true →
    exec (.hostAccess acc) s = .next { s with queued := s.queued ++ [acc] } ∧ exec (.peerAccess acc) s = .next { s with queued := s.queued ++ [acc] }) ∧
  (∀ s pa w, (targetOf s pa ≠ .host ∨ portsUp s = false → exec (.hostSnoop pa w) s = .next s) ∧ (targetOf s pa = .host → portsUp s = true → ∃ t, exec (.hostSnoop pa w) s = .next t ∧
    (w = true → ∀ x ∈ t.dcache, x.line ≠ pa / 128 * 128) ∧ (w = false → ∀ x ∈ t.dcache, x.line = pa / 128 * 128 → x.st = .shared))) ∧
  (∀ s pa c, mapWf 0 s.bar = true → targetOf s pa = .device →
    let at_ := 0x200000 + 0x10 * (pa / 256 % 24) + (if c = true then 0 else 8)
    ∃ t, exec (.memoryError (.dram pa none) c) s = .next t ∧ exec (.patrolScrub pa (some c)) s = .next t ∧
      (bar t at_).toNat = min ((bar s at_).toNat + 1) 0xFFFFFFFF ∧ t.mem = s.mem ∧ t.teams = s.teams ∧
      (∀ x, x ∈ t.poison ↔ x ∈ s.poison ∨ c = false ∧ (x = pa / 64 * 2 ∨ x = pa / 64 * 2 + 1))) ∧
  (∀ s core sub tid, (getTeam s tid).life = .resident → (getTeam s tid).side = .single → (getTeam s tid).halt = none → teamIl s tid < 2 → s.dumps = [] →
    ∃ t h, exec (.memoryError (.nreg core sub (some tid)) false) s = .next t ∧ (getTeam t tid).halt = some h ∧ h.cause = 0x33 ∧
      h.resumable = false ∧ t.mem = s.mem) ∧
  (∀ s pa, exec (.patrolScrub pa none) s = .next s) ∧
  (∀ s src dst size pte, exec (.pageMigration src dst size pte) s = .next (if size ∈ [0x1000, 0x10000, 0x200000, 0x40000000] ∧ src % size = 0 ∧
    dst % size = 0 ∧ targetOf s src = .device ∧ targetOf s dst = .device ∧ src ≠ dst
    then { s with migrations := s.migrations ++ [⟨src, dst, size, pte⟩] } else { s with migRefused := true })) ∧
  (∀ s m, s.migrations = [m] → s.queued = [] → migrationDue s m = true → m.size = 0x1000 → m.src % 4096 = 0 → m.dst % 4096 = 0 → m.src ≠ m.dst → m.pte % 8 = 0 →
    Memory.wf s.mem = true → Direct s m.pte 8 → Direct s m.src 4096 → Direct s m.dst 4096 →
    (m.pte / 4096 * 4096 ≠ m.src ∧ m.pte / 4096 * 4096 ≠ m.dst) → m.dst / 4096 < 2 ^ 40 → ∃ t, exec .migrationDone s = .next t ∧ t.migrations = [] ∧
      (∀ i < 4096, mapGet memDefault t.mem (m.dst + i) = mapGet memDefault s.mem (m.src + i)) ∧
      field (BitVec.ofNat 64 (bytesNat (readBytes t.mem m.pte 8))) 12 40 = m.dst / 4096 ∧
      ∀ x ∈ t.tlb, x.2.pa + 2 ^ x.2.bits ≤ m.src ∨ m.src + 4096 ≤ x.2.pa) ∧
  (∀ s, (∀ m ∈ s.migrations, migrationDue s m = false) → exec .migrationDone s = .next s) ∧
  (∀ s n, mapWf 0 s.bar = true → (portsUp s = true → 1 ≤ n → n ≤ 4096 → WritesBar (.portbLinkUp n) s Config.oPortbStatus fun x => x.msb = true ∧ field x 32 24 = n ∧
      field x 0 32 = field (bar s Config.oPortbStatus) 0 32) ∧ (portsUp s = false ∨ n = 0 ∨ 4096 < n → exec (.portbLinkUp n) s = .next s)) ∧
  (∀ s, mapWf 0 s.bar = true → ∃ t, exec .portbLinkLoss s = .next t ∧ t.window = [] ∧ t.lossLog = s.lossLog ++ [s.phcNs] ∧ (bar t Config.oPortbStatus).msb = false ∧ t.mem = s.mem ∧
    field (bar t Config.oPortbStatus) 0 32 = min (field (bar s Config.oPortbStatus) 0 32 + (s.window.filter (·.who.isNone)).length) 0xFFFFFFFF) ∧
  (∀ s, mapWf 0 s.bar = true → barLive s Config.oPortbStatus = true → WritesBar .portbStatusRead s Config.oPortbStatus fun x =>
    field x 0 32 = 0 ∧ ∀ i < 64, 32 ≤ i → x.getLsbD i = (bar s Config.oPortbStatus).getLsbD i)

/-- A command submitted while one is in progress, or where BAR0 does not answer, does nothing. Each sets BUSY. A claim
with a 32-byte request, the histograms with none and the fault log with 4 bytes prepare their responses; a wrong
length gives RESULT 2. Raising the fused minimum takes the lowest version of the running images (log entry 87); the
order of a claim's content is the model's (log entry 90). A recovery
image outside stage 0x0F gives RESULT 3; a full page in order is kept. When a command completes, BUSY clears, DONE
is set, and LEN, PAGES and RESULT are as R429 gives them; reading the status clears DONE. (spec/18_host_system.md
(R429), spec/18_host_system.md (R434), spec/18_host_system.md (R435)) -/
def Obligations.MailboxCommands : Prop :=
  (∀ s i, (mbxBusy s = true ∨ barLive s Config.oMbxCtl = false) →
    i ∈ [Instr.mbxIdentityClaim, .mbxRaiseFusedMinimum, .mbxLifeHistograms, .mbxRecoveryImage, .mbxFaultLog] → exec i s = .next s) ∧
  (∀ s, mbxBusy s = false → barLive s Config.oMbxCtl = true → mbxPage s = 0 →
    MbxTakes .mbxIdentityClaim s (if mbxLen s = 32 then 0 else 2) (fun t => mbxLen s = 32 → ∃ c r, t.mbx.response = c ++ r ∧
      c = natDword Config.deviceId.toNat ++ natDword Config.serial.toNat ++ mbxRequest s ++
        ((runningImages s).flatMap fun i => i.sha ++ natWord i.version) ∧ r = (List.range Config.claimSize).map (Config.claimByte c)) ∧
    MbxTakes .mbxLifeHistograms s (if mbxLen s = 0 then 0 else 2) (fun t => mbxLen s = 0 → t.mbx.response.length = 428 ∧
      (∀ b < 18, bytesNat ((t.mbx.response.drop (4 * b)).take 4) = mapGet 0 s.hist b % 2 ^ 32)) ∧
    MbxTakes .mbxFaultLog s (if mbxLen s = 4 then 0 else 2) (fun t => mbxLen s = 4 →
      t.mbx.response = (s.faultLog.drop (bytesNat (mbxRequest s))).flatten)) ∧
  (∀ s, mbxBusy s = false → barLive s Config.oMbxCtl = true →
    let image := if field (bar s Config.oBootStatus) 8 1 = 1 then s.nor.slot1 else s.nor.slot0
    (mbxLen s = 0 → mbxPage s = 0 → ∀ x y z, image = some x → s.nor.cp = some y → s.nor.svcGroup = some z →
      (∀ i ∈ [x, y, z], i.signatures = true ∧ i.digest = true ∧ i.keys = true ∧ s.nor.fusedMin ≤ i.version) →
      MbxTakes .mbxRaiseFusedMinimum s 0 fun t => t.nor = { s.nor with fusedMin := min x.version (min y.version z.version) }) ∧
    (mbxLen s ≠ 0 ∨ mbxPage s ≠ 0 → MbxTakes .mbxRaiseFusedMinimum s 2 fun t => t.nor = s.nor)) ∧
  (∀ s, mbxBusy s = false → barLive s Config.oMbxCtl = true →
    (stage s ≠ 0x0F → MbxTakes .mbxRecoveryImage s 3 fun t => t.nor = s.nor) ∧
    (stage s = 0x0F → mbxPage s ≠ s.mbx.imagePages ∨ 3840 < mbxLen s → MbxTakes .mbxRecoveryImage s 2 fun t => t.nor = s.nor) ∧
    (stage s = 0x0F → mbxPage s = s.mbx.imagePages → mbxLen s = 3840 → MbxTakes .mbxRecoveryImage s 0 fun t =>
      t.mbx.image = s.mbx.image ++ mbxRequest s ∧ t.mbx.imagePages = s.mbx.imagePages + 1 ∧ t.nor = s.nor) ∧
    (stage s = 0x0F → mbxPage s = s.mbx.imagePages → mbxLen s < 3840 →
      let c := Config.imageCheck (s.mbx.image ++ mbxRequest s)
      let image : Image := ⟨c.1, c.2.1, c.2.2.1, c.2.2.2, (List.range 48).map (Config.imageSha (s.mbx.image ++ mbxRequest s))⟩
      (imageRuns s.nor.fusedMin (some image) = true → ∃ t, exec .mbxRecoveryImage s = .next t ∧ stage t = 1 ∧ t.nor = { s.nor with slot1 := some image }) ∧
      (imageRuns s.nor.fusedMin (some image) = false → MbxTakes .mbxRecoveryImage s 4 fun t => t.nor = s.nor ∧ t.mbx.image = [] ∧ t.mbx.imagePages = 0))) ∧
  (∀ s, mbxBusy s = true → mapWf 0 s.bar = true → s.mbx.result < 2 ^ 16 →
    let out := if s.mbx.result = 0 then s.mbx.response else []
    let page := (out.drop (3840 * s.mbx.page)).take 3840
    ∃ t, exec .mbxCommandDone s = .next t ∧ { t with bar := s.bar } = s ∧ mbxBusy t = false ∧ field (bar t Config.oMbxStatus) 62 1 = 1 ∧
      field (bar t Config.oMbxStatus) 32 16 = page.length ∧ field (bar t Config.oMbxStatus) 16 16 = (out.length + 3839) / 3840 % 2 ^ 16 ∧
      field (bar t Config.oMbxStatus) 0 16 = s.mbx.result ∧
      ∀ i, 8 * i + 8 ≤ page.length → bar t (Config.oMbxData + 8 * i) = BitVec.ofNat 64 (bytesNat ((page.drop (8 * i)).take 8))) ∧
  (∀ s, mbxBusy s = false → exec .mbxCommandDone s = .next s) ∧
  (∀ s, mapWf 0 s.bar = true → barLive s Config.oMbxStatus = true → WritesBar .mbxStatusRead s Config.oMbxStatus fun x =>
    ∀ i < 64, x.getLsbD i = ((bar s Config.oMbxStatus).getLsbD i && i != 62))

/-- With nothing due from outside, the step of the run at the head, standing at a word of its clause, is exec of the
decoded instruction on the state, then what follows a word in its run; a memory word is one that no atomic of its
group holds back (log entry 108), and an enqueue or dequeue one that no enqueue step of a waiting group comes before
(R157). The clause may be held already, or be fetched
from the bytes in memory at the nearest header. An event that is due is exec of that event. With the clock stopped
for good a step stops with clockStopped (R440), and an encoded instruction with no run stops with noRun, which is
the model's own fault (log entry 24). (spec/05_state_memories.md (R105), spec/10_encoding.md (R206),
spec/10_encoding.md (R207), spec/10_encoding.md (R209), spec/10_encoding.md (R224), spec/18_host_system.md (R440)) -/
def Obligations.StepRunsTheDecodedInstruction : Prop :=
  (∀ s r rest c w first last i, ReadyToIssue s r rest → r.clause = some c → c.at_ r.pc = some (w, first, last) →
    opClass (opOf w) = hdClass c.header → (endsClause w = true → last = true) → decode w = .ok i → (memoryWord c = true → mustWait s r i = false) →
    enqueuesFirst s r i = s → step s = thenDo (afterWord { r with spared := handlesHold s r }) (exec i s)) ∧
  (∀ s r rest h (hd w : Word) (ws : List Word) (k : Nat) i, ReadyToIssue s r rest → r.clause = none → (teamLaunch s r.team).codeStart ≤ r.pc.toNat →
    r.pc.toNat < (teamLaunch s r.team).codeEnd → (teamLaunch s r.team).headerBelow r.pc = some h → CachedWord s r h hd →
    hdBad (teamLaunch s r.team) h hd = false → ws.length = hdCount hd →
    (∀ (j : Nat) x, ws[j]? = some x → CachedWord s r (h + BitVec.ofNat 64 (4 + 4 * j)) x) → ws[k]? = some w → r.pc = h + BitVec.ofNat 64 (4 + 4 * k) →
    opClass (opOf w) = hdClass hd → (endsClause w = true → k + 1 = ws.length) → decode w = .ok i → (hdClass hd = 1 → mustWait s r i = false) →
    let r' := { r with clause := some ⟨h, hd, ws⟩ }
    enqueuesFirst { s with runs := r' :: rest } r' i = { s with runs := r' :: rest } → step s = thenDo (afterWord { r' with spared := handlesHold s r }) (exec i { s with runs := r' :: rest })) ∧
  (∀ s r i, (∀ a d e q, i ≠ .enq a q ∧ i ≠ .enqtry a q e ∧ i ≠ .deq d q ∧ i ≠ .deqtry d q e) ∨
      ((∀ g, (getGroup s r.team g).wait = none) ∧ ∀ c ∈ (getCore s r.team).crews, c.wait = none) → enqueuesFirst s r i = s) ∧
  (∀ s i rest, s.dead = false → s.due = i :: rest → step s = thenDo wakeRuns (exec i { s with due := rest })) ∧
  (∀ s, s.dead = true → (∀ x ∈ s.inputs, x.2 ≠ .deviceReset) → step s = .fault .clockStopped) ∧
  (∀ i s, (encodeNat i).isSome = true → s.runs = [] → exec i s = .fault .noRun)

/-- Words that the specification writes out for instructions of every family of the opcode table decode to those
instructions with their operands; words that it calls illegal do not decode. (spec/10_encoding.md (R233),
spec/11_isa_lane.md (R266), spec/12_isa_memory_sync.md (R300), spec/13_isa_control.md (R330), spec/14_isa_matrix.md
(R361), spec/19_programs_checked.md (R446)) -/
def Obligations.SampleWordsDecode : Prop :=
  decode 0x08329901#32 = .ok (.mul ⟨.n 6, .n 4, .k 2, false, ⟨0, .eq⟩⟩) ∧
  decode 0x4022000A#32 = .ok (.addi ⟨.n 4, .n 0, 10#13⟩) ∧
  decode 0x380A9980#32 = .ok (.cmp ⟨1, .n 4, .k 3, ⟨0, .al⟩⟩) ∧
  decode 0x581840D3#32 = .ok (.abs ⟨.n 3, .q 2, true, ⟨1, .lt⟩⟩) ∧
  decode 0x704A49A8#32 = .ok (.ffma ⟨.n 9, .n 2, .n 3, .n 4, false⟩) ∧
  decode 0x7A2A9508#32 = .ok (.cvt ⟨.n 5, .n 4, .fp32, .fp16, .rtz, false⟩) ∧
  decode 0x7C32C00A#32 = .ok (.pack ⟨.n 6, .n 6, .q 0, .w4, true⟩) ∧
  decode 0x7E32A020#32 = .ok (.redg ⟨.n 6, .n 5, .add⟩) ∧
  decode 0x88411436#32 = .ok (.ldwMu ⟨.n 8, 2, 5, false, 3#5, .byp, .dev⟩) ∧
  decode 0xA8408C12#32 = .ok (.ldwMp ⟨.n 8, 1, 3#5, .dflt, .grp, ⟨1, .ne⟩⟩) ∧
  decode 0x9A22D008#32 = .ok (.lds ⟨.n 4, .n 6, .w, 2#7, .grp⟩) ∧
  decode 0xBC313214#32 = .ok (.atom ⟨.n 6, 2, .n 9, .add, .rel, .dev, false⟩) ∧
  decode 0xC400011C#32 = .ok (.fence .ar .dev) ∧
  decode 0xCF865A02#32 = .ok (.copy ⟨.k 0, .k 2, .k 4, .clu⟩) ∧
  decode 0xD09181C8#32 = .ok (.mma ⟨1, 2, 3, 3#8, 4, true⟩) ∧
  decode 0xDCA00C9C#32 = .ok (.accst ⟨.n 4, .q 0, 1, 6, false, .bf16, .dev⟩) ∧
  decode 0xE097FFFB#32 = .ok (.bra ⟨⟨1, .ne⟩, 0x7FFFB#19⟩) ∧
  decode 0xEAA2A4DC#32 = .ok (.crew ⟨.n 4, .n 5, 2, 3, false, .fmax⟩) ∧
  decode 0xEC308000#32 = .ok (.rdsys (.n 6) 0x100#12) ∧
  decode 0xF2400008#32 = .ok (.time (.n 8)) ∧
  (∀ w ∈ [0x7E32A021#32, 0x380A99C0#32, 0x7E32A070#32, 0xC400021C#32, 0xBE51382C#32, 0xD09181C9#32, 0xD6262190#32, 0xDEC00030#32,
      0xE6000001#32, 0xE9080000#32, 0xF2000058#32, 0xF0000032#32], ∀ i, decode w ≠ .ok i)

/-- After reset the device stands at boot stage 0x01 with CYCLE and the PTP clock at 0, POWER_LIMIT 480, every pair
INDEPENDENT with WAKE 24, and in each partition HOLD_LIMIT 128, WD_LIMIT 10,000, DEPTH 64, LOG2 of both rings 12,
SPER 16; every other register of the management window reads 0, and no team, launch, run or operation exists. The
invariants that the model's steps keep hold. (spec/15_scheduling.md (R376), spec/16_integrity.md (R386),
spec/17_faults_debug.md (R408), spec/17_faults_debug.md (R411), spec/17_faults_debug.md (R417),
spec/18_host_system.md (R428), spec/18_host_system.md (R432), spec/18_host_system.md (R433), spec/18_host_system.md
(R440)) -/
def Obligations.ResetLeaves : Prop :=
  let s := State.reset
  s.cycle = 0 ∧ s.phcNs = 0 ∧ s.steps = 0 ∧ s.dead = false ∧ s.teams = [] ∧ s.launches = [] ∧ s.runs = [] ∧ s.ops = [] ∧ s.tlb = [] ∧ s.dcache = [] ∧
  s.icache = [] ∧ s.khz = 2100000 ∧ (∀ p < 8, (s.pairs.getD p {}).mode = .independent) ∧
  (∀ off, (bar State.reset off).toNat =
    if off = 0x0008 then 0x01 else if off = 0x0400 then 480
    else if off ∈ (List.range 8).map (fun p => 0x140000 + 8 * p) then 24 * 2 ^ 32
    else if off ∈ (List.range 4).map (fun d => 0x1000000 + 0x400000 * d + 0x8) then 128
    else if off ∈ (List.range 4).map (fun d => 0x1000000 + 0x400000 * d + 0x10) then 10000
    else if off ∈ (List.range 4).map (fun d => 0x1000000 + 0x400000 * d + 0x20) then 64 * 2 ^ 32
    else if off ∈ (List.range 4).map (fun d => 0x1000000 + 0x400000 * d + 0x48) then 12
    else if off ∈ (List.range 4).map (fun d => 0x1000000 + 0x400000 * d + 0x88) then 16 * 2 ^ 40 + 12
    else 0) ∧
  Memory.wf State.reset.mem = true ∧
  MapsKept State.reset

/-- From every state whose memory is in its canonical form, a step that answers a next state leaves it in that form.
(spec/05_state_memories.md (R100)) -/
def Obligations.StepKeepsMemoryCanonical : Prop :=
  ∀ s t, Memory.wf s.mem = true → step s = .next t → Memory.wf t.mem = true

/-- From every state in which the stores of the management window, of the life histograms, and of every thread, helper
and group, in the teams and in their snapshots, are in their canonical form, and every operation in flight has an
identifier below the next, a step that answers a next state leaves them so. (spec/04_state_registers.md (R73),
spec/04_state_registers.md (R76), spec/04_state_registers.md (R90)) -/
def Obligations.StepKeepsRegistersAndOperations : Prop :=
  ∀ s t, MapsKept s → step s = .next t → MapsKept t

/-- For every instruction with every operand at every value that its encoding admits, its word decodes to it. A well-
formed instruction without a word is an event. What a word decodes to is well-formed. (spec/10_encoding.md (R212),
spec/10_encoding.md (R213), spec/10_encoding.md (R214), spec/10_encoding.md (R220)) -/
def Obligations.EncodedInstructionsDecode : Prop :=
  (∀ i w, i.wf = true → encode i = some w → decode w = .ok i) ∧
  (∀ i, encode i = none → isEvent i = true) ∧
  (∀ w i, decode w = .ok i → i.wf = true)

/-- For the loads of every size in the MU format, where the lanes before it pass their checks, a lane with a non-
canonical address raises non-canonical, one with a misaligned address misaligned-access, and one whose page walk has
failed the cause of the walk, each with the address, as a trap at the word and with no effect of the load. Where the
page is neither in the TLB nor walked, the group stalls and a walk of the page is asked for.
(spec/05_state_memories.md (R101), spec/05_state_memories.md (R102), spec/08_state_tables.md (R172),
spec/08_state_tables.md (R175), spec/12_isa_memory_sync.md (R269)) -/
def Obligations.LoadAddressesAreChecked : Prop :=
  (∀ i n (o : MuLd) s r rest pre c post (a : Nat → Dword) (pa : Nat → Nat),
    (i, n) ∈ [(Instr.ldbMu o, 1), (.ldbzMu o, 1), (.ldhMu o, 2), (.ldhzMu o, 2), (.ldwMu o, 4), (.lddMu o, 8), (.ldqMu o, 16)] →
    Issuing s r rest → r.lanes = pre ++ c :: post → r.rep = none → (∀ x ∈ r.lanes, DstHere (laneTh s r x) o.d) →
    (∀ x ∈ pre ++ [c], muAddr s r o.kp o.ix o.x o.imm n x = .ok (a x)) →
    (∀ x ∈ pre, ∃ sa, checkGlobal s (envOf s r) .load (o.pol == .sys) false n (a x) = .ok (pa x) sa) →
    (2 ^ 56 ≤ (a c).toNat → ∃ info, Raises i s r rest c 0x06 (a c) info) ∧
    ((a c).toNat < 2 ^ 56 → (a c).toNat % n ≠ 0 → ∃ info, Raises i s r rest c 0x05 (a c) info) ∧
    (∀ cause, (a c).toNat < 2 ^ 56 → (a c).toNat % n = 0 → cause ≠ 0 → outcomeFor s (envOf s r) ((a c).toNat / 4096) = some (.fault cause) →
      ∃ info, Raises i s r rest c cause (a c) info) ∧
    ((a c).toNat < 2 ^ 56 → (a c).toNat % n = 0 → outcomeFor s (envOf s r) ((a c).toNat / 4096) = none →
      tlbFind s.tlb (envOf s r).req.core (envOf s r).ctx (a c).toNat = none →
      tlbFind s.ctlb ((envOf s r).req.core / 4) (envOf s r).ctx ((a c).toNat / 4096 * 4096) = none →
      ∃ t, exec i s = .next (signal t .stall) ∧ t.mem = s.mem ∧ t.teams = s.teams ∧
        ∃ w ∈ t.walks, w.ctx = (envOf s r).ctx ∧ w.page = (a c).toNat / 4096 ∧ (envOf s r).req ∈ w.by_))
end

