-- ==== Sys2Proof/Laws/Maps.lean ====
section
/-! SUPPORT. Laws of sparse maps, lists by index and memory: reading after writing, and the canonical form. -/

namespace Sys2Proof.Machine

/-! ## Lists by index -/

@[simp] theorem listMod_length {α : Type} (l : List α) (i : Nat) (f : α → α) : (listMod l i f).length = l.length := by
  induction l generalizing i with
  | nil => rfl
  | cons a r ih => cases i <;> simp [listMod, ih]

theorem listMod_getD_same {α : Type} (l : List α) (i : Nat) (f : α → α) (d : α) (h : i < l.length) :
    (listMod l i f).getD i d = f (l.getD i d) := by
  induction l generalizing i with
  | nil => simp at h
  | cons a r ih =>
    cases i with
    | zero => rfl
    | succ n => simpa [listMod] using ih n (by simpa using h)

theorem listMod_getD_other {α : Type} (l : List α) (i j : Nat) (f : α → α) (d : α) (h : i ≠ j) :
    (listMod l i f).getD j d = l.getD j d := by
  induction l generalizing i j with
  | nil => rfl
  | cons a r ih =>
    cases i with
    | zero => cases j with
      | zero => exact absurd rfl h
      | succ m => rfl
    | succ n => cases j with
      | zero => rfl
      | succ m => simpa [listMod] using ih n m (fun e => h (by rw [e]))

/-- Changing an element that is not there changes nothing. -/
theorem listMod_of_length_le {α : Type} (l : List α) (i : Nat) (f : α → α) (h : l.length ≤ i) : listMod l i f = l := by
  induction l generalizing i with
  | nil => rfl
  | cons a r ih =>
    cases i with
    | zero => simp at h
    | succ n => simp only [listMod]; rw [ih n (by simpa using h)]

@[simp] theorem listSet_length {α : Type} (l : List α) (i : Nat) (v : α) : (listSet l i v).length = l.length := by
  induction l generalizing i with
  | nil => rfl
  | cons a r ih => cases i <;> simp [listSet, ih]

theorem listSet_getD_same {α : Type} (l : List α) (i : Nat) (v d : α) (h : i < l.length) : (listSet l i v).getD i d = v := by
  induction l generalizing i with
  | nil => simp at h
  | cons a r ih =>
    cases i with
    | zero => rfl
    | succ n => simpa [listSet] using ih n (by simpa using h)

theorem listSet_getD_other {α : Type} (l : List α) (i j : Nat) (v d : α) (h : i ≠ j) :
    (listSet l i v).getD j d = l.getD j d := by
  induction l generalizing i j with
  | nil => rfl
  | cons a r ih =>
    cases i with
    | zero => cases j with
      | zero => exact absurd rfl h
      | succ m => rfl
    | succ n => cases j with
      | zero => rfl
      | succ m => simpa [listSet] using ih n m (fun e => h (by rw [e]))

/-! ## Sparse maps -/

section
variable {α : Type} [DecidableEq α] {d : α}

/-- No key of a canonical map lies below its first. -/
theorem mapGet_below {m : List (Nat × α)} {k' : Nat} {v' : α} (h : mapWf d ((k', v') :: m) = true) {k : Nat} (hk : k < k') :
    mapGet d ((k', v') :: m) k = d := by
  induction m generalizing k' v' with
  | nil => simp [mapGet]; intro e; omega
  | cons x r ih =>
    obtain ⟨k2, v2⟩ := x
    simp only [mapWf, Bool.and_eq_true, decide_eq_true_eq] at h
    have : mapGet d ((k2, v2) :: r) k = d := ih h.2 (by omega)
    rw [mapGet, if_neg (by omega), this]

theorem mapWf_tail {m : List (Nat × α)} {x : Nat × α} (h : mapWf d (x :: m) = true) : mapWf d m = true := by
  obtain ⟨k, v⟩ := x
  cases m with
  | nil => rfl
  | cons y r => simp only [mapWf, Bool.and_eq_true] at h; exact h.2

theorem mapGet_mapSet_same {m : List (Nat × α)} (h : mapWf d m = true) (k : Nat) (v : α) :
    mapGet d (mapSet d m k v) k = v := by
  induction m with
  | nil => by_cases hv : v = d <;> simp [mapSet, mapGet, hv]
  | cons x r ih =>
    obtain ⟨k', v'⟩ := x
    have hr := mapWf_tail h
    simp only [mapSet]
    split
    · split
      · next hlt hv => rw [mapGet_below h hlt, hv]
      · simp [mapGet]
    · split
      · next _ he =>
        split
        · next hv =>
          subst he
          cases r with
          | nil => simp [mapGet, hv]
          | cons y r' =>
            obtain ⟨k2, v2⟩ := y
            simp only [mapWf, Bool.and_eq_true, decide_eq_true_eq] at h
            rw [mapGet_below h.2 h.1.2, hv]
        · simp [mapGet]
      · next _ hne => rw [mapGet, if_neg hne, ih hr]

theorem mapGet_mapSet_other (m : List (Nat × α)) {k j : Nat} (v : α) (h : k ≠ j) :
    mapGet d (mapSet d m k v) j = mapGet d m j := by
  induction m with
  | nil => by_cases hv : v = d <;> simp [mapSet, mapGet, hv, h]
  | cons x r ih =>
    obtain ⟨k', v'⟩ := x
    simp only [mapSet]
    split
    · split
      · rfl
      · rw [mapGet, if_neg h]
    · split
      · next _ he =>
        subst he
        split
        · simp [mapGet, h]
        · simp [mapGet, h]
      · simp only [mapGet]; split
        · rfl
        · exact ih

theorem mapSet_wf {m : List (Nat × α)} (h : mapWf d m = true) (k : Nat) (v : α) : mapWf d (mapSet d m k v) = true := by
  induction m with
  | nil => by_cases hv : v = d <;> simp [mapSet, mapWf, hv]
  | cons x r ih =>
    obtain ⟨k', v'⟩ := x
    have hr := mapWf_tail h
    simp only [mapSet]
    split
    · split
      · exact h
      · next hlt hv => simp [mapWf, hlt, hv, h]
    · split
      · next _ he =>
        subst he
        split
        · exact hr
        · next hv =>
          cases r with
          | nil => simp [mapWf, hv]
          | cons y r' =>
            obtain ⟨k2, v2⟩ := y
            simp only [mapWf, Bool.and_eq_true, decide_eq_true_eq] at h ⊢
            exact ⟨⟨hv, h.1.2⟩, h.2⟩
      · next hlt hne =>
        have hlt' : k' < k := by omega
        have ih := ih hr
        revert ih
        cases r with
        | nil =>
          simp only [mapWf, decide_eq_true_eq] at h
          by_cases hv : v = d <;> simp [mapSet, mapWf, hv, h, hlt']
        | cons y r' =>
          obtain ⟨k2, v2⟩ := y
          simp only [mapWf, Bool.and_eq_true, decide_eq_true_eq] at h
          simp only [mapSet]
          intro ih
          split
          · split
            · simp [mapWf, h]
            · next hv =>
              rename_i hk2
              simp [mapWf, h, hlt', hv, hk2]
          · split
            · split
              · cases r' with
                | nil => simp [mapWf, h]
                | cons z r2 =>
                  obtain ⟨k3, v3⟩ := z
                  simp only [mapWf, Bool.and_eq_true, decide_eq_true_eq] at h ⊢
                  exact ⟨⟨h.1.1, by omega⟩, h.2.2⟩
              · next he hv => 
                rename_i hk2
                rw [if_neg (by omega), if_pos he, if_neg hv] at ih
                simp [mapWf, h, hlt']
                exact ih
            · next hk2 hne2 =>
              simp only [mapWf, Bool.and_eq_true, decide_eq_true_eq]
              rw [if_neg hk2, if_neg hne2] at ih
              exact ⟨⟨h.1.1, h.1.2⟩, ih⟩

end

/-! ## Memory -/

theorem writeBytes_wf {m : List Host.Cell} (h : Memory.wf m = true) (pa : Nat) (bs : List Byte) :
    Memory.wf (writeBytes m pa bs) = true := by
  induction bs generalizing m pa with
  | nil => exact h
  | cons b r ih => exact ih (mapSet_wf h pa b) (pa + 1)

/-- Bytes outside the written range keep their values. -/
theorem writeBytes_other (m : List Host.Cell) (pa : Nat) (bs : List Byte) (a : Nat) (h : a < pa ∨ pa + bs.length ≤ a) :
    mapGet memDefault (writeBytes m pa bs) a = mapGet memDefault m a := by
  induction bs generalizing m pa with
  | nil => rfl
  | cons b r ih =>
    simp only [List.length_cons] at h
    rw [writeBytes, ih _ _ (by omega), mapGet_mapSet_other _ _ (by omega)]

/-- Bytes inside the written range hold what was written. -/
theorem writeBytes_same {m : List Host.Cell} (hm : Memory.wf m = true) (pa : Nat) (bs : List Byte) (i : Nat)
    (h : i < bs.length) : mapGet memDefault (writeBytes m pa bs) (pa + i) = bs.getD i 0 := by
  induction bs generalizing m pa i with
  | nil => simp at h
  | cons b r ih =>
    cases i with
    | zero =>
      rw [writeBytes, writeBytes_other _ _ _ _ (by omega)]
      exact mapGet_mapSet_same hm pa b
    | succ n =>
      have := ih (mapSet_wf hm pa b) (pa + 1) n (by simpa using h)
      rw [writeBytes, show pa + (n + 1) = pa + 1 + n by omega, this]
      rfl

@[simp] theorem readBytes_length (m : List Host.Cell) (pa n : Nat) : (readBytes m pa n).length = n := by
  induction n generalizing pa with
  | zero => rfl
  | succ k ih => simp [readBytes, ih]

theorem readBytes_getD (m : List Host.Cell) (pa n i : Nat) (h : i < n) :
    (readBytes m pa n).getD i 0 = mapGet memDefault m (pa + i) := by
  induction n generalizing pa i with
  | zero => omega
  | succ k ih =>
    cases i with
    | zero => rfl
    | succ j =>
      have := ih (pa + 1) j (by omega)
      rw [readBytes, show pa + (j + 1) = pa + 1 + j by omega, ← this]
      rfl

/-- Reading back what was written. -/
theorem readBytes_writeBytes {m : List Host.Cell} (hm : Memory.wf m = true) (pa : Nat) (bs : List Byte) :
    readBytes (writeBytes m pa bs) pa bs.length = bs := by
  apply List.ext_getElem (by simp)
  intro i h1 h2
  have e := readBytes_getD (writeBytes m pa bs) pa bs.length i h2
  rw [writeBytes_same hm pa bs i h2] at e
  simpa [List.getD_eq_getElem?_getD, h2] using e

end Sys2Proof.Machine
end

