-- ==== Sys2Proof/Laws/Threads.lean ====
section
/-! SUPPORT. What changing one member of a team does, and what it leaves alone; what an issue and a lane instruction do
(R26, R74, R234 to R236). -/

namespace Sys2Proof

open Machine Claims

/-! ## Lists -/

theorem listMod_listMod {α : Type} (l : List α) (i : Nat) (f g : α → α) :
    listMod (listMod l i f) i g = listMod l i (fun a => g (f a)) := by
  induction l generalizing i with
  | nil => rfl
  | cons a l ih => cases i <;> simp [listMod, ih]

theorem listMod_map {α β : Type} (l : List α) (i : Nat) (f : α → α) (p : α → β) (h : ∀ a, p (f a) = p a) :
    (listMod l i f).map p = l.map p := by
  induction l generalizing i with
  | nil => rfl
  | cons a l ih => cases i <;> simp [listMod, ih, h]

theorem listMod_congr {α : Type} (l : List α) (i : Nat) (f g : α → α) (d : α) (h : f (l.getD i d) = g (l.getD i d)) :
    listMod l i f = listMod l i g := by
  induction l generalizing i with
  | nil => rfl
  | cons a l ih =>
    cases i with
    | zero => simpa [listMod] using h
    | succ n => simp only [listMod]; rw [ih n (by simpa using h)]

theorem listMod_id {α : Type} (l : List α) (i : Nat) : listMod l i (fun a => a) = l := by
  induction l generalizing i with
  | nil => rfl
  | cons a l ih => cases i <;> simp [listMod, ih]

/-! ## Crews -/

theorem crew_modCrew_same {tc : TeamCore} {g t : Nat} {f : Crew → Crew}
    (hf : ∀ c, (f c).grp = c.grp ∧ (f c).thr = c.thr) : (tc.modCrew g t f).crew g t = (tc.crew g t).map f := by
  simp only [TeamCore.modCrew, TeamCore.crew]
  induction tc.crews with
  | nil => rfl
  | cons c l ih =>
    by_cases h : c.grp = g ∧ c.thr = t
    · simp [h, List.find?, hf c]
    · have : (c.grp == g && c.thr == t) = false := by simpa using h
      simpa [h, List.find?, this] using ih

theorem crew_modCrew_other {tc : TeamCore} {g t g' t' : Nat} {f : Crew → Crew}
    (hf : ∀ c, (f c).grp = c.grp ∧ (f c).thr = c.thr) (hne : ¬ (g' = g ∧ t' = t)) :
    (tc.modCrew g t f).crew g' t' = tc.crew g' t' := by
  simp only [TeamCore.modCrew, TeamCore.crew]
  induction tc.crews with
  | nil => rfl
  | cons c l ih =>
    simp only [List.map, List.find?]
    by_cases h : c.grp = g ∧ c.thr = t
    · have h1 : ((f c).grp == g' && (f c).thr == t') = false := by
        simp only [hf c, h, Bool.and_eq_false_iff, beq_eq_false_iff_ne]; omega
      have h2 : (c.grp == g' && c.thr == t') = false := by
        simp only [h, Bool.and_eq_false_iff, beq_eq_false_iff_ne]; omega
      simp only [h, and_self, if_true, h1, ih]
      simp only [h] at h2
      simp only [h2]
    · simp only [h, if_false, ih]

/-- Changes the thread of a helper. -/
def modHelper (hg ht : Nat) (f : Thread → Thread) (h : Helper) : Helper :=
  if h.grp = hg ∧ h.thr = ht then { h with th := f h.th } else h

theorem modHelper_key (hg ht : Nat) (f : Thread → Thread) (h : Helper) :
    (modHelper hg ht f h).grp = h.grp ∧ (modHelper hg ht f h).thr = h.thr := by
  unfold modHelper; split <;> exact ⟨rfl, rfl⟩

theorem find_modHelper (l : List Helper) (hg ht : Nat) (f : Thread → Thread) (a b : Nat) :
    (l.map (modHelper hg ht f)).find? (fun h => h.grp == a && h.thr == b) =
      (l.find? fun h => h.grp == a && h.thr == b).map (modHelper hg ht f) := by
  induction l with
  | nil => rfl
  | cons h l ih =>
    simp only [List.map, List.find?, (modHelper_key hg ht f h).1, (modHelper_key hg ht f h).2]
    cases h.grp == a && h.thr == b <;> simp [ih]

/-! ## One member of a team -/

theorem modTh_eq (tc : TeamCore) (g thr hg ht : Nat) (f : Thread → Thread) :
    tc.modTh g (.helper thr hg ht) f =
      tc.modCrew g thr fun c => { c with helpers := c.helpers.map (modHelper hg ht f) } := rfl

theorem core_modCore (s : State) (tid : Nat) (f : TeamCore → TeamCore) (h : tid < s.teams.length) :
    getCore (modCore s tid f) tid = f (getCore s tid) := by
  simp only [getCore, getTeam, modCore, modTeam]
  rw [listMod_getD_same _ _ _ _ h]

theorem core_modCore_other (s : State) (tid t' : Nat) (f : TeamCore → TeamCore) (h : t' ≠ tid) :
    getCore (modCore s tid f) t' = getCore s t' := by
  simp only [getCore, getTeam, modCore, modTeam]
  rw [listMod_getD_other _ _ _ _ _ (Ne.symm h)]

/-- The member changed reads as changed. -/
theorem getTh_modTh (s : State) (tid g : Nat) (w : Who) (f : Thread → Thread) (h : present s tid g w = true) :
    getTh (modTh s tid g w f) tid g w = f (getTh s tid g w) := by
  cases w with
  | group => simp [present] at h
  | lane t =>
    simp only [present, Bool.and_eq_true, decide_eq_true_eq] at h
    simp only [getTh, modTh]
    rw [core_modCore s tid _ h.1.1]
    simp only [TeamCore.th, TeamCore.modTh, TeamCore.modGroup, TeamCore.group]
    rw [listMod_getD_same _ _ _ _ h.1.2]
    exact listMod_getD_same _ _ _ _ h.2
  | helper thr hg ht =>
    simp only [present, Bool.and_eq_true, decide_eq_true_eq] at h
    obtain ⟨h1, h2⟩ := h
    simp only [getTh, modTh]
    rw [core_modCore s tid _ h1, modTh_eq]
    simp only [TeamCore.th]
    rw [crew_modCrew_same (fun c => by exact ⟨rfl, rfl⟩)]
    cases hc : (getCore s tid).crew g thr with
    | none => simp [hc] at h2
    | some c =>
      simp only [hc, Option.map_some, find_modHelper] at h2 ⊢
      cases hf : c.helpers.find? fun h => h.grp == hg && h.thr == ht with
      | none =>
        obtain ⟨x, hx, hk⟩ := List.any_eq_true.mp h2
        exact absurd hk (by simpa using List.find?_eq_none.mp hf x hx)
      | some x =>
        have hk := List.find?_some hf
        simp only [Bool.and_eq_true, beq_iff_eq] at hk
        simp [modHelper, hk]

/-- Every other member reads as before. -/
theorem getTh_modTh_other (s : State) (tid g t' g' : Nat) (w w' : Who) (f : Thread → Thread)
    (h : (t', g', w') ≠ (tid, g, w)) : getTh (modTh s tid g w f) t' g' w' = getTh s t' g' w' := by
  simp only [getTh, modTh]
  by_cases ht : t' ≠ tid
  · rw [core_modCore_other _ _ _ _ ht]
  have ht := Decidable.not_not.mp ht
  subst ht
  by_cases hin : ¬ t' < s.teams.length
  · simp only [getCore, getTeam, modCore, modTeam]
    rw [listMod_of_length_le _ _ _ (by omega)]
  have hin := Decidable.not_not.mp hin
  rw [core_modCore _ _ _ hin]
  cases w with
  | group => rfl
  | lane t =>
    cases w' with
    | group => rfl
    | helper a b c => rfl
    | lane u =>
      simp only [TeamCore.th, TeamCore.modTh, TeamCore.modGroup, TeamCore.group]
      by_cases hg : g' ≠ g
      · rw [listMod_getD_other _ _ _ _ _ (Ne.symm hg)]
      have hg := Decidable.not_not.mp hg
      subst hg
      have hu : t ≠ u := fun e => h (by rw [e])
      by_cases hl : g' < (getCore s t').groups.length
      · rw [listMod_getD_same _ _ _ _ hl]
        exact listMod_getD_other _ _ _ _ _ hu
      · rw [listMod_of_length_le _ _ _ (by omega)]
  | helper thr hg ht =>
    rw [modTh_eq]
    cases w' with
    | group => rfl
    | lane u => rfl
    | helper a b c =>
      simp only [TeamCore.th]
      by_cases hk : g' = g ∧ a = thr
      · obtain ⟨rfl, rfl⟩ := hk
        rw [crew_modCrew_same (fun c => by exact ⟨rfl, rfl⟩)]
        cases (getCore s t').crew g' a with
        | none => rfl
        | some cr =>
          simp only [Option.map_some, find_modHelper]
          cases hf : cr.helpers.find? fun h => h.grp == b && h.thr == c with
          | none => rfl
          | some x =>
            have hx := List.find?_some hf
            simp only [Bool.and_eq_true, beq_iff_eq] at hx
            have : ¬ (x.grp = hg ∧ x.thr = ht) := fun e => h (by rw [← hx.1, ← hx.2, e.1, e.2])
            simp [modHelper, this]
      · rw [crew_modCrew_other (fun c => by exact ⟨rfl, rfl⟩) hk]

theorem blank_modHelper (l : List Helper) (hg ht : Nat) (f : Thread → Thread) :
    (l.map (modHelper hg ht f)).map blankHelper = l.map blankHelper := by
  rw [List.map_map]
  apply List.map_congr_left
  intro h _
  simp only [Function.comp, modHelper, blankHelper]
  split <;> rfl

theorem crews_modTh_beside (tc : TeamCore) (g : Nat) (w : Who) (f : Thread → Thread) :
    (tc.modTh g w f).crews.map blankCrew = tc.crews.map blankCrew := by
  cases w with
  | group => rfl
  | lane t => rfl
  | helper thr hg ht =>
    simp only [modTh_eq, TeamCore.modCrew, List.map_map]
    apply List.map_congr_left
    intro c _
    simp only [Function.comp]
    split
    · simp only [blankCrew, blank_modHelper]
    · rfl

theorem groups_modTh_beside (tc : TeamCore) (g : Nat) (w : Who) (f : Thread → Thread) :
    (tc.modTh g w f).groups.map blankGroup = tc.groups.map blankGroup := by
  cases w with
  | group => rfl
  | helper thr hg ht => rfl
  | lane t =>
    simp only [TeamCore.modTh, TeamCore.modGroup]
    apply listMod_map
    intro a
    simp only [blankGroup]
    rw [listMod_map a.threads t f (fun _ => Thread.empty) fun _ => rfl]

/-- Changing a member changes nothing besides threads. -/
theorem besides_modTh (s : State) (tid g : Nat) (w : Who) (f : Thread → Thread) :
    (modTh s tid g w f).teams.map besidesThreads = s.teams.map besidesThreads := by
  simp only [modTh, modCore, modTeam]
  apply listMod_map
  intro t
  have h1 := crews_modTh_beside t.body g w f
  have h2 := groups_modTh_beside t.body g w f
  have h3 : besidesThreads { t with body := t.body.modTh g w f } =
      { t with body := { t.body with groups := (t.body.modTh g w f).groups.map blankGroup
                                     crews := (t.body.modTh g w f).crews.map blankCrew } } := by cases w <;> rfl
  rw [h3, h1, h2]
  rfl

theorem lane_lengths (tc : TeamCore) (g v g' : Nat) (f : Thread → Thread) :
    (tc.modTh g (.lane v) f).groups.length = tc.groups.length ∧
    ((tc.modTh g (.lane v) f).group g').threads.length = (tc.group g').threads.length := by
  simp only [TeamCore.modTh, TeamCore.modGroup, TeamCore.group, listMod_length, true_and]
  by_cases hg : g' = g
  · subst hg
    by_cases hk : g' < tc.groups.length
    · rw [listMod_getD_same _ _ _ _ hk, listMod_length]
    · rw [listMod_of_length_le _ _ _ (by omega)]
  · rw [listMod_getD_other _ _ _ _ _ (Ne.symm hg)]

theorem present_modTh (s : State) (tid g t' g' : Nat) (w w' : Who) (f : Thread → Thread) :
    present (modTh s tid g w f) t' g' w' = present s t' g' w' := by
  have hl : (modTh s tid g w f).teams.length = s.teams.length := by simp [modTh, modCore, modTeam]
  by_cases ht : t' ≠ tid
  · have := core_modCore_other s tid t' (fun tc => tc.modTh g w f) ht
    cases w' <;> simp only [present, hl] <;> rw [modTh, this]
  have ht := Decidable.not_not.mp ht
  subst ht
  by_cases hin : ¬ t' < s.teams.length
  · cases w' <;> simp [present, hl, hin]
  have hin := Decidable.not_not.mp hin
  have hc : getCore (modTh s t' g w f) t' = (getCore s t').modTh g w f := core_modCore s t' _ hin
  cases w' with
  | group => rfl
  | lane u =>
    simp only [present, hl, hc]
    cases w with
    | group => rfl
    | helper => rfl
    | lane v =>
      have hk := lane_lengths (getCore s t') g v g' f
      simp only [hk.1, hk.2]
  | helper a b c =>
    simp only [present, hl, hc]
    cases w with
    | group => rfl
    | lane v => rfl
    | helper thr hg ht =>
      rw [modTh_eq]
      by_cases hk : g' = g ∧ a = thr
      · obtain ⟨rfl, rfl⟩ := hk
        rw [crew_modCrew_same (fun c => by exact ⟨rfl, rfl⟩)]
        cases (getCore s t').crew g' a with
        | none => rfl
        | some cr =>
          simp only [Option.map_some, List.any_map, Function.comp_def, (modHelper_key hg ht f _).1,
            (modHelper_key hg ht f _).2]
      · rw [crew_modCrew_other (fun c => by exact ⟨rfl, rfl⟩) hk]

/-- Two changes of one member are one. -/
theorem modTh_modTh (s : State) (tid g : Nat) (w : Who) (f k : Thread → Thread) :
    modTh (modTh s tid g w f) tid g w k = modTh s tid g w (fun th => k (f th)) := by
  simp only [modTh, modCore, modTeam, listMod_listMod]
  congr 2
  funext t
  cases w with
  | group => rfl
  | lane u => simp only [TeamCore.modTh, TeamCore.modGroup, listMod_listMod]
  | helper thr hg ht =>
    simp only [modTh_eq, TeamCore.modCrew, List.map_map]
    congr 2
    apply List.map_congr_left
    intro c _
    by_cases hc : c.grp = g ∧ c.thr = thr
    · simp only [Function.comp, hc, and_self, if_true, List.map_map]
      congr 1
      apply List.map_congr_left
      intro h _
      by_cases hh : h.grp = hg ∧ h.thr = ht <;> simp [modHelper, hh]
    · simp [hc]

end Sys2Proof
end

