-- ==== Sys2Proof/Laws/Lanes.lean ====
section
/-! SUPPORT. What an issue does, and what a lane instruction does in each lane and leaves alone (R26, R74, R234, R235). -/

namespace Sys2Proof

open Machine Claims

theorem who_inj (r : Run) {c c' : Nat} (h : r.who c = r.who c') : c = c' := by
  unfold Run.who laneWho at h
  cases hr : r.helpers with
  | none => simpa [hr] using h
  | some t =>
    simp only [hr, Who.helper.injEq, true_and] at h
    omega

/-! ## Issue -/

theorem issue_cons {s : State} {r : Run} {rest : List Run} (h : s.runs = r :: rest) (f : State → Run → State) :
    issue s f = .next (f (issued s r rest) { r with sig := .word }) := by
  simp only [issue, h, issued]

theorem attempt_ok {s : State} {r : Run} {rest : List Run} (h : s.runs = r :: rest) {f : State → Run → Res State} {t : State}
    (hf : f (issued s r rest) { r with sig := .word } = .ok t) : attempt s f = .next t := by
  simp only [attempt, issue_cons h, hf, conclude]

@[simp] theorem laneTh_issued (s : State) (r : Run) (rest : List Run) (c : Nat) (x : Signal) :
    laneTh (issued s r rest) { r with sig := x } c = laneTh s r c := rfl
@[simp] theorem laneN_issued (s : State) (r : Run) (rest : List Run) (c i : Nat) (x : Signal) :
    laneN (issued s r rest) { r with sig := x } c i = laneN s r c i := rfl
@[simp] theorem groupK_issued (s : State) (r : Run) (rest : List Run) (i : Nat) (x : Signal) :
    groupK (issued s r rest) { r with sig := x } i = groupK s r i := rfl
@[simp] theorem srcCell_issued (s : State) (r : Run) (rest : List Run) (c : Nat) (e : Src) (x : Signal) :
    srcCell (issued s r rest) { r with sig := x } c e = srcCell s r c e := by cases e <;> rfl
@[simp] theorem readSrc_issued (s : State) (r : Run) (rest : List Run) (c : Nat) (e : Src) (x : Signal) :
    readSrc (issued s r rest) { r with sig := x } c e = readSrc s r c e := by simp only [readSrc, srcCell_issued]
@[simp] theorem readSrc64_issued (s : State) (r : Run) (rest : List Run) (c : Nat) (e : Src) (x : Signal) :
    readSrc64 (issued s r rest) { r with sig := x } c e = readSrc64 s r c e := by simp only [readSrc64, readSrc_issued]
@[simp] theorem readCc_issued (s : State) (r : Run) (rest : List Run) (c : Nat) (i : Fin 4) (x : Signal) :
    readCc (issued s r rest) { r with sig := x } c i = readCc s r c i := rfl
@[simp] theorem guardTrue_issued (s : State) (r : Run) (rest : List Run) (c : Nat) (g : Guard) (x : Signal) :
    guardTrue (issued s r rest) { r with sig := x } c g = guardTrue s r c g := rfl

/-! ## Outcomes -/

@[simp] theorem andThen_ok {α β : Type} (a : α) (f : α → Res β) : (Res.ok a).andThen f = f a := rfl
@[simp] theorem map_ok {α β : Type} (a : α) (f : α → β) : (Res.ok a).map f = .ok (f a) := rfl

theorem forLanes_ok {α : Type} {l : List Nat} {f : Nat → Res α} {v : Nat → α} (h : ∀ c ∈ l, f c = .ok (v c)) :
    forLanes l f = .ok (l.map fun c => (c, v c)) := by
  induction l with
  | nil => rfl
  | cons c l ih =>
    simp only [forLanes, h c (List.mem_cons_self ..), Res.andThen, Res.map,
      ih fun x hx => h x (List.mem_cons_of_mem _ hx), List.map]

/-! ## Changing each lane of a run once -/

/-- The state after each listed lane has changed by its own function. -/
def afterLanes (r : Run) (f : Nat → Thread → Thread) (l : List Nat) (s : State) : State :=
  l.foldl (fun s c => modLane s r c (f c)) s

theorem afterLanes_other (r : Run) (f : Nat → Thread → Thread) (l : List Nat) (s : State) (tid g : Nat) (w : Who)
    (h : ∀ c ∈ l, (tid, g, w) ≠ (r.team, r.grp, r.who c)) : getTh (afterLanes r f l s) tid g w = getTh s tid g w := by
  induction l generalizing s with
  | nil => rfl
  | cons c l ih =>
    simp only [afterLanes, List.foldl]
    exact (ih _ fun x hx => h x (List.mem_cons_of_mem _ hx)).trans
      (getTh_modTh_other _ _ _ _ _ _ _ _ (h c (List.mem_cons_self ..)))

theorem afterLanes_lane (r : Run) (f : Nat → Thread → Thread) (l : List Nat) (s : State) (hn : l.Nodup)
    (hp : ∀ c ∈ l, present s r.team r.grp (r.who c) = true) (c : Nat) (hc : c ∈ l) :
    laneTh (afterLanes r f l s) r c = f c (laneTh s r c) := by
  induction l generalizing s with
  | nil => simp at hc
  | cons d l ih =>
    obtain ⟨hd, hn⟩ := List.nodup_cons.mp hn
    simp only [afterLanes, List.foldl]
    by_cases h : c = d
    · subst h
      have h1 : ∀ x ∈ l, (r.team, r.grp, r.who c) ≠ (r.team, r.grp, r.who x) := by
        intro x hx e
        simp only [Prod.mk.injEq, true_and] at e
        exact hd (who_inj r e ▸ hx)
      have h2 := afterLanes_other r f l (modLane s r c (f c)) r.team r.grp (r.who c) h1
      unfold laneTh
      exact h2.trans (getTh_modTh _ _ _ _ _ (hp c (List.mem_cons_self ..)))
    · have hcl : c ∈ l := (List.mem_cons.mp hc).resolve_left h
      have := ih (modLane s r d (f d)) hn (fun x hx => by
        rw [modLane, present_modTh]; exact hp x (List.mem_cons_of_mem _ hx)) hcl
      refine this.trans ?_
      congr 1
      exact getTh_modTh_other _ _ _ _ _ _ _ _ fun e => h (who_inj r (by simpa using e))

theorem afterLanes_teams (r : Run) (f : Nat → Thread → Thread) (l : List Nat) (s : State) :
    { afterLanes r f l s with teams := s.teams } = s := by
  induction l generalizing s with
  | nil => rfl
  | cons c l ih =>
    have h := ih (modLane s r c (f c))
    have h2 := congrArg (fun x : State => { x with teams := s.teams }) h
    exact h2

theorem afterLanes_besides (r : Run) (f : Nat → Thread → Thread) (l : List Nat) (s : State) :
    (afterLanes r f l s).teams.map besidesThreads = s.teams.map besidesThreads := by
  induction l generalizing s with
  | nil => rfl
  | cons c l ih => exact (ih (modLane s r c (f c))).trans (besides_modTh _ _ _ _ _)

/-- Changing each lane of the issuing run once changes nothing else. -/
theorem laneChange_afterLanes {s : State} {r : Run} {rest : List Run} (hs : Issuing s r rest) (f : Nat → Thread → Thread) :
    LaneChange s r rest f (afterLanes r f r.lanes (issued s r rest)) := by
  have ht := afterLanes_teams r f r.lanes (issued s r rest)
  have hb := afterLanes_besides r f r.lanes (issued s r rest)
  refine ⟨fun c hc => ?_, fun tid g w ho => ?_, ?_, ?_, hb⟩
  · exact afterLanes_lane r f r.lanes (issued s r rest) hs.once hs.here c hc
  · exact afterLanes_other r f r.lanes (issued s r rest) tid g w ho
  · exact congrArg State.runs ht
  · exact congrArg (fun x : State => { x with runs := s.runs }) ht

/-! ## Lane instructions -/

/-- What a lane instruction does to a thread that stood at `old`: nothing but a push of the old destination under a
false guard, else the result written and pushed and, with F, flags. -/
def afterLane (fm : LaneForm) (x : Option LaneOut) (old th : Thread) : Thread :=
  match x with
  | none => th.pushAll ((List.range fm.n).map (oldCell old fm.d)).reverse
  | some o =>
    withFlags ((puts fm.d 0 (o.words.map Cell.word) th).pushAll (o.words.map Cell.word).reverse) fm.f fm.g.cc (.flags o.flags)

theorem writeDsts_eq (s : State) (r : Run) (c : Nat) (d : Dst) (hd : d ≠ .push) (off : Nat) (v : Cell) (l : List Cell) :
    writeDsts s r c d off (v :: l) = modLane s r c (puts d off (v :: l)) := by
  induction l generalizing s off v with
  | nil => cases d <;> first | rfl | exact absurd rfl hd
  | cons u l ih =>
    rw [writeDsts, ih]
    cases d with
    | push => exact absurd rfl hd
    | n i => exact modTh_modTh _ _ _ _ _ _
    | k i => exact modTh_modTh _ _ _ _ _ _

theorem writeDsts_push (s : State) (r : Run) (c off : Nat) (l : List Cell) : writeDsts s r c .push off l = s := by
  induction l generalizing off with
  | nil => rfl
  | cons v l ih => exact ih _

theorem puts_push (off : Nat) (l : List Cell) (th : Thread) : puts .push off l th = th := by
  induction l generalizing off with
  | nil => rfl
  | cons v l ih => exact ih _

theorem deliver_eq (s : State) (r : Run) (c : Nat) (d : Dst) (l : List Cell) :
    deliver s r c d l = modLane s r c fun th => (puts d 0 l th).pushAll l.reverse := by
  unfold deliver
  by_cases hd : d = .push
  · subst hd; simp only [writeDsts_push, puts_push]
  · cases l with
    | nil => rfl
    | cons v l => rw [writeDsts_eq _ _ _ _ hd]; exact modTh_modTh _ _ _ _ _ _

theorem dstCell_eq {s : State} {r : Run} {c : Nat} {d : Dst} (h : DstHere (laneTh s r c) d) (off : Nat) :
    dstCell s r c d off = oldCell (laneTh s r c) d off := by
  cases d with
  | push => rfl
  | k i => rfl
  | n i =>
    have h : (laneTh s r c).inBody = false := h
    simp only [dstCell, oldCell, laneN, h, Bool.false_eq_true, if_false]

theorem applyLane_eq {s : State} {r : Run} {fm : LaneForm} {c : Nat} {x : Option LaneOut} (h : DstHere (laneTh s r c) fm.d) :
    applyLane r fm s (c, x) = modLane s r c (afterLane fm x (laneTh s r c)) := by
  cases x with
  | none =>
    have : dstCell s r c fm.d = oldCell (laneTh s r c) fm.d := by funext j; exact dstCell_eq h j
    simp only [applyLane, pushOld, this]
    rfl
  | some o =>
    simp only [applyLane, deliver_eq]
    cases hf : fm.f with
    | false =>
      rw [if_neg (by simp)]
      congr 1
      funext th
      simp [afterLane, withFlags, hf]
    | true =>
      rw [if_pos rfl]
      refine (modTh_modTh _ _ _ _ _ _).trans ?_
      show modLane _ _ _ _ = _
      congr 1
      funext th
      simp [afterLane, withFlags, hf]

theorem applyLanes_eq {s0 : State} {r : Run} {fm : LaneForm} {x : Nat → Option LaneOut} (l : List Nat) (s : State)
    (hn : l.Nodup) (hd : ∀ c ∈ l, DstHere (laneTh s0 r c) fm.d) (hs : ∀ c ∈ l, laneTh s r c = laneTh s0 r c) :
    (l.map fun c => (c, x c)).foldl (applyLane r fm) s = afterLanes r (fun c => afterLane fm (x c) (laneTh s0 r c)) l s := by
  induction l generalizing s with
  | nil => rfl
  | cons c l ih =>
    obtain ⟨hc, hn⟩ := List.nodup_cons.mp hn
    have e := hs c (List.mem_cons_self ..)
    simp only [List.map, List.foldl, afterLanes]
    rw [applyLane_eq (by rw [e]; exact hd c (List.mem_cons_self ..)), e]
    refine ih _ hn (fun y hy => hd y (List.mem_cons_of_mem _ hy)) fun y hy => ?_
    refine Eq.trans ?_ (hs y (List.mem_cons_of_mem _ hy))
    exact getTh_modTh_other _ _ _ _ _ _ _ _ fun h => hc (who_inj r (by simpa using h) ▸ hy)

theorem dstAllowed_here {s : State} {r : Run} {d : Dst} {k : Bool} (h : ∀ c ∈ r.lanes, DstHere (laneTh s r c) d) :
    dstAllowed s r d k = .ok () := by
  unfold dstAllowed
  rw [List.find?_eq_none.mpr]
  intro c hc
  have := h c hc
  cases d with
  | n i => simp only [DstHere] at this; simp [this, Dst.isK]
  | k i => simp only [DstHere] at this; simp [this]
  | push => simp [Dst.isK]

theorem kLanes_here {s : State} {r : Run} {d : Dst} (h : ∀ c ∈ r.lanes, DstHere (laneTh s r c) d) : kLanes s r d = [] := by
  unfold kLanes
  split
  · next hk =>
    rw [List.filter_eq_nil_iff]
    intro c hc
    have := h c hc
    cases d with
    | k i => simp only [DstHere] at this; simp [this]
    | n i => simp [Dst.isK] at hk
    | push => simp [Dst.isK] at hk
  · rfl

theorem threadLanes_here {s : State} {r : Run} {d : Dst} (h : ∀ c ∈ r.lanes, DstHere (laneTh s r c) d) :
    threadLanes s r d = r.lanes := by
  unfold threadLanes
  split
  · next hk =>
    rw [List.filter_eq_self]
    intro c hc
    have := h c hc
    cases d with
    | k i => simp only [DstHere] at this; simp [this]
    | n i => simp [Dst.isK] at hk
    | push => simp [Dst.isK] at hk
  · rfl

/-- The old word of a destination that a false guard pushes is read. -/
theorem oldReady_ok {s : State} {r : Run} {c : Nat} {d : Dst} (hd : DstHere (laneTh s r c) d)
    (h : (oldCell (laneTh s r c) d 0).isPend = false) : oldReady s r c d 1 = .ok () := by
  simp [oldReady, dstCell_eq hd, h, Res.unless, List.range, List.range.loop]

/-- A lane instruction whose guards, flags and operands read. -/
theorem laneResults_ok {s : State} {r : Run} {fm : LaneForm} {op : Nat → Res LaneOut} {on : Nat → Bool} {out : Nat → LaneOut}
    (h : LanesReady s r fm.d fm.f fm.g on) (h1 : fm.n = 1) (ho : ∀ c ∈ r.lanes, on c = true → op c = .ok (out c)) :
    laneResults s r fm op = .ok (r.lanes.map (fun c => (c, if on c then some (out c) else none)), none) := by
  have he : ∀ c ∈ r.lanes, laneEval s r fm op c = .ok (if on c then some (out c) else none) := by
    intro c hc
    simp only [laneEval, h.guard c hc, Res.andThen]
    cases hon : on c with
    | false => simp [h1, oldReady_ok (h.dst c hc) (h.old c hc hon), Res.map, Res.andThen]
    | true =>
      simp only [if_true]
      cases hf : fm.f with
      | false => simp [Res.andThen, Res.map, ho c hc hon]
      | true =>
        obtain ⟨x, hx⟩ := h.flags c hc hon hf
        simp [Res.andThen, Res.map, hx, ho c hc hon]
  simp only [laneResults, dstAllowed_here h.dst, Res.andThen, threadLanes_here h.dst, forLanes_ok he, kLanes_here h.dst]

theorem laneExec_ok {s : State} {r : Run} {fm : LaneForm} {op : Nat → Res LaneOut} {on : Nat → Bool} {out : Nat → LaneOut}
    (hn : r.lanes.Nodup) (h : LanesReady s r fm.d fm.f fm.g on) (h1 : fm.n = 1)
    (ho : ∀ c ∈ r.lanes, on c = true → op c = .ok (out c)) :
    laneExec s r fm op =
      .ok (afterLanes r (fun c => afterLane fm (if on c then some (out c) else none) (laneTh s r c)) r.lanes s) := by
  simp only [laneExec, laneResults_ok h h1 ho, Res.map, Res.andThen]
  rw [applyLanes_eq (s0 := s) r.lanes s hn h.dst fun _ _ => rfl]

/-- The conditions hold for a word that has issued if they held before. -/
theorem lanesReady_issued {s : State} {r : Run} {rest : List Run} {d : Dst} {f : Bool} {g : Guard} {on : Nat → Bool}
    (h : LanesReady s r d f g on) : LanesReady (issued s r rest) { r with sig := .word } d f g on :=
  ⟨h.dst, h.guard, h.flags, h.old⟩

/-- A lane instruction acts on its lanes alone. -/
theorem laneAct_laneExec {i : Instr} {s : State} {r : Run} {rest : List Run} {fm : LaneForm}
    {op : State → Run → Nat → Res LaneOut} {on : Nat → Bool} {out : Nat → LaneOut} {f : Nat → Thread → Thread}
    (hs : Issuing s r rest) (h : LanesReady s r fm.d fm.f fm.g on) (h1 : fm.n = 1)
    (hi : exec i s = attempt s fun s r => laneExec s r fm (op s r))
    (ho : ∀ c ∈ r.lanes, on c = true → op (issued s r rest) { r with sig := .word } c = .ok (out c))
    (hf : ∀ c ∈ r.lanes, f c (laneTh s r c) = afterLane fm (if on c then some (out c) else none) (laneTh s r c) (laneTh s r c)) :
    LaneAct i s r rest f := by
  have hx := laneExec_ok (s := issued s r rest) (r := { r with sig := .word }) hs.once (lanesReady_issued h) h1 ho
  have h2 : exec i s = .next _ := hi.trans (attempt_ok hs.head hx)
  obtain ⟨hl, hrest⟩ := laneChange_afterLanes hs
    fun c => afterLane fm (if on c then some (out c) else none) (laneTh s r c)
  exact ⟨_, h2, fun c hc => (hl c hc).trans (hf c hc).symm, hrest⟩

/-! ## Compares (R248) -/

theorem foldl_afterLanes {α : Type} (r : Run) (k : State → Nat × α → State) (f : Nat → Thread → Thread) (v : Nat → α)
    (l : List Nat) (s : State) (h : ∀ s c, c ∈ l → k s (c, v c) = modLane s r c (f c)) :
    (l.map fun c => (c, v c)).foldl k s = afterLanes r f l s := by
  induction l generalizing s with
  | nil => rfl
  | cons c l ih =>
    simp only [List.map, List.foldl, afterLanes]
    rw [h s c (List.mem_cons_self ..)]
    exact ih _ fun s x hx => h s x (List.mem_cons_of_mem _ hx)

theorem modTh_id (s : State) (tid g : Nat) (w : Who) : modTh s tid g w (fun th => th) = s := by
  have h : ∀ t : Team, { t with body := t.body.modTh g w fun th => th } = t := by
    intro t
    cases w with
    | group => rfl
    | lane u =>
      simp only [TeamCore.modTh, TeamCore.modGroup]
      have : (fun gr : Group => { gr with threads := listMod gr.threads u fun th => th }) = fun gr => gr := by
        funext gr; rw [listMod_id]
      rw [this, listMod_id]
    | helper thr hg ht =>
      simp only [TeamCore.modTh, TeamCore.modCrew]
      have h1 : (fun h : Helper => if h.grp = hg ∧ h.thr = ht then { h with th := h.th } else h) = fun h => h := by
        funext h; split <;> rfl
      have h2 : (fun c : Crew => if c.grp = g ∧ c.thr = thr then
          { c with helpers := c.helpers.map fun h => if h.grp = hg ∧ h.thr = ht then { h with th := h.th } else h }
          else c) = fun c => c := by
        funext c; simp only [h1, List.map_id']; split <;> rfl
      rw [h2, List.map_id']
  simp only [modTh, modCore, modTeam]
  have : (fun t : Team => { t with body := t.body.modTh g w fun th => th }) = fun t => t := funext h
  rw [this, listMod_id]

/-- What a compare does. -/
theorem compare_ok {s : State} {r : Run} {cc : Fin 4} {g : Guard} {op : Nat → Res Flags} {on : Nat → Bool} {out : Nat → Flags}
    (hg : ∀ c ∈ r.lanes, guardTrue s r c g = .ok (on c))
    (ho : ∀ c ∈ r.lanes, on c = true → (∃ z, readCc s r c cc = .ok z) ∧ op c = .ok (out c)) :
    compare s r cc g op =
      .ok (afterLanes r (fun c th => if on c then { th with cc := listSet th.cc cc.val (.flags (out c)) } else th) r.lanes s) := by
  have he : ∀ c ∈ r.lanes, ((guardTrue s r c g).andThen fun yes =>
      if yes then (readCc s r c cc).andThen fun _ => (op c).map some else .ok none) =
      .ok (if on c then some (out c) else none) := by
    intro c hc
    rw [hg c hc]
    cases hon : on c with
    | false => rfl
    | true =>
      obtain ⟨⟨z, hz⟩, h⟩ := ho c hc hon
      simp [Res.andThen, Res.map, hz, h]
  simp only [Machine.compare, forLanes_ok he, map_ok]
  rw [foldl_afterLanes r _ _ (fun c => if on c then some (out c) else none)]
  intro s c _
  cases on c with
  | false => exact (modTh_id _ _ _ _).symm
  | true => rfl

/-! ## Cross-thread instructions (R261) -/

theorem notInBody_ok {s : State} {r : Run} (h : ∀ c ∈ r.lanes, (laneTh s r c).inBody = false) : notInBody s r = .ok () := by
  unfold notInBody
  rw [List.find?_eq_none.mpr]
  intro c hc
  simp [h c hc]

theorem crossAllowed_ok {s : State} {r : Run} {d : Dst} (h : ∀ c ∈ r.lanes, (laneTh s r c).inBody = false)
    (hd : d.isK = false) : crossAllowed s r d = .ok () := by
  simp [crossAllowed, notInBody_ok h, Res.andThen, Res.guard, hd]

/-- Every lane receives and pushes one word. -/
theorem crossResult_eq (s : State) (r : Run) (d : Dst) (f : Nat → Word) :
    crossResult s r d f = afterLanes r (fun c th => give1 th d (.word (f c))) r.lanes s := by
  unfold crossResult afterLanes
  congr 1
  funext s c
  rw [deliver_eq]
  congr 1

theorem laneValues_ok {s : State} {r : Run} {a : Src} {x : Nat → Word} (h : ∀ c ∈ r.lanes, readSrc s r c a = .ok (x c)) :
    laneValues s r a = .ok (r.lanes.map fun c => (c, x c)) := forLanes_ok h

theorem valueAt_map (l : List Nat) (x : Nat → Word) (t : Nat) :
    valueAt (l.map fun c => (c, x c)) t = if t ∈ l then some (x t) else none := by
  unfold valueAt
  induction l with
  | nil => rfl
  | cons c l ih =>
    simp only [List.map, List.find?]
    by_cases h : c = t
    · subst h; simp
    · have : (c == t) = false := by simpa using h
      simp only [this]
      rw [ih]
      simp [Ne.symm h]

/-! ## Long-latency results (R236) -/

/-- What an issued long-latency instruction does to a thread that stood at `old`. -/
def afterPending (fm : LaneForm) (id : Nat) (x : Option LaneOut) (old th : Thread) : Thread :=
  match x with
  | none => th.pushAll ((List.range fm.n).map (oldCell old fm.d)).reverse
  | some o =>
    let cells := (List.range o.words.length).map (Cell.pend id)
    withFlags ((puts fm.d 0 cells th).pushAll cells.reverse) fm.f fm.g.cc (.pend id)

theorem applyPending_eq {s : State} {r : Run} {fm : LaneForm} {id c : Nat} {x : Option LaneOut}
    (h : DstHere (laneTh s r c) fm.d) :
    applyPending r fm id s (c, x) = modLane s r c (afterPending fm id x (laneTh s r c)) := by
  cases x with
  | none =>
    have : dstCell s r c fm.d = oldCell (laneTh s r c) fm.d := by funext j; exact dstCell_eq h j
    simp only [applyPending, pushOld, this]
    rfl
  | some o =>
    simp only [applyPending, deliver_eq]
    cases hf : fm.f with
    | false =>
      rw [if_neg (by simp)]
      congr 1
      funext th
      simp [afterPending, withFlags, hf]
    | true =>
      rw [if_pos rfl]
      refine (modTh_modTh _ _ _ _ _ _).trans ?_
      show modLane _ _ _ _ = _
      congr 1
      funext th
      simp [afterPending, withFlags, hf]

theorem applyPendings_eq {s0 : State} {r : Run} {fm : LaneForm} {id : Nat} {x : Nat → Option LaneOut} (l : List Nat) (s : State)
    (hn : l.Nodup) (hd : ∀ c ∈ l, DstHere (laneTh s0 r c) fm.d) (hs : ∀ c ∈ l, laneTh s r c = laneTh s0 r c) :
    (l.map fun c => (c, x c)).foldl (applyPending r fm id) s =
      afterLanes r (fun c => afterPending fm id (x c) (laneTh s0 r c)) l s := by
  induction l generalizing s with
  | nil => rfl
  | cons c l ih =>
    obtain ⟨hc, hn⟩ := List.nodup_cons.mp hn
    have e := hs c (List.mem_cons_self ..)
    simp only [List.map, List.foldl, afterLanes]
    rw [applyPending_eq (by rw [e]; exact hd c (List.mem_cons_self ..)), e]
    refine ih _ hn (fun y hy => hd y (List.mem_cons_of_mem _ hy)) fun y hy => ?_
    refine Eq.trans ?_ (hs y (List.mem_cons_of_mem _ hy))
    exact getTh_modTh_other _ _ _ _ _ _ _ _ fun h => hc (who_inj r (by simpa using h) ▸ hy)

/-- What a long-latency lane instruction does outside uniform destinations. -/
theorem laneLong_ok {s : State} {r : Run} {fm : LaneForm} {op : Nat → Res LaneOut} {on : Nat → Bool} {out : Nat → LaneOut}
    (hn : r.lanes.Nodup) (h : LanesReady s r fm.d fm.f fm.g on) (h1 : fm.n = 1)
    (ho : ∀ c ∈ r.lanes, on c = true → op c = .ok (out c)) :
    laneLong s r fm op = .ok
      (let s' := afterLanes r (fun c => afterPending fm s.nextId (if on c then some (out c) else none) (laneTh s r c)) r.lanes s
       let fills := (r.lanes.map fun c => (c, if on c then some (out c) else none)).filterMap (laneFill r fm)
       if fills.isEmpty then s' else addOp s' r.team r.grp r.pc (r.nameOf r.lowest) (.lane fills)) := by
  simp only [laneLong, laneResults_ok h h1 ho, Res.map, Res.andThen]
  rw [applyPendings_eq (s0 := s) r.lanes s hn h.dst fun _ _ => rfl]
  simp

/-! ## Uniform destinations (R218, R235) -/

theorem laneResults_uniform {s : State} {r : Run} {fm : LaneForm} {op : Nat → Res LaneOut} {o : LaneOut} (k : Fin 16)
    (hd : fm.d = .k k) (hl : r.lanes ≠ []) (hb : ∀ c ∈ r.lanes, (laneTh s r c).inBody = false)
    (hk : (fm.srcs.all Src.isK && fm.g.cond == .al && !fm.f) = true) (ho : op r.lowest = .ok o) :
    laneResults s r fm op = .ok ([], some o) := by
  have h1 : dstAllowed s r fm.d (fm.srcs.all Src.isK && fm.g.cond == .al && !fm.f) = .ok () := by
    unfold dstAllowed
    rw [List.find?_eq_none.mpr]
    intro c hc
    simp [hb c hc, hk]
  have h2 : threadLanes s r fm.d = [] := by
    simp only [threadLanes, hd, Dst.isK, if_true]
    rw [List.filter_eq_nil_iff]
    intro c hc
    simp [hb c hc]
  have h3 : kLanes s r fm.d = r.lanes := by
    simp only [kLanes, hd, Dst.isK, if_true]
    rw [List.filter_eq_self]
    intro c hc
    simp [hb c hc]
  simp only [laneResults, h1, Res.andThen, h2, forLanes, h3]
  cases hr : r.lanes with
  | nil => exact absurd hr hl
  | cons c l =>
    have : r.lowest = c := by simp [Run.lowest, hr]
    simp only [← this, ho, Res.map, Res.andThen]

theorem laneExec_uniform {s : State} {r : Run} {fm : LaneForm} {op : Nat → Res LaneOut} {o : LaneOut} (k : Fin 16)
    (hd : fm.d = .k k) (hl : r.lanes ≠ []) (hb : ∀ c ∈ r.lanes, (laneTh s r c).inBody = false)
    (hk : (fm.srcs.all Src.isK && fm.g.cond == .al && !fm.f) = true) (ho : op r.lowest = .ok o) :
    laneExec s r fm op = .ok (writeK s r (.k k) (o.words.map Cell.word)) := by
  simp only [laneExec, laneResults_uniform k hd hl hb hk ho, Res.map, Res.andThen, List.foldl, hd]

theorem writeK_one (s : State) (r : Run) (k : Fin 16) (v : Cell) : writeK s r (.k k) [v] = setGroupK s r k.val v := rfl

end Sys2Proof
end

