-- ==== Sys2Proof/Laws/Access.lean ====
section
/-! SUPPORT. What accesses to memory do: direct reads and writes, caches, loads and stores (R104, R191, R273). -/

namespace Sys2Proof

open Machine Claims

/-! ## Outcomes -/

theorem andThen_of {α β : Type} {x : Res α} {a : α} {f : α → Res β} {y : Res β} (h : x = .ok a) (k : f a = y) :
    x.andThen f = y := by rw [h]; exact k
theorem map_of {α β : Type} {x : Res α} {a : α} {f : α → β} {y : Res β} (h : x = .ok a) (k : Res.ok (f a) = y) :
    x.map f = y := by rw [h]; exact k

/-! ## Caches hold no values -/

theorem perfEvent_eq (s : State) (core ctx ev n : Nat) : ∃ p, perfEvent s core ctx ev n = { s with perf := p } := by
  unfold perfEvent
  split
  · exact ⟨s.perf, rfl⟩
  · exact ⟨_, rfl⟩

theorem touchRetention_eq (s : State) (part pa pol : Nat) :
    ∃ x, touchRetention s part pa pol = { s with retention := x } := by
  unfold touchRetention
  split
  · split
    · exact ⟨s.retention, rfl⟩
    · exact ⟨_, rfl⟩
  · exact ⟨s.retention, rfl⟩

/-- Two states differ at most in what caches hold. -/
def SameBesidesCaches (s t : State) : Prop := withCaches s t = s

theorem SameBesidesCaches.rfl' (s : State) : SameBesidesCaches s s := rfl
theorem SameBesidesCaches.trans {s t u : State} (h : SameBesidesCaches s t) (k : SameBesidesCaches t u) :
    SameBesidesCaches s u := by
  have e := congrArg (withCaches s) k
  exact e.trans h

theorem l2Touch_eq (s : State) (part pa pol : Nat) :
    ∃ a b c, l2Touch s part pa pol = { s with retention := a, l2 := b, evict := c } := by
  obtain ⟨x, hx⟩ := touchRetention_eq s part pa pol
  unfold l2Touch
  simp only [hx]
  split
  · exact ⟨x, s.l2, s.evict, rfl⟩
  · split
    · exact ⟨x, _, s.evict, rfl⟩
    · split
      · exact ⟨x, _, s.evict, rfl⟩
      · exact ⟨x, _, _, rfl⟩
theorem allocLine_eq (s : State) (core line : Nat) (st : LineState) (next : Bool) :
    ∃ a, allocLine s core line st next = { s with dcache := a } := ⟨_, rfl⟩
theorem allocCode_eq (s : State) (core line : Nat) : ∃ a, allocCode s core line = { s with icache := a } := by
  unfold allocCode
  split
  · exact ⟨s.icache, rfl⟩
  · exact ⟨_, rfl⟩

theorem cacheAccess_same (s : State) (core ctx part pa pol : Nat) (store : Bool) :
    SameBesidesCaches s (cacheAccess s core ctx part pa pol store) := by
  obtain ⟨x, y, z, h⟩ := l2Touch_eq s part pa pol
  unfold cacheAccess
  simp only [h]
  split
  · rfl
  · generalize List.find? (fun x => x.core == core && x.line == pa / 128 * 128) s.dcache = hit
    cases hit with
    | none =>
      obtain ⟨p, hp⟩ := perfEvent_eq { s with retention := x, l2 := y, evict := z } core ctx 3 1
      simp only [Option.isNone_none, if_true, hp]
      cases store <;> rfl
    | some w =>
      simp only [Option.isNone_some, Bool.false_eq_true, if_false]
      cases store <;> rfl

theorem usePages_same (s : State) (env : AccEnv) (vas : List Dword) : SameBesidesCaches s (usePages s env vas) := by
  suffices h : ∀ (l : List Dword) (t : State), SameBesidesCaches s t → SameBesidesCaches s (l.foldl (fun s va => usePage s env va) t) from
    h vas s rfl
  intro l
  induction l with
  | nil => exact fun _ h => h
  | cons a l ih => exact fun t h => ih _ (h.trans rfl)

theorem dropCopies_same (s : State) (pa n : Nat) (core : Option Nat) : SameBesidesCaches s (dropCopies s pa n core) := rfl

/-! ## Direct accesses -/

theorem reachBacking_direct {s : State} {pa n : Nat} (h : ∀ l ∈ s.aper, backingMeets s pa n l = false) (w : Bool) :
    reachBacking s pa n w = s := by
  have hf : s.aper.filter (backingMeets s pa n) = [] := by
    rw [List.filter_eq_nil_iff]
    intro l hl
    simp [h l hl]
  unfold reachBacking
  simp only [hf]
  cases w
  · rfl
  · have : (s.aper.filter fun x => !(([] : List AperLine).any (·.line == x.line))) = s.aper := by
      rw [List.filter_eq_self]
      simp
    simp only [List.filter_nil, List.foldl_nil, if_true, this]

theorem snoopStash_none {s : State} {line : Nat} (hl : line % 128 = 0)
    (h : ∀ t ∈ s.teams, ∀ l ∈ t.body.stashLines, l.pa ≠ line) (keep : Option Nat) : snoopStash s line keep = s := by
  have e : line / 128 * 128 = line := by omega
  unfold snoopStash snoopWith
  rw [e]
  have : ∀ l : List Nat, l.foldl (fun s tid =>
      if some tid = keep then s else
      match s.teams[tid]? with
      | none => s
      | some t =>
        match t.body.stashLines.find? (·.pa == line) with
        | none => s
        | some l =>
          let s := if l.dirty then stashWriteBack s tid l else s
          { s with teams := listMod s.teams tid fun t => { t with body := { t.body with
              stashLines := t.body.stashLines.filter (·.off != l.off) } } }) s = s := by
    intro l
    induction l with
    | nil => rfl
    | cons tid l ih =>
      simp only [List.foldl]
      split
      · exact ih
      · split
        · exact ih
        · next t ht =>
          have hm := List.mem_of_getElem? ht
          split
          · exact ih
          · next x hx =>
            have h1 := List.mem_of_find?_eq_some hx
            have h2 := List.find?_some hx
            exact absurd (by simpa using h2) (h t hm x h1)
  exact this _

theorem linesOf_mod {pa n l : Nat} (h : l ∈ linesOf pa n) : l % 128 = 0 := by
  unfold linesOf at h
  split at h
  · simp at h
  · simp only [List.mem_map] at h
    obtain ⟨i, -, rfl⟩ := h
    omega

theorem reachHome_direct {s : State} {pa n : Nat} (h : Direct s pa n) (w : Bool) (keep : Option Nat) :
    reachHome s pa n w keep = s := by
  have : ∀ l : List Nat, (∀ x ∈ l, x ∈ linesOf pa n) → l.foldl (fun s l => snoopStash s l keep) s = s := by
    intro l hl
    induction l with
    | nil => rfl
    | cons x l ih =>
      have hx := hl x (List.mem_cons_self ..)
      simp only [List.foldl]
      rw [snoopStash_none (linesOf_mod hx) (fun t ht y hy e => h.stash t ht y hy (e ▸ hx))]
      exact ih fun y hy => hl y (List.mem_cons_of_mem _ hy)
  unfold reachHome
  rw [this _ fun _ hx => hx]
  exact reachBacking_direct h.backing w

theorem homeRead_direct {s : State} {pa n : Nat} (h : Direct s pa n) (keep : Option Nat) :
    homeRead s pa n keep = (s, readBytes s.mem pa n, poisonIn s.poison pa n) := by
  unfold homeRead
  split
  · next e => rcases h.target with h | h | h <;> rw [h] at e <;> cases e
  · next e => rcases h.target with h | h | h <;> rw [h] at e <;> cases e
  · simp only [plainRead, reachHome_direct h]

theorem homeWrite_direct {s : State} {pa : Nat} {bs : List Byte} (h : Direct s pa bs.length) (core keep : Option Nat) :
    homeWrite s pa bs core keep =
      { dropCopies s pa bs.length core with mem := writeBytes s.mem pa bs, poison := clearPoison s.poison pa bs.length } := by
  unfold homeWrite
  simp only
  split
  · next e => rcases h.target with h | h | h <;> rw [h] at e <;> cases e
  · next e => rcases h.target with h | h | h <;> rw [h] at e <;> cases e
  · simp only [plainWrite, reachHome_direct h]
    rfl

/-- What an access depends on: memory, poison, the window registers, teams, launches, pairs and held lines. -/
structure SameView (s t : State) : Prop where
  mem : t.mem = s.mem
  poison : t.poison = s.poison
  bar : t.bar = s.bar
  aper : t.aper = s.aper
  teams : t.teams = s.teams
  launches : t.launches = s.launches
  pairs : t.pairs = s.pairs

theorem SameBesidesCaches.view {s t : State} (h : SameBesidesCaches s t) : SameView s t :=
  ⟨(congrArg State.mem h : _), (congrArg State.poison h : _), (congrArg State.bar h : _), (congrArg State.aper h : _),
    (congrArg State.teams h : _), (congrArg State.launches h : _), (congrArg State.pairs h : _)⟩

theorem targetOf_bar {s t : State} (h : t.bar = s.bar) (pa : Nat) : targetOf t pa = targetOf s pa := by
  unfold targetOf sbwBytes Machine.bar
  rw [h]

theorem aperRange_bar {s t : State} (h : t.bar = s.bar) (pa : Nat) : aperRange t pa = aperRange s pa := by
  unfold aperRange aperEnabled formatFields Machine.bar
  rw [h]

theorem direct_congr {s t : State} {pa n : Nat} (h : Direct s pa n) (hb : t.bar = s.bar) (ha : t.aper = s.aper)
    (ht : ∀ x ∈ t.teams, ∃ y ∈ s.teams, x.body.stashLines = y.body.stashLines) : Direct t pa n := by
  refine ⟨?_, ?_, ?_⟩
  · rw [targetOf_bar hb]; exact h.target
  · rw [ha]
    intro l hl
    have := h.backing l hl
    unfold backingMeets at *
    rw [aperRange_bar hb]
    exact this
  · intro x hx l hl
    obtain ⟨y, hy, e⟩ := ht x hx
    exact h.stash y hy l (e ▸ hl)

theorem viewOverlay_congr {s t : State} (h : SameView s t) (tid pa : Nat) : viewOverlay t tid pa = viewOverlay s tid pa := by
  unfold viewOverlay
  rw [h.teams, h.launches, h.pairs]

theorem seenPoison_congr {s t : State} (h : SameView s t) (tid pa n : Nat) (p : Option Nat) :
    seenPoison t tid pa n p = seenPoison s tid pa n p := by
  unfold seenPoison viewBad
  rw [h.teams, h.launches, h.pairs, h.poison]

theorem viewRead_direct {s : State} {pa n : Nat} (h : Direct s pa n) (tid : Nat) :
    viewRead s tid pa n = (s, (List.range n).map fun i => seenByte s tid (pa + i),
      seenPoison s tid pa n (poisonIn s.poison pa n)) := by
  have hp : (targetOf s pa == Target.portB) = false := by rcases h.target with h | h | h <;> rw [h] <;> rfl
  unfold viewRead
  simp only [hp, Bool.false_eq_true, if_false, homeRead_direct h]
  congr 2
  apply List.map_congr_left
  intro i hi
  rw [readBytes_getD _ _ _ _ (List.mem_range.mp hi)]
  rfl

/-! ## Changes of a group beside its threads -/

theorem group_modGroup_threads (tc : TeamCore) (g : Nat) (m : Group → Group) (hm : ∀ x, (m x).threads = x.threads) (j : Nat) :
    ((tc.modGroup g m).group j).threads = (tc.group j).threads := by
  simp only [TeamCore.modGroup, TeamCore.group]
  by_cases hj : g = j
  · subst hj
    by_cases hl : g < tc.groups.length
    · rw [listMod_getD_same _ _ _ _ hl]; exact hm _
    · rw [listMod_of_length_le _ _ _ (by omega)]
  · rw [listMod_getD_other _ _ _ _ _ hj]

/-- A change of a group that keeps its threads changes no member. -/
theorem getTh_modGroup (s : State) (tid g : Nat) (m : Group → Group) (hm : ∀ x, (m x).threads = x.threads) (t' g' : Nat)
    (w : Who) : getTh (modGroup s tid g m) t' g' w = getTh s t' g' w := by
  simp only [getTh, modGroup]
  by_cases ht : t' = tid
  · subst ht
    by_cases hl : t' < s.teams.length
    · rw [core_modCore s t' _ hl]
      cases w with
      | group => rfl
      | helper a b c => rfl
      | lane t =>
        simp only [TeamCore.th]
        rw [group_modGroup_threads _ _ _ hm]
    · simp only [getCore, getTeam, modCore, modTeam]
      rw [listMod_of_length_le _ _ _ (by omega)]
  · rw [core_modCore_other _ _ _ _ ht]

theorem listMod_map_comm {α β : Type} (l : List α) (i : Nat) (f : α → α) (p : α → β) (f' : β → β)
    (h : ∀ a, p (f a) = f' (p a)) : (listMod l i f).map p = listMod (l.map p) i f' := by
  induction l generalizing i with
  | nil => rfl
  | cons a l ih => cases i <;> simp [listMod, h, ih]

theorem besides_modGroup (s : State) (tid g : Nat) (m : Group → Group) (hm : ∀ x, blankGroup (m x) = m (blankGroup x)) :
    (modGroup s tid g m).teams.map besidesThreads =
      listMod (s.teams.map besidesThreads) tid fun t => { t with body := t.body.modGroup g m } := by
  simp only [modGroup, modCore, modTeam]
  apply listMod_map_comm
  intro t
  simp only [besidesThreads, TeamCore.modGroup]
  rw [listMod_map_comm _ _ _ _ m hm]

/-- A change of lanes beside a change of a group beside its threads. -/
theorem laneChange_modGroup {s t : State} {r : Run} {rest : List Run} {f : Nat → Thread → Thread}
    (h : LaneChange s r rest f t) (tid g : Nat) (m : Group → Group) (ht : ∀ x, (m x).threads = x.threads)
    (hm : ∀ x, blankGroup (m x) = m (blankGroup x)) :
    LaneChange (Machine.modGroup s tid g m) r rest f (Machine.modGroup t tid g m) := by
  obtain ⟨h1, h2, h3, h4, h5⟩ := h
  refine ⟨fun c hc => ?_, fun a b w hw => ?_, h3, ?_, ?_⟩
  · unfold laneTh
    rw [getTh_modGroup _ _ _ _ ht, getTh_modGroup _ _ _ _ ht]
    exact h1 c hc
  · rw [getTh_modGroup _ _ _ _ ht, getTh_modGroup _ _ _ _ ht]
    exact h2 a b w hw
  · exact congrArg (fun x : State => { x with teams := (Machine.modGroup s tid g m).teams }) h4
  · rw [besides_modGroup _ _ _ _ hm, besides_modGroup _ _ _ _ hm, h5]

theorem laneChange_addOp {s t : State} {r : Run} {rest : List Run} {f : Nat → Thread → Thread}
    (h : LaneChange s r rest f t) (tid g : Nat) (pc : Dword) (rep : Nat) (k : OpKind) :
    LaneChange (Machine.addOp s tid g pc rep k) r rest f (Machine.addOp t tid g pc rep k) := by
  obtain ⟨h1, h2, h3, h4, h5⟩ := h
  refine ⟨h1, h2, h3, ?_, h5⟩
  have ho : t.ops = s.ops := (congrArg State.ops h4 : _)
  have hn : t.nextId = s.nextId := (congrArg State.nextId h4 : _)
  have := congrArg (fun x : State => Machine.addOp x tid g pc rep k) h4
  simpa only [Machine.addOp, ho, hn] using this

theorem blank_setCtr (c : Ctr) (x : Group) (n : Nat) : blankGroup (x.setCtr c n) = (blankGroup x).setCtr c n := by
  cases c <;> rfl
theorem blank_ctr (c : Ctr) (x : Group) : (blankGroup x).ctr c = x.ctr c := by cases c <;> rfl

theorem laneChange_started {s t : State} {r : Run} {rest : List Run} {f : Nat → Thread → Thread}
    (h : LaneChange s r rest f t) (k : OpKind) (c : Ctr) :
    LaneChange (Claims.started s r k c) r rest f (Claims.started t r k c) := by
  unfold Claims.started raiseCtr
  exact laneChange_modGroup (laneChange_addOp h _ _ _ _ _) _ _ _ (fun x => by cases c <;> rfl)
    fun x => by rw [blank_setCtr, blank_ctr]

/-! ## Loads (R75, R191, R273) -/

/-- What a load does to each lane. -/
theorem finishLoad_eq {s : State} {r : Run} {o : LoadOp} {live : Nat → Bool} {v : Nat → Loaded} (hn : r.lanes.Nodup)
    (hv : ∀ c, (v c).lane = c) (hd : ∀ c ∈ r.lanes, DstHere (laneTh s r c) o.d) :
    finishLoad s r o ((r.lanes.filter live).map v) =
      (let s' := afterLanes r (fun c th =>
          if live c then giveAll th o.d (waiting s.nextId (loadCount o.bytes)) else
            th.pushAll ((List.range (loadCount o.bytes)).map (oldCell (laneTh s r c) o.d)).reverse) r.lanes s
       if r.lanes.any live then
         Claims.started s' r (.load ((r.lanes.filter live).map fun c =>
           { who := r.who c, words := loadWords o.bytes o.sx (bytesNat (v c).bytes), poison := (v c).poison,
             addr := (v c).addr, bytes := o.bytes })) .ld
       else s') := by
  have hany : ∀ c ∈ r.lanes, (((r.lanes.filter live).map v).any (·.lane == c)) = live c := by
    intro c hc
    simp only [List.any_map, Function.comp_def, hv]
    cases hl : live c with
    | true => exact List.any_eq_true.mpr ⟨c, List.mem_filter.mpr ⟨hc, hl⟩, by simp⟩
    | false =>
      rw [List.any_eq_false]
      intro x hx
      have := (List.mem_filter.mp hx).2
      simp only [beq_iff_eq]
      rintro rfl
      simp [hl] at this
  have hfold : ∀ l : List Nat, ∀ s' : State, l.Nodup → (∀ c ∈ l, c ∈ r.lanes) → s'.nextId = s.nextId →
      (∀ c ∈ l, laneTh s' r c = laneTh s r c) →
      l.foldl (fun s' c => if ((r.lanes.filter live).map v).any (·.lane == c) then
          deliver s' r c o.d ((List.range (loadCount o.bytes)).map (Cell.pend s.nextId))
        else pushOld s' r c o.d (loadCount o.bytes)) s' =
      afterLanes r (fun c th =>
          if live c then giveAll th o.d (waiting s.nextId (loadCount o.bytes)) else
            th.pushAll ((List.range (loadCount o.bytes)).map (oldCell (laneTh s r c) o.d)).reverse) l s' := by
    intro l
    induction l with
    | nil => intros; rfl
    | cons c l ih =>
      intro s' hl hm hid hs
      obtain ⟨hc, hl⟩ := List.nodup_cons.mp hl
      have e := hs c (List.mem_cons_self ..)
      have hmem := hm c (List.mem_cons_self ..)
      simp only [List.foldl, afterLanes]
      rw [hany c hmem]
      have step : (if live c = true then deliver s' r c o.d ((List.range (loadCount o.bytes)).map (Cell.pend s.nextId))
          else pushOld s' r c o.d (loadCount o.bytes)) =
          modLane s' r c (fun th =>
            if live c then giveAll th o.d (waiting s.nextId (loadCount o.bytes)) else
            th.pushAll ((List.range (loadCount o.bytes)).map (oldCell (laneTh s r c) o.d)).reverse) := by
        cases live c with
        | true => simp only [if_true, deliver_eq]; rfl
        | false =>
          have : dstCell s' r c o.d = oldCell (laneTh s r c) o.d := by
            funext j; rw [dstCell_eq (by rw [e]; exact hd c hmem), e]
          simp only [Bool.false_eq_true, if_false, pushOld, this]
      rw [step]
      refine ih _ hl (fun y hy => hm y (List.mem_cons_of_mem _ hy)) hid fun y hy => ?_
      refine Eq.trans ?_ (hs y (List.mem_cons_of_mem _ hy))
      exact getTh_modTh_other _ _ _ _ _ _ _ _ fun h => hc (who_inj r (by simpa using h) ▸ hy)
  have hemp : ((r.lanes.filter live).map v).isEmpty = !(r.lanes.any live) := by
    rw [List.isEmpty_map]
    cases h : r.lanes.any live with
    | true =>
      obtain ⟨c, hc, hl⟩ := List.any_eq_true.mp h
      have : c ∈ r.lanes.filter live := List.mem_filter.mpr ⟨hc, hl⟩
      cases hf : r.lanes.filter live with
      | nil => rw [hf] at this; simp at this
      | cons => rfl
    | false =>
      rw [List.any_eq_false] at h
      rw [List.filter_eq_nil_iff.mpr h]
      rfl
  unfold finishLoad
  simp only [hfold r.lanes s hn (fun _ h => h) rfl (fun _ _ => rfl), hemp, List.map_map]
  cases r.lanes.any live
  · rfl
  · simp only [Bool.not_true, Bool.false_eq_true, if_false, if_true, Function.comp_def, hv, Claims.started]

theorem seenByte_congr {s t : State} (h : SameView s t) (tid a : Nat) : seenByte t tid a = seenByte s tid a := by
  unfold seenByte
  rw [viewOverlay_congr h, h.mem]

/-- A direct read through the core's cache. -/
theorem readFor_direct {s s' : State} {r : Run} {pa n : Nat} (h : Direct s pa n) (hs : SameBesidesCaches s s') (pol : Nat) :
    ∃ s'', SameBesidesCaches s s'' ∧ readFor s' r pa n pol =
      (s'', (List.range n).map (fun i => seenByte s r.team (pa + i)),
        seenPoison s r.team pa n (poisonIn s.poison pa n)) := by
  have h0 := hs.trans (cacheAccess_same s' (getTeam s' r.team).core (teamLaunch s' r.team).ctx (getTeam s' r.team).part pa pol false)
  have v := h0.view
  have hd : Direct _ pa n := direct_congr h v.bar v.aper fun x hx => ⟨x, v.teams ▸ hx, rfl⟩
  refine ⟨_, h0, ?_⟩
  unfold readFor
  simp only [viewRead_direct hd, v.poison, seenPoison_congr v]
  congr 2
  apply List.map_congr_left
  intro i _
  exact seenByte_congr v _ _

theorem noteWindow_direct {s : State} {pa n : Nat} (h : Direct s pa n) (who : Who) : noteWindow s who pa = s := by
  unfold noteWindow
  have hp : (targetOf s pa == Target.portB) = false := by rcases h.target with h | h | h <;> rw [h] <;> rfl
  simp only [hp, Bool.false_eq_true, if_false]

/-- A value that a load brings. -/
def loadedAt (s : State) (r : Run) (n : Nat) (va : Nat → Dword) (pa : Nat → Nat) (c : Nat) : Loaded :=
  ⟨c, va c, (List.range n).map (fun i => seenByte s r.team (pa c + i)),
    (seenPoison s r.team (pa c) n (poisonIn s.poison (pa c) n)).map (sectorAddr (va c) (pa c))⟩

/-- The lanes of a load read in order. -/
theorem loadLoop {s : State} {r : Run} {n : Nat} (pol : Nat) {live : Nat → Bool} {va : Nat → Dword} {pa : Nat → Nat}
    (l : List Nat) (h : ∀ c ∈ l, live c = true → Direct s (pa c) n) (s' : State) (hs : SameBesidesCaches s s') (got : List Loaded) :
    ∃ s'', SameBesidesCaches s s'' ∧
      (l.map fun c => (c, if live c then some (va c, pa c) else none)).foldl
        (fun (x : State × List Loaded) acc =>
          match acc.2 with
          | none => x
          | some (a, pa) =>
            let (s, bs, p) := readFor x.1 r pa n pol
            let s := noteWindow s (r.who acc.1) pa
            (s, x.2 ++ [⟨acc.1, a, bs, p.map (sectorAddr a pa)⟩])) (s', got) =
      (s'', got ++ (l.filter live).map (loadedAt s r n va pa)) := by
  induction l generalizing s' got with
  | nil => exact ⟨s', hs, by simp⟩
  | cons c l ih =>
    have ih := fun s' hs got => ih (fun x hx => h x (List.mem_cons_of_mem _ hx)) s' hs got
    cases hl : live c with
    | false =>
      obtain ⟨t, ht, e⟩ := ih s' hs got
      refine ⟨t, ht, ?_⟩
      simp only [List.map, List.foldl, hl, Bool.false_eq_true, if_false, List.filter_cons]
      exact e
    | true =>
      have hd := h c (List.mem_cons_self ..) hl
      obtain ⟨u, hu, eu⟩ := readFor_direct (r := r) hd hs pol
      have vu := hu.view
      have hdu : Direct u (pa c) n := direct_congr hd vu.bar vu.aper fun x hx => ⟨x, vu.teams ▸ hx, rfl⟩
      obtain ⟨t, ht, e⟩ := ih u hu (got ++ [loadedAt s r n va pa c])
      refine ⟨t, ht, ?_⟩
      simp only [List.map, List.foldl, hl, if_true, List.filter_cons, eu, noteWindow_direct hdu]
      refine Eq.trans e ?_
      simp [List.append_assoc]

/-- The old words of a destination that a false guard pushes are read. -/
theorem oldReady_all {s : State} {r : Run} {c : Nat} {d : Dst} {n : Nat} (hd : DstHere (laneTh s r c) d)
    (h : OldReads (laneTh s r c) d n) : oldReady s r c d n = .ok () := by
  have : ((List.range n).any fun j => (dstCell s r c d j).isPend) = false := by
    rw [List.any_eq_false]
    intro j hj
    rw [dstCell_eq hd, h j (List.mem_range.mp hj)]
    simp
  simp [oldReady, this, Res.unless]

/-- A load whose addresses pass their checks and reach memory directly. -/
theorem globalLoad_ok {s : State} {r : Run} {o : LoadOp} {addr : Nat → Res (Option Dword)} {a : Nat → Option Dword} {pa : Nat → Nat}
    (hd : ∀ c ∈ r.lanes, DstHere (laneTh s r c) o.d) (ha : ∀ c ∈ r.lanes, addr c = .ok (a c))
    (ho : ∀ c ∈ r.lanes, (a c).isSome = false → OldReads (laneTh s r c) o.d (loadCount o.bytes))
    (hr : Reaches s r .load (o.pol == 3) o.bytes (fun c => (a c).isSome)
      (fun c => (a c).getD 0 + BitVec.ofInt 64 (repShift s r o.bytes)) pa)
    (hc : (getGroup s r.team r.grp).ldc < 63) :
    ∃ s', SameBesidesCaches s s' ∧ globalLoad s r o addr = .ok (finishLoad s' r o
      ((r.lanes.filter fun c => (a c).isSome).map
        (loadedAt s r o.bytes (fun c => (a c).getD 0 + BitVec.ofInt 64 (repShift s r o.bytes)) pa))) := by
  let va := fun c => (a c).getD 0 + BitVec.ofInt 64 (repShift s r o.bytes)
  have h1 : ∀ c ∈ r.lanes, (addr c).andThen (fun x => match x with
      | none => (oldReady s r c o.d (loadCount o.bytes)).map fun _ => none
      | some a =>
        let a := a + BitVec.ofInt 64 (repShift s r o.bytes)
        (checkLane s r c .load (o.pol == 3) false o.bytes a).map fun p => some (a, p.1)) =
      .ok (if (a c).isSome then some (va c, pa c) else none) := by
    intro c hc
    rw [ha c hc]
    have := hr c hc
    cases hac : a c with
    | none =>
      simp only [Res.andThen, oldReady_all (hd c hc) (ho c hc (by simp [hac])), Res.map, Option.isSome_none, Bool.false_eq_true,
        if_false]
    | some x =>
      obtain ⟨⟨sa, h⟩, -⟩ := this (by simp [hac])
      simp only [hac, Option.getD_some] at h
      simp only [Res.andThen, checkLane, h, Res.map, Option.isSome_some, if_true, va, hac, Option.getD_some]
  obtain ⟨s', hs', e⟩ := loadLoop (s := s) (r := r) (n := o.bytes) o.pol (live := fun c => (a c).isSome) (va := va) (pa := pa)
    r.lanes (fun c hc hl => (hr c hc hl).2) _ (usePages_same s (envOf s r)
      ((r.lanes.map fun c => (c, if (a c).isSome then some (va c, pa c) else none)).filterMap fun x => x.2.map Prod.fst)) []
  refine ⟨s', hs', ?_⟩
  have h2 : roomFor s r .ld ((r.lanes.map fun c => (c, if (a c).isSome then some (va c, pa c) else none)).any (·.2.isSome)) =
      .ok () := by
    have hx : (getGroup s r.team r.grp).ctr .ld < 63 := hc
    simp [roomFor, Res.unless, hx]
  unfold globalLoad
  refine andThen_of (dstAllowed_here hd) (andThen_of (forLanes_ok h1) (map_of h2 ?_))
  exact congrArg (fun x : State × List Loaded => Res.ok (finishLoad x.1 r o x.2)) e

theorem laneChange_caches {s u t : State} {r : Run} {rest : List Run} {f : Nat → Thread → Thread}
    (h : LaneChange u r rest f t) (hu : SameBesidesCaches s u) : LaneChange s r rest f (withCaches s t) := by
  have ht : u.teams = s.teams := hu.view.teams
  have hl : ∀ a b w, getTh u a b w = getTh s a b w := by
    intro a b w
    unfold getTh getCore getTeam
    rw [ht]
  obtain ⟨h1, h2, h3, h4, h5⟩ := h
  refine ⟨fun c hc => ?_, fun a b w hw => ?_, h3, ?_, ?_⟩
  · exact (h1 c hc).trans (congrArg (f c) (hl _ _ _))
  · exact (h2 a b w hw).trans (hl _ _ _)
  · have e := congrArg (withCaches s) h4
    refine Eq.trans ?_ (e.trans hu)
    show _ = withCaches s { t with teams := u.teams, runs := u.runs }
    rw [ht, show u.runs = s.runs from (congrArg State.runs hu : _)]
    rfl
  · rw [← ht]; exact h5

theorem started_caches {s u : State} (h : SameBesidesCaches s u) (r : Run) (k : OpKind) (c : Ctr) :
    SameBesidesCaches (Claims.started s r k c) (Claims.started u r k c) := by
  have e := congrArg (fun x => Claims.started x r k c) h
  exact e

theorem direct_issued {s : State} {r : Run} {rest : List Run} {pa n : Nat} (h : Direct s pa n) :
    Direct (issued s r rest) pa n := ⟨h.target, h.backing, h.stash⟩
theorem reaches_issued {s : State} {r : Run} {rest : List Run} {k : AccKind} {p : Bool} {n : Nat} {live : Nat → Bool}
    {va : Nat → Dword} {pa : Nat → Nat} (h : Reaches s r k p n live va pa) :
    Reaches (issued s r rest) { r with sig := .word } k p n live va pa :=
  fun c hc hl => ⟨(h c hc hl).1, direct_issued (h c hc hl).2⟩

/-- A load of any form completes at issue. -/
theorem loads_globalLoad {i : Instr} {s : State} {r : Run} {rest : List Run} {o : LoadOp}
    {addr : State → Run → Nat → Res (Option Dword)} {a : Nat → Option Dword} {pa : Nat → Nat}
    (hi : exec i s = attempt s fun s r => globalLoad s r o (addr s r)) (hs : Issuing s r rest)
    (hd : ∀ c ∈ r.lanes, DstHere (laneTh s r c) o.d)
    (ha : ∀ c ∈ r.lanes, addr (issued s r rest) { r with sig := .word } c = .ok (a c))
    (ho : ∀ c ∈ r.lanes, (a c).isSome = false → OldReads (laneTh s r c) o.d (loadCount o.bytes))
    (hr : Reaches s r .load (o.pol == 3) o.bytes (fun c => (a c).isSome)
      (fun c => (a c).getD 0 + BitVec.ofInt 64 (repShift s r o.bytes)) pa)
    (hc : (getGroup s r.team r.grp).ldc < 63) :
    Loads i s r rest o.d (loadCount o.bytes) (fun c => (a c).isSome)
      (memFill s r o.bytes o.sx (fun c => (a c).getD 0 + BitVec.ofInt 64 (repShift s r o.bytes)) pa) := by
  obtain ⟨s', hs', e⟩ := globalLoad_ok (s := issued s r rest) (r := { r with sig := .word }) (o := o)
    (addr := addr (issued s r rest) { r with sig := .word }) (a := a) (pa := pa) hd ha ho
    (reaches_issued hr) hc
  have hx := hi.trans (attempt_ok hs.head e)
  have hv := hs'.view
  have hth : ∀ c, laneTh s' { r with sig := .word } c = laneTh s r c := by
    intro c
    unfold laneTh getTh getCore getTeam
    rw [hv.teams]
    rfl
  rw [finishLoad_eq (s := s') (r := { r with sig := .word }) hs.once (fun _ => rfl)
    (fun c hc => by rw [hth]; exact hd c hc)] at hx
  let u : State := { s' with runs := s.runs }
  have hu : SameBesidesCaches s u := by
    have e := congrArg (fun x : State => { x with runs := s.runs }) hs'
    exact e
  have hr' : s'.runs = { r with sig := .word } :: rest := (congrArg State.runs hs' : _)
  have hiu : issued u r rest = s' := by
    show ({ s' with runs := { r with sig := .word } :: rest } : State) = s'
    rw [← hr']
  have hsu : Issuing u r rest := ⟨hs.head, hs.once, fun c hc => by
    have := hs.here c hc
    have ht : u.teams = s.teams := hu.view.teams
    unfold present getCore getTeam at *
    rw [ht]
    exact this⟩
  let f : Nat → Thread → Thread := fun c th =>
    if (a c).isSome then giveAll th o.d (waiting s.nextId (loadCount o.bytes)) else oldAll th o.d (loadCount o.bytes)
  have hid : s'.nextId = s.nextId := (congrArg State.nextId hs' : _)
  let f' : Nat → Thread → Thread := fun c th =>
    if (a c).isSome then giveAll th o.d (waiting s'.nextId (loadCount o.bytes)) else
      th.pushAll ((List.range (loadCount o.bytes)).map (oldCell (laneTh s' { r with sig := .word } c) o.d)).reverse
  have hl0 : LaneChange u r rest f' (afterLanes { r with sig := .word } f' r.lanes s') := by
    have := laneChange_afterLanes hsu f'
    rw [hiu] at this
    exact this
  have hl : LaneChange u r rest f (afterLanes { r with sig := .word } f' r.lanes s') := by
    refine ⟨fun c hc => (hl0.1 c hc).trans ?_, hl0.2⟩
    have e1 : laneTh u r c = laneTh s' { r with sig := .word } c := rfl
    simp only [f, f', hid, e1]
    rfl
  cases hany : r.lanes.any (fun c => (a c).isSome) with
  | false =>
    simp only [hany, Bool.false_eq_true, if_false] at hx
    refine ⟨_, hx, ?_⟩
    have h := laneChange_caches hl hu
    simp only [hany, Bool.false_eq_true, if_false]
    exact ⟨(congrArg State.ops h.2.2.2.1 : _), (congrArg State.nextId h.2.2.2.1 : _), h⟩
  | true =>
    simp only [hany, if_true] at hx
    refine ⟨_, hx, ?_⟩
    have h := laneChange_caches (laneChange_started hl
      (.load ((r.lanes.filter fun c => (a c).isSome).map (memFill s r o.bytes o.sx
        (fun c => (a c).getD 0 + BitVec.ofInt 64 (repShift s r o.bytes)) pa))) .ld) (started_caches hu r _ .ld)
    simp only [hany, if_true]
    exact ⟨(congrArg State.ops h.2.2.2.1 : _), (congrArg State.nextId h.2.2.2.1 : _), h⟩

theorem policy_sys (p : Policy) : (policyNum p == 3) = (p == .sys) := by cases p <;> rfl

theorem loadsMu_of {i : Instr} {o : MuLd} {n : Nat} {sx : Bool} (hi : ∀ s, exec i s = attempt s fun s r => loadMu s r o n sx) :
    LoadsMu i o n sx := by
  intro s r rest a pa hs hd ha va hr hc
  have h := loads_globalLoad (o := ⟨o.d, n, sx, policyNum o.pol⟩)
    (addr := fun s r c => (muAddr s r o.kp o.ix o.x o.imm n c).map some) (a := fun c => some (a c)) (pa := pa) (hi s) hs hd
    (fun c hc => by
      have : muAddr (issued s r rest) { r with sig := .word } o.kp o.ix o.x o.imm n c = muAddr s r o.kp o.ix o.x o.imm n c := rfl
      rw [this, ha c hc]; rfl)
    (fun _ _ h => by cases h) (by rw [policy_sys]; exact hr) hc
  exact h

theorem loadsMp_of {i : Instr} {o : MpLd} {n : Nat} {sx : Bool} (hi : ∀ s, exec i s = attempt s fun s r => loadMp s r o n sx) :
    LoadsMp i o n sx := by
  intro s r rest a pa hs hd ha live va ho hr hc
  exact loads_globalLoad (o := ⟨o.d, n, sx, policyNum o.pol⟩)
    (addr := fun s r => mpAddr s r o.np o.imm n o.g) (a := a) (pa := pa) (hi s) hs hd ha ho
    (by rw [policy_sys]; exact hr) hc

/-! ## Stores (R273) -/

theorem lastWrite_from (l : List Host.Cell) (x : Nat) (a : Option Byte) :
    l.foldl (fun acc c => if c.1 = x then some c.2 else acc) a = (lastWrite l x).or a := by
  unfold lastWrite
  induction l generalizing a with
  | nil => simp
  | cons c l ih =>
    simp only [List.foldl]
    rw [ih, ih (if c.1 = x then some c.2 else none)]
    split <;> cases List.foldl (fun acc c => if c.1 = x then some c.2 else acc) none l <;> rfl

theorem lastWrite_append (a b : List Host.Cell) (x : Nat) : lastWrite (a ++ b) x = (lastWrite b x).or (lastWrite a x) := by
  show (a ++ b).foldl _ none = _
  rw [List.foldl_append]
  exact lastWrite_from b x _

theorem cellsAt_cons (pa : Nat) (b : Byte) (bs : List Byte) : cellsAt pa (b :: bs) = (pa, b) :: cellsAt (pa + 1) bs := by
  unfold cellsAt
  rw [List.length_cons, List.range_succ_eq_map, List.map_cons, List.map_map]
  congr 1
  apply List.map_congr_left
  intro i _
  simp only [Function.comp, List.getD_cons_succ, Prod.mk.injEq, and_true]
  omega

theorem lastWrite_below (pa : Nat) (bs : List Byte) (x : Nat) (h : x < pa) : lastWrite (cellsAt pa bs) x = none := by
  induction bs generalizing pa with
  | nil => rfl
  | cons b bs ih =>
    rw [cellsAt_cons]
    show List.foldl _ (if pa = x then some b else none) _ = _
    rw [if_neg (by omega)]
    exact ih (pa + 1) (by omega)

/-- A write reads as the last value written. -/
theorem writeBytes_get {m : List Host.Cell} (hm : Memory.wf m = true) (pa : Nat) (bs : List Byte) (x : Nat) :
    mapGet memDefault (writeBytes m pa bs) x = (lastWrite (cellsAt pa bs) x).getD (mapGet memDefault m x) := by
  induction bs generalizing m pa with
  | nil => rfl
  | cons b bs ih =>
    rw [cellsAt_cons]
    simp only [writeBytes]
    rw [ih (mapSet_wf hm pa b)]
    have : lastWrite ((pa, b) :: cellsAt (pa + 1) bs) x = (lastWrite (cellsAt (pa + 1) bs) x).or (if pa = x then some b else none) := by
      have h := lastWrite_from (cellsAt (pa + 1) bs) x (if pa = x then some b else none)
      rw [← h]
      rfl
    rw [this]
    by_cases h : pa = x
    · subst h
      rw [lastWrite_below _ _ _ (by omega), mapGet_mapSet_same hm]
      simp
    · rw [if_neg h, mapGet_mapSet_other _ _ h]
      cases lastWrite (cellsAt (pa + 1) bs) x <;> rfl

/-- Fewer than 32 bytes clear no poison (R124). -/
theorem clearPoison_small (poison : List Nat) (pa n : Nat) (h : n < 32) : clearPoison poison pa n = poison := by
  unfold clearPoison
  rw [List.filter_eq_self]
  intro x _
  simp only [Bool.not_eq_true', Bool.and_eq_false_iff, decide_eq_false_iff_not]
  omega

/-- Memory has become `m`, and nothing else has changed but marks and what caches hold. -/
structure Stored (s t : State) (m : List Host.Cell) : Prop where
  mem : t.mem = m
  teams : t.teams.map markless = s.teams.map markless
  rest : withCaches s { t with mem := s.mem, teams := s.teams } = s

theorem Stored.refl (s : State) : Stored s s s.mem := ⟨rfl, rfl, rfl⟩
theorem Stored.trans {s t u : State} {m m' : List Host.Cell} (h : Stored s t m) (k : Stored t u m') : Stored s u m' := by
  refine ⟨k.mem, k.teams.trans h.teams, ?_⟩
  have e := congrArg (fun x => withCaches s { x with mem := s.mem, teams := s.teams }) k.rest
  exact e.trans h.rest

/-- What of a team an access depends on. -/
def teamKey (t : Team) : Nat × Side × List StashLine := (t.launch, t.side, t.body.stashLines)

theorem keys_of_markless {l k : List Team} (h : l.map markless = k.map markless) : l.map teamKey = k.map teamKey := by
  have e := congrArg (List.map teamKey) h
  rw [List.map_map, List.map_map] at e
  exact e

theorem key_getTeam {s t : State} (h : t.teams.map teamKey = s.teams.map teamKey) (tid : Nat) :
    teamKey (getTeam t tid) = teamKey (getTeam s tid) := by
  have e : ∀ l : List Team, teamKey (l.getD tid Team.empty) = (l.map teamKey).getD tid (teamKey Team.empty) := by
    intro l
    simp only [List.getD_eq_getElem?_getD, List.getElem?_map]
    cases l[tid]? <;> rfl
  unfold getTeam
  rw [e, e, h]

theorem hasItems_keys {s t : State} (h : t.teams.map teamKey = s.teams.map teamKey) (hl : t.launches = s.launches) (tid : Nat) :
    hasItems t tid = hasItems s tid := by
  have e := key_getTeam h tid
  simp only [teamKey, Prod.mk.injEq] at e
  unfold hasItems teamIl teamLaunch
  rw [e.1, e.2.1, hl]

theorem direct_keys {s t : State} (h : t.teams.map teamKey = s.teams.map teamKey) (hb : t.bar = s.bar) (ha : t.aper = s.aper)
    {pa n : Nat} (d : Direct s pa n) : Direct t pa n := by
  refine direct_congr d hb ha fun x hx => ?_
  have hm : teamKey x ∈ s.teams.map teamKey := h ▸ List.mem_map_of_mem hx
  obtain ⟨y, hy, e⟩ := List.mem_map.mp hm
  simp only [teamKey, Prod.mk.injEq] at e
  exact ⟨y, hy, e.2.2.symm⟩

theorem keys_started (s : State) (r : Run) (k : OpKind) (c : Ctr) :
    (Claims.started s r k c).teams.map teamKey = s.teams.map teamKey := listMod_map _ _ _ _ fun _ => rfl
theorem keys_restartWatchdog (s : State) (tid : Nat) : (restartWatchdog s tid).teams.map teamKey = s.teams.map teamKey :=
  listMod_map _ _ _ _ fun _ => rfl

theorem Stored.bar {s t : State} {m : List Host.Cell} (h : Stored s t m) : t.bar = s.bar := (congrArg State.bar h.rest : _)
theorem Stored.launches {s t : State} {m : List Host.Cell} (h : Stored s t m) : t.launches = s.launches :=
  (congrArg State.launches h.rest : _)
theorem Stored.aper {s t : State} {m : List Host.Cell} (h : Stored s t m) : t.aper = s.aper := (congrArg State.aper h.rest : _)

theorem Stored.hasItems {s t : State} {m : List Host.Cell} (h : Stored s t m) (tid : Nat) : hasItems t tid = hasItems s tid :=
  hasItems_keys (keys_of_markless h.teams) h.launches tid
theorem Stored.direct {s t : State} {m : List Host.Cell} (h : Stored s t m) {pa n : Nat} (d : Direct s pa n) : Direct t pa n :=
  direct_keys (keys_of_markless h.teams) h.bar h.aper d

theorem map_listMod_same {α β : Type} (l : List α) (i : Nat) (f : α → α) (p : α → β) (h : ∀ a, p (f a) = p a) :
    (listMod l i f).map p = l.map p := listMod_map l i f p h

theorem noteWho_stored (s : State) (tid g : Nat) (w : Who) (x : Nat × Nat × Dword × Dword) :
    Stored s (noteWho s tid g w x) s.mem := by
  unfold noteWho
  split
  · refine ⟨rfl, ?_, rfl⟩
    apply map_listMod_same
    intro t
    simp only [markless, TeamCore.modCrew, List.map_map]
    congr 2
    apply List.map_congr_left
    intro c _
    simp only [Function.comp]
    split
    · simp only [List.map_map]
      congr 1
      apply List.map_congr_left
      intro h _
      simp only [Function.comp]
      split <;> rfl
    · rfl
  · exact Stored.refl s

theorem noteEffect_stored (s : State) (r : Run) (c : Nat) (x : Nat × Nat × Dword × Dword) :
    Stored s (noteEffect s r c x) s.mem := noteWho_stored s r.team r.grp (r.who c) x

theorem errEvent_stored (s : State) (tid th : Nat) (b : Bool) : Stored s (errEvent s tid th b).1 s.mem := by
  have k : ∀ (i : Nat) (e : Option ArmedError), Stored s (modTeam s i fun t => { t with errinj := e }) s.mem := by
    intro i e
    exact ⟨rfl, map_listMod_same _ _ _ _ fun _ => rfl, rfl⟩
  unfold errEvent
  simp only
  split
  · exact Stored.refl s
  · split
    · exact Stored.refl s
    · split <;> exact k _ _

theorem stored_caches {s t : State} (h : SameBesidesCaches s t) : Stored s t s.mem :=
  ⟨h.view.mem, by rw [h.view.teams], by
    have e := congrArg (fun x : State => { x with mem := s.mem, teams := s.teams }) h
    exact e⟩

/-- One thread's store that reaches memory directly. -/
theorem storeOne_ok {s : State} {r : Run} {c : Nat} {va : Dword} {pa : Nat} {bs : List Byte} (sc pol : Nat) (rel ev : Bool)
    (op : Nat) (whole : List Nat) (hi : hasItems s r.team = false) (hd : Direct s pa bs.length) (hn : bs.length < 32) :
    ∃ t, storeOne s r c va pa bs sc pol rel ev op whole = .ok t ∧ Stored s t (writeBytes s.mem pa bs) := by
  have h1 := noteEffect_stored s r c (10, bs.length, va, 0)
  generalize hx : (if ev then errEvent (noteEffect s r c (10, bs.length, va, 0)) r.team (r.teamThread c) false
    else (noteEffect s r c (10, bs.length, va, 0), none)) = x
  have h2 : Stored s x.1 s.mem := by
    rw [← hx]
    split
    · have := h1.trans (errEvent_stored (noteEffect s r c (10, bs.length, va, 0)) r.team (r.teamThread c) false)
      rw [h1.mem] at this
      exact this
    · exact h1
  have h3 : hasItems x.1 r.team = false := by rw [h2.hasItems]; exact hi
  let t := getTeam (noteEffect s r c (10, bs.length, va, 0)) r.team
  let u := cacheAccess x.1 t.core (teamLaunch x.1 r.team).ctx t.part pa pol true
  have h4 : Stored s u s.mem := by
    have := h2.trans (stored_caches (cacheAccess_same x.1 t.core (teamLaunch x.1 r.team).ctx t.part pa pol true))
    rw [h2.mem] at this
    exact this
  have hdu := h4.direct hd
  have hp : (targetOf u pa == Target.portB) = false := by rcases hdu.target with h | h | h <;> rw [h] <;> rfl
  refine ⟨homeWrite u pa bs (some t.core) none, ?_, ?_⟩
  · unfold storeOne
    simp only [hx, h3, Bool.false_eq_true, if_false]
    show Res.ok (if (targetOf u pa == Target.portB) = true then windowWrite u op pa bs else homeWrite u pa bs (some t.core) none) = _
    rw [hp]
    rfl
  · rw [homeWrite_direct hdu, clearPoison_small _ _ _ hn, h4.mem]
    exact ⟨rfl, h4.teams, h4.rest⟩

/-- The stores of several lanes, in order. -/
theorem storeLoop {s : State} {r : Run} {n : Nat} (sc pol : Nat) (rel ev : Bool) (op : Nat) (whole : List Nat) {va : Nat → Dword} {pa : Nat → Nat}
    {data : Nat → List Byte} (hn : n < 32) (hl : ∀ c, (data c).length = n) (hi : hasItems s r.team = false) (l : List Nat)
    (hd : ∀ c ∈ l, Direct s (pa c) n) (s' : State) (m : List Host.Cell) (hs : Stored s s' m) (hm : Memory.wf m = true) :
    ∃ t m', eachDo (l.map fun c => (c, va c, pa c, data c)) s'
        (fun s x => storeOne s r x.1 x.2.1 x.2.2.1 x.2.2.2 sc pol rel ev op whole) = Res.ok t ∧
      Stored s t m' ∧
      ∀ x, mapGet memDefault m' x = (lastWrite (l.flatMap fun c => cellsAt (pa c) (data c)) x).getD (mapGet memDefault m x) := by
  induction l generalizing s' m with
  | nil => exact ⟨s', m, rfl, hs, fun _ => rfl⟩
  | cons c l ih =>
    have hdc := hs.direct (hd c (List.mem_cons_self ..))
    obtain ⟨u, hu, ku⟩ := storeOne_ok (s := s') (r := r) (c := c) (va := va c) (pa := pa c) (bs := data c) sc pol rel ev op whole
      (by rw [hs.hasItems]; exact hi) (by rw [hl]; exact hdc) (by rw [hl]; exact hn)
    rw [hs.mem] at ku
    obtain ⟨t, m', ht, kt, hx⟩ := ih (fun x hx => hd x (List.mem_cons_of_mem _ hx)) u _ (hs.trans ku) (writeBytes_wf hm _ _)
    refine ⟨t, m', ?_, kt, fun x => ?_⟩
    · simp only [eachDo, List.map, List.foldl]
      rw [andThen_ok, hu]
      exact ht
    · rw [hx x, writeBytes_get hm, List.flatMap_cons, lastWrite_append]
      cases lastWrite (l.flatMap fun c => cellsAt (pa c) (data c)) x <;> rfl

theorem storedBytes_length (n : Nat) (w : Nat → Word) : (storedBytes n w).length = n := by simp [storedBytes]

/-! ## Whole sectors (R124) -/

theorem mem_setAdd (l : List Nat) (n x : Nat) : x ∈ setAdd l n ↔ x = n ∨ x ∈ l := by
  induction l with
  | nil => simp [setAdd]
  | cons a l ih =>
    unfold setAdd
    split
    · simp
    · split
      · next h => subst h; simp
      · simp only [List.mem_cons, ih, or_left_comm]

theorem mem_foldl_setAdd (l acc : List Nat) (x : Nat) : x ∈ l.foldl setAdd acc ↔ x ∈ l ∨ x ∈ acc := by
  induction l generalizing acc with
  | nil => simp
  | cons a l ih => simp only [List.foldl, ih, mem_setAdd, List.mem_cons, or_left_comm, or_assoc]

theorem mem_sectorsOf (pa n sec : Nat) : sec ∈ sectorsOf pa n ↔ pa < 32 * sec + 32 ∧ 32 * sec < pa + n ∧ 0 < n := by
  unfold sectorsOf
  split
  · simp; omega
  · simp only [List.mem_map, List.mem_range]
    exact ⟨fun ⟨i, h, e⟩ => by omega, fun h => ⟨sec - pa / 32, by omega, by omega⟩⟩

theorem cellsAt_any (pa : Nat) (bs : List Byte) (x : Nat) :
    ((cellsAt pa bs).any fun c => c.1 == x) = (decide (pa ≤ x) && decide (x < pa + bs.length)) := by
  unfold cellsAt
  rw [Bool.eq_iff_iff]
  simp only [List.any_map, List.any_eq_true, List.mem_range, Function.comp, beq_iff_eq, Bool.and_eq_true, decide_eq_true_eq]
  exact ⟨fun ⟨i, h, e⟩ => by omega, fun h => ⟨x - pa, by omega, by omega⟩⟩

/-- The sectors that a store's lanes together write whole. -/
theorem wholeSectors_covers (l : List Nat) (pa : Nat → Nat) (data : Nat → List Byte) (sec : Nat) :
    (wholeSectors (l.map fun c => (pa c, (data c).length))).contains sec =
      coversSector (l.flatMap fun c => cellsAt (pa c) (data c)) sec := by
  have e : ∀ i, ((l.flatMap fun c => cellsAt (pa c) (data c)).any fun c => c.1 == 32 * sec + i) =
      l.any fun c => decide (pa c ≤ 32 * sec + i) && decide (32 * sec + i < pa c + (data c).length) := by
    intro i
    rw [List.any_flatMap]
    simp only [cellsAt_any]
  rw [Bool.eq_iff_iff]
  unfold wholeSectors coversSector
  simp only [e, List.contains_eq_mem, decide_eq_true_eq, List.mem_filter, mem_foldl_setAdd, List.any_map, Function.comp_def,
    List.mem_flatMap, List.mem_map, mem_sectorsOf, List.not_mem_nil, or_false]
  refine ⟨fun h => h.2, fun h => ⟨?_, h⟩⟩
  have h0 := List.all_eq_true.mp h 0 (by simp)
  obtain ⟨c, hc, hx⟩ := List.any_eq_true.mp h0
  simp only [Bool.and_eq_true, decide_eq_true_eq] at hx
  exact ⟨_, ⟨c, hc, rfl⟩, by simp only; omega, by simp only; omega, by simp only; omega⟩

/-- A direct address and the start of its sector lie in one target. -/
theorem target_sector {s : State} {pa : Nat} (h : targetOf s pa = .device ∨ targetOf s pa = .host ∨ targetOf s pa = .peer) :
    targetOf s (32 * (pa / 32)) = targetOf s pa := by
  have hb : ¬(0xD000000000000 ≤ pa ∧ pa < 0xE000000000000) := by
    intro hx
    unfold targetOf at h
    rw [if_neg (by omega), if_neg (by omega), if_neg (by omega), if_pos hx.2] at h
    split at h <;> simp at h
  unfold targetOf
  repeat' split
  all_goals first | rfl | (exfalso; omega)

/-- Sectors of memory that are written whole are no longer poison. -/
theorem cleanSectors_direct (secs : List Nat) (s : State)
    (h : ∀ x ∈ secs, targetOf s (32 * x) = .device ∨ targetOf s (32 * x) = .host ∨ targetOf s (32 * x) = .peer) :
    cleanSectors s secs = { s with poison := s.poison.filter fun x => !secs.contains x } := by
  induction secs generalizing s with
  | nil =>
    have : (s.poison.filter fun x => !([] : List Nat).contains x) = s.poison := List.filter_eq_self.mpr fun _ _ => rfl
    rw [this]
    rfl
  | cons a secs ih =>
    have ha := h a (List.mem_cons_self ..)
    have hl : landing s (32 * a) = some (32 * a) := by
      unfold landing
      rcases ha with e | e | e <;> rw [e]
    have hp : (targetOf s (32 * a) == Target.aperture) = false := by rcases ha with e | e | e <;> rw [e] <;> rfl
    have hs : sectorOf (32 * a) = a := by unfold sectorOf; omega
    have step : cleanSectors s (a :: secs) = cleanSectors { s with poison := s.poison.filter (· != a) } secs := by
      unfold cleanSectors
      simp only [List.foldl, hl, hp, hs, Bool.false_eq_true, if_false]
    rw [step, ih _ fun x hx => by
      have := h x (List.mem_cons_of_mem _ hx)
      rw [targetOf_bar rfl]
      exact this]
    simp only [List.filter_filter]
    congr 1
    apply List.filter_congr
    intro x _
    simp only [List.contains_cons, Bool.not_or, bne]
    rw [Bool.and_comm]

/-- Sectors that a store's direct lanes together write whole lie in memory. -/
theorem whole_direct {s : State} {n : Nat} {pa : Nat → Nat} {data : Nat → List Byte} {l : List Nat} (hn : n < 32)
    (hl : ∀ c, (data c).length = n) (hd : ∀ c ∈ l, Direct s (pa c) n) :
    ∀ x ∈ wholeSectors (l.map fun c => (pa c, (data c).length)),
      targetOf s (32 * x) = .device ∨ targetOf s (32 * x) = .host ∨ targetOf s (32 * x) = .peer := by
  intro x hx
  have h1 : coversSector (l.flatMap fun c => cellsAt (pa c) (data c)) x = true := by
    rw [← wholeSectors_covers]
    simpa using hx
  have h31 := List.all_eq_true.mp h1 31 (by simp)
  rw [List.any_flatMap] at h31
  obtain ⟨c, hc, hx⟩ := List.any_eq_true.mp h31
  rw [cellsAt_any, hl] at hx
  simp only [Bool.and_eq_true, decide_eq_true_eq] at hx
  have ht := (hd c hc).target
  have := target_sector ht
  rw [show pa c / 32 = x by omega] at this
  rw [this]
  exact ht

theorem dataAllowed_here {s : State} {r : Run} {a : Src} (h : ∀ c ∈ r.lanes, DataHere (laneTh s r c) a) :
    dataAllowed s r a = .ok () := by
  unfold dataAllowed
  split
  · rfl
  · next c hx =>
    have hc := List.mem_of_find?_eq_some hx
    have hp := List.find?_some hx
    cases a with
    | k i => have := h c hc i rfl; simp [this.1, this.2] at hp
    | _ => simp at hp

theorem usePages_tlb (s : State) (env : AccEnv) (vas : List Dword) : ∃ l, usePages s env vas = { s with tlb := l } := by
  suffices h : ∀ (l : List Dword) (t : State), (∃ x, t = { s with tlb := x }) →
      ∃ x, l.foldl (fun s va => usePage s env va) t = { s with tlb := x } from h vas s ⟨s.tlb, rfl⟩
  intro l
  induction l with
  | nil => exact fun _ h => h
  | cons a l ih => exact fun t ⟨x, h⟩ => ih _ ⟨tlbUse x env.req.core env.ctx a.toNat, by subst h; rfl⟩

/-- A store of any form completes at issue in a team that has no items to compare. -/
theorem stores_globalStore {i : Instr} {s : State} {r : Run} {rest : List Run} {a : Src} {n pol sc : Nat} {rel : Bool}
    {addr : State → Run → Nat → Res (Option Dword)} {ad : Nat → Option Dword} {pa : Nat → Nat} {data : Nat → List Byte}
    (hi : exec i s = attempt s fun s r => globalStore s r a n pol sc rel (addr s r)) (hs : Issuing s r rest)
    (hw : s.sound) (hit : hasItems s r.team = false) (hn : n < 32) (hlen : ∀ c, (data c).length = n)
    (hdh : ∀ c ∈ r.lanes, DataHere (laneTh s r c) a)
    (ha : ∀ c ∈ r.lanes, addr (issued s r rest) { r with sig := .word } c = .ok (ad c))
    (hdat : ∀ c ∈ r.lanes, (ad c).isSome = true → storeData s r c a n = .ok (data c))
    (hr : Reaches s r .store (pol == 3) n (fun c => (ad c).isSome)
      (fun c => (ad c).getD 0 + BitVec.ofInt 64 (repShift s r n)) pa)
    (hc : (getGroup s r.team r.grp).stc < 63) :
    Stores i s r rest (fun c => (ad c).isSome) pa data rel := by
  let va := fun c => (ad c).getD 0 + BitVec.ofInt 64 (repShift s r n)
  let s1 := issued s r rest
  let r1 : Run := { r with sig := .word }
  have hil : (teamIl s1 r1.team == 3) = false := by
    have h : hasItems s r.team = false := hit
    unfold hasItems at h
    simp only [Bool.or_eq_false_iff] at h
    exact h.1
  have h1 : ∀ c ∈ r1.lanes, (addr s1 r1 c).andThen (fun x => match x with
      | none => .ok none
      | some va =>
        let va := va + BitVec.ofInt 64 (repShift s1 r1 n)
        (storeData s1 r1 c a n).andThen fun bs =>
          (checkLane s1 r1 c .store (pol == 3) false n va).map fun p => some (va, p.1, bs)) =
      .ok (if (ad c).isSome then some (va c, pa c, data c) else none) := by
    intro c hc
    refine andThen_of (ha c hc) ?_
    have := hr c hc
    have hda := hdat c hc
    cases hac : ad c with
    | none => rfl
    | some x =>
      obtain ⟨⟨sa, h⟩, -⟩ := this (by simp [hac])
      simp only [hac, Option.getD_some] at h
      refine andThen_of (hda (by simp [hac])) ?_
      have hk : checkLane s1 r1 c .store (pol == 3) false n (x + BitVec.ofInt 64 (repShift s r n)) = .ok (pa c, sa) := by
        unfold checkLane
        have : checkGlobal s1 (envOf s1 r1) .store (pol == 3) false n (x + BitVec.ofInt 64 (repShift s r n)) = .ok (pa c) sa := h
        rw [this]
      refine map_of hk ?_
      simp only [va, hac, Option.isSome_some, if_true, Option.getD_some]
      rfl
  have hlive : ∀ l : List Nat, (l.map fun c => (c, if (ad c).isSome then some (va c, pa c, data c) else none)).filterMap
      (fun x => x.2.map fun y => (x.1, y)) = (l.filter fun c => (ad c).isSome).map fun c => (c, va c, pa c, data c) := by
    intro l
    induction l with
    | nil => rfl
    | cons c l ih => cases h : (ad c).isSome <;> simp [h, ih]
  have hroom : ∀ b, roomFor s1 r1 .st b = .ok () := by
    intro b
    have hx : (getGroup s1 r1.team r1.grp).ctr .st < 63 := hc
    simp [roomFor, Res.unless, hx]
  have hcom : ∀ b, needCommit s1 r1 b = .ok () := by
    intro b
    unfold needCommit
    rw [hil]
    simp
  have hspend : spendGrant s1 r1 = s1 := by
    unfold spendGrant
    rw [if_neg (by intro h; rw [h] at hil; simp at hil)]
  have hemp : ((r.lanes.filter fun c => (ad c).isSome).map fun c => (c, va c, pa c, data c)).isEmpty =
      !(r.lanes.any fun c => (ad c).isSome) := by
    rw [List.isEmpty_map]
    cases h : r.lanes.any fun c => (ad c).isSome with
    | true =>
      obtain ⟨c, hc, hl⟩ := List.any_eq_true.mp h
      have : c ∈ r.lanes.filter fun c => (ad c).isSome := List.mem_filter.mpr ⟨hc, hl⟩
      cases hf : r.lanes.filter fun c => (ad c).isSome with
      | nil => rw [hf] at this; simp at this
      | cons => rfl
    | false =>
      rw [List.any_eq_false] at h
      rw [List.filter_eq_nil_iff.mpr h]
      rfl
  have hrel : ∀ x : State, (if rel then restartWatchdog x r.team else x).teams.map teamKey = x.teams.map teamKey ∧
      (if rel then restartWatchdog x r.team else x).bar = x.bar ∧ (if rel then restartWatchdog x r.team else x).aper = x.aper ∧
      (if rel then restartWatchdog x r.team else x).launches = x.launches ∧
      (if rel then restartWatchdog x r.team else x).mem = x.mem := by
    intro x
    cases rel
    · exact ⟨rfl, rfl, rfl, rfl, rfl⟩
    · exact ⟨keys_restartWatchdog _ _, rfl, rfl, rfl, rfl⟩
  obtain ⟨hk, hb, hap, hla, hme⟩ := hrel s1
  have hdat1 : dataAllowed s1 r1 a = .ok () := dataAllowed_here hdh
  have hit1 : hasItems s1 r1.team = false := hit
  generalize hs2 : (if rel then restartWatchdog s1 r.team else s1) = s2 at hk hb hap hla hme
  let lanes := r.lanes.filter fun c => (ad c).isSome
  let whole := wholeSectors (lanes.map fun c => (pa c, (data c).length))
  obtain ⟨tl, htl⟩ := usePages_tlb s2 (envOf s2 r1) (lanes.map va)
  let s3 : State := { s2 with tlb := tl }
  have hk3 : (started s3 r1 (.store []) .st).teams.map teamKey = s1.teams.map teamKey :=
    (keys_started s3 r1 (.store []) .st).trans hk
  have hdir : ∀ c ∈ lanes, Direct (started s3 r1 (.store []) .st) (pa c) n := fun c hc =>
    direct_keys hk3 hb hap (direct_issued (hr c (List.mem_filter.mp hc).1 (List.mem_filter.mp hc).2).2)
  obtain ⟨t, m', ht, kt, hx⟩ := storeLoop (s := started s3 r1 (.store []) .st) (r := r1) (n := n) sc pol rel true s3.nextId whole
    (va := va) (pa := pa) (data := data) hn hlen ((hasItems_keys hk3 hla r.team).trans hit) lanes hdir
    _ _ (Stored.refl _) (by show Memory.wf s2.mem = true; rw [hme]; exact hw)
  cases hany : r.lanes.any fun c => (ad c).isSome with
  | false =>
    have e : globalStore s1 r1 a n pol sc rel (addr s1 r1) = .ok s1 := by
      unfold globalStore
      refine andThen_of hdat1 (andThen_of (forLanes_ok h1) ?_)
      simp only [hlive, hroom, hcom, andThen_ok]
      exact if_pos (hemp.trans (by rw [hany]; rfl))
    refine ⟨_, hi.trans (attempt_ok hs.head e), ?_⟩
    have hf : (r.lanes.filter fun c => (ad c).isSome) = [] := by
      rw [List.any_eq_false] at hany
      exact List.filter_eq_nil_iff.mpr hany
    simp only [hany, Bool.false_eq_true, if_false, hf]
    refine ⟨fun _ => rfl, ?_, rfl, rfl, rfl⟩
    exact (List.filter_eq_self.mpr fun _ _ => rfl).symm
  | true =>
    let u := cleanSectors t whole
    have hcl : u = { t with poison := t.poison.filter fun x => !whole.contains x } :=
      cleanSectors_direct whole t (whole_direct hn hlen fun c hc => kt.direct (hdir c hc))
    have hti : hasItems t r.team = false := by rw [kt.hasItems]; exact (hasItems_keys hk3 hla r.team).trans hit
    have e : globalStore s1 r1 a n pol sc rel (addr s1 r1) = .ok u := by
      unfold globalStore
      refine andThen_of hdat1 (andThen_of (forLanes_ok h1) ?_)
      simp only [hlive, hroom, hcom, andThen_ok]
      refine (if_neg (fun h => by rw [hemp, hany] at h; simp at h)).trans ?_
      simp only [hspend, hit1, Bool.not_false, Bool.and_true, List.map_map, Function.comp_def]
      refine map_of (a := t) ?_ (by show Res.ok (if hasItems t r.team then t else u) = _; rw [hti]; rfl)
      rw [← ht]
      have htl' : usePages s2 (envOf s2 r1) (lanes.map va) = s3 := htl
      rw [← htl', ← hs2]
      rfl
    refine ⟨_, hi.trans (attempt_ok hs.head e), ?_⟩
    have hm2 : (started s3 r1 (.store []) .st).mem = s.mem := hme
    simp only [hany, if_true]
    have e1 : started s3 r1 (.store []) .st =
        { started (if rel then restartWatchdog s r.team else s) r (.store []) .st with runs := r1 :: rest, tlb := tl } := by
      simp only [s3]
      rw [← hs2]
      cases rel <;> rfl
    have hr0 : (started (if rel then restartWatchdog s r.team else s) r (.store []) .st).runs = s.runs := by cases rel <;> rfl
    have hm0 : (started (if rel then restartWatchdog s r.team else s) r (.store []) .st).mem = s.mem := by cases rel <;> rfl
    have hw0 : ∀ x, withCaches (started (if rel then restartWatchdog s r.team else s) r (.store []) .st) x = withCaches s x := by
      intro x
      cases rel <;> rfl
    have hp0 : (started (if rel then restartWatchdog s r.team else s) r (.store []) .st).poison = s.poison := by cases rel <;> rfl
    generalize started (if rel then restartWatchdog s r.team else s) r (.store []) .st = s0 at e1 hr0 hm0 hw0 hp0 ⊢
    rw [e1] at kt
    have hp : t.poison = s.poison := (congrArg State.poison kt.rest : _).trans hp0
    rw [hcl]
    refine ⟨fun x => ?_, ?_, kt.teams, (congrArg State.runs kt.rest : _), ?_⟩
    · simp only [kt.mem, hx x, hm2]
      rfl
    · simp only [hp, whole, wholeSectors_covers, lanes]
    · have h := congrArg (fun x : State => { x with runs := s0.runs, tlb := s0.tlb }) kt.rest
      rw [← hw0, ← hm0, ← hr0, ← hp]
      exact h

theorem natBytes_word (w : Word) : natBytes 4 w.toNat = [byteOf w 0, byteOf w 1, byteOf w 2, byteOf w 3] := by
  have h : ∀ i, byteOf w i = BitVec.ofNat 8 (w.toNat / 2 ^ (8 * i)) := by
    intro i
    apply BitVec.eq_of_toNat_eq
    simp [byteOf, Nat.shiftRight_eq_div_pow]
  simp only [natBytes, h, Nat.div_div_eq_div_mul]
  simp

theorem wordsBytes (k : Nat) (w : Nat → Word) :
    ((List.range k).map w).flatMap (fun x => natBytes 4 x.toNat) = storedBytes (4 * k) w := by
  induction k with
  | zero => rfl
  | succ k ih =>
    rw [List.range_succ, List.map_append, List.flatMap_append, ih]
    unfold storedBytes
    rw [show 4 * (k + 1) = 4 * k + 1 + 1 + 1 + 1 by omega]
    simp only [List.range_succ, List.map_append, List.map_cons, List.map_nil, List.flatMap_cons, List.flatMap_nil,
      List.append_nil, natBytes_word, List.append_assoc, List.cons_append, List.nil_append]
    rw [show 4 * k / 4 = k by omega, show (4 * k + 1) / 4 = k by omega, show (4 * k + 1 + 1) / 4 = k by omega,
      show (4 * k + 1 + 1 + 1) / 4 = k by omega, show 4 * k % 4 = 0 by omega, show (4 * k + 1) % 4 = 1 by omega,
      show (4 * k + 1 + 1) % 4 = 2 by omega, show (4 * k + 1 + 1 + 1) % 4 = 3 by omega]

/-- The data of a store of one of the widths of R273. -/
theorem storeData_ok {s : State} {r : Run} {c n : Nat} {a : Src} {w : Nat → Word} (hn : n = 1 ∨ n = 2 ∨ n = 4 ∨ n = 8 ∨ n = 16)
    (h : StoreReads s r a n c w) : storeData s r c a n = .ok (storedBytes n w) := by
  have hk : ((if n ≤ 4 then 1 else n / 4) : Nat) = (n + 3) / 4 := by rcases hn with rfl | rfl | rfl | rfl | rfl <;> rfl
  have h1 : readSrcs s r c a (if n ≤ 4 then 1 else n / 4) = .ok ((List.range ((n + 3) / 4)).map w) := by
    unfold readSrcs
    rw [hk]
    refine map_of (forLanes_ok (v := w) fun j hj => h j (List.mem_range.mp hj)) ?_
    simp [Function.comp_def]
  refine map_of h1 ?_
  congr 1
  rw [wordsBytes]
  unfold storedBytes
  rw [← List.map_take, List.take_range]
  congr 2
  rcases hn with rfl | rfl | rfl | rfl | rfl <;> rfl

theorem storesMu_of {i : Instr} {o : MuSt} {n : Nat} (hn : n = 1 ∨ n = 2 ∨ n = 4 ∨ n = 8 ∨ n = 16)
    (hi : ∀ s, exec i s = attempt s fun s r => storeMu s r o n) : StoresMu i o n := by
  intro s r rest a pa w hs hw hit hdh ha hdat hr hc
  exact stores_globalStore (ad := fun c => some (a c)) (addr := fun s r c => (muAddr s r o.kp o.ix o.x o.imm n c).map some)
    (hi s) hs hw hit (by omega) (fun c => storedBytes_length n (w c)) hdh
    (fun c hc => map_of (ha c hc) rfl) (fun c hc _ => storeData_ok hn (hdat c hc)) (by rw [policy_sys]; exact hr) hc

theorem storesMp_of {i : Instr} {o : MpSt} {n : Nat} {rel : Bool} (hn : n = 1 ∨ n = 2 ∨ n = 4 ∨ n = 8 ∨ n = 16)
    (hi : ∀ s, exec i s = attempt s fun s r => storeMp s r o n rel) : StoresMp i o n rel := by
  intro s r rest a pa w hs hw hit hdh ha hdat hr hc
  exact stores_globalStore (ad := a) (addr := fun s r => mpAddr s r o.np o.imm n o.g)
    (hi s) hs hw hit (by omega) (fun c => storedBytes_length n (w c)) hdh
    (fun c hc => ha c hc) (fun c hc h => storeData_ok hn (hdat c hc h)) (by rw [policy_sys]; exact hr) hc

end Sys2Proof
end

