-- ==== Sys2Proof/Laws/Memory.lean ====
section
/-! SUPPORT. Every operation that writes memory keeps its canonical form, and the form holds at reset. -/

namespace Sys2Proof.Machine

/-- A fold of operations that each keep a property keeps it. -/
theorem foldl_keeps {α β : Type} {p : β → Prop} {f : β → α → β} (hf : ∀ b a, p b → p (f b a)) (l : List α) {b : β} (h : p b) :
    p (l.foldl f b) := by
  induction l generalizing b with
  | nil => exact h
  | cons a r ih => exact ih (hf b a h)

/-- In a canonical map, every later key lies above the first. -/
theorem mapWf_above {α : Type} [DecidableEq α] {d : α} {x : Nat × α} {m : List (Nat × α)} (h : mapWf d (x :: m) = true) {y : Nat × α} (hy : y ∈ m) :
    x.1 < y.1 := by
  induction m generalizing x with
  | nil => cases hy
  | cons z r ih =>
    have ⟨h1, h2⟩ : x.1 < z.1 ∧ mapWf d (z :: r) = true := by
      simp only [mapWf, Bool.and_eq_true, decide_eq_true_eq] at h
      exact ⟨h.1.2, h.2⟩
    cases hy with
    | head => exact h1
    | tail _ hy => exact Nat.lt_trans h1 (ih h2 hy)
/-- A canonical map with a first key below it and a listed value is canonical. -/
theorem mapWf_cons {α : Type} [DecidableEq α] {d : α} {x : Nat × α} {m : List (Nat × α)} (hx : x.2 ≠ d) (hm : mapWf d m = true)
    (hl : ∀ y ∈ m, x.1 < y.1) : mapWf d (x :: m) = true := by
  cases m with
  | nil => simpa [mapWf] using hx
  | cons z r => simp [mapWf, hx, hl z (List.mem_cons_self ..), hm]
theorem mapWf_head {α : Type} [DecidableEq α] {d : α} {x : Nat × α} {m : List (Nat × α)} (h : mapWf d (x :: m) = true) : x.2 ≠ d := by
  cases m with
  | nil => simpa [mapWf] using h
  | cons z r =>
    simp only [mapWf, Bool.and_eq_true, decide_eq_true_eq] at h
    exact h.1.1
/-- Part of a canonical map is canonical. -/
theorem mapWf_filter {α : Type} [DecidableEq α] {d : α} {m : List (Nat × α)} (h : mapWf d m = true) (p : Nat × α → Bool) :
    mapWf d (m.filter p) = true := by
  induction m with
  | nil => rfl
  | cons x r ih =>
    rw [List.filter_cons]
    split
    · exact mapWf_cons (mapWf_head h) (ih (mapWf_tail h)) fun y hy => mapWf_above h (List.mem_filter.1 hy).1
    · exact ih (mapWf_tail h)

/-- Memory is in its canonical form. -/
abbrev MemOk (s : State) : Prop := Memory.wf s.mem = true

theorem resplit_wf {s : State} (l : AperLine) (h : MemOk s) : MemOk (resplit s l) := by
  unfold resplit
  split
  · exact h
  · dsimp only [MemOk]
    split
    · exact writeBytes_wf h ..
    · exact writeBytes_wf (writeBytes_wf h ..) ..
theorem reachBacking_wf {s : State} (pa n : Nat) (w : Bool) (h : MemOk s) : MemOk (reachBacking s pa n w) := by
  have := foldl_keeps (fun _ l k => resplit_wf l k) ((s.aper.filter (backingMeets s pa n)).filter (·.dirty)) h
  unfold reachBacking
  split <;> exact this
theorem storeBytes_wf {s : State} (pa : Nat) (bs : List Byte) (bad : List Nat) (h : MemOk s) : MemOk (storeBytes s pa bs bad) :=
  writeBytes_wf (reachBacking_wf pa bs.length true h) ..
theorem backWith_wf {put : State → Nat → List Byte → List Nat → State}
    (hp : ∀ s pa bs bad, MemOk s → MemOk (put s pa bs bad)) {s : State} (tid : Nat) (l : StashLine) (h : MemOk s) :
    MemOk (backWith put s tid l) := by
  unfold backWith
  split
  · exact h
  · dsimp only
    split
    · exact h
    · exact h
    · exact hp _ _ _ _ h
theorem snoopWith_wf {back : State → Nat → StashLine → State} (hb : ∀ s tid l, MemOk s → MemOk (back s tid l)) {s : State}
    (pa : Nat) (keep : Option Nat) (h : MemOk s) : MemOk (snoopWith back s pa keep) := by
  unfold snoopWith
  refine foldl_keeps (p := MemOk) (fun s tid h => ?_) _ h
  dsimp only
  split
  · exact h
  · split
    · exact h
    · split
      · exact h
      · dsimp only [MemOk]
        split
        · exact hb _ _ _ h
        · exact h
theorem holdLine_wf {s t : State} {pa : Nat} {l : AperLine} (h : MemOk s) (e : holdLine s pa = some (t, l)) : MemOk t := by
  unfold holdLine at e
  dsimp only at e
  split at e
  · cases e; exact h
  · cases hr : aperRange s pa with
    | none => rw [hr] at e; cases e
    | some r =>
      rw [hr] at e
      simp only [Option.map_some, Option.some.injEq, Prod.mk.injEq] at e
      rw [← e.1]
      exact reachBacking_wf _ _ _ (reachBacking_wf _ _ _ (foldl_keeps (p := MemOk)
        (fun _ x k => snoopWith_wf (fun _ tid l => backWith_wf (fun _ pa bs bad => storeBytes_wf pa bs bad) tid l) x none k) _ h))
theorem putBytes_wf {s : State} (pa : Nat) (bs : List Byte) (bad : List Nat) (h : MemOk s) : MemOk (putBytes s pa bs bad) := by
  unfold putBytes
  split
  · split
    · exact h
    · have k := holdLine_wf h ‹holdLine _ _ = _›
      exact k
  · split
    · exact h
    · exact storeBytes_wf _ _ _ h
  · exact storeBytes_wf _ _ _ h
theorem stashWriteBack_wf {s : State} (tid : Nat) (l : StashLine) (h : MemOk s) : MemOk (stashWriteBack s tid l) :=
  backWith_wf (fun _ pa bs bad => putBytes_wf pa bs bad) tid l h
theorem snoopStash_wf {s : State} (pa : Nat) (keep : Option Nat) (h : MemOk s) : MemOk (snoopStash s pa keep) :=
  snoopWith_wf (fun _ => stashWriteBack_wf) pa keep h
/-- The snoops of several lines. -/
theorem snoops_wf {s : State} (ls : List Nat) (keep : Option Nat) (h : MemOk s) :
    MemOk (ls.foldl (fun s l => snoopStash s l keep) s) := foldl_keeps (p := MemOk) (fun _ l k => snoopStash_wf l keep k) _ h
theorem dropCopies_wf {s : State} (pa n : Nat) (core : Option Nat) (h : MemOk s) : MemOk (dropCopies s pa n core) := h
theorem reachHome_wf {s : State} (pa n : Nat) (w : Bool) (keep : Option Nat) (h : MemOk s) : MemOk (reachHome s pa n w keep) :=
  reachBacking_wf _ _ _ (snoops_wf _ keep h)
theorem plainRead_wf {s : State} (pa n : Nat) (keep : Option Nat) (h : MemOk s) : MemOk (plainRead s pa n keep).1 :=
  reachHome_wf _ _ _ _ h
theorem homeRead_wf {s : State} (pa n : Nat) (keep : Option Nat) (h : MemOk s) : MemOk (homeRead s pa n keep).1 := by
  have k := snoops_wf (linesOf pa n) keep h
  unfold homeRead
  split
  · dsimp only
    split
    · exact k
    · exact holdLine_wf k ‹_›
  · dsimp only
    split
    · exact k
    · exact plainRead_wf _ _ _ k
  · exact plainRead_wf _ _ _ h
theorem plainWrite_wf {s : State} (pa : Nat) (bytes : List Byte) (core keep : Option Nat) (h : MemOk s) :
    MemOk (plainWrite s pa bytes core keep) :=
  writeBytes_wf (dropCopies_wf pa bytes.length core (reachHome_wf _ _ _ keep h)) ..
/-- R112, R113: a write at the home. -/
theorem homeWrite_wf {s : State} (pa : Nat) (bytes : List Byte) (core keep : Option Nat) (h : MemOk s) :
    MemOk (homeWrite s pa bytes core keep) := by
  have k := snoops_wf (linesOf pa bytes.length) keep h
  unfold homeWrite
  dsimp only
  split
  · split
    · exact k
    · have k := holdLine_wf k ‹holdLine _ _ = _›
      exact k
  · split
    · exact k
    · exact plainWrite_wf _ _ _ _ k
  · exact plainWrite_wf _ _ _ _ h
theorem poisonSectors_wf {s : State} (secs : List Nat) (h : MemOk s) : MemOk (poisonSectors s secs) :=
  foldl_keeps (p := MemOk) (fun s x k => by
    split
    · exact k
    · split <;> exact k) _ h
theorem writeCells_wf {s : State} (core : Option Nat) (cs : List Host.Cell) (bad : List Nat) (h : MemOk s) :
    MemOk (writeCells s core cs bad) :=
  poisonSectors_wf _ (foldl_keeps (p := MemOk) (fun _ x k => homeWrite_wf x.1 x.2 core none k) _ h)
theorem performWindow_wf {s : State} (p : WinAccess → Bool) (h : MemOk s) : MemOk (performWindow s p) :=
  foldl_keeps (p := MemOk) (fun _ x k => homeWrite_wf x.pa x.bytes none none k) _ h
theorem clearAperture_wf {s : State} (r : AperRange) (h : MemOk s) : MemOk (clearAperture s r) := snoops_wf _ none h
theorem disableFormat_wf {s : State} (f : Nat) (h : MemOk s) : MemOk (disableFormat s f) :=
  foldl_keeps (p := MemOk) (fun _ l k => resplit_wf l k) _ (clearAperture_wf _ h)
/-- R122: the move of a page's bytes. -/
theorem copyPage_wf {s : State} (m : Migration) (h : MemOk s) : MemOk (copyPage s m) := by
  unfold copyPage
  dsimp only [MemOk]
  exact foldl_keeps (p := fun mem => Memory.wf mem = true) (fun _ c k => mapSet_wf k ..) _
    (mapWf_filter (reachBacking_wf _ _ _ (reachBacking_wf _ _ _ (foldl_keeps (fun _ l k => snoopStash_wf l none k) _ h))) _)
theorem outsideOf_wf {s : State} (h : MemOk s) : MemOk (outsideOf s) := mapWf_filter h _
theorem powerOff_wf {s : State} (nor : Nor) (h : MemOk s) : MemOk (powerOff s nor) := mapWf_filter h _
theorem resetDevice_wf {s : State} (h : MemOk s) : MemOk (resetDevice s) := mapWf_filter h _
theorem bootNext_wf {s : State} (h : MemOk s) : MemOk (bootNext s) := by
  unfold bootNext
  split
  · exact h
  · split
    · exact h
    · dsimp only
      split <;> exact h
  · exact (foldl_keeps (p := MemOk) (f := fun s _ => refuseImage s) (fun _ _ k => k) _ h : _)
  · exact mapWf_filter h _
  · exact h
  · exact h
theorem withFetchWord_wf {s : State} (nbits w : Nat) (h : MemOk s) : MemOk (s.withFetchWord nbits w) :=
  writeBytes_wf (writeBytes_wf h ..) ..
theorem reset_memory_wf : MemOk State.reset := rfl

end Sys2Proof.Machine
end

