-- ==== Sys2Proof/Laws/Operations.lean ====
section
/-! SUPPORT. One law for each shared operation: the registers of the management window, counters, operations in flight,
taking a trap (R85), returning from one (R322), raising a fault, and issuing. -/

namespace Sys2Proof

open Machine Claims

/-! ## Registers of the management window -/

theorem bar_setBar {s : State} (h : mapWf 0 s.bar = true) (off : Nat) (v : Dword) : bar (setBar s off v) off = v :=
  mapGet_mapSet_same h off v
theorem bar_setBar_other (s : State) {off o : Nat} (v : Dword) (h : off ≠ o) : bar (setBar s off v) o = bar s o :=
  mapGet_mapSet_other _ v h
theorem setBar_wf {s : State} (h : mapWf 0 s.bar = true) (off : Nat) (v : Dword) : mapWf 0 (setBar s off v).bar = true :=
  mapSet_wf h off v
theorem setBar_else (s : State) (off : Nat) (v : Dword) : { setBar s off v with bar := s.bar } = s := rfl
theorem pbar_setPbar {s : State} (h : mapWf 0 s.bar = true) (d off : Nat) (v : Dword) : pbar (setPbar s d off v) d off = v :=
  bar_setBar h ..

/-! ## Counters (R81, R208) -/

theorem group_modGroup {s : State} {tid g : Nat} (f : Group → Group) (ht : tid < s.teams.length) (hg : g < (getCore s tid).groups.length) :
    getGroup (modGroup s tid g f) tid g = f (getGroup s tid g) := by
  simp only [getGroup, modGroup]
  rw [core_modCore s tid _ ht]
  exact listMod_getD_same _ _ _ _ hg
@[simp] theorem ctr_setCtr (g : Group) (c : Ctr) (n : Nat) : (g.setCtr c n).ctr c = n := by cases c <;> rfl
theorem ctr_setCtr_other (g : Group) {c k : Ctr} (n : Nat) (h : c ≠ k) : (g.setCtr c n).ctr k = g.ctr k := by
  cases c <;> cases k <;> first | rfl | exact absurd rfl h
theorem raiseCtr_group {s : State} {tid g : Nat} (c : Ctr) (ht : tid < s.teams.length) (hg : g < (getCore s tid).groups.length) :
    getGroup (raiseCtr s tid g c) tid g = (getGroup s tid g).setCtr c ((getGroup s tid g).ctr c + 1) :=
  group_modGroup _ ht hg
theorem lowerCtr_group {s : State} {tid g : Nat} (c : Ctr) (ht : tid < s.teams.length) (hg : g < (getCore s tid).groups.length) :
    getGroup (lowerCtr s tid g c) tid g = (getGroup s tid g).setCtr c ((getGroup s tid g).ctr c - 1) :=
  group_modGroup _ ht hg

/-! ## Operations in flight -/

theorem find_below {l : List Op} {n : Nat} (h : ∀ o ∈ l, o.id < n) : l.find? (·.id == n) = none :=
  List.find?_eq_none.2 fun o ho e => Nat.ne_of_lt (h o ho) (by simpa using e)
/-- The new operation is found under its identifier, which no earlier one has. -/
theorem findOp_addOp {s : State} (h : ∀ o ∈ s.ops, o.id < s.nextId) (tid g : Nat) (pc : Dword) (c : Nat) (k : OpKind) :
    findOp (addOp s tid g pc c k) s.nextId = some ⟨s.nextId, tid, g, pc, c, k⟩ := by
  simp [findOp, addOp, List.find?_append, find_below h]
theorem findOp_addOp_other (s : State) (tid g : Nat) (pc : Dword) (c : Nat) (k : OpKind) {id : Nat} (h : id ≠ s.nextId) :
    findOp (addOp s tid g pc c k) id = findOp s id := by
  have : ¬(s.nextId = id) := fun e => h e.symm
  simp [findOp, addOp, List.find?_append, this]
theorem addOp_below {s : State} (h : ∀ o ∈ s.ops, o.id < s.nextId) (tid g : Nat) (pc : Dword) (c : Nat) (k : OpKind) :
    ∀ o ∈ (addOp s tid g pc c k).ops, o.id < (addOp s tid g pc c k).nextId := by
  intro o ho
  rcases List.mem_append.1 ho with ho | ho
  · exact Nat.lt_succ_of_lt (h o ho)
  · rw [List.mem_singleton.1 ho]
    exact Nat.lt_succ_self _
theorem findOp_dropOp (s : State) (id : Nat) : findOp (dropOp s id) id = none := by
  refine List.find?_eq_none.2 fun o ho e => ?_
  simp only [dropOp, List.mem_filter, bne_iff_ne, ne_eq] at ho
  exact ho.2 (by simpa using e)
theorem dropOp_below {s : State} (h : ∀ o ∈ s.ops, o.id < s.nextId) (id : Nat) : ∀ o ∈ (dropOp s id).ops, o.id < (dropOp s id).nextId :=
  fun o ho => h o (List.mem_filter.1 ho).1

/-! ## Taking a trap and returning from it (R85, R322, R406, R407) -/

@[simp] theorem enterTrap_pc (th : Thread) (b : Dword) (d : TrapDue) : (th.enterTrap b d).pc = b := rfl
@[simp] theorem enterTrap_epc (th : Thread) (b : Dword) (d : TrapDue) : (th.enterTrap b d).epc = d.epc := rfl
@[simp] theorem enterTrap_inTrap (th : Thread) (b : Dword) (d : TrapDue) : (th.enterTrap b d).inTrap = true := rfl
@[simp] theorem enterTrap_wb (th : Thread) (b : Dword) (d : TrapDue) : (th.enterTrap b d).wb = th.wb - 16 := rfl
@[simp] theorem enterTrap_cf (th : Thread) (b : Dword) (d : TrapDue) : (th.enterTrap b d).cf = 32 := rfl
@[simp] theorem enterTrap_hidBase (th : Thread) (b : Dword) (d : TrapDue) : (th.enterTrap b d).hidBase = th.wb := rfl
@[simp] theorem enterTrap_hidCf (th : Thread) (b : Dword) (d : TrapDue) : (th.enterTrap b d).hidCf = th.cf := rfl
@[simp] theorem enterTrap_links (th : Thread) (b : Dword) (d : TrapDue) : (th.enterTrap b d).links = th.links := rfl
@[simp] theorem enterTrap_depth (th : Thread) (b : Dword) (d : TrapDue) : (th.enterTrap b d).trapDepth = th.links.length := rfl
@[simp] theorem enterTrap_stk (th : Thread) (b : Dword) (d : TrapDue) : (th.enterTrap b d).stk = th.stk := rfl
@[simp] theorem enterTrap_cause (th : Thread) (b : Dword) (d : TrapDue) :
    (th.enterTrap b d).cause = causeWord d.cause d.charged d.others := rfl
@[simp] theorem enterTrap_faultAddr (th : Thread) (b : Dword) (d : TrapDue) : (th.enterTrap b d).faultAddr = d.addr := rfl
@[simp] theorem enterTrap_faultInfo (th : Thread) (b : Dword) (d : TrapDue) : (th.enterTrap b d).faultInfo = d.info := rfl
@[simp] theorem enterTrap_econd (th : Thread) (b : Dword) (d : TrapDue) : (th.enterTrap b d).econd = econdWord th.cc th.repc := rfl

/-- With a trap handler and no active thread in a trap, the run ends, it is counted, every lane has entered, and the group has
taken its step. -/
theorem takeTrap_enters {s : State} {r : Run} (d : TrapDue) (hl : ∀ c ∈ r.lanes, (laneTh s r c).inTrap = false)
    (ht : (teamLaunch s r.team).desc.trap ≠ 0) (hc : d.charged = false) (hm : d.mark = none) :
    takeTrap s r d =
      countEnd (dropRun (stepDone (afterLanes r (fun _ th => th.enterTrap (teamLaunch s r.team).desc.trap d) r.lanes s) r)) r.team := by
  have hf : (r.lanes.find? fun c => (laneTh s r c).inTrap) = none := List.find?_eq_none.2 fun c hc => by simp [hl c hc]
  simp only [takeTrap, chargeRecord, hm, hf, if_neg ht, hc, Bool.false_eq_true, if_false, Bool.not_false, Bool.true_or, if_true]
  rfl
/-- A thread in a trap makes it a double trap. -/
theorem takeTrap_double {s : State} {r : Run} (d : TrapDue) {c : Nat} (h : (r.lanes.find? fun c => (laneTh s r c).inTrap) = some c)
    (hm : d.mark = none) :
    takeTrap s r d = failTeamWith s r.team cDoubleTrap d.epc d.addr (BitVec.ofNat 32 (field (laneTh s r c).cause 0 8 * 256 + d.cause))
      (r.teamThread d.lane) d.items := by
  simp only [takeTrap, hm, h]
/-- Without a handler the team ends. -/
theorem takeTrap_no_handler {s : State} {r : Run} (d : TrapDue) (hl : ∀ c ∈ r.lanes, (laneTh s r c).inTrap = false)
    (ht : (teamLaunch s r.team).desc.trap = 0) (hm : d.mark = none) :
    takeTrap s r d = failTeamWith s r.team d.cause d.epc d.addr d.info (r.teamThread d.lane) d.items := by
  have hf : (r.lanes.find? fun c => (laneTh s r c).inTrap) = none := List.find?_eq_none.2 fun c hc => by simp [hl c hc]
  simp only [takeTrap, hm, hf, if_pos ht]
/-- A fault of class T ends the team at once. -/
theorem raise_classT {s : State} {r : Run} (lane : Nat) {d : TrapDue} (h : classT d.cause = true) :
    raise s r lane d = failTeam s r.team d.cause 0 0 0 (r.teamThread lane) := if_pos h
/-- A helper's fault is charged to its recruiter. -/
theorem raise_helper {s : State} {r : Run} (lane : Nat) {d : TrapDue} {thr : Nat} (h : classT d.cause = false) (hh : r.helpers = some thr) :
    raise s r lane d = chargeHelper s r thr lane d.cause d.addr := by
  simp [raise, h, hh]
/-- Another fault is due in its run, and is taken when no entering thread waits for a value. -/
theorem raise_group {s : State} {r : Run} (lane : Nat) {d : TrapDue} (h : classT d.cause = false) (hh : r.helpers = none) :
    raise s r lane d = tryTrap (modRun s fun r => { r with due := some { d with lane := lane } }) := by
  simp [raise, h, hh]

@[simp] theorem leaveTrap_inTrap (th : Thread) (l : Launch) : (th.leaveTrap l).inTrap = false := rfl
@[simp] theorem leaveTrap_wb (th : Thread) (l : Launch) : (th.leaveTrap l).wb = th.hidBase := rfl
@[simp] theorem leaveTrap_q (th : Thread) (l : Launch) : (th.leaveTrap l).q = th.tf := rfl

/-! ## Issuing -/

@[simp] theorem conclude_ok (s : State) (r : Run) (t : State) : conclude s r (.ok t) = t := rfl
@[simp] theorem conclude_stall (s : State) (r : Run) : conclude s r .stall = signal s .stall := rfl
@[simp] theorem conclude_trap (s : State) (r : Run) (lane cause : Nat) (addr : Dword) (info : Word) :
    conclude s r (.trap lane cause addr info) = raise s r lane (faultDue s r cause addr info) := rfl
theorem issue_none {s : State} (h : s.runs = []) (f : State → Run → State) : issue s f = .fault .noRun := by simp [issue, h]

end Sys2Proof
end

