-- ==== Sys2Proof/Laws/State.lean ====
section
/-! SUPPORT. What each named update of the state leaves alone: one lemma per field per update, true by rfl. -/

namespace Sys2Proof.Machine

/-! ## `modTeam` -/

@[simp] theorem modTeam_inputs (s : State) (tid : Nat) (f : Team → Team) : (modTeam s tid f).inputs = s.inputs := rfl
@[simp] theorem modTeam_due (s : State) (tid : Nat) (f : Team → Team) : (modTeam s tid f).due = s.due := rfl
@[simp] theorem modTeam_dead (s : State) (tid : Nat) (f : Team → Team) : (modTeam s tid f).dead = s.dead := rfl
@[simp] theorem modTeam_cycle (s : State) (tid : Nat) (f : Team → Team) : (modTeam s tid f).cycle = s.cycle := rfl
@[simp] theorem modTeam_phcNs (s : State) (tid : Nat) (f : Team → Team) : (modTeam s tid f).phcNs = s.phcNs := rfl
@[simp] theorem modTeam_phcFrac (s : State) (tid : Nat) (f : Team → Team) : (modTeam s tid f).phcFrac = s.phcFrac := rfl
@[simp] theorem modTeam_steps (s : State) (tid : Nat) (f : Team → Team) : (modTeam s tid f).steps = s.steps := rfl
@[simp] theorem modTeam_khz (s : State) (tid : Nat) (f : Team → Team) : (modTeam s tid f).khz = s.khz := rfl
@[simp] theorem modTeam_mem (s : State) (tid : Nat) (f : Team → Team) : (modTeam s tid f).mem = s.mem := rfl
@[simp] theorem modTeam_poison (s : State) (tid : Nat) (f : Team → Team) : (modTeam s tid f).poison = s.poison := rfl
@[simp] theorem modTeam_bar (s : State) (tid : Nat) (f : Team → Team) : (modTeam s tid f).bar = s.bar := rfl
@[simp] theorem modTeam_evict (s : State) (tid : Nat) (f : Team → Team) : (modTeam s tid f).evict = s.evict := rfl
@[simp] theorem modTeam_satMem (s : State) (tid : Nat) (f : Team → Team) : (modTeam s tid f).satMem = s.satMem := rfl
@[simp] theorem modTeam_perfProg (s : State) (tid : Nat) (f : Team → Team) : (modTeam s tid f).perfProg = s.perfProg := rfl
@[simp] theorem modTeam_perf (s : State) (tid : Nat) (f : Team → Team) : (modTeam s tid f).perf = s.perf := rfl
@[simp] theorem modTeam_interf (s : State) (tid : Nat) (f : Team → Team) : (modTeam s tid f).interf = s.interf := rfl
@[simp] theorem modTeam_dcache (s : State) (tid : Nat) (f : Team → Team) : (modTeam s tid f).dcache = s.dcache := rfl
@[simp] theorem modTeam_icache (s : State) (tid : Nat) (f : Team → Team) : (modTeam s tid f).icache = s.icache := rfl
@[simp] theorem modTeam_shares (s : State) (tid : Nat) (f : Team → Team) : (modTeam s tid f).shares = s.shares := rfl
@[simp] theorem modTeam_l2 (s : State) (tid : Nat) (f : Team → Team) : (modTeam s tid f).l2 = s.l2 := rfl
@[simp] theorem modTeam_tlb (s : State) (tid : Nat) (f : Team → Team) : (modTeam s tid f).tlb = s.tlb := rfl
@[simp] theorem modTeam_ctlb (s : State) (tid : Nat) (f : Team → Team) : (modTeam s tid f).ctlb = s.ctlb := rfl
@[simp] theorem modTeam_walks (s : State) (tid : Nat) (f : Team → Team) : (modTeam s tid f).walks = s.walks := rfl
@[simp] theorem modTeam_outcomes (s : State) (tid : Nat) (f : Team → Team) : (modTeam s tid f).outcomes = s.outcomes := rfl
@[simp] theorem modTeam_aper (s : State) (tid : Nat) (f : Team → Team) : (modTeam s tid f).aper = s.aper := rfl
@[simp] theorem modTeam_migrations (s : State) (tid : Nat) (f : Team → Team) : (modTeam s tid f).migrations = s.migrations := rfl
@[simp] theorem modTeam_queued (s : State) (tid : Nat) (f : Team → Team) : (modTeam s tid f).queued = s.queued := rfl
@[simp] theorem modTeam_migRefused (s : State) (tid : Nat) (f : Team → Team) : (modTeam s tid f).migRefused = s.migRefused := rfl
@[simp] theorem modTeam_scratchBad (s : State) (tid : Nat) (f : Team → Team) : (modTeam s tid f).scratchBad = s.scratchBad := rfl
@[simp] theorem modTeam_window (s : State) (tid : Nat) (f : Team → Team) : (modTeam s tid f).window = s.window := rfl
@[simp] theorem modTeam_retention (s : State) (tid : Nat) (f : Team → Team) : (modTeam s tid f).retention = s.retention := rfl
@[simp] theorem modTeam_svc (s : State) (tid : Nat) (f : Team → Team) : (modTeam s tid f).svc = s.svc := rfl
@[simp] theorem modTeam_merge (s : State) (tid : Nat) (f : Team → Team) : (modTeam s tid f).merge = s.merge := rfl
@[simp] theorem modTeam_launches (s : State) (tid : Nat) (f : Team → Team) : (modTeam s tid f).launches = s.launches := rfl
@[simp] theorem modTeam_runs (s : State) (tid : Nat) (f : Team → Team) : (modTeam s tid f).runs = s.runs := rfl
@[simp] theorem modTeam_ops (s : State) (tid : Nat) (f : Team → Team) : (modTeam s tid f).ops = s.ops := rfl
@[simp] theorem modTeam_nextId (s : State) (tid : Nat) (f : Team → Team) : (modTeam s tid f).nextId = s.nextId := rfl
@[simp] theorem modTeam_pairs (s : State) (tid : Nat) (f : Team → Team) : (modTeam s tid f).pairs = s.pairs := rfl
@[simp] theorem modTeam_watches (s : State) (tid : Nat) (f : Team → Team) : (modTeam s tid f).watches = s.watches := rfl
@[simp] theorem modTeam_freeTime (s : State) (tid : Nat) (f : Team → Team) : (modTeam s tid f).freeTime = s.freeTime := rfl
@[simp] theorem modTeam_lastCommit (s : State) (tid : Nat) (f : Team → Team) : (modTeam s tid f).lastCommit = s.lastCommit := rfl
@[simp] theorem modTeam_traversals (s : State) (tid : Nat) (f : Team → Team) : (modTeam s tid f).traversals = s.traversals := rfl
@[simp] theorem modTeam_prefetched (s : State) (tid : Nat) (f : Team → Team) : (modTeam s tid f).prefetched = s.prefetched := rfl
@[simp] theorem modTeam_nextLaunch (s : State) (tid : Nat) (f : Team → Team) : (modTeam s tid f).nextLaunch = s.nextLaunch := rfl
@[simp] theorem modTeam_jobDone (s : State) (tid : Nat) (f : Team → Team) : (modTeam s tid f).jobDone = s.jobDone := rfl
@[simp] theorem modTeam_jobFailed (s : State) (tid : Nat) (f : Team → Team) : (modTeam s tid f).jobFailed = s.jobFailed := rfl
@[simp] theorem modTeam_phaseDone (s : State) (tid : Nat) (f : Team → Team) : (modTeam s tid f).phaseDone = s.phaseDone := rfl
@[simp] theorem modTeam_phaseFailed (s : State) (tid : Nat) (f : Team → Team) : (modTeam s tid f).phaseFailed = s.phaseFailed := rfl
@[simp] theorem modTeam_cancels (s : State) (tid : Nat) (f : Team → Team) : (modTeam s tid f).cancels = s.cancels := rfl
@[simp] theorem modTeam_resets (s : State) (tid : Nat) (f : Team → Team) : (modTeam s tid f).resets = s.resets := rfl
@[simp] theorem modTeam_dumps (s : State) (tid : Nat) (f : Team → Team) : (modTeam s tid f).dumps = s.dumps := rfl
@[simp] theorem modTeam_dumpWaits (s : State) (tid : Nat) (f : Team → Team) : (modTeam s tid f).dumpWaits = s.dumpWaits := rfl
@[simp] theorem modTeam_ctxWrites (s : State) (tid : Nat) (f : Team → Team) : (modTeam s tid f).ctxWrites = s.ctxWrites := rfl
@[simp] theorem modTeam_fmtDisables (s : State) (tid : Nat) (f : Team → Team) : (modTeam s tid f).fmtDisables = s.fmtDisables := rfl
@[simp] theorem modTeam_pubClears (s : State) (tid : Nat) (f : Team → Team) : (modTeam s tid f).pubClears = s.pubClears := rfl
@[simp] theorem modTeam_partWrites (s : State) (tid : Nat) (f : Team → Team) : (modTeam s tid f).partWrites = s.partWrites := rfl
@[simp] theorem modTeam_ptm (s : State) (tid : Nat) (f : Team → Team) : (modTeam s tid f).ptm = s.ptm := rfl
@[simp] theorem modTeam_nor (s : State) (tid : Nat) (f : Team → Team) : (modTeam s tid f).nor = s.nor := rfl
@[simp] theorem modTeam_hist (s : State) (tid : Nat) (f : Team → Team) : (modTeam s tid f).hist = s.hist := rfl
@[simp] theorem modTeam_lifeSeconds (s : State) (tid : Nat) (f : Team → Team) : (modTeam s tid f).lifeSeconds = s.lifeSeconds := rfl
@[simp] theorem modTeam_mbx (s : State) (tid : Nat) (f : Team → Team) : (modTeam s tid f).mbx = s.mbx := rfl
@[simp] theorem modTeam_faultLog (s : State) (tid : Nat) (f : Team → Team) : (modTeam s tid f).faultLog = s.faultLog := rfl
@[simp] theorem modTeam_lossLog (s : State) (tid : Nat) (f : Team → Team) : (modTeam s tid f).lossLog = s.lossLog := rfl

/-! ## `modCore` -/

@[simp] theorem modCore_inputs (s : State) (tid : Nat) (f : TeamCore → TeamCore) : (modCore s tid f).inputs = s.inputs := rfl
@[simp] theorem modCore_due (s : State) (tid : Nat) (f : TeamCore → TeamCore) : (modCore s tid f).due = s.due := rfl
@[simp] theorem modCore_dead (s : State) (tid : Nat) (f : TeamCore → TeamCore) : (modCore s tid f).dead = s.dead := rfl
@[simp] theorem modCore_cycle (s : State) (tid : Nat) (f : TeamCore → TeamCore) : (modCore s tid f).cycle = s.cycle := rfl
@[simp] theorem modCore_phcNs (s : State) (tid : Nat) (f : TeamCore → TeamCore) : (modCore s tid f).phcNs = s.phcNs := rfl
@[simp] theorem modCore_phcFrac (s : State) (tid : Nat) (f : TeamCore → TeamCore) : (modCore s tid f).phcFrac = s.phcFrac := rfl
@[simp] theorem modCore_steps (s : State) (tid : Nat) (f : TeamCore → TeamCore) : (modCore s tid f).steps = s.steps := rfl
@[simp] theorem modCore_khz (s : State) (tid : Nat) (f : TeamCore → TeamCore) : (modCore s tid f).khz = s.khz := rfl
@[simp] theorem modCore_mem (s : State) (tid : Nat) (f : TeamCore → TeamCore) : (modCore s tid f).mem = s.mem := rfl
@[simp] theorem modCore_poison (s : State) (tid : Nat) (f : TeamCore → TeamCore) : (modCore s tid f).poison = s.poison := rfl
@[simp] theorem modCore_bar (s : State) (tid : Nat) (f : TeamCore → TeamCore) : (modCore s tid f).bar = s.bar := rfl
@[simp] theorem modCore_evict (s : State) (tid : Nat) (f : TeamCore → TeamCore) : (modCore s tid f).evict = s.evict := rfl
@[simp] theorem modCore_satMem (s : State) (tid : Nat) (f : TeamCore → TeamCore) : (modCore s tid f).satMem = s.satMem := rfl
@[simp] theorem modCore_perfProg (s : State) (tid : Nat) (f : TeamCore → TeamCore) : (modCore s tid f).perfProg = s.perfProg := rfl
@[simp] theorem modCore_perf (s : State) (tid : Nat) (f : TeamCore → TeamCore) : (modCore s tid f).perf = s.perf := rfl
@[simp] theorem modCore_interf (s : State) (tid : Nat) (f : TeamCore → TeamCore) : (modCore s tid f).interf = s.interf := rfl
@[simp] theorem modCore_dcache (s : State) (tid : Nat) (f : TeamCore → TeamCore) : (modCore s tid f).dcache = s.dcache := rfl
@[simp] theorem modCore_icache (s : State) (tid : Nat) (f : TeamCore → TeamCore) : (modCore s tid f).icache = s.icache := rfl
@[simp] theorem modCore_shares (s : State) (tid : Nat) (f : TeamCore → TeamCore) : (modCore s tid f).shares = s.shares := rfl
@[simp] theorem modCore_l2 (s : State) (tid : Nat) (f : TeamCore → TeamCore) : (modCore s tid f).l2 = s.l2 := rfl
@[simp] theorem modCore_tlb (s : State) (tid : Nat) (f : TeamCore → TeamCore) : (modCore s tid f).tlb = s.tlb := rfl
@[simp] theorem modCore_ctlb (s : State) (tid : Nat) (f : TeamCore → TeamCore) : (modCore s tid f).ctlb = s.ctlb := rfl
@[simp] theorem modCore_walks (s : State) (tid : Nat) (f : TeamCore → TeamCore) : (modCore s tid f).walks = s.walks := rfl
@[simp] theorem modCore_outcomes (s : State) (tid : Nat) (f : TeamCore → TeamCore) : (modCore s tid f).outcomes = s.outcomes := rfl
@[simp] theorem modCore_aper (s : State) (tid : Nat) (f : TeamCore → TeamCore) : (modCore s tid f).aper = s.aper := rfl
@[simp] theorem modCore_migrations (s : State) (tid : Nat) (f : TeamCore → TeamCore) : (modCore s tid f).migrations = s.migrations := rfl
@[simp] theorem modCore_queued (s : State) (tid : Nat) (f : TeamCore → TeamCore) : (modCore s tid f).queued = s.queued := rfl
@[simp] theorem modCore_migRefused (s : State) (tid : Nat) (f : TeamCore → TeamCore) : (modCore s tid f).migRefused = s.migRefused := rfl
@[simp] theorem modCore_scratchBad (s : State) (tid : Nat) (f : TeamCore → TeamCore) : (modCore s tid f).scratchBad = s.scratchBad := rfl
@[simp] theorem modCore_window (s : State) (tid : Nat) (f : TeamCore → TeamCore) : (modCore s tid f).window = s.window := rfl
@[simp] theorem modCore_retention (s : State) (tid : Nat) (f : TeamCore → TeamCore) : (modCore s tid f).retention = s.retention := rfl
@[simp] theorem modCore_svc (s : State) (tid : Nat) (f : TeamCore → TeamCore) : (modCore s tid f).svc = s.svc := rfl
@[simp] theorem modCore_merge (s : State) (tid : Nat) (f : TeamCore → TeamCore) : (modCore s tid f).merge = s.merge := rfl
@[simp] theorem modCore_launches (s : State) (tid : Nat) (f : TeamCore → TeamCore) : (modCore s tid f).launches = s.launches := rfl
@[simp] theorem modCore_runs (s : State) (tid : Nat) (f : TeamCore → TeamCore) : (modCore s tid f).runs = s.runs := rfl
@[simp] theorem modCore_ops (s : State) (tid : Nat) (f : TeamCore → TeamCore) : (modCore s tid f).ops = s.ops := rfl
@[simp] theorem modCore_nextId (s : State) (tid : Nat) (f : TeamCore → TeamCore) : (modCore s tid f).nextId = s.nextId := rfl
@[simp] theorem modCore_pairs (s : State) (tid : Nat) (f : TeamCore → TeamCore) : (modCore s tid f).pairs = s.pairs := rfl
@[simp] theorem modCore_watches (s : State) (tid : Nat) (f : TeamCore → TeamCore) : (modCore s tid f).watches = s.watches := rfl
@[simp] theorem modCore_freeTime (s : State) (tid : Nat) (f : TeamCore → TeamCore) : (modCore s tid f).freeTime = s.freeTime := rfl
@[simp] theorem modCore_lastCommit (s : State) (tid : Nat) (f : TeamCore → TeamCore) : (modCore s tid f).lastCommit = s.lastCommit := rfl
@[simp] theorem modCore_traversals (s : State) (tid : Nat) (f : TeamCore → TeamCore) : (modCore s tid f).traversals = s.traversals := rfl
@[simp] theorem modCore_prefetched (s : State) (tid : Nat) (f : TeamCore → TeamCore) : (modCore s tid f).prefetched = s.prefetched := rfl
@[simp] theorem modCore_nextLaunch (s : State) (tid : Nat) (f : TeamCore → TeamCore) : (modCore s tid f).nextLaunch = s.nextLaunch := rfl
@[simp] theorem modCore_jobDone (s : State) (tid : Nat) (f : TeamCore → TeamCore) : (modCore s tid f).jobDone = s.jobDone := rfl
@[simp] theorem modCore_jobFailed (s : State) (tid : Nat) (f : TeamCore → TeamCore) : (modCore s tid f).jobFailed = s.jobFailed := rfl
@[simp] theorem modCore_phaseDone (s : State) (tid : Nat) (f : TeamCore → TeamCore) : (modCore s tid f).phaseDone = s.phaseDone := rfl
@[simp] theorem modCore_phaseFailed (s : State) (tid : Nat) (f : TeamCore → TeamCore) : (modCore s tid f).phaseFailed = s.phaseFailed := rfl
@[simp] theorem modCore_cancels (s : State) (tid : Nat) (f : TeamCore → TeamCore) : (modCore s tid f).cancels = s.cancels := rfl
@[simp] theorem modCore_resets (s : State) (tid : Nat) (f : TeamCore → TeamCore) : (modCore s tid f).resets = s.resets := rfl
@[simp] theorem modCore_dumps (s : State) (tid : Nat) (f : TeamCore → TeamCore) : (modCore s tid f).dumps = s.dumps := rfl
@[simp] theorem modCore_dumpWaits (s : State) (tid : Nat) (f : TeamCore → TeamCore) : (modCore s tid f).dumpWaits = s.dumpWaits := rfl
@[simp] theorem modCore_ctxWrites (s : State) (tid : Nat) (f : TeamCore → TeamCore) : (modCore s tid f).ctxWrites = s.ctxWrites := rfl
@[simp] theorem modCore_fmtDisables (s : State) (tid : Nat) (f : TeamCore → TeamCore) : (modCore s tid f).fmtDisables = s.fmtDisables := rfl
@[simp] theorem modCore_pubClears (s : State) (tid : Nat) (f : TeamCore → TeamCore) : (modCore s tid f).pubClears = s.pubClears := rfl
@[simp] theorem modCore_partWrites (s : State) (tid : Nat) (f : TeamCore → TeamCore) : (modCore s tid f).partWrites = s.partWrites := rfl
@[simp] theorem modCore_ptm (s : State) (tid : Nat) (f : TeamCore → TeamCore) : (modCore s tid f).ptm = s.ptm := rfl
@[simp] theorem modCore_nor (s : State) (tid : Nat) (f : TeamCore → TeamCore) : (modCore s tid f).nor = s.nor := rfl
@[simp] theorem modCore_hist (s : State) (tid : Nat) (f : TeamCore → TeamCore) : (modCore s tid f).hist = s.hist := rfl
@[simp] theorem modCore_lifeSeconds (s : State) (tid : Nat) (f : TeamCore → TeamCore) : (modCore s tid f).lifeSeconds = s.lifeSeconds := rfl
@[simp] theorem modCore_mbx (s : State) (tid : Nat) (f : TeamCore → TeamCore) : (modCore s tid f).mbx = s.mbx := rfl
@[simp] theorem modCore_faultLog (s : State) (tid : Nat) (f : TeamCore → TeamCore) : (modCore s tid f).faultLog = s.faultLog := rfl
@[simp] theorem modCore_lossLog (s : State) (tid : Nat) (f : TeamCore → TeamCore) : (modCore s tid f).lossLog = s.lossLog := rfl

/-! ## `modGroup` -/

@[simp] theorem modGroup_inputs (s : State) (tid g : Nat) (f : Group → Group) : (modGroup s tid g f).inputs = s.inputs := rfl
@[simp] theorem modGroup_due (s : State) (tid g : Nat) (f : Group → Group) : (modGroup s tid g f).due = s.due := rfl
@[simp] theorem modGroup_dead (s : State) (tid g : Nat) (f : Group → Group) : (modGroup s tid g f).dead = s.dead := rfl
@[simp] theorem modGroup_cycle (s : State) (tid g : Nat) (f : Group → Group) : (modGroup s tid g f).cycle = s.cycle := rfl
@[simp] theorem modGroup_phcNs (s : State) (tid g : Nat) (f : Group → Group) : (modGroup s tid g f).phcNs = s.phcNs := rfl
@[simp] theorem modGroup_phcFrac (s : State) (tid g : Nat) (f : Group → Group) : (modGroup s tid g f).phcFrac = s.phcFrac := rfl
@[simp] theorem modGroup_steps (s : State) (tid g : Nat) (f : Group → Group) : (modGroup s tid g f).steps = s.steps := rfl
@[simp] theorem modGroup_khz (s : State) (tid g : Nat) (f : Group → Group) : (modGroup s tid g f).khz = s.khz := rfl
@[simp] theorem modGroup_mem (s : State) (tid g : Nat) (f : Group → Group) : (modGroup s tid g f).mem = s.mem := rfl
@[simp] theorem modGroup_poison (s : State) (tid g : Nat) (f : Group → Group) : (modGroup s tid g f).poison = s.poison := rfl
@[simp] theorem modGroup_bar (s : State) (tid g : Nat) (f : Group → Group) : (modGroup s tid g f).bar = s.bar := rfl
@[simp] theorem modGroup_evict (s : State) (tid g : Nat) (f : Group → Group) : (modGroup s tid g f).evict = s.evict := rfl
@[simp] theorem modGroup_satMem (s : State) (tid g : Nat) (f : Group → Group) : (modGroup s tid g f).satMem = s.satMem := rfl
@[simp] theorem modGroup_perfProg (s : State) (tid g : Nat) (f : Group → Group) : (modGroup s tid g f).perfProg = s.perfProg := rfl
@[simp] theorem modGroup_perf (s : State) (tid g : Nat) (f : Group → Group) : (modGroup s tid g f).perf = s.perf := rfl
@[simp] theorem modGroup_interf (s : State) (tid g : Nat) (f : Group → Group) : (modGroup s tid g f).interf = s.interf := rfl
@[simp] theorem modGroup_dcache (s : State) (tid g : Nat) (f : Group → Group) : (modGroup s tid g f).dcache = s.dcache := rfl
@[simp] theorem modGroup_icache (s : State) (tid g : Nat) (f : Group → Group) : (modGroup s tid g f).icache = s.icache := rfl
@[simp] theorem modGroup_shares (s : State) (tid g : Nat) (f : Group → Group) : (modGroup s tid g f).shares = s.shares := rfl
@[simp] theorem modGroup_l2 (s : State) (tid g : Nat) (f : Group → Group) : (modGroup s tid g f).l2 = s.l2 := rfl
@[simp] theorem modGroup_tlb (s : State) (tid g : Nat) (f : Group → Group) : (modGroup s tid g f).tlb = s.tlb := rfl
@[simp] theorem modGroup_ctlb (s : State) (tid g : Nat) (f : Group → Group) : (modGroup s tid g f).ctlb = s.ctlb := rfl
@[simp] theorem modGroup_walks (s : State) (tid g : Nat) (f : Group → Group) : (modGroup s tid g f).walks = s.walks := rfl
@[simp] theorem modGroup_outcomes (s : State) (tid g : Nat) (f : Group → Group) : (modGroup s tid g f).outcomes = s.outcomes := rfl
@[simp] theorem modGroup_aper (s : State) (tid g : Nat) (f : Group → Group) : (modGroup s tid g f).aper = s.aper := rfl
@[simp] theorem modGroup_migrations (s : State) (tid g : Nat) (f : Group → Group) : (modGroup s tid g f).migrations = s.migrations := rfl
@[simp] theorem modGroup_queued (s : State) (tid g : Nat) (f : Group → Group) : (modGroup s tid g f).queued = s.queued := rfl
@[simp] theorem modGroup_migRefused (s : State) (tid g : Nat) (f : Group → Group) : (modGroup s tid g f).migRefused = s.migRefused := rfl
@[simp] theorem modGroup_scratchBad (s : State) (tid g : Nat) (f : Group → Group) : (modGroup s tid g f).scratchBad = s.scratchBad := rfl
@[simp] theorem modGroup_window (s : State) (tid g : Nat) (f : Group → Group) : (modGroup s tid g f).window = s.window := rfl
@[simp] theorem modGroup_retention (s : State) (tid g : Nat) (f : Group → Group) : (modGroup s tid g f).retention = s.retention := rfl
@[simp] theorem modGroup_svc (s : State) (tid g : Nat) (f : Group → Group) : (modGroup s tid g f).svc = s.svc := rfl
@[simp] theorem modGroup_merge (s : State) (tid g : Nat) (f : Group → Group) : (modGroup s tid g f).merge = s.merge := rfl
@[simp] theorem modGroup_launches (s : State) (tid g : Nat) (f : Group → Group) : (modGroup s tid g f).launches = s.launches := rfl
@[simp] theorem modGroup_runs (s : State) (tid g : Nat) (f : Group → Group) : (modGroup s tid g f).runs = s.runs := rfl
@[simp] theorem modGroup_ops (s : State) (tid g : Nat) (f : Group → Group) : (modGroup s tid g f).ops = s.ops := rfl
@[simp] theorem modGroup_nextId (s : State) (tid g : Nat) (f : Group → Group) : (modGroup s tid g f).nextId = s.nextId := rfl
@[simp] theorem modGroup_pairs (s : State) (tid g : Nat) (f : Group → Group) : (modGroup s tid g f).pairs = s.pairs := rfl
@[simp] theorem modGroup_watches (s : State) (tid g : Nat) (f : Group → Group) : (modGroup s tid g f).watches = s.watches := rfl
@[simp] theorem modGroup_freeTime (s : State) (tid g : Nat) (f : Group → Group) : (modGroup s tid g f).freeTime = s.freeTime := rfl
@[simp] theorem modGroup_lastCommit (s : State) (tid g : Nat) (f : Group → Group) : (modGroup s tid g f).lastCommit = s.lastCommit := rfl
@[simp] theorem modGroup_traversals (s : State) (tid g : Nat) (f : Group → Group) : (modGroup s tid g f).traversals = s.traversals := rfl
@[simp] theorem modGroup_prefetched (s : State) (tid g : Nat) (f : Group → Group) : (modGroup s tid g f).prefetched = s.prefetched := rfl
@[simp] theorem modGroup_nextLaunch (s : State) (tid g : Nat) (f : Group → Group) : (modGroup s tid g f).nextLaunch = s.nextLaunch := rfl
@[simp] theorem modGroup_jobDone (s : State) (tid g : Nat) (f : Group → Group) : (modGroup s tid g f).jobDone = s.jobDone := rfl
@[simp] theorem modGroup_jobFailed (s : State) (tid g : Nat) (f : Group → Group) : (modGroup s tid g f).jobFailed = s.jobFailed := rfl
@[simp] theorem modGroup_phaseDone (s : State) (tid g : Nat) (f : Group → Group) : (modGroup s tid g f).phaseDone = s.phaseDone := rfl
@[simp] theorem modGroup_phaseFailed (s : State) (tid g : Nat) (f : Group → Group) : (modGroup s tid g f).phaseFailed = s.phaseFailed := rfl
@[simp] theorem modGroup_cancels (s : State) (tid g : Nat) (f : Group → Group) : (modGroup s tid g f).cancels = s.cancels := rfl
@[simp] theorem modGroup_resets (s : State) (tid g : Nat) (f : Group → Group) : (modGroup s tid g f).resets = s.resets := rfl
@[simp] theorem modGroup_dumps (s : State) (tid g : Nat) (f : Group → Group) : (modGroup s tid g f).dumps = s.dumps := rfl
@[simp] theorem modGroup_dumpWaits (s : State) (tid g : Nat) (f : Group → Group) : (modGroup s tid g f).dumpWaits = s.dumpWaits := rfl
@[simp] theorem modGroup_ctxWrites (s : State) (tid g : Nat) (f : Group → Group) : (modGroup s tid g f).ctxWrites = s.ctxWrites := rfl
@[simp] theorem modGroup_fmtDisables (s : State) (tid g : Nat) (f : Group → Group) : (modGroup s tid g f).fmtDisables = s.fmtDisables := rfl
@[simp] theorem modGroup_pubClears (s : State) (tid g : Nat) (f : Group → Group) : (modGroup s tid g f).pubClears = s.pubClears := rfl
@[simp] theorem modGroup_partWrites (s : State) (tid g : Nat) (f : Group → Group) : (modGroup s tid g f).partWrites = s.partWrites := rfl
@[simp] theorem modGroup_ptm (s : State) (tid g : Nat) (f : Group → Group) : (modGroup s tid g f).ptm = s.ptm := rfl
@[simp] theorem modGroup_nor (s : State) (tid g : Nat) (f : Group → Group) : (modGroup s tid g f).nor = s.nor := rfl
@[simp] theorem modGroup_hist (s : State) (tid g : Nat) (f : Group → Group) : (modGroup s tid g f).hist = s.hist := rfl
@[simp] theorem modGroup_lifeSeconds (s : State) (tid g : Nat) (f : Group → Group) : (modGroup s tid g f).lifeSeconds = s.lifeSeconds := rfl
@[simp] theorem modGroup_mbx (s : State) (tid g : Nat) (f : Group → Group) : (modGroup s tid g f).mbx = s.mbx := rfl
@[simp] theorem modGroup_faultLog (s : State) (tid g : Nat) (f : Group → Group) : (modGroup s tid g f).faultLog = s.faultLog := rfl
@[simp] theorem modGroup_lossLog (s : State) (tid g : Nat) (f : Group → Group) : (modGroup s tid g f).lossLog = s.lossLog := rfl

/-! ## `modTh` -/

@[simp] theorem modTh_inputs (s : State) (tid g : Nat) (w : Who) (f : Thread → Thread) : (modTh s tid g w f).inputs = s.inputs := rfl
@[simp] theorem modTh_due (s : State) (tid g : Nat) (w : Who) (f : Thread → Thread) : (modTh s tid g w f).due = s.due := rfl
@[simp] theorem modTh_dead (s : State) (tid g : Nat) (w : Who) (f : Thread → Thread) : (modTh s tid g w f).dead = s.dead := rfl
@[simp] theorem modTh_cycle (s : State) (tid g : Nat) (w : Who) (f : Thread → Thread) : (modTh s tid g w f).cycle = s.cycle := rfl
@[simp] theorem modTh_phcNs (s : State) (tid g : Nat) (w : Who) (f : Thread → Thread) : (modTh s tid g w f).phcNs = s.phcNs := rfl
@[simp] theorem modTh_phcFrac (s : State) (tid g : Nat) (w : Who) (f : Thread → Thread) : (modTh s tid g w f).phcFrac = s.phcFrac := rfl
@[simp] theorem modTh_steps (s : State) (tid g : Nat) (w : Who) (f : Thread → Thread) : (modTh s tid g w f).steps = s.steps := rfl
@[simp] theorem modTh_khz (s : State) (tid g : Nat) (w : Who) (f : Thread → Thread) : (modTh s tid g w f).khz = s.khz := rfl
@[simp] theorem modTh_mem (s : State) (tid g : Nat) (w : Who) (f : Thread → Thread) : (modTh s tid g w f).mem = s.mem := rfl
@[simp] theorem modTh_poison (s : State) (tid g : Nat) (w : Who) (f : Thread → Thread) : (modTh s tid g w f).poison = s.poison := rfl
@[simp] theorem modTh_bar (s : State) (tid g : Nat) (w : Who) (f : Thread → Thread) : (modTh s tid g w f).bar = s.bar := rfl
@[simp] theorem modTh_evict (s : State) (tid g : Nat) (w : Who) (f : Thread → Thread) : (modTh s tid g w f).evict = s.evict := rfl
@[simp] theorem modTh_satMem (s : State) (tid g : Nat) (w : Who) (f : Thread → Thread) : (modTh s tid g w f).satMem = s.satMem := rfl
@[simp] theorem modTh_perfProg (s : State) (tid g : Nat) (w : Who) (f : Thread → Thread) : (modTh s tid g w f).perfProg = s.perfProg := rfl
@[simp] theorem modTh_perf (s : State) (tid g : Nat) (w : Who) (f : Thread → Thread) : (modTh s tid g w f).perf = s.perf := rfl
@[simp] theorem modTh_interf (s : State) (tid g : Nat) (w : Who) (f : Thread → Thread) : (modTh s tid g w f).interf = s.interf := rfl
@[simp] theorem modTh_dcache (s : State) (tid g : Nat) (w : Who) (f : Thread → Thread) : (modTh s tid g w f).dcache = s.dcache := rfl
@[simp] theorem modTh_icache (s : State) (tid g : Nat) (w : Who) (f : Thread → Thread) : (modTh s tid g w f).icache = s.icache := rfl
@[simp] theorem modTh_shares (s : State) (tid g : Nat) (w : Who) (f : Thread → Thread) : (modTh s tid g w f).shares = s.shares := rfl
@[simp] theorem modTh_l2 (s : State) (tid g : Nat) (w : Who) (f : Thread → Thread) : (modTh s tid g w f).l2 = s.l2 := rfl
@[simp] theorem modTh_tlb (s : State) (tid g : Nat) (w : Who) (f : Thread → Thread) : (modTh s tid g w f).tlb = s.tlb := rfl
@[simp] theorem modTh_ctlb (s : State) (tid g : Nat) (w : Who) (f : Thread → Thread) : (modTh s tid g w f).ctlb = s.ctlb := rfl
@[simp] theorem modTh_walks (s : State) (tid g : Nat) (w : Who) (f : Thread → Thread) : (modTh s tid g w f).walks = s.walks := rfl
@[simp] theorem modTh_outcomes (s : State) (tid g : Nat) (w : Who) (f : Thread → Thread) : (modTh s tid g w f).outcomes = s.outcomes := rfl
@[simp] theorem modTh_aper (s : State) (tid g : Nat) (w : Who) (f : Thread → Thread) : (modTh s tid g w f).aper = s.aper := rfl
@[simp] theorem modTh_migrations (s : State) (tid g : Nat) (w : Who) (f : Thread → Thread) : (modTh s tid g w f).migrations = s.migrations := rfl
@[simp] theorem modTh_queued (s : State) (tid g : Nat) (w : Who) (f : Thread → Thread) : (modTh s tid g w f).queued = s.queued := rfl
@[simp] theorem modTh_migRefused (s : State) (tid g : Nat) (w : Who) (f : Thread → Thread) : (modTh s tid g w f).migRefused = s.migRefused := rfl
@[simp] theorem modTh_scratchBad (s : State) (tid g : Nat) (w : Who) (f : Thread → Thread) : (modTh s tid g w f).scratchBad = s.scratchBad := rfl
@[simp] theorem modTh_window (s : State) (tid g : Nat) (w : Who) (f : Thread → Thread) : (modTh s tid g w f).window = s.window := rfl
@[simp] theorem modTh_retention (s : State) (tid g : Nat) (w : Who) (f : Thread → Thread) : (modTh s tid g w f).retention = s.retention := rfl
@[simp] theorem modTh_svc (s : State) (tid g : Nat) (w : Who) (f : Thread → Thread) : (modTh s tid g w f).svc = s.svc := rfl
@[simp] theorem modTh_merge (s : State) (tid g : Nat) (w : Who) (f : Thread → Thread) : (modTh s tid g w f).merge = s.merge := rfl
@[simp] theorem modTh_launches (s : State) (tid g : Nat) (w : Who) (f : Thread → Thread) : (modTh s tid g w f).launches = s.launches := rfl
@[simp] theorem modTh_runs (s : State) (tid g : Nat) (w : Who) (f : Thread → Thread) : (modTh s tid g w f).runs = s.runs := rfl
@[simp] theorem modTh_ops (s : State) (tid g : Nat) (w : Who) (f : Thread → Thread) : (modTh s tid g w f).ops = s.ops := rfl
@[simp] theorem modTh_nextId (s : State) (tid g : Nat) (w : Who) (f : Thread → Thread) : (modTh s tid g w f).nextId = s.nextId := rfl
@[simp] theorem modTh_pairs (s : State) (tid g : Nat) (w : Who) (f : Thread → Thread) : (modTh s tid g w f).pairs = s.pairs := rfl
@[simp] theorem modTh_watches (s : State) (tid g : Nat) (w : Who) (f : Thread → Thread) : (modTh s tid g w f).watches = s.watches := rfl
@[simp] theorem modTh_freeTime (s : State) (tid g : Nat) (w : Who) (f : Thread → Thread) : (modTh s tid g w f).freeTime = s.freeTime := rfl
@[simp] theorem modTh_lastCommit (s : State) (tid g : Nat) (w : Who) (f : Thread → Thread) : (modTh s tid g w f).lastCommit = s.lastCommit := rfl
@[simp] theorem modTh_traversals (s : State) (tid g : Nat) (w : Who) (f : Thread → Thread) : (modTh s tid g w f).traversals = s.traversals := rfl
@[simp] theorem modTh_prefetched (s : State) (tid g : Nat) (w : Who) (f : Thread → Thread) : (modTh s tid g w f).prefetched = s.prefetched := rfl
@[simp] theorem modTh_nextLaunch (s : State) (tid g : Nat) (w : Who) (f : Thread → Thread) : (modTh s tid g w f).nextLaunch = s.nextLaunch := rfl
@[simp] theorem modTh_jobDone (s : State) (tid g : Nat) (w : Who) (f : Thread → Thread) : (modTh s tid g w f).jobDone = s.jobDone := rfl
@[simp] theorem modTh_jobFailed (s : State) (tid g : Nat) (w : Who) (f : Thread → Thread) : (modTh s tid g w f).jobFailed = s.jobFailed := rfl
@[simp] theorem modTh_phaseDone (s : State) (tid g : Nat) (w : Who) (f : Thread → Thread) : (modTh s tid g w f).phaseDone = s.phaseDone := rfl
@[simp] theorem modTh_phaseFailed (s : State) (tid g : Nat) (w : Who) (f : Thread → Thread) : (modTh s tid g w f).phaseFailed = s.phaseFailed := rfl
@[simp] theorem modTh_cancels (s : State) (tid g : Nat) (w : Who) (f : Thread → Thread) : (modTh s tid g w f).cancels = s.cancels := rfl
@[simp] theorem modTh_resets (s : State) (tid g : Nat) (w : Who) (f : Thread → Thread) : (modTh s tid g w f).resets = s.resets := rfl
@[simp] theorem modTh_dumps (s : State) (tid g : Nat) (w : Who) (f : Thread → Thread) : (modTh s tid g w f).dumps = s.dumps := rfl
@[simp] theorem modTh_dumpWaits (s : State) (tid g : Nat) (w : Who) (f : Thread → Thread) : (modTh s tid g w f).dumpWaits = s.dumpWaits := rfl
@[simp] theorem modTh_ctxWrites (s : State) (tid g : Nat) (w : Who) (f : Thread → Thread) : (modTh s tid g w f).ctxWrites = s.ctxWrites := rfl
@[simp] theorem modTh_fmtDisables (s : State) (tid g : Nat) (w : Who) (f : Thread → Thread) : (modTh s tid g w f).fmtDisables = s.fmtDisables := rfl
@[simp] theorem modTh_pubClears (s : State) (tid g : Nat) (w : Who) (f : Thread → Thread) : (modTh s tid g w f).pubClears = s.pubClears := rfl
@[simp] theorem modTh_partWrites (s : State) (tid g : Nat) (w : Who) (f : Thread → Thread) : (modTh s tid g w f).partWrites = s.partWrites := rfl
@[simp] theorem modTh_ptm (s : State) (tid g : Nat) (w : Who) (f : Thread → Thread) : (modTh s tid g w f).ptm = s.ptm := rfl
@[simp] theorem modTh_nor (s : State) (tid g : Nat) (w : Who) (f : Thread → Thread) : (modTh s tid g w f).nor = s.nor := rfl
@[simp] theorem modTh_hist (s : State) (tid g : Nat) (w : Who) (f : Thread → Thread) : (modTh s tid g w f).hist = s.hist := rfl
@[simp] theorem modTh_lifeSeconds (s : State) (tid g : Nat) (w : Who) (f : Thread → Thread) : (modTh s tid g w f).lifeSeconds = s.lifeSeconds := rfl
@[simp] theorem modTh_mbx (s : State) (tid g : Nat) (w : Who) (f : Thread → Thread) : (modTh s tid g w f).mbx = s.mbx := rfl
@[simp] theorem modTh_faultLog (s : State) (tid g : Nat) (w : Who) (f : Thread → Thread) : (modTh s tid g w f).faultLog = s.faultLog := rfl
@[simp] theorem modTh_lossLog (s : State) (tid g : Nat) (w : Who) (f : Thread → Thread) : (modTh s tid g w f).lossLog = s.lossLog := rfl

/-! ## `modLane` -/

@[simp] theorem modLane_inputs (s : State) (r : Run) (c : Nat) (f : Thread → Thread) : (modLane s r c f).inputs = s.inputs := rfl
@[simp] theorem modLane_due (s : State) (r : Run) (c : Nat) (f : Thread → Thread) : (modLane s r c f).due = s.due := rfl
@[simp] theorem modLane_dead (s : State) (r : Run) (c : Nat) (f : Thread → Thread) : (modLane s r c f).dead = s.dead := rfl
@[simp] theorem modLane_cycle (s : State) (r : Run) (c : Nat) (f : Thread → Thread) : (modLane s r c f).cycle = s.cycle := rfl
@[simp] theorem modLane_phcNs (s : State) (r : Run) (c : Nat) (f : Thread → Thread) : (modLane s r c f).phcNs = s.phcNs := rfl
@[simp] theorem modLane_phcFrac (s : State) (r : Run) (c : Nat) (f : Thread → Thread) : (modLane s r c f).phcFrac = s.phcFrac := rfl
@[simp] theorem modLane_steps (s : State) (r : Run) (c : Nat) (f : Thread → Thread) : (modLane s r c f).steps = s.steps := rfl
@[simp] theorem modLane_khz (s : State) (r : Run) (c : Nat) (f : Thread → Thread) : (modLane s r c f).khz = s.khz := rfl
@[simp] theorem modLane_mem (s : State) (r : Run) (c : Nat) (f : Thread → Thread) : (modLane s r c f).mem = s.mem := rfl
@[simp] theorem modLane_poison (s : State) (r : Run) (c : Nat) (f : Thread → Thread) : (modLane s r c f).poison = s.poison := rfl
@[simp] theorem modLane_bar (s : State) (r : Run) (c : Nat) (f : Thread → Thread) : (modLane s r c f).bar = s.bar := rfl
@[simp] theorem modLane_evict (s : State) (r : Run) (c : Nat) (f : Thread → Thread) : (modLane s r c f).evict = s.evict := rfl
@[simp] theorem modLane_satMem (s : State) (r : Run) (c : Nat) (f : Thread → Thread) : (modLane s r c f).satMem = s.satMem := rfl
@[simp] theorem modLane_perfProg (s : State) (r : Run) (c : Nat) (f : Thread → Thread) : (modLane s r c f).perfProg = s.perfProg := rfl
@[simp] theorem modLane_perf (s : State) (r : Run) (c : Nat) (f : Thread → Thread) : (modLane s r c f).perf = s.perf := rfl
@[simp] theorem modLane_interf (s : State) (r : Run) (c : Nat) (f : Thread → Thread) : (modLane s r c f).interf = s.interf := rfl
@[simp] theorem modLane_dcache (s : State) (r : Run) (c : Nat) (f : Thread → Thread) : (modLane s r c f).dcache = s.dcache := rfl
@[simp] theorem modLane_icache (s : State) (r : Run) (c : Nat) (f : Thread → Thread) : (modLane s r c f).icache = s.icache := rfl
@[simp] theorem modLane_shares (s : State) (r : Run) (c : Nat) (f : Thread → Thread) : (modLane s r c f).shares = s.shares := rfl
@[simp] theorem modLane_l2 (s : State) (r : Run) (c : Nat) (f : Thread → Thread) : (modLane s r c f).l2 = s.l2 := rfl
@[simp] theorem modLane_tlb (s : State) (r : Run) (c : Nat) (f : Thread → Thread) : (modLane s r c f).tlb = s.tlb := rfl
@[simp] theorem modLane_ctlb (s : State) (r : Run) (c : Nat) (f : Thread → Thread) : (modLane s r c f).ctlb = s.ctlb := rfl
@[simp] theorem modLane_walks (s : State) (r : Run) (c : Nat) (f : Thread → Thread) : (modLane s r c f).walks = s.walks := rfl
@[simp] theorem modLane_outcomes (s : State) (r : Run) (c : Nat) (f : Thread → Thread) : (modLane s r c f).outcomes = s.outcomes := rfl
@[simp] theorem modLane_aper (s : State) (r : Run) (c : Nat) (f : Thread → Thread) : (modLane s r c f).aper = s.aper := rfl
@[simp] theorem modLane_migrations (s : State) (r : Run) (c : Nat) (f : Thread → Thread) : (modLane s r c f).migrations = s.migrations := rfl
@[simp] theorem modLane_queued (s : State) (r : Run) (c : Nat) (f : Thread → Thread) : (modLane s r c f).queued = s.queued := rfl
@[simp] theorem modLane_migRefused (s : State) (r : Run) (c : Nat) (f : Thread → Thread) : (modLane s r c f).migRefused = s.migRefused := rfl
@[simp] theorem modLane_scratchBad (s : State) (r : Run) (c : Nat) (f : Thread → Thread) : (modLane s r c f).scratchBad = s.scratchBad := rfl
@[simp] theorem modLane_window (s : State) (r : Run) (c : Nat) (f : Thread → Thread) : (modLane s r c f).window = s.window := rfl
@[simp] theorem modLane_retention (s : State) (r : Run) (c : Nat) (f : Thread → Thread) : (modLane s r c f).retention = s.retention := rfl
@[simp] theorem modLane_svc (s : State) (r : Run) (c : Nat) (f : Thread → Thread) : (modLane s r c f).svc = s.svc := rfl
@[simp] theorem modLane_merge (s : State) (r : Run) (c : Nat) (f : Thread → Thread) : (modLane s r c f).merge = s.merge := rfl
@[simp] theorem modLane_launches (s : State) (r : Run) (c : Nat) (f : Thread → Thread) : (modLane s r c f).launches = s.launches := rfl
@[simp] theorem modLane_runs (s : State) (r : Run) (c : Nat) (f : Thread → Thread) : (modLane s r c f).runs = s.runs := rfl
@[simp] theorem modLane_ops (s : State) (r : Run) (c : Nat) (f : Thread → Thread) : (modLane s r c f).ops = s.ops := rfl
@[simp] theorem modLane_nextId (s : State) (r : Run) (c : Nat) (f : Thread → Thread) : (modLane s r c f).nextId = s.nextId := rfl
@[simp] theorem modLane_pairs (s : State) (r : Run) (c : Nat) (f : Thread → Thread) : (modLane s r c f).pairs = s.pairs := rfl
@[simp] theorem modLane_watches (s : State) (r : Run) (c : Nat) (f : Thread → Thread) : (modLane s r c f).watches = s.watches := rfl
@[simp] theorem modLane_freeTime (s : State) (r : Run) (c : Nat) (f : Thread → Thread) : (modLane s r c f).freeTime = s.freeTime := rfl
@[simp] theorem modLane_lastCommit (s : State) (r : Run) (c : Nat) (f : Thread → Thread) : (modLane s r c f).lastCommit = s.lastCommit := rfl
@[simp] theorem modLane_traversals (s : State) (r : Run) (c : Nat) (f : Thread → Thread) : (modLane s r c f).traversals = s.traversals := rfl
@[simp] theorem modLane_prefetched (s : State) (r : Run) (c : Nat) (f : Thread → Thread) : (modLane s r c f).prefetched = s.prefetched := rfl
@[simp] theorem modLane_nextLaunch (s : State) (r : Run) (c : Nat) (f : Thread → Thread) : (modLane s r c f).nextLaunch = s.nextLaunch := rfl
@[simp] theorem modLane_jobDone (s : State) (r : Run) (c : Nat) (f : Thread → Thread) : (modLane s r c f).jobDone = s.jobDone := rfl
@[simp] theorem modLane_jobFailed (s : State) (r : Run) (c : Nat) (f : Thread → Thread) : (modLane s r c f).jobFailed = s.jobFailed := rfl
@[simp] theorem modLane_phaseDone (s : State) (r : Run) (c : Nat) (f : Thread → Thread) : (modLane s r c f).phaseDone = s.phaseDone := rfl
@[simp] theorem modLane_phaseFailed (s : State) (r : Run) (c : Nat) (f : Thread → Thread) : (modLane s r c f).phaseFailed = s.phaseFailed := rfl
@[simp] theorem modLane_cancels (s : State) (r : Run) (c : Nat) (f : Thread → Thread) : (modLane s r c f).cancels = s.cancels := rfl
@[simp] theorem modLane_resets (s : State) (r : Run) (c : Nat) (f : Thread → Thread) : (modLane s r c f).resets = s.resets := rfl
@[simp] theorem modLane_dumps (s : State) (r : Run) (c : Nat) (f : Thread → Thread) : (modLane s r c f).dumps = s.dumps := rfl
@[simp] theorem modLane_dumpWaits (s : State) (r : Run) (c : Nat) (f : Thread → Thread) : (modLane s r c f).dumpWaits = s.dumpWaits := rfl
@[simp] theorem modLane_ctxWrites (s : State) (r : Run) (c : Nat) (f : Thread → Thread) : (modLane s r c f).ctxWrites = s.ctxWrites := rfl
@[simp] theorem modLane_fmtDisables (s : State) (r : Run) (c : Nat) (f : Thread → Thread) : (modLane s r c f).fmtDisables = s.fmtDisables := rfl
@[simp] theorem modLane_pubClears (s : State) (r : Run) (c : Nat) (f : Thread → Thread) : (modLane s r c f).pubClears = s.pubClears := rfl
@[simp] theorem modLane_partWrites (s : State) (r : Run) (c : Nat) (f : Thread → Thread) : (modLane s r c f).partWrites = s.partWrites := rfl
@[simp] theorem modLane_ptm (s : State) (r : Run) (c : Nat) (f : Thread → Thread) : (modLane s r c f).ptm = s.ptm := rfl
@[simp] theorem modLane_nor (s : State) (r : Run) (c : Nat) (f : Thread → Thread) : (modLane s r c f).nor = s.nor := rfl
@[simp] theorem modLane_hist (s : State) (r : Run) (c : Nat) (f : Thread → Thread) : (modLane s r c f).hist = s.hist := rfl
@[simp] theorem modLane_lifeSeconds (s : State) (r : Run) (c : Nat) (f : Thread → Thread) : (modLane s r c f).lifeSeconds = s.lifeSeconds := rfl
@[simp] theorem modLane_mbx (s : State) (r : Run) (c : Nat) (f : Thread → Thread) : (modLane s r c f).mbx = s.mbx := rfl
@[simp] theorem modLane_faultLog (s : State) (r : Run) (c : Nat) (f : Thread → Thread) : (modLane s r c f).faultLog = s.faultLog := rfl
@[simp] theorem modLane_lossLog (s : State) (r : Run) (c : Nat) (f : Thread → Thread) : (modLane s r c f).lossLog = s.lossLog := rfl

/-! ## `setGroupK` -/

@[simp] theorem setGroupK_inputs (s : State) (r : Run) (i : Nat) (c : Cell) : (setGroupK s r i c).inputs = s.inputs := rfl
@[simp] theorem setGroupK_due (s : State) (r : Run) (i : Nat) (c : Cell) : (setGroupK s r i c).due = s.due := rfl
@[simp] theorem setGroupK_dead (s : State) (r : Run) (i : Nat) (c : Cell) : (setGroupK s r i c).dead = s.dead := rfl
@[simp] theorem setGroupK_cycle (s : State) (r : Run) (i : Nat) (c : Cell) : (setGroupK s r i c).cycle = s.cycle := rfl
@[simp] theorem setGroupK_phcNs (s : State) (r : Run) (i : Nat) (c : Cell) : (setGroupK s r i c).phcNs = s.phcNs := rfl
@[simp] theorem setGroupK_phcFrac (s : State) (r : Run) (i : Nat) (c : Cell) : (setGroupK s r i c).phcFrac = s.phcFrac := rfl
@[simp] theorem setGroupK_steps (s : State) (r : Run) (i : Nat) (c : Cell) : (setGroupK s r i c).steps = s.steps := rfl
@[simp] theorem setGroupK_khz (s : State) (r : Run) (i : Nat) (c : Cell) : (setGroupK s r i c).khz = s.khz := rfl
@[simp] theorem setGroupK_mem (s : State) (r : Run) (i : Nat) (c : Cell) : (setGroupK s r i c).mem = s.mem := rfl
@[simp] theorem setGroupK_poison (s : State) (r : Run) (i : Nat) (c : Cell) : (setGroupK s r i c).poison = s.poison := rfl
@[simp] theorem setGroupK_bar (s : State) (r : Run) (i : Nat) (c : Cell) : (setGroupK s r i c).bar = s.bar := rfl
@[simp] theorem setGroupK_evict (s : State) (r : Run) (i : Nat) (c : Cell) : (setGroupK s r i c).evict = s.evict := rfl
@[simp] theorem setGroupK_satMem (s : State) (r : Run) (i : Nat) (c : Cell) : (setGroupK s r i c).satMem = s.satMem := rfl
@[simp] theorem setGroupK_perfProg (s : State) (r : Run) (i : Nat) (c : Cell) : (setGroupK s r i c).perfProg = s.perfProg := rfl
@[simp] theorem setGroupK_perf (s : State) (r : Run) (i : Nat) (c : Cell) : (setGroupK s r i c).perf = s.perf := rfl
@[simp] theorem setGroupK_interf (s : State) (r : Run) (i : Nat) (c : Cell) : (setGroupK s r i c).interf = s.interf := rfl
@[simp] theorem setGroupK_dcache (s : State) (r : Run) (i : Nat) (c : Cell) : (setGroupK s r i c).dcache = s.dcache := rfl
@[simp] theorem setGroupK_icache (s : State) (r : Run) (i : Nat) (c : Cell) : (setGroupK s r i c).icache = s.icache := rfl
@[simp] theorem setGroupK_shares (s : State) (r : Run) (i : Nat) (c : Cell) : (setGroupK s r i c).shares = s.shares := rfl
@[simp] theorem setGroupK_l2 (s : State) (r : Run) (i : Nat) (c : Cell) : (setGroupK s r i c).l2 = s.l2 := rfl
@[simp] theorem setGroupK_tlb (s : State) (r : Run) (i : Nat) (c : Cell) : (setGroupK s r i c).tlb = s.tlb := rfl
@[simp] theorem setGroupK_ctlb (s : State) (r : Run) (i : Nat) (c : Cell) : (setGroupK s r i c).ctlb = s.ctlb := rfl
@[simp] theorem setGroupK_walks (s : State) (r : Run) (i : Nat) (c : Cell) : (setGroupK s r i c).walks = s.walks := rfl
@[simp] theorem setGroupK_outcomes (s : State) (r : Run) (i : Nat) (c : Cell) : (setGroupK s r i c).outcomes = s.outcomes := rfl
@[simp] theorem setGroupK_aper (s : State) (r : Run) (i : Nat) (c : Cell) : (setGroupK s r i c).aper = s.aper := rfl
@[simp] theorem setGroupK_migrations (s : State) (r : Run) (i : Nat) (c : Cell) : (setGroupK s r i c).migrations = s.migrations := rfl
@[simp] theorem setGroupK_queued (s : State) (r : Run) (i : Nat) (c : Cell) : (setGroupK s r i c).queued = s.queued := rfl
@[simp] theorem setGroupK_migRefused (s : State) (r : Run) (i : Nat) (c : Cell) : (setGroupK s r i c).migRefused = s.migRefused := rfl
@[simp] theorem setGroupK_scratchBad (s : State) (r : Run) (i : Nat) (c : Cell) : (setGroupK s r i c).scratchBad = s.scratchBad := rfl
@[simp] theorem setGroupK_window (s : State) (r : Run) (i : Nat) (c : Cell) : (setGroupK s r i c).window = s.window := rfl
@[simp] theorem setGroupK_retention (s : State) (r : Run) (i : Nat) (c : Cell) : (setGroupK s r i c).retention = s.retention := rfl
@[simp] theorem setGroupK_svc (s : State) (r : Run) (i : Nat) (c : Cell) : (setGroupK s r i c).svc = s.svc := rfl
@[simp] theorem setGroupK_merge (s : State) (r : Run) (i : Nat) (c : Cell) : (setGroupK s r i c).merge = s.merge := rfl
@[simp] theorem setGroupK_launches (s : State) (r : Run) (i : Nat) (c : Cell) : (setGroupK s r i c).launches = s.launches := rfl
@[simp] theorem setGroupK_runs (s : State) (r : Run) (i : Nat) (c : Cell) : (setGroupK s r i c).runs = s.runs := rfl
@[simp] theorem setGroupK_ops (s : State) (r : Run) (i : Nat) (c : Cell) : (setGroupK s r i c).ops = s.ops := rfl
@[simp] theorem setGroupK_nextId (s : State) (r : Run) (i : Nat) (c : Cell) : (setGroupK s r i c).nextId = s.nextId := rfl
@[simp] theorem setGroupK_pairs (s : State) (r : Run) (i : Nat) (c : Cell) : (setGroupK s r i c).pairs = s.pairs := rfl
@[simp] theorem setGroupK_watches (s : State) (r : Run) (i : Nat) (c : Cell) : (setGroupK s r i c).watches = s.watches := rfl
@[simp] theorem setGroupK_freeTime (s : State) (r : Run) (i : Nat) (c : Cell) : (setGroupK s r i c).freeTime = s.freeTime := rfl
@[simp] theorem setGroupK_lastCommit (s : State) (r : Run) (i : Nat) (c : Cell) : (setGroupK s r i c).lastCommit = s.lastCommit := rfl
@[simp] theorem setGroupK_traversals (s : State) (r : Run) (i : Nat) (c : Cell) : (setGroupK s r i c).traversals = s.traversals := rfl
@[simp] theorem setGroupK_prefetched (s : State) (r : Run) (i : Nat) (c : Cell) : (setGroupK s r i c).prefetched = s.prefetched := rfl
@[simp] theorem setGroupK_nextLaunch (s : State) (r : Run) (i : Nat) (c : Cell) : (setGroupK s r i c).nextLaunch = s.nextLaunch := rfl
@[simp] theorem setGroupK_jobDone (s : State) (r : Run) (i : Nat) (c : Cell) : (setGroupK s r i c).jobDone = s.jobDone := rfl
@[simp] theorem setGroupK_jobFailed (s : State) (r : Run) (i : Nat) (c : Cell) : (setGroupK s r i c).jobFailed = s.jobFailed := rfl
@[simp] theorem setGroupK_phaseDone (s : State) (r : Run) (i : Nat) (c : Cell) : (setGroupK s r i c).phaseDone = s.phaseDone := rfl
@[simp] theorem setGroupK_phaseFailed (s : State) (r : Run) (i : Nat) (c : Cell) : (setGroupK s r i c).phaseFailed = s.phaseFailed := rfl
@[simp] theorem setGroupK_cancels (s : State) (r : Run) (i : Nat) (c : Cell) : (setGroupK s r i c).cancels = s.cancels := rfl
@[simp] theorem setGroupK_resets (s : State) (r : Run) (i : Nat) (c : Cell) : (setGroupK s r i c).resets = s.resets := rfl
@[simp] theorem setGroupK_dumps (s : State) (r : Run) (i : Nat) (c : Cell) : (setGroupK s r i c).dumps = s.dumps := rfl
@[simp] theorem setGroupK_dumpWaits (s : State) (r : Run) (i : Nat) (c : Cell) : (setGroupK s r i c).dumpWaits = s.dumpWaits := rfl
@[simp] theorem setGroupK_ctxWrites (s : State) (r : Run) (i : Nat) (c : Cell) : (setGroupK s r i c).ctxWrites = s.ctxWrites := rfl
@[simp] theorem setGroupK_fmtDisables (s : State) (r : Run) (i : Nat) (c : Cell) : (setGroupK s r i c).fmtDisables = s.fmtDisables := rfl
@[simp] theorem setGroupK_pubClears (s : State) (r : Run) (i : Nat) (c : Cell) : (setGroupK s r i c).pubClears = s.pubClears := rfl
@[simp] theorem setGroupK_partWrites (s : State) (r : Run) (i : Nat) (c : Cell) : (setGroupK s r i c).partWrites = s.partWrites := rfl
@[simp] theorem setGroupK_ptm (s : State) (r : Run) (i : Nat) (c : Cell) : (setGroupK s r i c).ptm = s.ptm := rfl
@[simp] theorem setGroupK_nor (s : State) (r : Run) (i : Nat) (c : Cell) : (setGroupK s r i c).nor = s.nor := rfl
@[simp] theorem setGroupK_hist (s : State) (r : Run) (i : Nat) (c : Cell) : (setGroupK s r i c).hist = s.hist := rfl
@[simp] theorem setGroupK_lifeSeconds (s : State) (r : Run) (i : Nat) (c : Cell) : (setGroupK s r i c).lifeSeconds = s.lifeSeconds := rfl
@[simp] theorem setGroupK_mbx (s : State) (r : Run) (i : Nat) (c : Cell) : (setGroupK s r i c).mbx = s.mbx := rfl
@[simp] theorem setGroupK_faultLog (s : State) (r : Run) (i : Nat) (c : Cell) : (setGroupK s r i c).faultLog = s.faultLog := rfl
@[simp] theorem setGroupK_lossLog (s : State) (r : Run) (i : Nat) (c : Cell) : (setGroupK s r i c).lossLog = s.lossLog := rfl

/-! ## `restartWatchdog` -/

@[simp] theorem restartWatchdog_inputs (s : State) (tid : Nat) : (restartWatchdog s tid).inputs = s.inputs := rfl
@[simp] theorem restartWatchdog_due (s : State) (tid : Nat) : (restartWatchdog s tid).due = s.due := rfl
@[simp] theorem restartWatchdog_dead (s : State) (tid : Nat) : (restartWatchdog s tid).dead = s.dead := rfl
@[simp] theorem restartWatchdog_cycle (s : State) (tid : Nat) : (restartWatchdog s tid).cycle = s.cycle := rfl
@[simp] theorem restartWatchdog_phcNs (s : State) (tid : Nat) : (restartWatchdog s tid).phcNs = s.phcNs := rfl
@[simp] theorem restartWatchdog_phcFrac (s : State) (tid : Nat) : (restartWatchdog s tid).phcFrac = s.phcFrac := rfl
@[simp] theorem restartWatchdog_steps (s : State) (tid : Nat) : (restartWatchdog s tid).steps = s.steps := rfl
@[simp] theorem restartWatchdog_khz (s : State) (tid : Nat) : (restartWatchdog s tid).khz = s.khz := rfl
@[simp] theorem restartWatchdog_mem (s : State) (tid : Nat) : (restartWatchdog s tid).mem = s.mem := rfl
@[simp] theorem restartWatchdog_poison (s : State) (tid : Nat) : (restartWatchdog s tid).poison = s.poison := rfl
@[simp] theorem restartWatchdog_bar (s : State) (tid : Nat) : (restartWatchdog s tid).bar = s.bar := rfl
@[simp] theorem restartWatchdog_evict (s : State) (tid : Nat) : (restartWatchdog s tid).evict = s.evict := rfl
@[simp] theorem restartWatchdog_satMem (s : State) (tid : Nat) : (restartWatchdog s tid).satMem = s.satMem := rfl
@[simp] theorem restartWatchdog_perfProg (s : State) (tid : Nat) : (restartWatchdog s tid).perfProg = s.perfProg := rfl
@[simp] theorem restartWatchdog_perf (s : State) (tid : Nat) : (restartWatchdog s tid).perf = s.perf := rfl
@[simp] theorem restartWatchdog_interf (s : State) (tid : Nat) : (restartWatchdog s tid).interf = s.interf := rfl
@[simp] theorem restartWatchdog_dcache (s : State) (tid : Nat) : (restartWatchdog s tid).dcache = s.dcache := rfl
@[simp] theorem restartWatchdog_icache (s : State) (tid : Nat) : (restartWatchdog s tid).icache = s.icache := rfl
@[simp] theorem restartWatchdog_shares (s : State) (tid : Nat) : (restartWatchdog s tid).shares = s.shares := rfl
@[simp] theorem restartWatchdog_l2 (s : State) (tid : Nat) : (restartWatchdog s tid).l2 = s.l2 := rfl
@[simp] theorem restartWatchdog_tlb (s : State) (tid : Nat) : (restartWatchdog s tid).tlb = s.tlb := rfl
@[simp] theorem restartWatchdog_ctlb (s : State) (tid : Nat) : (restartWatchdog s tid).ctlb = s.ctlb := rfl
@[simp] theorem restartWatchdog_walks (s : State) (tid : Nat) : (restartWatchdog s tid).walks = s.walks := rfl
@[simp] theorem restartWatchdog_outcomes (s : State) (tid : Nat) : (restartWatchdog s tid).outcomes = s.outcomes := rfl
@[simp] theorem restartWatchdog_aper (s : State) (tid : Nat) : (restartWatchdog s tid).aper = s.aper := rfl
@[simp] theorem restartWatchdog_migrations (s : State) (tid : Nat) : (restartWatchdog s tid).migrations = s.migrations := rfl
@[simp] theorem restartWatchdog_queued (s : State) (tid : Nat) : (restartWatchdog s tid).queued = s.queued := rfl
@[simp] theorem restartWatchdog_migRefused (s : State) (tid : Nat) : (restartWatchdog s tid).migRefused = s.migRefused := rfl
@[simp] theorem restartWatchdog_scratchBad (s : State) (tid : Nat) : (restartWatchdog s tid).scratchBad = s.scratchBad := rfl
@[simp] theorem restartWatchdog_window (s : State) (tid : Nat) : (restartWatchdog s tid).window = s.window := rfl
@[simp] theorem restartWatchdog_retention (s : State) (tid : Nat) : (restartWatchdog s tid).retention = s.retention := rfl
@[simp] theorem restartWatchdog_svc (s : State) (tid : Nat) : (restartWatchdog s tid).svc = s.svc := rfl
@[simp] theorem restartWatchdog_merge (s : State) (tid : Nat) : (restartWatchdog s tid).merge = s.merge := rfl
@[simp] theorem restartWatchdog_launches (s : State) (tid : Nat) : (restartWatchdog s tid).launches = s.launches := rfl
@[simp] theorem restartWatchdog_runs (s : State) (tid : Nat) : (restartWatchdog s tid).runs = s.runs := rfl
@[simp] theorem restartWatchdog_ops (s : State) (tid : Nat) : (restartWatchdog s tid).ops = s.ops := rfl
@[simp] theorem restartWatchdog_nextId (s : State) (tid : Nat) : (restartWatchdog s tid).nextId = s.nextId := rfl
@[simp] theorem restartWatchdog_pairs (s : State) (tid : Nat) : (restartWatchdog s tid).pairs = s.pairs := rfl
@[simp] theorem restartWatchdog_watches (s : State) (tid : Nat) : (restartWatchdog s tid).watches = s.watches := rfl
@[simp] theorem restartWatchdog_freeTime (s : State) (tid : Nat) : (restartWatchdog s tid).freeTime = s.freeTime := rfl
@[simp] theorem restartWatchdog_lastCommit (s : State) (tid : Nat) : (restartWatchdog s tid).lastCommit = s.lastCommit := rfl
@[simp] theorem restartWatchdog_traversals (s : State) (tid : Nat) : (restartWatchdog s tid).traversals = s.traversals := rfl
@[simp] theorem restartWatchdog_prefetched (s : State) (tid : Nat) : (restartWatchdog s tid).prefetched = s.prefetched := rfl
@[simp] theorem restartWatchdog_nextLaunch (s : State) (tid : Nat) : (restartWatchdog s tid).nextLaunch = s.nextLaunch := rfl
@[simp] theorem restartWatchdog_jobDone (s : State) (tid : Nat) : (restartWatchdog s tid).jobDone = s.jobDone := rfl
@[simp] theorem restartWatchdog_jobFailed (s : State) (tid : Nat) : (restartWatchdog s tid).jobFailed = s.jobFailed := rfl
@[simp] theorem restartWatchdog_phaseDone (s : State) (tid : Nat) : (restartWatchdog s tid).phaseDone = s.phaseDone := rfl
@[simp] theorem restartWatchdog_phaseFailed (s : State) (tid : Nat) : (restartWatchdog s tid).phaseFailed = s.phaseFailed := rfl
@[simp] theorem restartWatchdog_cancels (s : State) (tid : Nat) : (restartWatchdog s tid).cancels = s.cancels := rfl
@[simp] theorem restartWatchdog_resets (s : State) (tid : Nat) : (restartWatchdog s tid).resets = s.resets := rfl
@[simp] theorem restartWatchdog_dumps (s : State) (tid : Nat) : (restartWatchdog s tid).dumps = s.dumps := rfl
@[simp] theorem restartWatchdog_dumpWaits (s : State) (tid : Nat) : (restartWatchdog s tid).dumpWaits = s.dumpWaits := rfl
@[simp] theorem restartWatchdog_ctxWrites (s : State) (tid : Nat) : (restartWatchdog s tid).ctxWrites = s.ctxWrites := rfl
@[simp] theorem restartWatchdog_fmtDisables (s : State) (tid : Nat) : (restartWatchdog s tid).fmtDisables = s.fmtDisables := rfl
@[simp] theorem restartWatchdog_pubClears (s : State) (tid : Nat) : (restartWatchdog s tid).pubClears = s.pubClears := rfl
@[simp] theorem restartWatchdog_partWrites (s : State) (tid : Nat) : (restartWatchdog s tid).partWrites = s.partWrites := rfl
@[simp] theorem restartWatchdog_ptm (s : State) (tid : Nat) : (restartWatchdog s tid).ptm = s.ptm := rfl
@[simp] theorem restartWatchdog_nor (s : State) (tid : Nat) : (restartWatchdog s tid).nor = s.nor := rfl
@[simp] theorem restartWatchdog_hist (s : State) (tid : Nat) : (restartWatchdog s tid).hist = s.hist := rfl
@[simp] theorem restartWatchdog_lifeSeconds (s : State) (tid : Nat) : (restartWatchdog s tid).lifeSeconds = s.lifeSeconds := rfl
@[simp] theorem restartWatchdog_mbx (s : State) (tid : Nat) : (restartWatchdog s tid).mbx = s.mbx := rfl
@[simp] theorem restartWatchdog_faultLog (s : State) (tid : Nat) : (restartWatchdog s tid).faultLog = s.faultLog := rfl
@[simp] theorem restartWatchdog_lossLog (s : State) (tid : Nat) : (restartWatchdog s tid).lossLog = s.lossLog := rfl

/-! ## `countRun` -/

@[simp] theorem countRun_inputs (s : State) (tid : Nat) : (countRun s tid).inputs = s.inputs := rfl
@[simp] theorem countRun_due (s : State) (tid : Nat) : (countRun s tid).due = s.due := rfl
@[simp] theorem countRun_dead (s : State) (tid : Nat) : (countRun s tid).dead = s.dead := rfl
@[simp] theorem countRun_cycle (s : State) (tid : Nat) : (countRun s tid).cycle = s.cycle := rfl
@[simp] theorem countRun_phcNs (s : State) (tid : Nat) : (countRun s tid).phcNs = s.phcNs := rfl
@[simp] theorem countRun_phcFrac (s : State) (tid : Nat) : (countRun s tid).phcFrac = s.phcFrac := rfl
@[simp] theorem countRun_steps (s : State) (tid : Nat) : (countRun s tid).steps = s.steps := rfl
@[simp] theorem countRun_khz (s : State) (tid : Nat) : (countRun s tid).khz = s.khz := rfl
@[simp] theorem countRun_mem (s : State) (tid : Nat) : (countRun s tid).mem = s.mem := rfl
@[simp] theorem countRun_poison (s : State) (tid : Nat) : (countRun s tid).poison = s.poison := rfl
@[simp] theorem countRun_bar (s : State) (tid : Nat) : (countRun s tid).bar = s.bar := rfl
@[simp] theorem countRun_evict (s : State) (tid : Nat) : (countRun s tid).evict = s.evict := rfl
@[simp] theorem countRun_satMem (s : State) (tid : Nat) : (countRun s tid).satMem = s.satMem := rfl
@[simp] theorem countRun_perfProg (s : State) (tid : Nat) : (countRun s tid).perfProg = s.perfProg := rfl
@[simp] theorem countRun_perf (s : State) (tid : Nat) : (countRun s tid).perf = s.perf := rfl
@[simp] theorem countRun_interf (s : State) (tid : Nat) : (countRun s tid).interf = s.interf := rfl
@[simp] theorem countRun_dcache (s : State) (tid : Nat) : (countRun s tid).dcache = s.dcache := rfl
@[simp] theorem countRun_icache (s : State) (tid : Nat) : (countRun s tid).icache = s.icache := rfl
@[simp] theorem countRun_shares (s : State) (tid : Nat) : (countRun s tid).shares = s.shares := rfl
@[simp] theorem countRun_l2 (s : State) (tid : Nat) : (countRun s tid).l2 = s.l2 := rfl
@[simp] theorem countRun_tlb (s : State) (tid : Nat) : (countRun s tid).tlb = s.tlb := rfl
@[simp] theorem countRun_ctlb (s : State) (tid : Nat) : (countRun s tid).ctlb = s.ctlb := rfl
@[simp] theorem countRun_walks (s : State) (tid : Nat) : (countRun s tid).walks = s.walks := rfl
@[simp] theorem countRun_outcomes (s : State) (tid : Nat) : (countRun s tid).outcomes = s.outcomes := rfl
@[simp] theorem countRun_aper (s : State) (tid : Nat) : (countRun s tid).aper = s.aper := rfl
@[simp] theorem countRun_migrations (s : State) (tid : Nat) : (countRun s tid).migrations = s.migrations := rfl
@[simp] theorem countRun_queued (s : State) (tid : Nat) : (countRun s tid).queued = s.queued := rfl
@[simp] theorem countRun_migRefused (s : State) (tid : Nat) : (countRun s tid).migRefused = s.migRefused := rfl
@[simp] theorem countRun_scratchBad (s : State) (tid : Nat) : (countRun s tid).scratchBad = s.scratchBad := rfl
@[simp] theorem countRun_window (s : State) (tid : Nat) : (countRun s tid).window = s.window := rfl
@[simp] theorem countRun_retention (s : State) (tid : Nat) : (countRun s tid).retention = s.retention := rfl
@[simp] theorem countRun_svc (s : State) (tid : Nat) : (countRun s tid).svc = s.svc := rfl
@[simp] theorem countRun_merge (s : State) (tid : Nat) : (countRun s tid).merge = s.merge := rfl
@[simp] theorem countRun_launches (s : State) (tid : Nat) : (countRun s tid).launches = s.launches := rfl
@[simp] theorem countRun_runs (s : State) (tid : Nat) : (countRun s tid).runs = s.runs := rfl
@[simp] theorem countRun_ops (s : State) (tid : Nat) : (countRun s tid).ops = s.ops := rfl
@[simp] theorem countRun_nextId (s : State) (tid : Nat) : (countRun s tid).nextId = s.nextId := rfl
@[simp] theorem countRun_pairs (s : State) (tid : Nat) : (countRun s tid).pairs = s.pairs := rfl
@[simp] theorem countRun_watches (s : State) (tid : Nat) : (countRun s tid).watches = s.watches := rfl
@[simp] theorem countRun_freeTime (s : State) (tid : Nat) : (countRun s tid).freeTime = s.freeTime := rfl
@[simp] theorem countRun_lastCommit (s : State) (tid : Nat) : (countRun s tid).lastCommit = s.lastCommit := rfl
@[simp] theorem countRun_traversals (s : State) (tid : Nat) : (countRun s tid).traversals = s.traversals := rfl
@[simp] theorem countRun_prefetched (s : State) (tid : Nat) : (countRun s tid).prefetched = s.prefetched := rfl
@[simp] theorem countRun_nextLaunch (s : State) (tid : Nat) : (countRun s tid).nextLaunch = s.nextLaunch := rfl
@[simp] theorem countRun_jobDone (s : State) (tid : Nat) : (countRun s tid).jobDone = s.jobDone := rfl
@[simp] theorem countRun_jobFailed (s : State) (tid : Nat) : (countRun s tid).jobFailed = s.jobFailed := rfl
@[simp] theorem countRun_phaseDone (s : State) (tid : Nat) : (countRun s tid).phaseDone = s.phaseDone := rfl
@[simp] theorem countRun_phaseFailed (s : State) (tid : Nat) : (countRun s tid).phaseFailed = s.phaseFailed := rfl
@[simp] theorem countRun_cancels (s : State) (tid : Nat) : (countRun s tid).cancels = s.cancels := rfl
@[simp] theorem countRun_resets (s : State) (tid : Nat) : (countRun s tid).resets = s.resets := rfl
@[simp] theorem countRun_dumps (s : State) (tid : Nat) : (countRun s tid).dumps = s.dumps := rfl
@[simp] theorem countRun_dumpWaits (s : State) (tid : Nat) : (countRun s tid).dumpWaits = s.dumpWaits := rfl
@[simp] theorem countRun_ctxWrites (s : State) (tid : Nat) : (countRun s tid).ctxWrites = s.ctxWrites := rfl
@[simp] theorem countRun_fmtDisables (s : State) (tid : Nat) : (countRun s tid).fmtDisables = s.fmtDisables := rfl
@[simp] theorem countRun_pubClears (s : State) (tid : Nat) : (countRun s tid).pubClears = s.pubClears := rfl
@[simp] theorem countRun_partWrites (s : State) (tid : Nat) : (countRun s tid).partWrites = s.partWrites := rfl
@[simp] theorem countRun_ptm (s : State) (tid : Nat) : (countRun s tid).ptm = s.ptm := rfl
@[simp] theorem countRun_nor (s : State) (tid : Nat) : (countRun s tid).nor = s.nor := rfl
@[simp] theorem countRun_hist (s : State) (tid : Nat) : (countRun s tid).hist = s.hist := rfl
@[simp] theorem countRun_lifeSeconds (s : State) (tid : Nat) : (countRun s tid).lifeSeconds = s.lifeSeconds := rfl
@[simp] theorem countRun_mbx (s : State) (tid : Nat) : (countRun s tid).mbx = s.mbx := rfl
@[simp] theorem countRun_faultLog (s : State) (tid : Nat) : (countRun s tid).faultLog = s.faultLog := rfl
@[simp] theorem countRun_lossLog (s : State) (tid : Nat) : (countRun s tid).lossLog = s.lossLog := rfl

/-! ## `raiseCtr` -/

@[simp] theorem raiseCtr_inputs (s : State) (tid g : Nat) (c : Ctr) : (raiseCtr s tid g c).inputs = s.inputs := rfl
@[simp] theorem raiseCtr_due (s : State) (tid g : Nat) (c : Ctr) : (raiseCtr s tid g c).due = s.due := rfl
@[simp] theorem raiseCtr_dead (s : State) (tid g : Nat) (c : Ctr) : (raiseCtr s tid g c).dead = s.dead := rfl
@[simp] theorem raiseCtr_cycle (s : State) (tid g : Nat) (c : Ctr) : (raiseCtr s tid g c).cycle = s.cycle := rfl
@[simp] theorem raiseCtr_phcNs (s : State) (tid g : Nat) (c : Ctr) : (raiseCtr s tid g c).phcNs = s.phcNs := rfl
@[simp] theorem raiseCtr_phcFrac (s : State) (tid g : Nat) (c : Ctr) : (raiseCtr s tid g c).phcFrac = s.phcFrac := rfl
@[simp] theorem raiseCtr_steps (s : State) (tid g : Nat) (c : Ctr) : (raiseCtr s tid g c).steps = s.steps := rfl
@[simp] theorem raiseCtr_khz (s : State) (tid g : Nat) (c : Ctr) : (raiseCtr s tid g c).khz = s.khz := rfl
@[simp] theorem raiseCtr_mem (s : State) (tid g : Nat) (c : Ctr) : (raiseCtr s tid g c).mem = s.mem := rfl
@[simp] theorem raiseCtr_poison (s : State) (tid g : Nat) (c : Ctr) : (raiseCtr s tid g c).poison = s.poison := rfl
@[simp] theorem raiseCtr_bar (s : State) (tid g : Nat) (c : Ctr) : (raiseCtr s tid g c).bar = s.bar := rfl
@[simp] theorem raiseCtr_evict (s : State) (tid g : Nat) (c : Ctr) : (raiseCtr s tid g c).evict = s.evict := rfl
@[simp] theorem raiseCtr_satMem (s : State) (tid g : Nat) (c : Ctr) : (raiseCtr s tid g c).satMem = s.satMem := rfl
@[simp] theorem raiseCtr_perfProg (s : State) (tid g : Nat) (c : Ctr) : (raiseCtr s tid g c).perfProg = s.perfProg := rfl
@[simp] theorem raiseCtr_perf (s : State) (tid g : Nat) (c : Ctr) : (raiseCtr s tid g c).perf = s.perf := rfl
@[simp] theorem raiseCtr_interf (s : State) (tid g : Nat) (c : Ctr) : (raiseCtr s tid g c).interf = s.interf := rfl
@[simp] theorem raiseCtr_dcache (s : State) (tid g : Nat) (c : Ctr) : (raiseCtr s tid g c).dcache = s.dcache := rfl
@[simp] theorem raiseCtr_icache (s : State) (tid g : Nat) (c : Ctr) : (raiseCtr s tid g c).icache = s.icache := rfl
@[simp] theorem raiseCtr_shares (s : State) (tid g : Nat) (c : Ctr) : (raiseCtr s tid g c).shares = s.shares := rfl
@[simp] theorem raiseCtr_l2 (s : State) (tid g : Nat) (c : Ctr) : (raiseCtr s tid g c).l2 = s.l2 := rfl
@[simp] theorem raiseCtr_tlb (s : State) (tid g : Nat) (c : Ctr) : (raiseCtr s tid g c).tlb = s.tlb := rfl
@[simp] theorem raiseCtr_ctlb (s : State) (tid g : Nat) (c : Ctr) : (raiseCtr s tid g c).ctlb = s.ctlb := rfl
@[simp] theorem raiseCtr_walks (s : State) (tid g : Nat) (c : Ctr) : (raiseCtr s tid g c).walks = s.walks := rfl
@[simp] theorem raiseCtr_outcomes (s : State) (tid g : Nat) (c : Ctr) : (raiseCtr s tid g c).outcomes = s.outcomes := rfl
@[simp] theorem raiseCtr_aper (s : State) (tid g : Nat) (c : Ctr) : (raiseCtr s tid g c).aper = s.aper := rfl
@[simp] theorem raiseCtr_migrations (s : State) (tid g : Nat) (c : Ctr) : (raiseCtr s tid g c).migrations = s.migrations := rfl
@[simp] theorem raiseCtr_queued (s : State) (tid g : Nat) (c : Ctr) : (raiseCtr s tid g c).queued = s.queued := rfl
@[simp] theorem raiseCtr_migRefused (s : State) (tid g : Nat) (c : Ctr) : (raiseCtr s tid g c).migRefused = s.migRefused := rfl
@[simp] theorem raiseCtr_scratchBad (s : State) (tid g : Nat) (c : Ctr) : (raiseCtr s tid g c).scratchBad = s.scratchBad := rfl
@[simp] theorem raiseCtr_window (s : State) (tid g : Nat) (c : Ctr) : (raiseCtr s tid g c).window = s.window := rfl
@[simp] theorem raiseCtr_retention (s : State) (tid g : Nat) (c : Ctr) : (raiseCtr s tid g c).retention = s.retention := rfl
@[simp] theorem raiseCtr_svc (s : State) (tid g : Nat) (c : Ctr) : (raiseCtr s tid g c).svc = s.svc := rfl
@[simp] theorem raiseCtr_merge (s : State) (tid g : Nat) (c : Ctr) : (raiseCtr s tid g c).merge = s.merge := rfl
@[simp] theorem raiseCtr_launches (s : State) (tid g : Nat) (c : Ctr) : (raiseCtr s tid g c).launches = s.launches := rfl
@[simp] theorem raiseCtr_runs (s : State) (tid g : Nat) (c : Ctr) : (raiseCtr s tid g c).runs = s.runs := rfl
@[simp] theorem raiseCtr_ops (s : State) (tid g : Nat) (c : Ctr) : (raiseCtr s tid g c).ops = s.ops := rfl
@[simp] theorem raiseCtr_nextId (s : State) (tid g : Nat) (c : Ctr) : (raiseCtr s tid g c).nextId = s.nextId := rfl
@[simp] theorem raiseCtr_pairs (s : State) (tid g : Nat) (c : Ctr) : (raiseCtr s tid g c).pairs = s.pairs := rfl
@[simp] theorem raiseCtr_watches (s : State) (tid g : Nat) (c : Ctr) : (raiseCtr s tid g c).watches = s.watches := rfl
@[simp] theorem raiseCtr_freeTime (s : State) (tid g : Nat) (c : Ctr) : (raiseCtr s tid g c).freeTime = s.freeTime := rfl
@[simp] theorem raiseCtr_lastCommit (s : State) (tid g : Nat) (c : Ctr) : (raiseCtr s tid g c).lastCommit = s.lastCommit := rfl
@[simp] theorem raiseCtr_traversals (s : State) (tid g : Nat) (c : Ctr) : (raiseCtr s tid g c).traversals = s.traversals := rfl
@[simp] theorem raiseCtr_prefetched (s : State) (tid g : Nat) (c : Ctr) : (raiseCtr s tid g c).prefetched = s.prefetched := rfl
@[simp] theorem raiseCtr_nextLaunch (s : State) (tid g : Nat) (c : Ctr) : (raiseCtr s tid g c).nextLaunch = s.nextLaunch := rfl
@[simp] theorem raiseCtr_jobDone (s : State) (tid g : Nat) (c : Ctr) : (raiseCtr s tid g c).jobDone = s.jobDone := rfl
@[simp] theorem raiseCtr_jobFailed (s : State) (tid g : Nat) (c : Ctr) : (raiseCtr s tid g c).jobFailed = s.jobFailed := rfl
@[simp] theorem raiseCtr_phaseDone (s : State) (tid g : Nat) (c : Ctr) : (raiseCtr s tid g c).phaseDone = s.phaseDone := rfl
@[simp] theorem raiseCtr_phaseFailed (s : State) (tid g : Nat) (c : Ctr) : (raiseCtr s tid g c).phaseFailed = s.phaseFailed := rfl
@[simp] theorem raiseCtr_cancels (s : State) (tid g : Nat) (c : Ctr) : (raiseCtr s tid g c).cancels = s.cancels := rfl
@[simp] theorem raiseCtr_resets (s : State) (tid g : Nat) (c : Ctr) : (raiseCtr s tid g c).resets = s.resets := rfl
@[simp] theorem raiseCtr_dumps (s : State) (tid g : Nat) (c : Ctr) : (raiseCtr s tid g c).dumps = s.dumps := rfl
@[simp] theorem raiseCtr_dumpWaits (s : State) (tid g : Nat) (c : Ctr) : (raiseCtr s tid g c).dumpWaits = s.dumpWaits := rfl
@[simp] theorem raiseCtr_ctxWrites (s : State) (tid g : Nat) (c : Ctr) : (raiseCtr s tid g c).ctxWrites = s.ctxWrites := rfl
@[simp] theorem raiseCtr_fmtDisables (s : State) (tid g : Nat) (c : Ctr) : (raiseCtr s tid g c).fmtDisables = s.fmtDisables := rfl
@[simp] theorem raiseCtr_pubClears (s : State) (tid g : Nat) (c : Ctr) : (raiseCtr s tid g c).pubClears = s.pubClears := rfl
@[simp] theorem raiseCtr_partWrites (s : State) (tid g : Nat) (c : Ctr) : (raiseCtr s tid g c).partWrites = s.partWrites := rfl
@[simp] theorem raiseCtr_ptm (s : State) (tid g : Nat) (c : Ctr) : (raiseCtr s tid g c).ptm = s.ptm := rfl
@[simp] theorem raiseCtr_nor (s : State) (tid g : Nat) (c : Ctr) : (raiseCtr s tid g c).nor = s.nor := rfl
@[simp] theorem raiseCtr_hist (s : State) (tid g : Nat) (c : Ctr) : (raiseCtr s tid g c).hist = s.hist := rfl
@[simp] theorem raiseCtr_lifeSeconds (s : State) (tid g : Nat) (c : Ctr) : (raiseCtr s tid g c).lifeSeconds = s.lifeSeconds := rfl
@[simp] theorem raiseCtr_mbx (s : State) (tid g : Nat) (c : Ctr) : (raiseCtr s tid g c).mbx = s.mbx := rfl
@[simp] theorem raiseCtr_faultLog (s : State) (tid g : Nat) (c : Ctr) : (raiseCtr s tid g c).faultLog = s.faultLog := rfl
@[simp] theorem raiseCtr_lossLog (s : State) (tid g : Nat) (c : Ctr) : (raiseCtr s tid g c).lossLog = s.lossLog := rfl

/-! ## `lowerCtr` -/

@[simp] theorem lowerCtr_inputs (s : State) (tid g : Nat) (c : Ctr) : (lowerCtr s tid g c).inputs = s.inputs := rfl
@[simp] theorem lowerCtr_due (s : State) (tid g : Nat) (c : Ctr) : (lowerCtr s tid g c).due = s.due := rfl
@[simp] theorem lowerCtr_dead (s : State) (tid g : Nat) (c : Ctr) : (lowerCtr s tid g c).dead = s.dead := rfl
@[simp] theorem lowerCtr_cycle (s : State) (tid g : Nat) (c : Ctr) : (lowerCtr s tid g c).cycle = s.cycle := rfl
@[simp] theorem lowerCtr_phcNs (s : State) (tid g : Nat) (c : Ctr) : (lowerCtr s tid g c).phcNs = s.phcNs := rfl
@[simp] theorem lowerCtr_phcFrac (s : State) (tid g : Nat) (c : Ctr) : (lowerCtr s tid g c).phcFrac = s.phcFrac := rfl
@[simp] theorem lowerCtr_steps (s : State) (tid g : Nat) (c : Ctr) : (lowerCtr s tid g c).steps = s.steps := rfl
@[simp] theorem lowerCtr_khz (s : State) (tid g : Nat) (c : Ctr) : (lowerCtr s tid g c).khz = s.khz := rfl
@[simp] theorem lowerCtr_mem (s : State) (tid g : Nat) (c : Ctr) : (lowerCtr s tid g c).mem = s.mem := rfl
@[simp] theorem lowerCtr_poison (s : State) (tid g : Nat) (c : Ctr) : (lowerCtr s tid g c).poison = s.poison := rfl
@[simp] theorem lowerCtr_bar (s : State) (tid g : Nat) (c : Ctr) : (lowerCtr s tid g c).bar = s.bar := rfl
@[simp] theorem lowerCtr_evict (s : State) (tid g : Nat) (c : Ctr) : (lowerCtr s tid g c).evict = s.evict := rfl
@[simp] theorem lowerCtr_satMem (s : State) (tid g : Nat) (c : Ctr) : (lowerCtr s tid g c).satMem = s.satMem := rfl
@[simp] theorem lowerCtr_perfProg (s : State) (tid g : Nat) (c : Ctr) : (lowerCtr s tid g c).perfProg = s.perfProg := rfl
@[simp] theorem lowerCtr_perf (s : State) (tid g : Nat) (c : Ctr) : (lowerCtr s tid g c).perf = s.perf := rfl
@[simp] theorem lowerCtr_interf (s : State) (tid g : Nat) (c : Ctr) : (lowerCtr s tid g c).interf = s.interf := rfl
@[simp] theorem lowerCtr_dcache (s : State) (tid g : Nat) (c : Ctr) : (lowerCtr s tid g c).dcache = s.dcache := rfl
@[simp] theorem lowerCtr_icache (s : State) (tid g : Nat) (c : Ctr) : (lowerCtr s tid g c).icache = s.icache := rfl
@[simp] theorem lowerCtr_shares (s : State) (tid g : Nat) (c : Ctr) : (lowerCtr s tid g c).shares = s.shares := rfl
@[simp] theorem lowerCtr_l2 (s : State) (tid g : Nat) (c : Ctr) : (lowerCtr s tid g c).l2 = s.l2 := rfl
@[simp] theorem lowerCtr_tlb (s : State) (tid g : Nat) (c : Ctr) : (lowerCtr s tid g c).tlb = s.tlb := rfl
@[simp] theorem lowerCtr_ctlb (s : State) (tid g : Nat) (c : Ctr) : (lowerCtr s tid g c).ctlb = s.ctlb := rfl
@[simp] theorem lowerCtr_walks (s : State) (tid g : Nat) (c : Ctr) : (lowerCtr s tid g c).walks = s.walks := rfl
@[simp] theorem lowerCtr_outcomes (s : State) (tid g : Nat) (c : Ctr) : (lowerCtr s tid g c).outcomes = s.outcomes := rfl
@[simp] theorem lowerCtr_aper (s : State) (tid g : Nat) (c : Ctr) : (lowerCtr s tid g c).aper = s.aper := rfl
@[simp] theorem lowerCtr_migrations (s : State) (tid g : Nat) (c : Ctr) : (lowerCtr s tid g c).migrations = s.migrations := rfl
@[simp] theorem lowerCtr_queued (s : State) (tid g : Nat) (c : Ctr) : (lowerCtr s tid g c).queued = s.queued := rfl
@[simp] theorem lowerCtr_migRefused (s : State) (tid g : Nat) (c : Ctr) : (lowerCtr s tid g c).migRefused = s.migRefused := rfl
@[simp] theorem lowerCtr_scratchBad (s : State) (tid g : Nat) (c : Ctr) : (lowerCtr s tid g c).scratchBad = s.scratchBad := rfl
@[simp] theorem lowerCtr_window (s : State) (tid g : Nat) (c : Ctr) : (lowerCtr s tid g c).window = s.window := rfl
@[simp] theorem lowerCtr_retention (s : State) (tid g : Nat) (c : Ctr) : (lowerCtr s tid g c).retention = s.retention := rfl
@[simp] theorem lowerCtr_svc (s : State) (tid g : Nat) (c : Ctr) : (lowerCtr s tid g c).svc = s.svc := rfl
@[simp] theorem lowerCtr_merge (s : State) (tid g : Nat) (c : Ctr) : (lowerCtr s tid g c).merge = s.merge := rfl
@[simp] theorem lowerCtr_launches (s : State) (tid g : Nat) (c : Ctr) : (lowerCtr s tid g c).launches = s.launches := rfl
@[simp] theorem lowerCtr_runs (s : State) (tid g : Nat) (c : Ctr) : (lowerCtr s tid g c).runs = s.runs := rfl
@[simp] theorem lowerCtr_ops (s : State) (tid g : Nat) (c : Ctr) : (lowerCtr s tid g c).ops = s.ops := rfl
@[simp] theorem lowerCtr_nextId (s : State) (tid g : Nat) (c : Ctr) : (lowerCtr s tid g c).nextId = s.nextId := rfl
@[simp] theorem lowerCtr_pairs (s : State) (tid g : Nat) (c : Ctr) : (lowerCtr s tid g c).pairs = s.pairs := rfl
@[simp] theorem lowerCtr_watches (s : State) (tid g : Nat) (c : Ctr) : (lowerCtr s tid g c).watches = s.watches := rfl
@[simp] theorem lowerCtr_freeTime (s : State) (tid g : Nat) (c : Ctr) : (lowerCtr s tid g c).freeTime = s.freeTime := rfl
@[simp] theorem lowerCtr_lastCommit (s : State) (tid g : Nat) (c : Ctr) : (lowerCtr s tid g c).lastCommit = s.lastCommit := rfl
@[simp] theorem lowerCtr_traversals (s : State) (tid g : Nat) (c : Ctr) : (lowerCtr s tid g c).traversals = s.traversals := rfl
@[simp] theorem lowerCtr_prefetched (s : State) (tid g : Nat) (c : Ctr) : (lowerCtr s tid g c).prefetched = s.prefetched := rfl
@[simp] theorem lowerCtr_nextLaunch (s : State) (tid g : Nat) (c : Ctr) : (lowerCtr s tid g c).nextLaunch = s.nextLaunch := rfl
@[simp] theorem lowerCtr_jobDone (s : State) (tid g : Nat) (c : Ctr) : (lowerCtr s tid g c).jobDone = s.jobDone := rfl
@[simp] theorem lowerCtr_jobFailed (s : State) (tid g : Nat) (c : Ctr) : (lowerCtr s tid g c).jobFailed = s.jobFailed := rfl
@[simp] theorem lowerCtr_phaseDone (s : State) (tid g : Nat) (c : Ctr) : (lowerCtr s tid g c).phaseDone = s.phaseDone := rfl
@[simp] theorem lowerCtr_phaseFailed (s : State) (tid g : Nat) (c : Ctr) : (lowerCtr s tid g c).phaseFailed = s.phaseFailed := rfl
@[simp] theorem lowerCtr_cancels (s : State) (tid g : Nat) (c : Ctr) : (lowerCtr s tid g c).cancels = s.cancels := rfl
@[simp] theorem lowerCtr_resets (s : State) (tid g : Nat) (c : Ctr) : (lowerCtr s tid g c).resets = s.resets := rfl
@[simp] theorem lowerCtr_dumps (s : State) (tid g : Nat) (c : Ctr) : (lowerCtr s tid g c).dumps = s.dumps := rfl
@[simp] theorem lowerCtr_dumpWaits (s : State) (tid g : Nat) (c : Ctr) : (lowerCtr s tid g c).dumpWaits = s.dumpWaits := rfl
@[simp] theorem lowerCtr_ctxWrites (s : State) (tid g : Nat) (c : Ctr) : (lowerCtr s tid g c).ctxWrites = s.ctxWrites := rfl
@[simp] theorem lowerCtr_fmtDisables (s : State) (tid g : Nat) (c : Ctr) : (lowerCtr s tid g c).fmtDisables = s.fmtDisables := rfl
@[simp] theorem lowerCtr_pubClears (s : State) (tid g : Nat) (c : Ctr) : (lowerCtr s tid g c).pubClears = s.pubClears := rfl
@[simp] theorem lowerCtr_partWrites (s : State) (tid g : Nat) (c : Ctr) : (lowerCtr s tid g c).partWrites = s.partWrites := rfl
@[simp] theorem lowerCtr_ptm (s : State) (tid g : Nat) (c : Ctr) : (lowerCtr s tid g c).ptm = s.ptm := rfl
@[simp] theorem lowerCtr_nor (s : State) (tid g : Nat) (c : Ctr) : (lowerCtr s tid g c).nor = s.nor := rfl
@[simp] theorem lowerCtr_hist (s : State) (tid g : Nat) (c : Ctr) : (lowerCtr s tid g c).hist = s.hist := rfl
@[simp] theorem lowerCtr_lifeSeconds (s : State) (tid g : Nat) (c : Ctr) : (lowerCtr s tid g c).lifeSeconds = s.lifeSeconds := rfl
@[simp] theorem lowerCtr_mbx (s : State) (tid g : Nat) (c : Ctr) : (lowerCtr s tid g c).mbx = s.mbx := rfl
@[simp] theorem lowerCtr_faultLog (s : State) (tid g : Nat) (c : Ctr) : (lowerCtr s tid g c).faultLog = s.faultLog := rfl
@[simp] theorem lowerCtr_lossLog (s : State) (tid g : Nat) (c : Ctr) : (lowerCtr s tid g c).lossLog = s.lossLog := rfl

/-! ## `raiseSlot` -/

@[simp] theorem raiseSlot_inputs (s : State) (tid g slot : Nat) : (raiseSlot s tid g slot).inputs = s.inputs := rfl
@[simp] theorem raiseSlot_due (s : State) (tid g slot : Nat) : (raiseSlot s tid g slot).due = s.due := rfl
@[simp] theorem raiseSlot_dead (s : State) (tid g slot : Nat) : (raiseSlot s tid g slot).dead = s.dead := rfl
@[simp] theorem raiseSlot_cycle (s : State) (tid g slot : Nat) : (raiseSlot s tid g slot).cycle = s.cycle := rfl
@[simp] theorem raiseSlot_phcNs (s : State) (tid g slot : Nat) : (raiseSlot s tid g slot).phcNs = s.phcNs := rfl
@[simp] theorem raiseSlot_phcFrac (s : State) (tid g slot : Nat) : (raiseSlot s tid g slot).phcFrac = s.phcFrac := rfl
@[simp] theorem raiseSlot_steps (s : State) (tid g slot : Nat) : (raiseSlot s tid g slot).steps = s.steps := rfl
@[simp] theorem raiseSlot_khz (s : State) (tid g slot : Nat) : (raiseSlot s tid g slot).khz = s.khz := rfl
@[simp] theorem raiseSlot_mem (s : State) (tid g slot : Nat) : (raiseSlot s tid g slot).mem = s.mem := rfl
@[simp] theorem raiseSlot_poison (s : State) (tid g slot : Nat) : (raiseSlot s tid g slot).poison = s.poison := rfl
@[simp] theorem raiseSlot_bar (s : State) (tid g slot : Nat) : (raiseSlot s tid g slot).bar = s.bar := rfl
@[simp] theorem raiseSlot_evict (s : State) (tid g slot : Nat) : (raiseSlot s tid g slot).evict = s.evict := rfl
@[simp] theorem raiseSlot_satMem (s : State) (tid g slot : Nat) : (raiseSlot s tid g slot).satMem = s.satMem := rfl
@[simp] theorem raiseSlot_perfProg (s : State) (tid g slot : Nat) : (raiseSlot s tid g slot).perfProg = s.perfProg := rfl
@[simp] theorem raiseSlot_perf (s : State) (tid g slot : Nat) : (raiseSlot s tid g slot).perf = s.perf := rfl
@[simp] theorem raiseSlot_interf (s : State) (tid g slot : Nat) : (raiseSlot s tid g slot).interf = s.interf := rfl
@[simp] theorem raiseSlot_dcache (s : State) (tid g slot : Nat) : (raiseSlot s tid g slot).dcache = s.dcache := rfl
@[simp] theorem raiseSlot_icache (s : State) (tid g slot : Nat) : (raiseSlot s tid g slot).icache = s.icache := rfl
@[simp] theorem raiseSlot_shares (s : State) (tid g slot : Nat) : (raiseSlot s tid g slot).shares = s.shares := rfl
@[simp] theorem raiseSlot_l2 (s : State) (tid g slot : Nat) : (raiseSlot s tid g slot).l2 = s.l2 := rfl
@[simp] theorem raiseSlot_tlb (s : State) (tid g slot : Nat) : (raiseSlot s tid g slot).tlb = s.tlb := rfl
@[simp] theorem raiseSlot_ctlb (s : State) (tid g slot : Nat) : (raiseSlot s tid g slot).ctlb = s.ctlb := rfl
@[simp] theorem raiseSlot_walks (s : State) (tid g slot : Nat) : (raiseSlot s tid g slot).walks = s.walks := rfl
@[simp] theorem raiseSlot_outcomes (s : State) (tid g slot : Nat) : (raiseSlot s tid g slot).outcomes = s.outcomes := rfl
@[simp] theorem raiseSlot_aper (s : State) (tid g slot : Nat) : (raiseSlot s tid g slot).aper = s.aper := rfl
@[simp] theorem raiseSlot_migrations (s : State) (tid g slot : Nat) : (raiseSlot s tid g slot).migrations = s.migrations := rfl
@[simp] theorem raiseSlot_queued (s : State) (tid g slot : Nat) : (raiseSlot s tid g slot).queued = s.queued := rfl
@[simp] theorem raiseSlot_migRefused (s : State) (tid g slot : Nat) : (raiseSlot s tid g slot).migRefused = s.migRefused := rfl
@[simp] theorem raiseSlot_scratchBad (s : State) (tid g slot : Nat) : (raiseSlot s tid g slot).scratchBad = s.scratchBad := rfl
@[simp] theorem raiseSlot_window (s : State) (tid g slot : Nat) : (raiseSlot s tid g slot).window = s.window := rfl
@[simp] theorem raiseSlot_retention (s : State) (tid g slot : Nat) : (raiseSlot s tid g slot).retention = s.retention := rfl
@[simp] theorem raiseSlot_svc (s : State) (tid g slot : Nat) : (raiseSlot s tid g slot).svc = s.svc := rfl
@[simp] theorem raiseSlot_merge (s : State) (tid g slot : Nat) : (raiseSlot s tid g slot).merge = s.merge := rfl
@[simp] theorem raiseSlot_launches (s : State) (tid g slot : Nat) : (raiseSlot s tid g slot).launches = s.launches := rfl
@[simp] theorem raiseSlot_runs (s : State) (tid g slot : Nat) : (raiseSlot s tid g slot).runs = s.runs := rfl
@[simp] theorem raiseSlot_ops (s : State) (tid g slot : Nat) : (raiseSlot s tid g slot).ops = s.ops := rfl
@[simp] theorem raiseSlot_nextId (s : State) (tid g slot : Nat) : (raiseSlot s tid g slot).nextId = s.nextId := rfl
@[simp] theorem raiseSlot_pairs (s : State) (tid g slot : Nat) : (raiseSlot s tid g slot).pairs = s.pairs := rfl
@[simp] theorem raiseSlot_watches (s : State) (tid g slot : Nat) : (raiseSlot s tid g slot).watches = s.watches := rfl
@[simp] theorem raiseSlot_freeTime (s : State) (tid g slot : Nat) : (raiseSlot s tid g slot).freeTime = s.freeTime := rfl
@[simp] theorem raiseSlot_lastCommit (s : State) (tid g slot : Nat) : (raiseSlot s tid g slot).lastCommit = s.lastCommit := rfl
@[simp] theorem raiseSlot_traversals (s : State) (tid g slot : Nat) : (raiseSlot s tid g slot).traversals = s.traversals := rfl
@[simp] theorem raiseSlot_prefetched (s : State) (tid g slot : Nat) : (raiseSlot s tid g slot).prefetched = s.prefetched := rfl
@[simp] theorem raiseSlot_nextLaunch (s : State) (tid g slot : Nat) : (raiseSlot s tid g slot).nextLaunch = s.nextLaunch := rfl
@[simp] theorem raiseSlot_jobDone (s : State) (tid g slot : Nat) : (raiseSlot s tid g slot).jobDone = s.jobDone := rfl
@[simp] theorem raiseSlot_jobFailed (s : State) (tid g slot : Nat) : (raiseSlot s tid g slot).jobFailed = s.jobFailed := rfl
@[simp] theorem raiseSlot_phaseDone (s : State) (tid g slot : Nat) : (raiseSlot s tid g slot).phaseDone = s.phaseDone := rfl
@[simp] theorem raiseSlot_phaseFailed (s : State) (tid g slot : Nat) : (raiseSlot s tid g slot).phaseFailed = s.phaseFailed := rfl
@[simp] theorem raiseSlot_cancels (s : State) (tid g slot : Nat) : (raiseSlot s tid g slot).cancels = s.cancels := rfl
@[simp] theorem raiseSlot_resets (s : State) (tid g slot : Nat) : (raiseSlot s tid g slot).resets = s.resets := rfl
@[simp] theorem raiseSlot_dumps (s : State) (tid g slot : Nat) : (raiseSlot s tid g slot).dumps = s.dumps := rfl
@[simp] theorem raiseSlot_dumpWaits (s : State) (tid g slot : Nat) : (raiseSlot s tid g slot).dumpWaits = s.dumpWaits := rfl
@[simp] theorem raiseSlot_ctxWrites (s : State) (tid g slot : Nat) : (raiseSlot s tid g slot).ctxWrites = s.ctxWrites := rfl
@[simp] theorem raiseSlot_fmtDisables (s : State) (tid g slot : Nat) : (raiseSlot s tid g slot).fmtDisables = s.fmtDisables := rfl
@[simp] theorem raiseSlot_pubClears (s : State) (tid g slot : Nat) : (raiseSlot s tid g slot).pubClears = s.pubClears := rfl
@[simp] theorem raiseSlot_partWrites (s : State) (tid g slot : Nat) : (raiseSlot s tid g slot).partWrites = s.partWrites := rfl
@[simp] theorem raiseSlot_ptm (s : State) (tid g slot : Nat) : (raiseSlot s tid g slot).ptm = s.ptm := rfl
@[simp] theorem raiseSlot_nor (s : State) (tid g slot : Nat) : (raiseSlot s tid g slot).nor = s.nor := rfl
@[simp] theorem raiseSlot_hist (s : State) (tid g slot : Nat) : (raiseSlot s tid g slot).hist = s.hist := rfl
@[simp] theorem raiseSlot_lifeSeconds (s : State) (tid g slot : Nat) : (raiseSlot s tid g slot).lifeSeconds = s.lifeSeconds := rfl
@[simp] theorem raiseSlot_mbx (s : State) (tid g slot : Nat) : (raiseSlot s tid g slot).mbx = s.mbx := rfl
@[simp] theorem raiseSlot_faultLog (s : State) (tid g slot : Nat) : (raiseSlot s tid g slot).faultLog = s.faultLog := rfl
@[simp] theorem raiseSlot_lossLog (s : State) (tid g slot : Nat) : (raiseSlot s tid g slot).lossLog = s.lossLog := rfl

/-! ## `lowerSlot` -/

@[simp] theorem lowerSlot_inputs (s : State) (tid g slot : Nat) : (lowerSlot s tid g slot).inputs = s.inputs := rfl
@[simp] theorem lowerSlot_due (s : State) (tid g slot : Nat) : (lowerSlot s tid g slot).due = s.due := rfl
@[simp] theorem lowerSlot_dead (s : State) (tid g slot : Nat) : (lowerSlot s tid g slot).dead = s.dead := rfl
@[simp] theorem lowerSlot_cycle (s : State) (tid g slot : Nat) : (lowerSlot s tid g slot).cycle = s.cycle := rfl
@[simp] theorem lowerSlot_phcNs (s : State) (tid g slot : Nat) : (lowerSlot s tid g slot).phcNs = s.phcNs := rfl
@[simp] theorem lowerSlot_phcFrac (s : State) (tid g slot : Nat) : (lowerSlot s tid g slot).phcFrac = s.phcFrac := rfl
@[simp] theorem lowerSlot_steps (s : State) (tid g slot : Nat) : (lowerSlot s tid g slot).steps = s.steps := rfl
@[simp] theorem lowerSlot_khz (s : State) (tid g slot : Nat) : (lowerSlot s tid g slot).khz = s.khz := rfl
@[simp] theorem lowerSlot_mem (s : State) (tid g slot : Nat) : (lowerSlot s tid g slot).mem = s.mem := rfl
@[simp] theorem lowerSlot_poison (s : State) (tid g slot : Nat) : (lowerSlot s tid g slot).poison = s.poison := rfl
@[simp] theorem lowerSlot_bar (s : State) (tid g slot : Nat) : (lowerSlot s tid g slot).bar = s.bar := rfl
@[simp] theorem lowerSlot_evict (s : State) (tid g slot : Nat) : (lowerSlot s tid g slot).evict = s.evict := rfl
@[simp] theorem lowerSlot_satMem (s : State) (tid g slot : Nat) : (lowerSlot s tid g slot).satMem = s.satMem := rfl
@[simp] theorem lowerSlot_perfProg (s : State) (tid g slot : Nat) : (lowerSlot s tid g slot).perfProg = s.perfProg := rfl
@[simp] theorem lowerSlot_perf (s : State) (tid g slot : Nat) : (lowerSlot s tid g slot).perf = s.perf := rfl
@[simp] theorem lowerSlot_interf (s : State) (tid g slot : Nat) : (lowerSlot s tid g slot).interf = s.interf := rfl
@[simp] theorem lowerSlot_dcache (s : State) (tid g slot : Nat) : (lowerSlot s tid g slot).dcache = s.dcache := rfl
@[simp] theorem lowerSlot_icache (s : State) (tid g slot : Nat) : (lowerSlot s tid g slot).icache = s.icache := rfl
@[simp] theorem lowerSlot_shares (s : State) (tid g slot : Nat) : (lowerSlot s tid g slot).shares = s.shares := rfl
@[simp] theorem lowerSlot_l2 (s : State) (tid g slot : Nat) : (lowerSlot s tid g slot).l2 = s.l2 := rfl
@[simp] theorem lowerSlot_tlb (s : State) (tid g slot : Nat) : (lowerSlot s tid g slot).tlb = s.tlb := rfl
@[simp] theorem lowerSlot_ctlb (s : State) (tid g slot : Nat) : (lowerSlot s tid g slot).ctlb = s.ctlb := rfl
@[simp] theorem lowerSlot_walks (s : State) (tid g slot : Nat) : (lowerSlot s tid g slot).walks = s.walks := rfl
@[simp] theorem lowerSlot_outcomes (s : State) (tid g slot : Nat) : (lowerSlot s tid g slot).outcomes = s.outcomes := rfl
@[simp] theorem lowerSlot_aper (s : State) (tid g slot : Nat) : (lowerSlot s tid g slot).aper = s.aper := rfl
@[simp] theorem lowerSlot_migrations (s : State) (tid g slot : Nat) : (lowerSlot s tid g slot).migrations = s.migrations := rfl
@[simp] theorem lowerSlot_queued (s : State) (tid g slot : Nat) : (lowerSlot s tid g slot).queued = s.queued := rfl
@[simp] theorem lowerSlot_migRefused (s : State) (tid g slot : Nat) : (lowerSlot s tid g slot).migRefused = s.migRefused := rfl
@[simp] theorem lowerSlot_scratchBad (s : State) (tid g slot : Nat) : (lowerSlot s tid g slot).scratchBad = s.scratchBad := rfl
@[simp] theorem lowerSlot_window (s : State) (tid g slot : Nat) : (lowerSlot s tid g slot).window = s.window := rfl
@[simp] theorem lowerSlot_retention (s : State) (tid g slot : Nat) : (lowerSlot s tid g slot).retention = s.retention := rfl
@[simp] theorem lowerSlot_svc (s : State) (tid g slot : Nat) : (lowerSlot s tid g slot).svc = s.svc := rfl
@[simp] theorem lowerSlot_merge (s : State) (tid g slot : Nat) : (lowerSlot s tid g slot).merge = s.merge := rfl
@[simp] theorem lowerSlot_launches (s : State) (tid g slot : Nat) : (lowerSlot s tid g slot).launches = s.launches := rfl
@[simp] theorem lowerSlot_runs (s : State) (tid g slot : Nat) : (lowerSlot s tid g slot).runs = s.runs := rfl
@[simp] theorem lowerSlot_ops (s : State) (tid g slot : Nat) : (lowerSlot s tid g slot).ops = s.ops := rfl
@[simp] theorem lowerSlot_nextId (s : State) (tid g slot : Nat) : (lowerSlot s tid g slot).nextId = s.nextId := rfl
@[simp] theorem lowerSlot_pairs (s : State) (tid g slot : Nat) : (lowerSlot s tid g slot).pairs = s.pairs := rfl
@[simp] theorem lowerSlot_watches (s : State) (tid g slot : Nat) : (lowerSlot s tid g slot).watches = s.watches := rfl
@[simp] theorem lowerSlot_freeTime (s : State) (tid g slot : Nat) : (lowerSlot s tid g slot).freeTime = s.freeTime := rfl
@[simp] theorem lowerSlot_lastCommit (s : State) (tid g slot : Nat) : (lowerSlot s tid g slot).lastCommit = s.lastCommit := rfl
@[simp] theorem lowerSlot_traversals (s : State) (tid g slot : Nat) : (lowerSlot s tid g slot).traversals = s.traversals := rfl
@[simp] theorem lowerSlot_prefetched (s : State) (tid g slot : Nat) : (lowerSlot s tid g slot).prefetched = s.prefetched := rfl
@[simp] theorem lowerSlot_nextLaunch (s : State) (tid g slot : Nat) : (lowerSlot s tid g slot).nextLaunch = s.nextLaunch := rfl
@[simp] theorem lowerSlot_jobDone (s : State) (tid g slot : Nat) : (lowerSlot s tid g slot).jobDone = s.jobDone := rfl
@[simp] theorem lowerSlot_jobFailed (s : State) (tid g slot : Nat) : (lowerSlot s tid g slot).jobFailed = s.jobFailed := rfl
@[simp] theorem lowerSlot_phaseDone (s : State) (tid g slot : Nat) : (lowerSlot s tid g slot).phaseDone = s.phaseDone := rfl
@[simp] theorem lowerSlot_phaseFailed (s : State) (tid g slot : Nat) : (lowerSlot s tid g slot).phaseFailed = s.phaseFailed := rfl
@[simp] theorem lowerSlot_cancels (s : State) (tid g slot : Nat) : (lowerSlot s tid g slot).cancels = s.cancels := rfl
@[simp] theorem lowerSlot_resets (s : State) (tid g slot : Nat) : (lowerSlot s tid g slot).resets = s.resets := rfl
@[simp] theorem lowerSlot_dumps (s : State) (tid g slot : Nat) : (lowerSlot s tid g slot).dumps = s.dumps := rfl
@[simp] theorem lowerSlot_dumpWaits (s : State) (tid g slot : Nat) : (lowerSlot s tid g slot).dumpWaits = s.dumpWaits := rfl
@[simp] theorem lowerSlot_ctxWrites (s : State) (tid g slot : Nat) : (lowerSlot s tid g slot).ctxWrites = s.ctxWrites := rfl
@[simp] theorem lowerSlot_fmtDisables (s : State) (tid g slot : Nat) : (lowerSlot s tid g slot).fmtDisables = s.fmtDisables := rfl
@[simp] theorem lowerSlot_pubClears (s : State) (tid g slot : Nat) : (lowerSlot s tid g slot).pubClears = s.pubClears := rfl
@[simp] theorem lowerSlot_partWrites (s : State) (tid g slot : Nat) : (lowerSlot s tid g slot).partWrites = s.partWrites := rfl
@[simp] theorem lowerSlot_ptm (s : State) (tid g slot : Nat) : (lowerSlot s tid g slot).ptm = s.ptm := rfl
@[simp] theorem lowerSlot_nor (s : State) (tid g slot : Nat) : (lowerSlot s tid g slot).nor = s.nor := rfl
@[simp] theorem lowerSlot_hist (s : State) (tid g slot : Nat) : (lowerSlot s tid g slot).hist = s.hist := rfl
@[simp] theorem lowerSlot_lifeSeconds (s : State) (tid g slot : Nat) : (lowerSlot s tid g slot).lifeSeconds = s.lifeSeconds := rfl
@[simp] theorem lowerSlot_mbx (s : State) (tid g slot : Nat) : (lowerSlot s tid g slot).mbx = s.mbx := rfl
@[simp] theorem lowerSlot_faultLog (s : State) (tid g slot : Nat) : (lowerSlot s tid g slot).faultLog = s.faultLog := rfl
@[simp] theorem lowerSlot_lossLog (s : State) (tid g slot : Nat) : (lowerSlot s tid g slot).lossLog = s.lossLog := rfl

/-! ## `modLaunch` -/

@[simp] theorem modLaunch_inputs (s : State) (li : Nat) (f : Launch → Launch) : (modLaunch s li f).inputs = s.inputs := rfl
@[simp] theorem modLaunch_due (s : State) (li : Nat) (f : Launch → Launch) : (modLaunch s li f).due = s.due := rfl
@[simp] theorem modLaunch_dead (s : State) (li : Nat) (f : Launch → Launch) : (modLaunch s li f).dead = s.dead := rfl
@[simp] theorem modLaunch_cycle (s : State) (li : Nat) (f : Launch → Launch) : (modLaunch s li f).cycle = s.cycle := rfl
@[simp] theorem modLaunch_phcNs (s : State) (li : Nat) (f : Launch → Launch) : (modLaunch s li f).phcNs = s.phcNs := rfl
@[simp] theorem modLaunch_phcFrac (s : State) (li : Nat) (f : Launch → Launch) : (modLaunch s li f).phcFrac = s.phcFrac := rfl
@[simp] theorem modLaunch_steps (s : State) (li : Nat) (f : Launch → Launch) : (modLaunch s li f).steps = s.steps := rfl
@[simp] theorem modLaunch_khz (s : State) (li : Nat) (f : Launch → Launch) : (modLaunch s li f).khz = s.khz := rfl
@[simp] theorem modLaunch_mem (s : State) (li : Nat) (f : Launch → Launch) : (modLaunch s li f).mem = s.mem := rfl
@[simp] theorem modLaunch_poison (s : State) (li : Nat) (f : Launch → Launch) : (modLaunch s li f).poison = s.poison := rfl
@[simp] theorem modLaunch_bar (s : State) (li : Nat) (f : Launch → Launch) : (modLaunch s li f).bar = s.bar := rfl
@[simp] theorem modLaunch_evict (s : State) (li : Nat) (f : Launch → Launch) : (modLaunch s li f).evict = s.evict := rfl
@[simp] theorem modLaunch_satMem (s : State) (li : Nat) (f : Launch → Launch) : (modLaunch s li f).satMem = s.satMem := rfl
@[simp] theorem modLaunch_perfProg (s : State) (li : Nat) (f : Launch → Launch) : (modLaunch s li f).perfProg = s.perfProg := rfl
@[simp] theorem modLaunch_perf (s : State) (li : Nat) (f : Launch → Launch) : (modLaunch s li f).perf = s.perf := rfl
@[simp] theorem modLaunch_interf (s : State) (li : Nat) (f : Launch → Launch) : (modLaunch s li f).interf = s.interf := rfl
@[simp] theorem modLaunch_dcache (s : State) (li : Nat) (f : Launch → Launch) : (modLaunch s li f).dcache = s.dcache := rfl
@[simp] theorem modLaunch_icache (s : State) (li : Nat) (f : Launch → Launch) : (modLaunch s li f).icache = s.icache := rfl
@[simp] theorem modLaunch_shares (s : State) (li : Nat) (f : Launch → Launch) : (modLaunch s li f).shares = s.shares := rfl
@[simp] theorem modLaunch_l2 (s : State) (li : Nat) (f : Launch → Launch) : (modLaunch s li f).l2 = s.l2 := rfl
@[simp] theorem modLaunch_tlb (s : State) (li : Nat) (f : Launch → Launch) : (modLaunch s li f).tlb = s.tlb := rfl
@[simp] theorem modLaunch_ctlb (s : State) (li : Nat) (f : Launch → Launch) : (modLaunch s li f).ctlb = s.ctlb := rfl
@[simp] theorem modLaunch_walks (s : State) (li : Nat) (f : Launch → Launch) : (modLaunch s li f).walks = s.walks := rfl
@[simp] theorem modLaunch_outcomes (s : State) (li : Nat) (f : Launch → Launch) : (modLaunch s li f).outcomes = s.outcomes := rfl
@[simp] theorem modLaunch_aper (s : State) (li : Nat) (f : Launch → Launch) : (modLaunch s li f).aper = s.aper := rfl
@[simp] theorem modLaunch_migrations (s : State) (li : Nat) (f : Launch → Launch) : (modLaunch s li f).migrations = s.migrations := rfl
@[simp] theorem modLaunch_queued (s : State) (li : Nat) (f : Launch → Launch) : (modLaunch s li f).queued = s.queued := rfl
@[simp] theorem modLaunch_migRefused (s : State) (li : Nat) (f : Launch → Launch) : (modLaunch s li f).migRefused = s.migRefused := rfl
@[simp] theorem modLaunch_scratchBad (s : State) (li : Nat) (f : Launch → Launch) : (modLaunch s li f).scratchBad = s.scratchBad := rfl
@[simp] theorem modLaunch_window (s : State) (li : Nat) (f : Launch → Launch) : (modLaunch s li f).window = s.window := rfl
@[simp] theorem modLaunch_retention (s : State) (li : Nat) (f : Launch → Launch) : (modLaunch s li f).retention = s.retention := rfl
@[simp] theorem modLaunch_svc (s : State) (li : Nat) (f : Launch → Launch) : (modLaunch s li f).svc = s.svc := rfl
@[simp] theorem modLaunch_merge (s : State) (li : Nat) (f : Launch → Launch) : (modLaunch s li f).merge = s.merge := rfl
@[simp] theorem modLaunch_teams (s : State) (li : Nat) (f : Launch → Launch) : (modLaunch s li f).teams = s.teams := rfl
@[simp] theorem modLaunch_runs (s : State) (li : Nat) (f : Launch → Launch) : (modLaunch s li f).runs = s.runs := rfl
@[simp] theorem modLaunch_ops (s : State) (li : Nat) (f : Launch → Launch) : (modLaunch s li f).ops = s.ops := rfl
@[simp] theorem modLaunch_nextId (s : State) (li : Nat) (f : Launch → Launch) : (modLaunch s li f).nextId = s.nextId := rfl
@[simp] theorem modLaunch_pairs (s : State) (li : Nat) (f : Launch → Launch) : (modLaunch s li f).pairs = s.pairs := rfl
@[simp] theorem modLaunch_watches (s : State) (li : Nat) (f : Launch → Launch) : (modLaunch s li f).watches = s.watches := rfl
@[simp] theorem modLaunch_freeTime (s : State) (li : Nat) (f : Launch → Launch) : (modLaunch s li f).freeTime = s.freeTime := rfl
@[simp] theorem modLaunch_lastCommit (s : State) (li : Nat) (f : Launch → Launch) : (modLaunch s li f).lastCommit = s.lastCommit := rfl
@[simp] theorem modLaunch_traversals (s : State) (li : Nat) (f : Launch → Launch) : (modLaunch s li f).traversals = s.traversals := rfl
@[simp] theorem modLaunch_prefetched (s : State) (li : Nat) (f : Launch → Launch) : (modLaunch s li f).prefetched = s.prefetched := rfl
@[simp] theorem modLaunch_nextLaunch (s : State) (li : Nat) (f : Launch → Launch) : (modLaunch s li f).nextLaunch = s.nextLaunch := rfl
@[simp] theorem modLaunch_jobDone (s : State) (li : Nat) (f : Launch → Launch) : (modLaunch s li f).jobDone = s.jobDone := rfl
@[simp] theorem modLaunch_jobFailed (s : State) (li : Nat) (f : Launch → Launch) : (modLaunch s li f).jobFailed = s.jobFailed := rfl
@[simp] theorem modLaunch_phaseDone (s : State) (li : Nat) (f : Launch → Launch) : (modLaunch s li f).phaseDone = s.phaseDone := rfl
@[simp] theorem modLaunch_phaseFailed (s : State) (li : Nat) (f : Launch → Launch) : (modLaunch s li f).phaseFailed = s.phaseFailed := rfl
@[simp] theorem modLaunch_cancels (s : State) (li : Nat) (f : Launch → Launch) : (modLaunch s li f).cancels = s.cancels := rfl
@[simp] theorem modLaunch_resets (s : State) (li : Nat) (f : Launch → Launch) : (modLaunch s li f).resets = s.resets := rfl
@[simp] theorem modLaunch_dumps (s : State) (li : Nat) (f : Launch → Launch) : (modLaunch s li f).dumps = s.dumps := rfl
@[simp] theorem modLaunch_dumpWaits (s : State) (li : Nat) (f : Launch → Launch) : (modLaunch s li f).dumpWaits = s.dumpWaits := rfl
@[simp] theorem modLaunch_ctxWrites (s : State) (li : Nat) (f : Launch → Launch) : (modLaunch s li f).ctxWrites = s.ctxWrites := rfl
@[simp] theorem modLaunch_fmtDisables (s : State) (li : Nat) (f : Launch → Launch) : (modLaunch s li f).fmtDisables = s.fmtDisables := rfl
@[simp] theorem modLaunch_pubClears (s : State) (li : Nat) (f : Launch → Launch) : (modLaunch s li f).pubClears = s.pubClears := rfl
@[simp] theorem modLaunch_partWrites (s : State) (li : Nat) (f : Launch → Launch) : (modLaunch s li f).partWrites = s.partWrites := rfl
@[simp] theorem modLaunch_ptm (s : State) (li : Nat) (f : Launch → Launch) : (modLaunch s li f).ptm = s.ptm := rfl
@[simp] theorem modLaunch_nor (s : State) (li : Nat) (f : Launch → Launch) : (modLaunch s li f).nor = s.nor := rfl
@[simp] theorem modLaunch_hist (s : State) (li : Nat) (f : Launch → Launch) : (modLaunch s li f).hist = s.hist := rfl
@[simp] theorem modLaunch_lifeSeconds (s : State) (li : Nat) (f : Launch → Launch) : (modLaunch s li f).lifeSeconds = s.lifeSeconds := rfl
@[simp] theorem modLaunch_mbx (s : State) (li : Nat) (f : Launch → Launch) : (modLaunch s li f).mbx = s.mbx := rfl
@[simp] theorem modLaunch_faultLog (s : State) (li : Nat) (f : Launch → Launch) : (modLaunch s li f).faultLog = s.faultLog := rfl
@[simp] theorem modLaunch_lossLog (s : State) (li : Nat) (f : Launch → Launch) : (modLaunch s li f).lossLog = s.lossLog := rfl

/-! ## `setBar` -/

@[simp] theorem setBar_inputs (s : State) (off : Nat) (v : Dword) : (setBar s off v).inputs = s.inputs := rfl
@[simp] theorem setBar_due (s : State) (off : Nat) (v : Dword) : (setBar s off v).due = s.due := rfl
@[simp] theorem setBar_dead (s : State) (off : Nat) (v : Dword) : (setBar s off v).dead = s.dead := rfl
@[simp] theorem setBar_cycle (s : State) (off : Nat) (v : Dword) : (setBar s off v).cycle = s.cycle := rfl
@[simp] theorem setBar_phcNs (s : State) (off : Nat) (v : Dword) : (setBar s off v).phcNs = s.phcNs := rfl
@[simp] theorem setBar_phcFrac (s : State) (off : Nat) (v : Dword) : (setBar s off v).phcFrac = s.phcFrac := rfl
@[simp] theorem setBar_steps (s : State) (off : Nat) (v : Dword) : (setBar s off v).steps = s.steps := rfl
@[simp] theorem setBar_khz (s : State) (off : Nat) (v : Dword) : (setBar s off v).khz = s.khz := rfl
@[simp] theorem setBar_mem (s : State) (off : Nat) (v : Dword) : (setBar s off v).mem = s.mem := rfl
@[simp] theorem setBar_poison (s : State) (off : Nat) (v : Dword) : (setBar s off v).poison = s.poison := rfl
@[simp] theorem setBar_evict (s : State) (off : Nat) (v : Dword) : (setBar s off v).evict = s.evict := rfl
@[simp] theorem setBar_satMem (s : State) (off : Nat) (v : Dword) : (setBar s off v).satMem = s.satMem := rfl
@[simp] theorem setBar_perfProg (s : State) (off : Nat) (v : Dword) : (setBar s off v).perfProg = s.perfProg := rfl
@[simp] theorem setBar_perf (s : State) (off : Nat) (v : Dword) : (setBar s off v).perf = s.perf := rfl
@[simp] theorem setBar_interf (s : State) (off : Nat) (v : Dword) : (setBar s off v).interf = s.interf := rfl
@[simp] theorem setBar_dcache (s : State) (off : Nat) (v : Dword) : (setBar s off v).dcache = s.dcache := rfl
@[simp] theorem setBar_icache (s : State) (off : Nat) (v : Dword) : (setBar s off v).icache = s.icache := rfl
@[simp] theorem setBar_shares (s : State) (off : Nat) (v : Dword) : (setBar s off v).shares = s.shares := rfl
@[simp] theorem setBar_l2 (s : State) (off : Nat) (v : Dword) : (setBar s off v).l2 = s.l2 := rfl
@[simp] theorem setBar_tlb (s : State) (off : Nat) (v : Dword) : (setBar s off v).tlb = s.tlb := rfl
@[simp] theorem setBar_ctlb (s : State) (off : Nat) (v : Dword) : (setBar s off v).ctlb = s.ctlb := rfl
@[simp] theorem setBar_walks (s : State) (off : Nat) (v : Dword) : (setBar s off v).walks = s.walks := rfl
@[simp] theorem setBar_outcomes (s : State) (off : Nat) (v : Dword) : (setBar s off v).outcomes = s.outcomes := rfl
@[simp] theorem setBar_aper (s : State) (off : Nat) (v : Dword) : (setBar s off v).aper = s.aper := rfl
@[simp] theorem setBar_migrations (s : State) (off : Nat) (v : Dword) : (setBar s off v).migrations = s.migrations := rfl
@[simp] theorem setBar_queued (s : State) (off : Nat) (v : Dword) : (setBar s off v).queued = s.queued := rfl
@[simp] theorem setBar_migRefused (s : State) (off : Nat) (v : Dword) : (setBar s off v).migRefused = s.migRefused := rfl
@[simp] theorem setBar_scratchBad (s : State) (off : Nat) (v : Dword) : (setBar s off v).scratchBad = s.scratchBad := rfl
@[simp] theorem setBar_window (s : State) (off : Nat) (v : Dword) : (setBar s off v).window = s.window := rfl
@[simp] theorem setBar_retention (s : State) (off : Nat) (v : Dword) : (setBar s off v).retention = s.retention := rfl
@[simp] theorem setBar_svc (s : State) (off : Nat) (v : Dword) : (setBar s off v).svc = s.svc := rfl
@[simp] theorem setBar_merge (s : State) (off : Nat) (v : Dword) : (setBar s off v).merge = s.merge := rfl
@[simp] theorem setBar_launches (s : State) (off : Nat) (v : Dword) : (setBar s off v).launches = s.launches := rfl
@[simp] theorem setBar_teams (s : State) (off : Nat) (v : Dword) : (setBar s off v).teams = s.teams := rfl
@[simp] theorem setBar_runs (s : State) (off : Nat) (v : Dword) : (setBar s off v).runs = s.runs := rfl
@[simp] theorem setBar_ops (s : State) (off : Nat) (v : Dword) : (setBar s off v).ops = s.ops := rfl
@[simp] theorem setBar_nextId (s : State) (off : Nat) (v : Dword) : (setBar s off v).nextId = s.nextId := rfl
@[simp] theorem setBar_pairs (s : State) (off : Nat) (v : Dword) : (setBar s off v).pairs = s.pairs := rfl
@[simp] theorem setBar_watches (s : State) (off : Nat) (v : Dword) : (setBar s off v).watches = s.watches := rfl
@[simp] theorem setBar_freeTime (s : State) (off : Nat) (v : Dword) : (setBar s off v).freeTime = s.freeTime := rfl
@[simp] theorem setBar_lastCommit (s : State) (off : Nat) (v : Dword) : (setBar s off v).lastCommit = s.lastCommit := rfl
@[simp] theorem setBar_traversals (s : State) (off : Nat) (v : Dword) : (setBar s off v).traversals = s.traversals := rfl
@[simp] theorem setBar_prefetched (s : State) (off : Nat) (v : Dword) : (setBar s off v).prefetched = s.prefetched := rfl
@[simp] theorem setBar_nextLaunch (s : State) (off : Nat) (v : Dword) : (setBar s off v).nextLaunch = s.nextLaunch := rfl
@[simp] theorem setBar_jobDone (s : State) (off : Nat) (v : Dword) : (setBar s off v).jobDone = s.jobDone := rfl
@[simp] theorem setBar_jobFailed (s : State) (off : Nat) (v : Dword) : (setBar s off v).jobFailed = s.jobFailed := rfl
@[simp] theorem setBar_phaseDone (s : State) (off : Nat) (v : Dword) : (setBar s off v).phaseDone = s.phaseDone := rfl
@[simp] theorem setBar_phaseFailed (s : State) (off : Nat) (v : Dword) : (setBar s off v).phaseFailed = s.phaseFailed := rfl
@[simp] theorem setBar_cancels (s : State) (off : Nat) (v : Dword) : (setBar s off v).cancels = s.cancels := rfl
@[simp] theorem setBar_resets (s : State) (off : Nat) (v : Dword) : (setBar s off v).resets = s.resets := rfl
@[simp] theorem setBar_dumps (s : State) (off : Nat) (v : Dword) : (setBar s off v).dumps = s.dumps := rfl
@[simp] theorem setBar_dumpWaits (s : State) (off : Nat) (v : Dword) : (setBar s off v).dumpWaits = s.dumpWaits := rfl
@[simp] theorem setBar_ctxWrites (s : State) (off : Nat) (v : Dword) : (setBar s off v).ctxWrites = s.ctxWrites := rfl
@[simp] theorem setBar_fmtDisables (s : State) (off : Nat) (v : Dword) : (setBar s off v).fmtDisables = s.fmtDisables := rfl
@[simp] theorem setBar_pubClears (s : State) (off : Nat) (v : Dword) : (setBar s off v).pubClears = s.pubClears := rfl
@[simp] theorem setBar_partWrites (s : State) (off : Nat) (v : Dword) : (setBar s off v).partWrites = s.partWrites := rfl
@[simp] theorem setBar_ptm (s : State) (off : Nat) (v : Dword) : (setBar s off v).ptm = s.ptm := rfl
@[simp] theorem setBar_nor (s : State) (off : Nat) (v : Dword) : (setBar s off v).nor = s.nor := rfl
@[simp] theorem setBar_hist (s : State) (off : Nat) (v : Dword) : (setBar s off v).hist = s.hist := rfl
@[simp] theorem setBar_lifeSeconds (s : State) (off : Nat) (v : Dword) : (setBar s off v).lifeSeconds = s.lifeSeconds := rfl
@[simp] theorem setBar_mbx (s : State) (off : Nat) (v : Dword) : (setBar s off v).mbx = s.mbx := rfl
@[simp] theorem setBar_faultLog (s : State) (off : Nat) (v : Dword) : (setBar s off v).faultLog = s.faultLog := rfl
@[simp] theorem setBar_lossLog (s : State) (off : Nat) (v : Dword) : (setBar s off v).lossLog = s.lossLog := rfl

/-! ## `setPbar` -/

@[simp] theorem setPbar_inputs (s : State) (d off : Nat) (v : Dword) : (setPbar s d off v).inputs = s.inputs := rfl
@[simp] theorem setPbar_due (s : State) (d off : Nat) (v : Dword) : (setPbar s d off v).due = s.due := rfl
@[simp] theorem setPbar_dead (s : State) (d off : Nat) (v : Dword) : (setPbar s d off v).dead = s.dead := rfl
@[simp] theorem setPbar_cycle (s : State) (d off : Nat) (v : Dword) : (setPbar s d off v).cycle = s.cycle := rfl
@[simp] theorem setPbar_phcNs (s : State) (d off : Nat) (v : Dword) : (setPbar s d off v).phcNs = s.phcNs := rfl
@[simp] theorem setPbar_phcFrac (s : State) (d off : Nat) (v : Dword) : (setPbar s d off v).phcFrac = s.phcFrac := rfl
@[simp] theorem setPbar_steps (s : State) (d off : Nat) (v : Dword) : (setPbar s d off v).steps = s.steps := rfl
@[simp] theorem setPbar_khz (s : State) (d off : Nat) (v : Dword) : (setPbar s d off v).khz = s.khz := rfl
@[simp] theorem setPbar_mem (s : State) (d off : Nat) (v : Dword) : (setPbar s d off v).mem = s.mem := rfl
@[simp] theorem setPbar_poison (s : State) (d off : Nat) (v : Dword) : (setPbar s d off v).poison = s.poison := rfl
@[simp] theorem setPbar_evict (s : State) (d off : Nat) (v : Dword) : (setPbar s d off v).evict = s.evict := rfl
@[simp] theorem setPbar_satMem (s : State) (d off : Nat) (v : Dword) : (setPbar s d off v).satMem = s.satMem := rfl
@[simp] theorem setPbar_perfProg (s : State) (d off : Nat) (v : Dword) : (setPbar s d off v).perfProg = s.perfProg := rfl
@[simp] theorem setPbar_perf (s : State) (d off : Nat) (v : Dword) : (setPbar s d off v).perf = s.perf := rfl
@[simp] theorem setPbar_interf (s : State) (d off : Nat) (v : Dword) : (setPbar s d off v).interf = s.interf := rfl
@[simp] theorem setPbar_dcache (s : State) (d off : Nat) (v : Dword) : (setPbar s d off v).dcache = s.dcache := rfl
@[simp] theorem setPbar_icache (s : State) (d off : Nat) (v : Dword) : (setPbar s d off v).icache = s.icache := rfl
@[simp] theorem setPbar_shares (s : State) (d off : Nat) (v : Dword) : (setPbar s d off v).shares = s.shares := rfl
@[simp] theorem setPbar_l2 (s : State) (d off : Nat) (v : Dword) : (setPbar s d off v).l2 = s.l2 := rfl
@[simp] theorem setPbar_tlb (s : State) (d off : Nat) (v : Dword) : (setPbar s d off v).tlb = s.tlb := rfl
@[simp] theorem setPbar_ctlb (s : State) (d off : Nat) (v : Dword) : (setPbar s d off v).ctlb = s.ctlb := rfl
@[simp] theorem setPbar_walks (s : State) (d off : Nat) (v : Dword) : (setPbar s d off v).walks = s.walks := rfl
@[simp] theorem setPbar_outcomes (s : State) (d off : Nat) (v : Dword) : (setPbar s d off v).outcomes = s.outcomes := rfl
@[simp] theorem setPbar_aper (s : State) (d off : Nat) (v : Dword) : (setPbar s d off v).aper = s.aper := rfl
@[simp] theorem setPbar_migrations (s : State) (d off : Nat) (v : Dword) : (setPbar s d off v).migrations = s.migrations := rfl
@[simp] theorem setPbar_queued (s : State) (d off : Nat) (v : Dword) : (setPbar s d off v).queued = s.queued := rfl
@[simp] theorem setPbar_migRefused (s : State) (d off : Nat) (v : Dword) : (setPbar s d off v).migRefused = s.migRefused := rfl
@[simp] theorem setPbar_scratchBad (s : State) (d off : Nat) (v : Dword) : (setPbar s d off v).scratchBad = s.scratchBad := rfl
@[simp] theorem setPbar_window (s : State) (d off : Nat) (v : Dword) : (setPbar s d off v).window = s.window := rfl
@[simp] theorem setPbar_retention (s : State) (d off : Nat) (v : Dword) : (setPbar s d off v).retention = s.retention := rfl
@[simp] theorem setPbar_svc (s : State) (d off : Nat) (v : Dword) : (setPbar s d off v).svc = s.svc := rfl
@[simp] theorem setPbar_merge (s : State) (d off : Nat) (v : Dword) : (setPbar s d off v).merge = s.merge := rfl
@[simp] theorem setPbar_launches (s : State) (d off : Nat) (v : Dword) : (setPbar s d off v).launches = s.launches := rfl
@[simp] theorem setPbar_teams (s : State) (d off : Nat) (v : Dword) : (setPbar s d off v).teams = s.teams := rfl
@[simp] theorem setPbar_runs (s : State) (d off : Nat) (v : Dword) : (setPbar s d off v).runs = s.runs := rfl
@[simp] theorem setPbar_ops (s : State) (d off : Nat) (v : Dword) : (setPbar s d off v).ops = s.ops := rfl
@[simp] theorem setPbar_nextId (s : State) (d off : Nat) (v : Dword) : (setPbar s d off v).nextId = s.nextId := rfl
@[simp] theorem setPbar_pairs (s : State) (d off : Nat) (v : Dword) : (setPbar s d off v).pairs = s.pairs := rfl
@[simp] theorem setPbar_watches (s : State) (d off : Nat) (v : Dword) : (setPbar s d off v).watches = s.watches := rfl
@[simp] theorem setPbar_freeTime (s : State) (d off : Nat) (v : Dword) : (setPbar s d off v).freeTime = s.freeTime := rfl
@[simp] theorem setPbar_lastCommit (s : State) (d off : Nat) (v : Dword) : (setPbar s d off v).lastCommit = s.lastCommit := rfl
@[simp] theorem setPbar_traversals (s : State) (d off : Nat) (v : Dword) : (setPbar s d off v).traversals = s.traversals := rfl
@[simp] theorem setPbar_prefetched (s : State) (d off : Nat) (v : Dword) : (setPbar s d off v).prefetched = s.prefetched := rfl
@[simp] theorem setPbar_nextLaunch (s : State) (d off : Nat) (v : Dword) : (setPbar s d off v).nextLaunch = s.nextLaunch := rfl
@[simp] theorem setPbar_jobDone (s : State) (d off : Nat) (v : Dword) : (setPbar s d off v).jobDone = s.jobDone := rfl
@[simp] theorem setPbar_jobFailed (s : State) (d off : Nat) (v : Dword) : (setPbar s d off v).jobFailed = s.jobFailed := rfl
@[simp] theorem setPbar_phaseDone (s : State) (d off : Nat) (v : Dword) : (setPbar s d off v).phaseDone = s.phaseDone := rfl
@[simp] theorem setPbar_phaseFailed (s : State) (d off : Nat) (v : Dword) : (setPbar s d off v).phaseFailed = s.phaseFailed := rfl
@[simp] theorem setPbar_cancels (s : State) (d off : Nat) (v : Dword) : (setPbar s d off v).cancels = s.cancels := rfl
@[simp] theorem setPbar_resets (s : State) (d off : Nat) (v : Dword) : (setPbar s d off v).resets = s.resets := rfl
@[simp] theorem setPbar_dumps (s : State) (d off : Nat) (v : Dword) : (setPbar s d off v).dumps = s.dumps := rfl
@[simp] theorem setPbar_dumpWaits (s : State) (d off : Nat) (v : Dword) : (setPbar s d off v).dumpWaits = s.dumpWaits := rfl
@[simp] theorem setPbar_ctxWrites (s : State) (d off : Nat) (v : Dword) : (setPbar s d off v).ctxWrites = s.ctxWrites := rfl
@[simp] theorem setPbar_fmtDisables (s : State) (d off : Nat) (v : Dword) : (setPbar s d off v).fmtDisables = s.fmtDisables := rfl
@[simp] theorem setPbar_pubClears (s : State) (d off : Nat) (v : Dword) : (setPbar s d off v).pubClears = s.pubClears := rfl
@[simp] theorem setPbar_partWrites (s : State) (d off : Nat) (v : Dword) : (setPbar s d off v).partWrites = s.partWrites := rfl
@[simp] theorem setPbar_ptm (s : State) (d off : Nat) (v : Dword) : (setPbar s d off v).ptm = s.ptm := rfl
@[simp] theorem setPbar_nor (s : State) (d off : Nat) (v : Dword) : (setPbar s d off v).nor = s.nor := rfl
@[simp] theorem setPbar_hist (s : State) (d off : Nat) (v : Dword) : (setPbar s d off v).hist = s.hist := rfl
@[simp] theorem setPbar_lifeSeconds (s : State) (d off : Nat) (v : Dword) : (setPbar s d off v).lifeSeconds = s.lifeSeconds := rfl
@[simp] theorem setPbar_mbx (s : State) (d off : Nat) (v : Dword) : (setPbar s d off v).mbx = s.mbx := rfl
@[simp] theorem setPbar_faultLog (s : State) (d off : Nat) (v : Dword) : (setPbar s d off v).faultLog = s.faultLog := rfl
@[simp] theorem setPbar_lossLog (s : State) (d off : Nat) (v : Dword) : (setPbar s d off v).lossLog = s.lossLog := rfl

/-! ## `addOp` -/

@[simp] theorem addOp_inputs (s : State) (tid g : Nat) (pc : Dword) (reporter : Nat) (k : OpKind) : (addOp s tid g pc reporter k).inputs = s.inputs := rfl
@[simp] theorem addOp_due (s : State) (tid g : Nat) (pc : Dword) (reporter : Nat) (k : OpKind) : (addOp s tid g pc reporter k).due = s.due := rfl
@[simp] theorem addOp_dead (s : State) (tid g : Nat) (pc : Dword) (reporter : Nat) (k : OpKind) : (addOp s tid g pc reporter k).dead = s.dead := rfl
@[simp] theorem addOp_cycle (s : State) (tid g : Nat) (pc : Dword) (reporter : Nat) (k : OpKind) : (addOp s tid g pc reporter k).cycle = s.cycle := rfl
@[simp] theorem addOp_phcNs (s : State) (tid g : Nat) (pc : Dword) (reporter : Nat) (k : OpKind) : (addOp s tid g pc reporter k).phcNs = s.phcNs := rfl
@[simp] theorem addOp_phcFrac (s : State) (tid g : Nat) (pc : Dword) (reporter : Nat) (k : OpKind) : (addOp s tid g pc reporter k).phcFrac = s.phcFrac := rfl
@[simp] theorem addOp_steps (s : State) (tid g : Nat) (pc : Dword) (reporter : Nat) (k : OpKind) : (addOp s tid g pc reporter k).steps = s.steps := rfl
@[simp] theorem addOp_khz (s : State) (tid g : Nat) (pc : Dword) (reporter : Nat) (k : OpKind) : (addOp s tid g pc reporter k).khz = s.khz := rfl
@[simp] theorem addOp_mem (s : State) (tid g : Nat) (pc : Dword) (reporter : Nat) (k : OpKind) : (addOp s tid g pc reporter k).mem = s.mem := rfl
@[simp] theorem addOp_poison (s : State) (tid g : Nat) (pc : Dword) (reporter : Nat) (k : OpKind) : (addOp s tid g pc reporter k).poison = s.poison := rfl
@[simp] theorem addOp_bar (s : State) (tid g : Nat) (pc : Dword) (reporter : Nat) (k : OpKind) : (addOp s tid g pc reporter k).bar = s.bar := rfl
@[simp] theorem addOp_evict (s : State) (tid g : Nat) (pc : Dword) (reporter : Nat) (k : OpKind) : (addOp s tid g pc reporter k).evict = s.evict := rfl
@[simp] theorem addOp_satMem (s : State) (tid g : Nat) (pc : Dword) (reporter : Nat) (k : OpKind) : (addOp s tid g pc reporter k).satMem = s.satMem := rfl
@[simp] theorem addOp_perfProg (s : State) (tid g : Nat) (pc : Dword) (reporter : Nat) (k : OpKind) : (addOp s tid g pc reporter k).perfProg = s.perfProg := rfl
@[simp] theorem addOp_perf (s : State) (tid g : Nat) (pc : Dword) (reporter : Nat) (k : OpKind) : (addOp s tid g pc reporter k).perf = s.perf := rfl
@[simp] theorem addOp_interf (s : State) (tid g : Nat) (pc : Dword) (reporter : Nat) (k : OpKind) : (addOp s tid g pc reporter k).interf = s.interf := rfl
@[simp] theorem addOp_dcache (s : State) (tid g : Nat) (pc : Dword) (reporter : Nat) (k : OpKind) : (addOp s tid g pc reporter k).dcache = s.dcache := rfl
@[simp] theorem addOp_icache (s : State) (tid g : Nat) (pc : Dword) (reporter : Nat) (k : OpKind) : (addOp s tid g pc reporter k).icache = s.icache := rfl
@[simp] theorem addOp_shares (s : State) (tid g : Nat) (pc : Dword) (reporter : Nat) (k : OpKind) : (addOp s tid g pc reporter k).shares = s.shares := rfl
@[simp] theorem addOp_l2 (s : State) (tid g : Nat) (pc : Dword) (reporter : Nat) (k : OpKind) : (addOp s tid g pc reporter k).l2 = s.l2 := rfl
@[simp] theorem addOp_tlb (s : State) (tid g : Nat) (pc : Dword) (reporter : Nat) (k : OpKind) : (addOp s tid g pc reporter k).tlb = s.tlb := rfl
@[simp] theorem addOp_ctlb (s : State) (tid g : Nat) (pc : Dword) (reporter : Nat) (k : OpKind) : (addOp s tid g pc reporter k).ctlb = s.ctlb := rfl
@[simp] theorem addOp_walks (s : State) (tid g : Nat) (pc : Dword) (reporter : Nat) (k : OpKind) : (addOp s tid g pc reporter k).walks = s.walks := rfl
@[simp] theorem addOp_outcomes (s : State) (tid g : Nat) (pc : Dword) (reporter : Nat) (k : OpKind) : (addOp s tid g pc reporter k).outcomes = s.outcomes := rfl
@[simp] theorem addOp_aper (s : State) (tid g : Nat) (pc : Dword) (reporter : Nat) (k : OpKind) : (addOp s tid g pc reporter k).aper = s.aper := rfl
@[simp] theorem addOp_migrations (s : State) (tid g : Nat) (pc : Dword) (reporter : Nat) (k : OpKind) : (addOp s tid g pc reporter k).migrations = s.migrations := rfl
@[simp] theorem addOp_queued (s : State) (tid g : Nat) (pc : Dword) (reporter : Nat) (k : OpKind) : (addOp s tid g pc reporter k).queued = s.queued := rfl
@[simp] theorem addOp_migRefused (s : State) (tid g : Nat) (pc : Dword) (reporter : Nat) (k : OpKind) : (addOp s tid g pc reporter k).migRefused = s.migRefused := rfl
@[simp] theorem addOp_scratchBad (s : State) (tid g : Nat) (pc : Dword) (reporter : Nat) (k : OpKind) : (addOp s tid g pc reporter k).scratchBad = s.scratchBad := rfl
@[simp] theorem addOp_window (s : State) (tid g : Nat) (pc : Dword) (reporter : Nat) (k : OpKind) : (addOp s tid g pc reporter k).window = s.window := rfl
@[simp] theorem addOp_retention (s : State) (tid g : Nat) (pc : Dword) (reporter : Nat) (k : OpKind) : (addOp s tid g pc reporter k).retention = s.retention := rfl
@[simp] theorem addOp_svc (s : State) (tid g : Nat) (pc : Dword) (reporter : Nat) (k : OpKind) : (addOp s tid g pc reporter k).svc = s.svc := rfl
@[simp] theorem addOp_merge (s : State) (tid g : Nat) (pc : Dword) (reporter : Nat) (k : OpKind) : (addOp s tid g pc reporter k).merge = s.merge := rfl
@[simp] theorem addOp_launches (s : State) (tid g : Nat) (pc : Dword) (reporter : Nat) (k : OpKind) : (addOp s tid g pc reporter k).launches = s.launches := rfl
@[simp] theorem addOp_teams (s : State) (tid g : Nat) (pc : Dword) (reporter : Nat) (k : OpKind) : (addOp s tid g pc reporter k).teams = s.teams := rfl
@[simp] theorem addOp_runs (s : State) (tid g : Nat) (pc : Dword) (reporter : Nat) (k : OpKind) : (addOp s tid g pc reporter k).runs = s.runs := rfl
@[simp] theorem addOp_pairs (s : State) (tid g : Nat) (pc : Dword) (reporter : Nat) (k : OpKind) : (addOp s tid g pc reporter k).pairs = s.pairs := rfl
@[simp] theorem addOp_watches (s : State) (tid g : Nat) (pc : Dword) (reporter : Nat) (k : OpKind) : (addOp s tid g pc reporter k).watches = s.watches := rfl
@[simp] theorem addOp_freeTime (s : State) (tid g : Nat) (pc : Dword) (reporter : Nat) (k : OpKind) : (addOp s tid g pc reporter k).freeTime = s.freeTime := rfl
@[simp] theorem addOp_lastCommit (s : State) (tid g : Nat) (pc : Dword) (reporter : Nat) (k : OpKind) : (addOp s tid g pc reporter k).lastCommit = s.lastCommit := rfl
@[simp] theorem addOp_traversals (s : State) (tid g : Nat) (pc : Dword) (reporter : Nat) (k : OpKind) : (addOp s tid g pc reporter k).traversals = s.traversals := rfl
@[simp] theorem addOp_prefetched (s : State) (tid g : Nat) (pc : Dword) (reporter : Nat) (k : OpKind) : (addOp s tid g pc reporter k).prefetched = s.prefetched := rfl
@[simp] theorem addOp_nextLaunch (s : State) (tid g : Nat) (pc : Dword) (reporter : Nat) (k : OpKind) : (addOp s tid g pc reporter k).nextLaunch = s.nextLaunch := rfl
@[simp] theorem addOp_jobDone (s : State) (tid g : Nat) (pc : Dword) (reporter : Nat) (k : OpKind) : (addOp s tid g pc reporter k).jobDone = s.jobDone := rfl
@[simp] theorem addOp_jobFailed (s : State) (tid g : Nat) (pc : Dword) (reporter : Nat) (k : OpKind) : (addOp s tid g pc reporter k).jobFailed = s.jobFailed := rfl
@[simp] theorem addOp_phaseDone (s : State) (tid g : Nat) (pc : Dword) (reporter : Nat) (k : OpKind) : (addOp s tid g pc reporter k).phaseDone = s.phaseDone := rfl
@[simp] theorem addOp_phaseFailed (s : State) (tid g : Nat) (pc : Dword) (reporter : Nat) (k : OpKind) : (addOp s tid g pc reporter k).phaseFailed = s.phaseFailed := rfl
@[simp] theorem addOp_cancels (s : State) (tid g : Nat) (pc : Dword) (reporter : Nat) (k : OpKind) : (addOp s tid g pc reporter k).cancels = s.cancels := rfl
@[simp] theorem addOp_resets (s : State) (tid g : Nat) (pc : Dword) (reporter : Nat) (k : OpKind) : (addOp s tid g pc reporter k).resets = s.resets := rfl
@[simp] theorem addOp_dumps (s : State) (tid g : Nat) (pc : Dword) (reporter : Nat) (k : OpKind) : (addOp s tid g pc reporter k).dumps = s.dumps := rfl
@[simp] theorem addOp_dumpWaits (s : State) (tid g : Nat) (pc : Dword) (reporter : Nat) (k : OpKind) : (addOp s tid g pc reporter k).dumpWaits = s.dumpWaits := rfl
@[simp] theorem addOp_ctxWrites (s : State) (tid g : Nat) (pc : Dword) (reporter : Nat) (k : OpKind) : (addOp s tid g pc reporter k).ctxWrites = s.ctxWrites := rfl
@[simp] theorem addOp_fmtDisables (s : State) (tid g : Nat) (pc : Dword) (reporter : Nat) (k : OpKind) : (addOp s tid g pc reporter k).fmtDisables = s.fmtDisables := rfl
@[simp] theorem addOp_pubClears (s : State) (tid g : Nat) (pc : Dword) (reporter : Nat) (k : OpKind) : (addOp s tid g pc reporter k).pubClears = s.pubClears := rfl
@[simp] theorem addOp_partWrites (s : State) (tid g : Nat) (pc : Dword) (reporter : Nat) (k : OpKind) : (addOp s tid g pc reporter k).partWrites = s.partWrites := rfl
@[simp] theorem addOp_ptm (s : State) (tid g : Nat) (pc : Dword) (reporter : Nat) (k : OpKind) : (addOp s tid g pc reporter k).ptm = s.ptm := rfl
@[simp] theorem addOp_nor (s : State) (tid g : Nat) (pc : Dword) (reporter : Nat) (k : OpKind) : (addOp s tid g pc reporter k).nor = s.nor := rfl
@[simp] theorem addOp_hist (s : State) (tid g : Nat) (pc : Dword) (reporter : Nat) (k : OpKind) : (addOp s tid g pc reporter k).hist = s.hist := rfl
@[simp] theorem addOp_lifeSeconds (s : State) (tid g : Nat) (pc : Dword) (reporter : Nat) (k : OpKind) : (addOp s tid g pc reporter k).lifeSeconds = s.lifeSeconds := rfl
@[simp] theorem addOp_mbx (s : State) (tid g : Nat) (pc : Dword) (reporter : Nat) (k : OpKind) : (addOp s tid g pc reporter k).mbx = s.mbx := rfl
@[simp] theorem addOp_faultLog (s : State) (tid g : Nat) (pc : Dword) (reporter : Nat) (k : OpKind) : (addOp s tid g pc reporter k).faultLog = s.faultLog := rfl
@[simp] theorem addOp_lossLog (s : State) (tid g : Nat) (pc : Dword) (reporter : Nat) (k : OpKind) : (addOp s tid g pc reporter k).lossLog = s.lossLog := rfl

/-! ## `dropOp` -/

@[simp] theorem dropOp_inputs (s : State) (id : Nat) : (dropOp s id).inputs = s.inputs := rfl
@[simp] theorem dropOp_due (s : State) (id : Nat) : (dropOp s id).due = s.due := rfl
@[simp] theorem dropOp_dead (s : State) (id : Nat) : (dropOp s id).dead = s.dead := rfl
@[simp] theorem dropOp_cycle (s : State) (id : Nat) : (dropOp s id).cycle = s.cycle := rfl
@[simp] theorem dropOp_phcNs (s : State) (id : Nat) : (dropOp s id).phcNs = s.phcNs := rfl
@[simp] theorem dropOp_phcFrac (s : State) (id : Nat) : (dropOp s id).phcFrac = s.phcFrac := rfl
@[simp] theorem dropOp_steps (s : State) (id : Nat) : (dropOp s id).steps = s.steps := rfl
@[simp] theorem dropOp_khz (s : State) (id : Nat) : (dropOp s id).khz = s.khz := rfl
@[simp] theorem dropOp_mem (s : State) (id : Nat) : (dropOp s id).mem = s.mem := rfl
@[simp] theorem dropOp_poison (s : State) (id : Nat) : (dropOp s id).poison = s.poison := rfl
@[simp] theorem dropOp_bar (s : State) (id : Nat) : (dropOp s id).bar = s.bar := rfl
@[simp] theorem dropOp_evict (s : State) (id : Nat) : (dropOp s id).evict = s.evict := rfl
@[simp] theorem dropOp_satMem (s : State) (id : Nat) : (dropOp s id).satMem = s.satMem := rfl
@[simp] theorem dropOp_perfProg (s : State) (id : Nat) : (dropOp s id).perfProg = s.perfProg := rfl
@[simp] theorem dropOp_perf (s : State) (id : Nat) : (dropOp s id).perf = s.perf := rfl
@[simp] theorem dropOp_interf (s : State) (id : Nat) : (dropOp s id).interf = s.interf := rfl
@[simp] theorem dropOp_dcache (s : State) (id : Nat) : (dropOp s id).dcache = s.dcache := rfl
@[simp] theorem dropOp_icache (s : State) (id : Nat) : (dropOp s id).icache = s.icache := rfl
@[simp] theorem dropOp_shares (s : State) (id : Nat) : (dropOp s id).shares = s.shares := rfl
@[simp] theorem dropOp_l2 (s : State) (id : Nat) : (dropOp s id).l2 = s.l2 := rfl
@[simp] theorem dropOp_tlb (s : State) (id : Nat) : (dropOp s id).tlb = s.tlb := rfl
@[simp] theorem dropOp_ctlb (s : State) (id : Nat) : (dropOp s id).ctlb = s.ctlb := rfl
@[simp] theorem dropOp_walks (s : State) (id : Nat) : (dropOp s id).walks = s.walks := rfl
@[simp] theorem dropOp_outcomes (s : State) (id : Nat) : (dropOp s id).outcomes = s.outcomes := rfl
@[simp] theorem dropOp_aper (s : State) (id : Nat) : (dropOp s id).aper = s.aper := rfl
@[simp] theorem dropOp_migrations (s : State) (id : Nat) : (dropOp s id).migrations = s.migrations := rfl
@[simp] theorem dropOp_queued (s : State) (id : Nat) : (dropOp s id).queued = s.queued := rfl
@[simp] theorem dropOp_migRefused (s : State) (id : Nat) : (dropOp s id).migRefused = s.migRefused := rfl
@[simp] theorem dropOp_scratchBad (s : State) (id : Nat) : (dropOp s id).scratchBad = s.scratchBad := rfl
@[simp] theorem dropOp_window (s : State) (id : Nat) : (dropOp s id).window = s.window := rfl
@[simp] theorem dropOp_retention (s : State) (id : Nat) : (dropOp s id).retention = s.retention := rfl
@[simp] theorem dropOp_svc (s : State) (id : Nat) : (dropOp s id).svc = s.svc := rfl
@[simp] theorem dropOp_merge (s : State) (id : Nat) : (dropOp s id).merge = s.merge := rfl
@[simp] theorem dropOp_launches (s : State) (id : Nat) : (dropOp s id).launches = s.launches := rfl
@[simp] theorem dropOp_teams (s : State) (id : Nat) : (dropOp s id).teams = s.teams := rfl
@[simp] theorem dropOp_runs (s : State) (id : Nat) : (dropOp s id).runs = s.runs := rfl
@[simp] theorem dropOp_nextId (s : State) (id : Nat) : (dropOp s id).nextId = s.nextId := rfl
@[simp] theorem dropOp_pairs (s : State) (id : Nat) : (dropOp s id).pairs = s.pairs := rfl
@[simp] theorem dropOp_watches (s : State) (id : Nat) : (dropOp s id).watches = s.watches := rfl
@[simp] theorem dropOp_freeTime (s : State) (id : Nat) : (dropOp s id).freeTime = s.freeTime := rfl
@[simp] theorem dropOp_lastCommit (s : State) (id : Nat) : (dropOp s id).lastCommit = s.lastCommit := rfl
@[simp] theorem dropOp_traversals (s : State) (id : Nat) : (dropOp s id).traversals = s.traversals := rfl
@[simp] theorem dropOp_prefetched (s : State) (id : Nat) : (dropOp s id).prefetched = s.prefetched := rfl
@[simp] theorem dropOp_nextLaunch (s : State) (id : Nat) : (dropOp s id).nextLaunch = s.nextLaunch := rfl
@[simp] theorem dropOp_jobDone (s : State) (id : Nat) : (dropOp s id).jobDone = s.jobDone := rfl
@[simp] theorem dropOp_jobFailed (s : State) (id : Nat) : (dropOp s id).jobFailed = s.jobFailed := rfl
@[simp] theorem dropOp_phaseDone (s : State) (id : Nat) : (dropOp s id).phaseDone = s.phaseDone := rfl
@[simp] theorem dropOp_phaseFailed (s : State) (id : Nat) : (dropOp s id).phaseFailed = s.phaseFailed := rfl
@[simp] theorem dropOp_cancels (s : State) (id : Nat) : (dropOp s id).cancels = s.cancels := rfl
@[simp] theorem dropOp_resets (s : State) (id : Nat) : (dropOp s id).resets = s.resets := rfl
@[simp] theorem dropOp_dumps (s : State) (id : Nat) : (dropOp s id).dumps = s.dumps := rfl
@[simp] theorem dropOp_dumpWaits (s : State) (id : Nat) : (dropOp s id).dumpWaits = s.dumpWaits := rfl
@[simp] theorem dropOp_ctxWrites (s : State) (id : Nat) : (dropOp s id).ctxWrites = s.ctxWrites := rfl
@[simp] theorem dropOp_fmtDisables (s : State) (id : Nat) : (dropOp s id).fmtDisables = s.fmtDisables := rfl
@[simp] theorem dropOp_pubClears (s : State) (id : Nat) : (dropOp s id).pubClears = s.pubClears := rfl
@[simp] theorem dropOp_partWrites (s : State) (id : Nat) : (dropOp s id).partWrites = s.partWrites := rfl
@[simp] theorem dropOp_ptm (s : State) (id : Nat) : (dropOp s id).ptm = s.ptm := rfl
@[simp] theorem dropOp_nor (s : State) (id : Nat) : (dropOp s id).nor = s.nor := rfl
@[simp] theorem dropOp_hist (s : State) (id : Nat) : (dropOp s id).hist = s.hist := rfl
@[simp] theorem dropOp_lifeSeconds (s : State) (id : Nat) : (dropOp s id).lifeSeconds = s.lifeSeconds := rfl
@[simp] theorem dropOp_mbx (s : State) (id : Nat) : (dropOp s id).mbx = s.mbx := rfl
@[simp] theorem dropOp_faultLog (s : State) (id : Nat) : (dropOp s id).faultLog = s.faultLog := rfl
@[simp] theorem dropOp_lossLog (s : State) (id : Nat) : (dropOp s id).lossLog = s.lossLog := rfl

/-! ## `setOpKind` -/

@[simp] theorem setOpKind_inputs (s : State) (id : Nat) (k : OpKind) : (setOpKind s id k).inputs = s.inputs := rfl
@[simp] theorem setOpKind_due (s : State) (id : Nat) (k : OpKind) : (setOpKind s id k).due = s.due := rfl
@[simp] theorem setOpKind_dead (s : State) (id : Nat) (k : OpKind) : (setOpKind s id k).dead = s.dead := rfl
@[simp] theorem setOpKind_cycle (s : State) (id : Nat) (k : OpKind) : (setOpKind s id k).cycle = s.cycle := rfl
@[simp] theorem setOpKind_phcNs (s : State) (id : Nat) (k : OpKind) : (setOpKind s id k).phcNs = s.phcNs := rfl
@[simp] theorem setOpKind_phcFrac (s : State) (id : Nat) (k : OpKind) : (setOpKind s id k).phcFrac = s.phcFrac := rfl
@[simp] theorem setOpKind_steps (s : State) (id : Nat) (k : OpKind) : (setOpKind s id k).steps = s.steps := rfl
@[simp] theorem setOpKind_khz (s : State) (id : Nat) (k : OpKind) : (setOpKind s id k).khz = s.khz := rfl
@[simp] theorem setOpKind_mem (s : State) (id : Nat) (k : OpKind) : (setOpKind s id k).mem = s.mem := rfl
@[simp] theorem setOpKind_poison (s : State) (id : Nat) (k : OpKind) : (setOpKind s id k).poison = s.poison := rfl
@[simp] theorem setOpKind_bar (s : State) (id : Nat) (k : OpKind) : (setOpKind s id k).bar = s.bar := rfl
@[simp] theorem setOpKind_evict (s : State) (id : Nat) (k : OpKind) : (setOpKind s id k).evict = s.evict := rfl
@[simp] theorem setOpKind_satMem (s : State) (id : Nat) (k : OpKind) : (setOpKind s id k).satMem = s.satMem := rfl
@[simp] theorem setOpKind_perfProg (s : State) (id : Nat) (k : OpKind) : (setOpKind s id k).perfProg = s.perfProg := rfl
@[simp] theorem setOpKind_perf (s : State) (id : Nat) (k : OpKind) : (setOpKind s id k).perf = s.perf := rfl
@[simp] theorem setOpKind_interf (s : State) (id : Nat) (k : OpKind) : (setOpKind s id k).interf = s.interf := rfl
@[simp] theorem setOpKind_dcache (s : State) (id : Nat) (k : OpKind) : (setOpKind s id k).dcache = s.dcache := rfl
@[simp] theorem setOpKind_icache (s : State) (id : Nat) (k : OpKind) : (setOpKind s id k).icache = s.icache := rfl
@[simp] theorem setOpKind_shares (s : State) (id : Nat) (k : OpKind) : (setOpKind s id k).shares = s.shares := rfl
@[simp] theorem setOpKind_l2 (s : State) (id : Nat) (k : OpKind) : (setOpKind s id k).l2 = s.l2 := rfl
@[simp] theorem setOpKind_tlb (s : State) (id : Nat) (k : OpKind) : (setOpKind s id k).tlb = s.tlb := rfl
@[simp] theorem setOpKind_ctlb (s : State) (id : Nat) (k : OpKind) : (setOpKind s id k).ctlb = s.ctlb := rfl
@[simp] theorem setOpKind_walks (s : State) (id : Nat) (k : OpKind) : (setOpKind s id k).walks = s.walks := rfl
@[simp] theorem setOpKind_outcomes (s : State) (id : Nat) (k : OpKind) : (setOpKind s id k).outcomes = s.outcomes := rfl
@[simp] theorem setOpKind_aper (s : State) (id : Nat) (k : OpKind) : (setOpKind s id k).aper = s.aper := rfl
@[simp] theorem setOpKind_migrations (s : State) (id : Nat) (k : OpKind) : (setOpKind s id k).migrations = s.migrations := rfl
@[simp] theorem setOpKind_queued (s : State) (id : Nat) (k : OpKind) : (setOpKind s id k).queued = s.queued := rfl
@[simp] theorem setOpKind_migRefused (s : State) (id : Nat) (k : OpKind) : (setOpKind s id k).migRefused = s.migRefused := rfl
@[simp] theorem setOpKind_scratchBad (s : State) (id : Nat) (k : OpKind) : (setOpKind s id k).scratchBad = s.scratchBad := rfl
@[simp] theorem setOpKind_window (s : State) (id : Nat) (k : OpKind) : (setOpKind s id k).window = s.window := rfl
@[simp] theorem setOpKind_retention (s : State) (id : Nat) (k : OpKind) : (setOpKind s id k).retention = s.retention := rfl
@[simp] theorem setOpKind_svc (s : State) (id : Nat) (k : OpKind) : (setOpKind s id k).svc = s.svc := rfl
@[simp] theorem setOpKind_merge (s : State) (id : Nat) (k : OpKind) : (setOpKind s id k).merge = s.merge := rfl
@[simp] theorem setOpKind_launches (s : State) (id : Nat) (k : OpKind) : (setOpKind s id k).launches = s.launches := rfl
@[simp] theorem setOpKind_teams (s : State) (id : Nat) (k : OpKind) : (setOpKind s id k).teams = s.teams := rfl
@[simp] theorem setOpKind_runs (s : State) (id : Nat) (k : OpKind) : (setOpKind s id k).runs = s.runs := rfl
@[simp] theorem setOpKind_nextId (s : State) (id : Nat) (k : OpKind) : (setOpKind s id k).nextId = s.nextId := rfl
@[simp] theorem setOpKind_pairs (s : State) (id : Nat) (k : OpKind) : (setOpKind s id k).pairs = s.pairs := rfl
@[simp] theorem setOpKind_watches (s : State) (id : Nat) (k : OpKind) : (setOpKind s id k).watches = s.watches := rfl
@[simp] theorem setOpKind_freeTime (s : State) (id : Nat) (k : OpKind) : (setOpKind s id k).freeTime = s.freeTime := rfl
@[simp] theorem setOpKind_lastCommit (s : State) (id : Nat) (k : OpKind) : (setOpKind s id k).lastCommit = s.lastCommit := rfl
@[simp] theorem setOpKind_traversals (s : State) (id : Nat) (k : OpKind) : (setOpKind s id k).traversals = s.traversals := rfl
@[simp] theorem setOpKind_prefetched (s : State) (id : Nat) (k : OpKind) : (setOpKind s id k).prefetched = s.prefetched := rfl
@[simp] theorem setOpKind_nextLaunch (s : State) (id : Nat) (k : OpKind) : (setOpKind s id k).nextLaunch = s.nextLaunch := rfl
@[simp] theorem setOpKind_jobDone (s : State) (id : Nat) (k : OpKind) : (setOpKind s id k).jobDone = s.jobDone := rfl
@[simp] theorem setOpKind_jobFailed (s : State) (id : Nat) (k : OpKind) : (setOpKind s id k).jobFailed = s.jobFailed := rfl
@[simp] theorem setOpKind_phaseDone (s : State) (id : Nat) (k : OpKind) : (setOpKind s id k).phaseDone = s.phaseDone := rfl
@[simp] theorem setOpKind_phaseFailed (s : State) (id : Nat) (k : OpKind) : (setOpKind s id k).phaseFailed = s.phaseFailed := rfl
@[simp] theorem setOpKind_cancels (s : State) (id : Nat) (k : OpKind) : (setOpKind s id k).cancels = s.cancels := rfl
@[simp] theorem setOpKind_resets (s : State) (id : Nat) (k : OpKind) : (setOpKind s id k).resets = s.resets := rfl
@[simp] theorem setOpKind_dumps (s : State) (id : Nat) (k : OpKind) : (setOpKind s id k).dumps = s.dumps := rfl
@[simp] theorem setOpKind_dumpWaits (s : State) (id : Nat) (k : OpKind) : (setOpKind s id k).dumpWaits = s.dumpWaits := rfl
@[simp] theorem setOpKind_ctxWrites (s : State) (id : Nat) (k : OpKind) : (setOpKind s id k).ctxWrites = s.ctxWrites := rfl
@[simp] theorem setOpKind_fmtDisables (s : State) (id : Nat) (k : OpKind) : (setOpKind s id k).fmtDisables = s.fmtDisables := rfl
@[simp] theorem setOpKind_pubClears (s : State) (id : Nat) (k : OpKind) : (setOpKind s id k).pubClears = s.pubClears := rfl
@[simp] theorem setOpKind_partWrites (s : State) (id : Nat) (k : OpKind) : (setOpKind s id k).partWrites = s.partWrites := rfl
@[simp] theorem setOpKind_ptm (s : State) (id : Nat) (k : OpKind) : (setOpKind s id k).ptm = s.ptm := rfl
@[simp] theorem setOpKind_nor (s : State) (id : Nat) (k : OpKind) : (setOpKind s id k).nor = s.nor := rfl
@[simp] theorem setOpKind_hist (s : State) (id : Nat) (k : OpKind) : (setOpKind s id k).hist = s.hist := rfl
@[simp] theorem setOpKind_lifeSeconds (s : State) (id : Nat) (k : OpKind) : (setOpKind s id k).lifeSeconds = s.lifeSeconds := rfl
@[simp] theorem setOpKind_mbx (s : State) (id : Nat) (k : OpKind) : (setOpKind s id k).mbx = s.mbx := rfl
@[simp] theorem setOpKind_faultLog (s : State) (id : Nat) (k : OpKind) : (setOpKind s id k).faultLog = s.faultLog := rfl
@[simp] theorem setOpKind_lossLog (s : State) (id : Nat) (k : OpKind) : (setOpKind s id k).lossLog = s.lossLog := rfl

/-! ## `dropRun` -/

@[simp] theorem dropRun_inputs (s : State) : (dropRun s).inputs = s.inputs := rfl
@[simp] theorem dropRun_due (s : State) : (dropRun s).due = s.due := rfl
@[simp] theorem dropRun_dead (s : State) : (dropRun s).dead = s.dead := rfl
@[simp] theorem dropRun_cycle (s : State) : (dropRun s).cycle = s.cycle := rfl
@[simp] theorem dropRun_phcNs (s : State) : (dropRun s).phcNs = s.phcNs := rfl
@[simp] theorem dropRun_phcFrac (s : State) : (dropRun s).phcFrac = s.phcFrac := rfl
@[simp] theorem dropRun_steps (s : State) : (dropRun s).steps = s.steps := rfl
@[simp] theorem dropRun_khz (s : State) : (dropRun s).khz = s.khz := rfl
@[simp] theorem dropRun_mem (s : State) : (dropRun s).mem = s.mem := rfl
@[simp] theorem dropRun_poison (s : State) : (dropRun s).poison = s.poison := rfl
@[simp] theorem dropRun_bar (s : State) : (dropRun s).bar = s.bar := rfl
@[simp] theorem dropRun_evict (s : State) : (dropRun s).evict = s.evict := rfl
@[simp] theorem dropRun_satMem (s : State) : (dropRun s).satMem = s.satMem := rfl
@[simp] theorem dropRun_perfProg (s : State) : (dropRun s).perfProg = s.perfProg := rfl
@[simp] theorem dropRun_perf (s : State) : (dropRun s).perf = s.perf := rfl
@[simp] theorem dropRun_interf (s : State) : (dropRun s).interf = s.interf := rfl
@[simp] theorem dropRun_dcache (s : State) : (dropRun s).dcache = s.dcache := rfl
@[simp] theorem dropRun_icache (s : State) : (dropRun s).icache = s.icache := rfl
@[simp] theorem dropRun_shares (s : State) : (dropRun s).shares = s.shares := rfl
@[simp] theorem dropRun_l2 (s : State) : (dropRun s).l2 = s.l2 := rfl
@[simp] theorem dropRun_tlb (s : State) : (dropRun s).tlb = s.tlb := rfl
@[simp] theorem dropRun_ctlb (s : State) : (dropRun s).ctlb = s.ctlb := rfl
@[simp] theorem dropRun_walks (s : State) : (dropRun s).walks = s.walks := rfl
@[simp] theorem dropRun_outcomes (s : State) : (dropRun s).outcomes = s.outcomes := rfl
@[simp] theorem dropRun_aper (s : State) : (dropRun s).aper = s.aper := rfl
@[simp] theorem dropRun_migrations (s : State) : (dropRun s).migrations = s.migrations := rfl
@[simp] theorem dropRun_queued (s : State) : (dropRun s).queued = s.queued := rfl
@[simp] theorem dropRun_migRefused (s : State) : (dropRun s).migRefused = s.migRefused := rfl
@[simp] theorem dropRun_scratchBad (s : State) : (dropRun s).scratchBad = s.scratchBad := rfl
@[simp] theorem dropRun_window (s : State) : (dropRun s).window = s.window := rfl
@[simp] theorem dropRun_retention (s : State) : (dropRun s).retention = s.retention := rfl
@[simp] theorem dropRun_svc (s : State) : (dropRun s).svc = s.svc := rfl
@[simp] theorem dropRun_merge (s : State) : (dropRun s).merge = s.merge := rfl
@[simp] theorem dropRun_launches (s : State) : (dropRun s).launches = s.launches := rfl
@[simp] theorem dropRun_teams (s : State) : (dropRun s).teams = s.teams := rfl
@[simp] theorem dropRun_ops (s : State) : (dropRun s).ops = s.ops := rfl
@[simp] theorem dropRun_nextId (s : State) : (dropRun s).nextId = s.nextId := rfl
@[simp] theorem dropRun_pairs (s : State) : (dropRun s).pairs = s.pairs := rfl
@[simp] theorem dropRun_watches (s : State) : (dropRun s).watches = s.watches := rfl
@[simp] theorem dropRun_freeTime (s : State) : (dropRun s).freeTime = s.freeTime := rfl
@[simp] theorem dropRun_lastCommit (s : State) : (dropRun s).lastCommit = s.lastCommit := rfl
@[simp] theorem dropRun_traversals (s : State) : (dropRun s).traversals = s.traversals := rfl
@[simp] theorem dropRun_prefetched (s : State) : (dropRun s).prefetched = s.prefetched := rfl
@[simp] theorem dropRun_nextLaunch (s : State) : (dropRun s).nextLaunch = s.nextLaunch := rfl
@[simp] theorem dropRun_jobDone (s : State) : (dropRun s).jobDone = s.jobDone := rfl
@[simp] theorem dropRun_jobFailed (s : State) : (dropRun s).jobFailed = s.jobFailed := rfl
@[simp] theorem dropRun_phaseDone (s : State) : (dropRun s).phaseDone = s.phaseDone := rfl
@[simp] theorem dropRun_phaseFailed (s : State) : (dropRun s).phaseFailed = s.phaseFailed := rfl
@[simp] theorem dropRun_cancels (s : State) : (dropRun s).cancels = s.cancels := rfl
@[simp] theorem dropRun_resets (s : State) : (dropRun s).resets = s.resets := rfl
@[simp] theorem dropRun_dumps (s : State) : (dropRun s).dumps = s.dumps := rfl
@[simp] theorem dropRun_dumpWaits (s : State) : (dropRun s).dumpWaits = s.dumpWaits := rfl
@[simp] theorem dropRun_ctxWrites (s : State) : (dropRun s).ctxWrites = s.ctxWrites := rfl
@[simp] theorem dropRun_fmtDisables (s : State) : (dropRun s).fmtDisables = s.fmtDisables := rfl
@[simp] theorem dropRun_pubClears (s : State) : (dropRun s).pubClears = s.pubClears := rfl
@[simp] theorem dropRun_partWrites (s : State) : (dropRun s).partWrites = s.partWrites := rfl
@[simp] theorem dropRun_ptm (s : State) : (dropRun s).ptm = s.ptm := rfl
@[simp] theorem dropRun_nor (s : State) : (dropRun s).nor = s.nor := rfl
@[simp] theorem dropRun_hist (s : State) : (dropRun s).hist = s.hist := rfl
@[simp] theorem dropRun_lifeSeconds (s : State) : (dropRun s).lifeSeconds = s.lifeSeconds := rfl
@[simp] theorem dropRun_mbx (s : State) : (dropRun s).mbx = s.mbx := rfl
@[simp] theorem dropRun_faultLog (s : State) : (dropRun s).faultLog = s.faultLog := rfl
@[simp] theorem dropRun_lossLog (s : State) : (dropRun s).lossLog = s.lossLog := rfl

/-! ## What each update writes -/

@[simp] theorem modTeam_teams (s : State) (tid : Nat) (f : Team → Team) : (modTeam s tid f).teams = listMod s.teams tid f := rfl
@[simp] theorem modLaunch_launches (s : State) (li : Nat) (f : Launch → Launch) :
    (modLaunch s li f).launches = listMod s.launches li f := rfl
@[simp] theorem setBar_bar (s : State) (off : Nat) (v : Dword) : (setBar s off v).bar = mapSet 0 s.bar off v := rfl
@[simp] theorem addOp_ops (s : State) (tid g : Nat) (pc : Dword) (reporter : Nat) (k : OpKind) :
    (addOp s tid g pc reporter k).ops = s.ops ++ [⟨s.nextId, tid, g, pc, reporter, k⟩] := rfl
@[simp] theorem addOp_nextId (s : State) (tid g : Nat) (pc : Dword) (reporter : Nat) (k : OpKind) :
    (addOp s tid g pc reporter k).nextId = s.nextId + 1 := rfl
@[simp] theorem dropOp_ops (s : State) (id : Nat) : (dropOp s id).ops = s.ops.filter (·.id != id) := rfl
@[simp] theorem dropRun_runs (s : State) : (dropRun s).runs = s.runs.tail := rfl

end Sys2Proof.Machine
end

