-- ==== Sys2Proof/Tests/Slice0.lean ====
section
/-! SUPPORT. Tests: words of the spec's encodings, ill-formed terms that WellFormed refuses, worked examples of the spec,
and for each statement with hypotheses concrete states and operands that meet them. Every expected value comes from
the spec's text. -/

namespace Sys2Proof.Tests

open Sys2Proof.Machine Sys2Proof.Claims

/-! ## Words of the encodings, field by field (R212 to R220) and as the spec's sample words (R233, R266, R300, R330, R361) -/

/-- Format R: opcode 0x00, d = n7, a = q0, b = n1, F 0, cc 0, AL. -/
theorem test_decode_add : decode (0x00#7 ++ 7#6 ++ 0#6 ++ 17#6 ++ 0#1 ++ 0#2 ++ 0#4) = .ok (.add ⟨.n 7, .q 0, .n 1, false, ⟨0, .al⟩⟩) := rfl
/-- Format T: FFMA. Format I: ADDI. Format V: CVT. Format E: PACK, REDG. -/
theorem test_decode_formats_tive :
    decode (0x38#7 ++ 9#6 ++ 18#6 ++ 19#6 ++ 20#6 ++ 0#1) = .ok (.ffma ⟨.n 9, .n 2, .n 3, .n 4, false⟩) ∧
    decode (0x20#7 ++ 4#6 ++ 16#6 ++ 10#13) = .ok (.addi ⟨.n 4, .n 0, 10#13⟩) ∧
    decode (0x3D#7 ++ 5#6 ++ 20#6 ++ 10#4 ++ 8#4 ++ 1#2 ++ 0#1 ++ 0#2) = .ok (.cvt ⟨.n 5, .n 4, .fp32, .fp16, .rtz, false⟩) ∧
    decode (0x3E#7 ++ 6#6 ++ 22#6 ++ 0#6 ++ 5#6 ++ 0#1) = .ok (.pack ⟨.n 6, .n 6, .q 0, .w4, true⟩) := ⟨rfl, rfl, rfl, rfl⟩
/-- Formats MU, MP, S and A. -/
theorem test_decode_memory_formats :
    decode (0x44#7 ++ 8#6 ++ 2#4 ++ 5#5 ++ 0#1 ++ 3#5 ++ 1#2 ++ 2#2) = .ok (.ldwMu ⟨.n 8, 2, 5, false, 3#5, .byp, .dev⟩) ∧
    decode (0x54#7 ++ 8#6 ++ 1#4 ++ 3#5 ++ 0#2 ++ 0#2 ++ 1#2 ++ 2#4) = .ok (.ldwMp ⟨.n 8, 1, 3#5, .dflt, .grp, ⟨1, .ne⟩⟩) ∧
    decode (0x4D#7 ++ 4#6 ++ 22#6 ++ 4#3 ++ 0#1 ++ 2#7 ++ 0#2) = .ok (.lds ⟨.n 4, .n 6, .w, 2#7, .grp⟩) ∧
    decode (0x5E#7 ++ 6#6 ++ 2#4 ++ 25#6 ++ 0#4 ++ 2#2 ++ 2#2 ++ 0#1) = .ok (.atom ⟨.n 6, 2, .n 9, .add, .rel, .dev, false⟩) :=
  ⟨rfl, rfl, rfl, rfl⟩
/-- Formats B, X, P, Y and Z. -/
theorem test_decode_control_formats :
    decode (0x70#7 ++ 1#2 ++ 2#4 ++ 0x7FFFB#19) = .ok (.bra ⟨⟨1, .ne⟩, 0x7FFFB#19⟩) ∧
    decode (0x68#7 ++ 1#2 ++ 2#4 ++ 3#4 ++ 3#8 ++ 4#3 ++ 1#1 ++ 0#3) = .ok (.mma ⟨1, 2, 3, 3#8, 4, true⟩) ∧
    decode (0x73#7 ++ 12#12 ++ 1#13) = .ok (.rep ⟨12, 1⟩) ∧
    decode (0x75#7 ++ 20#6 ++ 21#6 ++ 2#4 ++ 3#3 ++ 0#1 ++ 7#3 ++ 0#2) = .ok (.crew ⟨.n 4, .n 5, 2, 3, false, .fmax⟩) ∧
    decode (0x76#7 ++ 6#6 ++ 0x100#12 ++ 0#7) = .ok (.rdsys (.n 6) 0x100) := ⟨rfl, rfl, rfl, rfl, rfl⟩

theorem test_decode_lane_words :
    decode 0x08329901#32 = .ok (.mul ⟨.n 6, .n 4, .k 2, false, ⟨0, .eq⟩⟩) ∧ decode 0x581840D3#32 = .ok (.abs ⟨.n 3, .q 2, true, ⟨1, .lt⟩⟩) ∧
    decode 0x7E32A020#32 = .ok (.redg ⟨.n 6, .n 5, .add⟩) ∧ decode 0x380A9980#32 = .ok (.cmp ⟨1, .n 4, .k 3, ⟨0, .al⟩⟩) :=
  ⟨rfl, rfl, rfl, rfl⟩
theorem test_decode_memory_words :
    decode 0xBE51380C#32 = .ok (.cas ⟨.n 10, 2, .n 12, .acq, .dev, false⟩) ∧ decode 0xC400011C#32 = .ok (.fence .ar .dev) ∧
    decode 0x9E01E07E#32 = .ok (.wait ⟨0, 15, 0, 63⟩) ∧ decode 0xCDC00010#32 = .ok (.barsync (.k 8)) ∧
    decode 0xCF865A02#32 = .ok (.copy ⟨.k 0, .k 2, .k 4, .clu⟩) ∧ decode 0xCCA80018#32 = .ok (.syncm (.n 5)) :=
  ⟨rfl, rfl, rfl, rfl, rfl, rfl⟩
theorem test_decode_matrix_words :
    decode 0xD4228850#32 = .ok (.mmat ⟨0, 4, 5, 16#8, 5, false⟩) ∧ decode 0xD6168000#32 = .ok (.recld 2 (.k 4) false) ∧
    decode 0xD6262010#32 = .ok (.recadj 4 (.k 1) .tap) ∧ decode 0xD80E8000#32 = .ok (.gensetSeed 1 (.k 4)) ∧
    decode 0xD8306A10#32 = .ok (.genrd (.n 6) 3 (.n 4)) ∧ decode 0xDCA00C9C#32 = .ok (.accst ⟨.n 4, .q 0, 1, 6, false, .bf16, .dev⟩) ∧
    decode 0xDEC00018#32 = .ok (.stamp (.n 8) (.q 0) .mma) := ⟨rfl, rfl, rfl, rfl, rfl, rfl, rfl⟩
theorem test_decode_control_words :
    decode 0xE4000006#32 = .ok (.meet ⟨⟨0, .al⟩, 6#19⟩) ∧ decode 0xE8400000#32 = .ok (.frame 8) ∧ decode 0xEEA00600#32 = .ok (.wrsys (.n 4) 0x00C) ∧
    decode 0xF0A00000#32 = .ok (.brx (.n 4)) ∧ decode 0xF2400008#32 = .ok (.time (.n 8)) ∧ decode 0xF200A010#32 = .ok (.trap 5) ∧
    decode 0xF3D80020#32 = .ok (.crewacc (.k 11)) ∧ decode 0xF0000018#32 = .ok .exit := ⟨rfl, rfl, rfl, rfl, rfl, rfl, rfl, rfl⟩
/-- Words that the chapters call illegal. -/
theorem test_decode_refuses : ([0x7E32A021, 0x380A99C0, 0x7E32A070, 0xC400021C, 0xBE51382C, 0xD09181C9, 0xD6262190,
    0xDEC00030, 0xE6000001, 0xE9080000, 0xF2000058, 0xF0000032] : List Word).all (fun w => (decode w).toOption.isNone) = true := rfl

/-! ## WellFormed: an ill-formed term for each check, refused -/

/-- R80, R218, R235: a k destination takes k sources, the guard AL and a clear F bit. -/
theorem test_ill_formed_uniform_destinations :
    ([.add ⟨.k 1, .n 0, .k 2, false, noGuard⟩, .add ⟨.k 1, .k 0, .k 2, true, noGuard⟩, .add ⟨.k 1, .k 0, .k 2, false, ⟨0, .eq⟩⟩,
      .neg ⟨.k 1, .n 0, false, noGuard⟩, .frnd ⟨.k 1, .n 0, .rne, false, noGuard⟩, .sel ⟨.k 1, .k 0, .k 0, ⟨0, .eq⟩⟩,
      .mad ⟨.k 1, .k 0, .k 0, .n 0, false⟩, .prfmaF16 ⟨.k 1, .k 0, .k 0, .n 0⟩, .addi ⟨.k 1, .n 0, 0⟩, .shli ⟨.k 1, .n 0, 0⟩,
      .pradd ⟨.k 1, .n 0, .k 0, .f16⟩, .pack ⟨.k 1, .n 0, .k 0, .w2, false⟩, .bfpq ⟨.k 1, .k 0, .k 0, .w2, false⟩,
      .relay ⟨.k 1, .k 0, .k 0, .flip⟩, .census ⟨.k 1, .k 0, .every⟩, .redg ⟨.k 1, .k 0, .add⟩, .peers ⟨.k 1, .k 0, .eq⟩,
      .leader ⟨.k 1, .id⟩, .ldbMu ⟨.k 1, 0, 0, false, 0, .dflt, .grp⟩, .swgen (.k 1) (.n 0), .deq (.k 1) 0, .enqtry (.n 0) 0 (.k 1),
      .deqtry (.k 1) 0 (.n 0), .chpoll (.k 1) 0, .genrd (.k 1) 0 (.n 0), .accrd (.k 1) 0 (.n 0)] : List Instr).all
    (fun i => !i.wf) = true := by decide
/-- R76, R217: pairs and quads; R256: SAT and rm; R213, R281, R284, R285: sizes and aops; R303, R309, R313, R333, R355. -/
theorem test_ill_formed_operands :
    ([.cvt ⟨.n 1, .n 0, .i32, .i64, .rne, false⟩, .cvt ⟨.n 0, .n 1, .i64, .i32, .rne, false⟩, .cvt ⟨.n 0, .n 0, .fp32, .i32, .rne, true⟩,
      .cvt ⟨.n 0, .n 0, .i32, .i8, .rtz, false⟩, .lddMu ⟨.n 1, 0, 0, false, 0, .dflt, .grp⟩, .ldqMu ⟨.n 2, 0, 0, false, 0, .dflt, .grp⟩,
      .ldk ⟨.n 0, 0, 0, .dflt, .grp⟩, .stdMu ⟨.q 15, 0, 0, false, 0, .dflt, .grp⟩, .stqMu ⟨.k 0, 0, 0, false, 0, .dflt, .grp⟩,
      .lds ⟨.n 1, .n 0, .d, 0, .grp⟩, .sts ⟨.n 0, .n 0, .bz, 0, .grp⟩, .sts ⟨.n 0, .n 0, .hz, 0, .grp⟩, .stl ⟨.n 1, .n 0, .q, 0, .grp⟩,
      .lddMp ⟨.n 1, 0, 0, .dflt, .grp, noGuard⟩, .ldqMp ⟨.n 1, 0, 0, .dflt, .grp, noGuard⟩, .stdMp ⟨.n 1, 0, 0, .dflt, .grp, noGuard⟩,
      .stqMp ⟨.n 1, 0, 0, .dflt, .grp, noGuard⟩, .atom ⟨.n 1, 0, .n 0, .add64, .none, .grp, false⟩, .cas ⟨.n 0, 0, .n 1, .none, .grp, false⟩,
      .red ⟨0, .n 0, .swap, false, .grp, false⟩, .atoms ⟨.n 0, .n 0, .n 0, .faddRa, .grp⟩, .cass ⟨.n 0, .n 0, .n 1, .grp⟩, .pref (.n 1) false,
      .cflush (.n 1) .grp, .cinv (.n 1), .stashmap (.n 0) (.n 1) (.n 0), .copy ⟨.n 1, .n 0, .n 0, .grp⟩, .copyg ⟨.n 0, .n 1, .n 0, .grp⟩,
      .regrp ⟨.n 1, .n 0, .n 1, .grp⟩, .recld 0 (.n 1) false, .gensetSeed 0 (.n 1), .acccvt 1 (.bfp .w4), .accst ⟨.n 1, .q 0, 0, 0, false, .w32, .grp⟩,
      .accst ⟨.n 0, .q 1, 0, 0, false, .w32, .grp⟩, .stamp (.n 0) (.n 1) .cin, .census ⟨.n 0, .n 1, .live⟩, .rep ⟨0, 0⟩, .frame 0, .frame 33,
      .time (.n 1), .svcgive (.n 1) (.n 0), .tlbinv (.n 1) (.n 0)] : List Instr).all (fun i => !i.wf) = true := by decide

/-! ## A small machine: one team of one group of two threads, standing at a word of code -/

def demoKernel : Kernel := { entry := 0x40, codeSize := 64, stack := 128, mdepth := 4, accum := 2, scratch := 4096, map := [0, 3] }
def demoDesc : Descriptor :=
  { kernel := 0x10000, trap := 0x10040, teams := 1, l := 256, ld := 64, localBase := 0x10000 }
def demoLaunch : Launch := { ctx := 1, num := 0, queue := 0, desc := demoDesc, kernel := demoKernel, args := [], prio := 0, nextTeam := 1 }
def demoThread (c : Nat) : Thread := Thread.fresh 0x10044 (BitVec.ofNat 32 c) 0
def demoCore : TeamCore := { groups := [Group.fresh [demoThread 0, demoThread 1] (zeroCells 32) 0 0] }
def demoTeam : Team := { launch := 0, idx := 0, core := 0, s0 := 0, p0 := 0, part := 0, life := .resident, body := demoCore }
def demoRun : Run := { team := 0, grp := 0, lanes := [0, 1], pc := 0x10044 }
/-- A page of device memory that the team may read, write and fetch. -/
def demoPage : TlbEntry := { ctx := 1, va := 0x10000, bits := 12, pa := 0x10000, sa := false, r := true, w := true, x := true }
def demo : State :=
  { State.reset with launches := [demoLaunch], teams := [demoTeam], runs := [demoRun], tlb := [(0, demoPage)] }

/-- The state after an instruction that completes; the given one where it does not. -/
def after (i : Instr) (s : State) : State :=
  match exec i s with
  | .next t => t
  | _ => s
/-- The demo with its threads changed. -/
def withThreads (s : State) (f : Nat → Thread → Thread) : State :=
  modGroup s 0 0 fun g => { g with threads := (List.range g.threads.length).map fun c => f c (g.threads.getD c Thread.empty) }
/-- The demo with named registers set in both threads. -/
def withN (ws : List (Nat × Word)) (s : State) : State :=
  withThreads s fun _ th => ws.foldl (fun th x => th.setN x.1 (.word x.2)) th
def nOf (s : State) (c i : Nat) : Cell := (getTh s 0 0 (.lane c)).n i
def qOf (s : State) (c i : Nat) : Cell := (getTh s 0 0 (.lane c)).q.getD i (.word 0)
def ccOf (s : State) (c i : Nat) : CcCell := (getTh s 0 0 (.lane c)).cc.getD i (.flags {})

/-! ## Worked examples of the spec -/

/-- R250: CMP, CMPN, a guarded ADD.F and SEL, with c0 Z set in thread 0 only. -/
def cmpDemo : State :=
  withThreads (withN [(4, 0xFFFFFFFE#32), (5, 1), (6, 7)] demo) fun c th => { th with cc := listSet th.cc 0 (.flags { z := c == 0 }) }
theorem test_compares :
    ccOf (after (.cmp ⟨1, .n 4, .n 5, noGuard⟩) cmpDemo) 1 1 = .flags ⟨true, false, true, false⟩ ∧
    ccOf (after (.cmpn ⟨2, .n 4, .n 5, noGuard⟩) cmpDemo) 0 2 = .flags ⟨false, false, true, false⟩ := by decide
theorem test_guarded_add :
    let t := after (.add ⟨.n 6, .n 4, .n 5, true, ⟨0, .eq⟩⟩) cmpDemo
    nOf t 0 6 = .word 0xFFFFFFFF#32 ∧ ccOf t 0 0 = .flags ⟨true, false, false, false⟩ ∧
    nOf t 1 6 = .word 7 ∧ qOf t 1 0 = .word 7 ∧ ccOf t 1 0 = .flags {} := by decide
/-- R254: FRND and R55. -/
theorem test_round_to_integral :
    nOf (after (.frnd ⟨.n 6, .n 4, .rne, false, noGuard⟩) (withN [(4, 0xBF000000#32)] demo)) 0 6 = .word 0x80000000#32 ∧
    nOf (after (.frnd ⟨.n 6, .n 4, .rdn, false, noGuard⟩) (withN [(4, 0xBF000000#32)] demo)) 0 6 = .word 0xBF800000#32 ∧
    nOf (after (.frnd ⟨.n 6, .n 4, .rup, false, noGuard⟩) (withN [(4, 1)] demo)) 0 6 = .word 0x3F800000#32 := by decide
/-- R255. -/
theorem test_packed_add :
    nOf (after (.pradd ⟨.n 5, .n 6, .n 7, .f16⟩) (withN [(6, 0x3C007BFF#32), (7, 0x3C005000#32)] demo)) 0 5 = .word 0x40007C00#32 := by
  decide
/-- R256. -/
theorem test_conversions :
    nOf (after (.cvt ⟨.n 5, .n 4, .fp32, .fp16, .rtz, false⟩) (withN [(4, 0x4B800001#32)] demo)) 0 5 = .word 0x7BFF#32 ∧
    nOf (after (.cvt ⟨.n 5, .n 4, .fp32, .i8, .rne, false⟩) (withN [(4, 0xC2F70000#32)] demo)) 0 5 = .word 0xFFFFFF84#32 ∧
    nOf (after (.cvt ⟨.n 5, .n 4, .fp32, .n8, .rne, false⟩) (withN [(4, 0xC2F70000#32)] demo)) 0 5 = .word 0 ∧
    nOf (after (.cvt ⟨.n 5, .n 4, .i32, .i8, .rne, true⟩) (withN [(4, 300)] demo)) 0 5 = .word 0x7F ∧
    nOf (after (.cvt ⟨.n 5, .n 4, .i32, .i8, .rne, false⟩) (withN [(4, 300)] demo)) 0 5 = .word 0x2C := by decide
/-- R258: PACK and BFPX of the example's thread 1. -/
theorem test_block_pack :
    nOf (after (.pack ⟨.n 7, .n 7, .q 0, .w4, false⟩) (withThreads demo fun _ th => { th with q := listSet th.q 0 (.word 0x810000FE#32) })) 0 7 =
      .word 0xE0000000#32 ∧
    nOf (after (.bfpx ⟨.n 7, .n 7, .n 8, .w4, false⟩) (withN [(7, 0xE0000000#32), (8, 0x81000007#32)] demo)) 0 7 = .word 0xBF800000#32 := by
  decide
/-- R195: three arrivals on a sync word with TARGET 256. -/
theorem test_sync_word_arrivals :
    countedOn 256 0 0 64 = (64, 0) ∧ countedOn 256 64 0 128 = (192, 0) ∧ countedOn 256 192 0 128 = (64, 1) := by decide
/-- R319: contributions folded in iteration order, whoever ran them. -/
theorem test_crew_fold :
    (combFold .fadd (combFold .fadd (combFold .fadd none 0x4B800000#32) 0x3F800000#32) 0x3F800000#32) = some 0x4B800000#32 := by decide
/-- R273, R75: LDB sign-extends, and the destination waits until the value arrives. -/
def loadDemo : State := { withN [(2, 0x10100#32), (3, 0)] demo with mem := [(0x10100, 0x80), (0x10101, 0x12)] }
def loadB : Instr := .ldbMp ⟨.n 8, 1, 0, .dflt, .grp, noGuard⟩
theorem test_load_waits_then_fills :
    nOf (after loadB loadDemo) 0 8 = .pend 0 0 ∧ (getGroup (after loadB loadDemo) 0 0).ldc = 1 ∧
    nOf (after (.loadFill 0) (after loadB loadDemo)) 0 8 = .word 0xFFFFFF80#32 := by decide
/-- R273: stores are little-endian. -/
theorem test_store_bytes :
    (after (.sthMp ⟨.n 4, 1, 1, .dflt, .grp, noGuard⟩) (withN [(4, 0xAABBCCDD#32)] loadDemo)).mem =
      [(0x10100, 0x80), (0x10101, 0x12), (0x10102, 0xDD), (0x10103, 0xCC)] := by decide
/-- R282: two lanes add to one word, in any order. -/
theorem test_atomic_add :
    (after (.atom ⟨.push, 1, .n 4, .add, .none, .grp, false⟩) (withN [(4, 5)] loadDemo)).mem = [(0x10100, 0x8A), (0x10101, 0x12)] ∧
    (after (.atom ⟨.n 8, 1, .n 4, .add, .none, .grp, false⟩) (withN [(4, 5)] loadDemo)).mem = [(0x10100, 0x8A), (0x10101, 0x12)] ∧
    nOf (after (.atom ⟨.n 8, 1, .n 4, .add, .none, .grp, false⟩) (withN [(4, 5)] loadDemo)) 1 8 = .pend 0 0 := by
  decide
/-- R50: division by zero. -/
theorem test_divide_by_zero :
    nOf (after (.longLatencyResult 0) (after (.div ⟨.n 6, .n 4, .n 5, true, noGuard⟩) (withN [(4, 9), (5, 0)] demo))) 0 6 =
      .word 0x7FFFFFFF#32 := by decide
/-- R85, R93, R321: TRAP 5 enters the handler. -/
theorem test_trap_entry :
    let th := getTh (after (.trap 5) demo) 0 0 (.lane 1)
    th.cause = 0x80000028#32 ∧ th.epc = 0x10048#64 ∧ th.faultAddr = 5#64 ∧ th.pc = 0x10040#64 ∧ th.wb = -16 ∧ th.cf = 32 ∧ th.inTrap = true := by
  decide
/-- R310, R311, R214: CALL by two words forward, to a clause header. -/
theorem test_call :
    let th := getTh (after (.call ⟨noGuard, 2⟩) demo) 0 0 (.lane 0)
    th.links = [⟨0x10048#64, 32⟩] ∧ th.wb = 32 ∧ th.pc = 0x1004C#64 := by decide
/-- R193: an arrival of two lanes at a barrier that expects two completes a generation. -/
def barrierDemo : State := modCore demo 0 fun tc => { tc with barriers := [{ exp := 2 }] }
theorem test_barrier :
    (getCore (after (.bararr (.n 4)) barrierDemo) 0).barriers = [⟨2, 0, 1⟩] ∧
    (getTh (after (.bararr (.n 4)) barrierDemo) 0 0 (.lane 1)).arrival = some (0, 0) := by decide
/-- R344: GENADV.STREAM adds to the stream field, modulo 2^16. -/
theorem test_generator_stream :
    ((getGroup (after (.genadvStream 1 (.n 4)) (withN [(4, 0x1FFFF#32)]
      (modGroup demo 0 0 fun g => { g with gens := listMod g.gens 1 fun x => { x with w2 := 0x00020400#32 } }))) 0 0).gens.getD 1 {}).w2 =
      0x00010400#32 := by decide
/-- R359: ACCWR and ACCRD of word 3 of row a1. -/
theorem test_accumulator :
    nOf (after (.accrd (.n 6) 1 (.n 5)) (after (.accwr 1 (.n 5) (.n 4)) (withN [(4, 77), (5, 3)] demo))) 0 6 = .word 77 := by decide
/-- A step from reset fetches and runs a placed word: ADDI n4, n0, 10 in thread 0. -/
theorem test_step_runs_the_word :
    (match step (State.reset.withFetchWord 32 0x4022000A) with
     | .next t => (nOf t 0 4, (t.runs.map (·.pc)))
     | _ => (.word 0, [])) = (.word 10, [0x10008#64]) := by decide

/-! ## Witnesses: the hypotheses of each statement, met together by concrete states and operands

A witness is named after its statement. Where clauses of a statement share their hypotheses one witness serves them. -/

/-- Both lanes of the demo. -/
theorem both {p : Nat → Prop} (h0 : p 0) (h1 : p 1) : ∀ c ∈ [0, 1], p c := by
  intro c h
  cases h with
  | head => exact h0
  | tail _ h => cases h with
    | head => exact h1
    | tail _ h => cases h
theorem first {p : Nat → Prop} (h0 : p 0) : ∀ c ∈ [0], p c := by
  intro c h
  cases h with
  | head => exact h0
  | tail _ h => cases h

theorem witness_issuing : Issuing demo demoRun [] := ⟨rfl, by decide, both rfl rfl⟩
theorem witness_group_run : GroupRun demo demoRun [] := ⟨witness_issuing, rfl, by decide, both rfl rfl⟩

/-- A guard that holds in thread 0 only, with readable flags and an n destination: IntegerAddSubtractResults,
IntegerMultiplyResults, MinMaxAbsSaturatingResults, LogicalShiftAndBitResults, FloatArithmeticResults,
LongLatencyIssueAndValue. -/
theorem witness_LaneResults_guarded :
    Issuing cmpDemo demoRun [] ∧ LanesReady cmpDemo demoRun (.n 31) true ⟨0, .eq⟩ (fun c => c == 0) ∧
    (∀ c ∈ demoRun.lanes, (c == 0) = true → readSrc cmpDemo demoRun c (.n 4) = .ok 0xFFFFFFFE#32 ∧
      readSrc cmpDemo demoRun c (.n 5) = .ok 1 ∧ readCc cmpDemo demoRun c 0 = .ok { z := true }) :=
  ⟨⟨rfl, by decide, both rfl rfl⟩,
    ⟨both rfl rfl, both rfl rfl, both (fun _ _ => ⟨_, rfl⟩) (fun h => nomatch h), both (fun h => nomatch h) (fun _ => rfl)⟩,
    both (fun _ => ⟨rfl, rfl, rfl⟩) (fun h => nomatch h)⟩
/-- The same with the queue alone as destination, no guard, and three sources, the first from the queue. -/
theorem witness_LaneResults_pushed :
    Issuing demo demoRun [] ∧ LanesReady demo demoRun .push true noGuard (fun _ => true) ∧
    (∀ c ∈ demoRun.lanes, readSrc demo demoRun c (.q 15) = .ok 0 ∧ readSrc demo demoRun c (.k 15) = .ok 0 ∧
      readSrc demo demoRun c (.n 0) = .ok (BitVec.ofNat 32 c)) :=
  ⟨witness_issuing,
    ⟨both trivial trivial, both rfl rfl, both (fun _ _ => ⟨_, rfl⟩) (fun _ _ => ⟨_, rfl⟩), both (fun h => nomatch h) (fun h => nomatch h)⟩,
    both ⟨rfl, rfl, rfl⟩ ⟨rfl, rfl, rfl⟩⟩
/-- A crew body: thread 0 alone runs iteration 3, the last of chunk 1, with h7 as destination. -/
def demoHeld : Held := { q := zeroCells 16, cc := List.replicate 4 (.flags {}), repc := 0, meet := 0xFFFFFFFFFFFFFFFF, meetStk := [] }
def demoCrew : Crew :=
  { grp := 0, thr := 0, lo := 10, count := 6, c := 1, comb := .add, hexp := 0, reach := false, start := 0x10044, crewEnd := 0x10048
    buffered := false, snap := zeroCells 32, held := demoHeld, next := 2 }
def bodyRun : Run := { demoRun with lanes := [0] }
def bodyDemo : State :=
  withThreads { modCore demo 0 (fun tc => { tc with crews := [demoCrew] }) with runs := [bodyRun] } fun c th =>
    if c = 0 then { th with inCrew := true, member := some { chunk := 1, iter := 3, seq := 0, nested := none } } else th
theorem witness_LaneResults_in_a_crew :
    Issuing bodyDemo bodyRun [] ∧ LanesReady bodyDemo bodyRun (.k 15) false noGuard (fun _ => true) ∧
    (∀ c ∈ bodyRun.lanes, readSrc bodyDemo bodyRun c (.k 15) = .ok 0 ∧ readSrc bodyDemo bodyRun c (.n 1) = .ok 0) :=
  ⟨⟨rfl, by decide, first rfl⟩, ⟨first ⟨rfl, by decide⟩, first rfl, first (fun _ h => nomatch h), first (fun h => nomatch h)⟩, first ⟨rfl, rfl⟩⟩
theorem witness_CompareFlags :
    Issuing cmpDemo demoRun [] ∧ (∀ c ∈ demoRun.lanes, guardTrue cmpDemo demoRun c ⟨0, .eq⟩ = .ok (c == 0)) ∧
    (∀ c ∈ demoRun.lanes, (c == 0) = true → (∃ z, readCc cmpDemo demoRun c 1 = .ok z) ∧
      readSrc cmpDemo demoRun c (.n 4) = .ok 0xFFFFFFFE#32 ∧ readSrc cmpDemo demoRun c (.n 5) = .ok 1) :=
  ⟨⟨rfl, by decide, both rfl rfl⟩, both rfl rfl, both (fun _ => ⟨⟨_, rfl⟩, rfl, rfl⟩) (fun h => nomatch h)⟩
theorem witness_SelectAndMoveResults :
    Issuing cmpDemo demoRun [] ∧ LanesReady cmpDemo demoRun (.n 7) false ⟨0, .eq⟩ (fun c => c == 0) ∧
    (∀ c ∈ demoRun.lanes, guardTrue cmpDemo demoRun c ⟨0, .eq⟩ = .ok (c == 0)) ∧ (∀ c ∈ demoRun.lanes, readSrc cmpDemo demoRun c (.n 4) = .ok 0xFFFFFFFE#32 ∧ readSrc cmpDemo demoRun c (.n 5) = .ok 1) ∧
    (∀ c ∈ demoRun.lanes, DstHere (laneTh cmpDemo demoRun c) (.n 7)) :=
  ⟨⟨rfl, by decide, both rfl rfl⟩,
    ⟨both rfl rfl, both rfl rfl, both (fun _ h => nomatch h) (fun _ h => nomatch h), both (fun h => nomatch h) (fun _ => rfl)⟩, both rfl rfl,
    both ⟨rfl, rfl⟩ ⟨rfl, rfl⟩, both rfl rfl⟩
/-- CVT from one word and from two. -/
theorem witness_PackedConvertAndNarrowResults :
    Issuing demo demoRun [] ∧ (∀ c ∈ demoRun.lanes, DstHere (laneTh demo demoRun c) (.n 30)) ∧
    (∀ c ∈ demoRun.lanes, ∃ v, readSrc demo demoRun c (.n 0) = .ok v ∧ v.toNat = c) ∧
    (∀ c ∈ demoRun.lanes, ∃ v, readSrc64 demo demoRun c (.n 0) = .ok v ∧ v.toNat = c) ∧
    (⟨.n 30, .n 0, .n 1, .w8, true⟩ : NarFmt).o = true :=
  ⟨witness_issuing, both rfl rfl, both ⟨_, rfl, rfl⟩ ⟨_, rfl, rfl⟩, both ⟨_, rfl, rfl⟩ ⟨_, rfl, rfl⟩, rfl⟩
theorem witness_CrossThreadResults :
    CrossReady demo demoRun [] (.n 6) ∧ CrossReady demo demoRun [] .push ∧
    (∀ c ∈ demoRun.lanes, readSrc demo demoRun c (.n 0) = .ok (BitVec.ofNat 32 c) ∧ readSrc demo demoRun c (.n 1) = .ok 0) ∧
    (⟨.n 6, .q 0, .live⟩ : CensusFmt).mode = .live ∧ (⟨.n 6, .n 0, .q 0, .w4, false⟩ : NarFmt).o = false :=
  ⟨⟨witness_issuing, both rfl rfl, rfl⟩, ⟨witness_issuing, both rfl rfl, rfl⟩, both ⟨rfl, rfl⟩ ⟨rfl, rfl⟩, rfl, rfl⟩
/-- Uniform registers read in the lowest lane: one word, three words, a carry, and a pair. -/
theorem witness_UniformDestinationWritesOnce :
    UniformReady demo demoRun [] ∧ Src.isK (.k 15) = true ∧ readSrc demo demoRun demoRun.lowest (.k 15) = .ok 0 ∧
    readCc demo demoRun demoRun.lowest 3 = .ok {} ∧
    (∃ v, readSrc64 demo demoRun demoRun.lowest (.k 14) = .ok v ∧ v.toNat = 0) ∧
    (∃ v, readSrc demo demoRun demoRun.lowest (.k 0) = .ok v ∧ v.toNat = 0) :=
  ⟨⟨rfl, by decide, both rfl rfl⟩, rfl, rfl, rfl, ⟨_, rfl, rfl⟩, ⟨_, rfl, rfl⟩⟩
theorem witness_AddressForms :
    readPairK demo demoRun 0 15 = .ok 0 ∧ laneN demo demoRun 1 31 = .word 0 ∧ readPairN demo demoRun 1 15 = .ok 0 ∧
    guardTrue demo demoRun 1 noGuard = .ok true ∧ guardTrue demo demoRun 1 ⟨0, .nv⟩ = .ok false ∧ readSrc demo demoRun 1 (.n 0) = .ok 1 :=
  ⟨rfl, rfl, rfl, rfl, rfl, rfl⟩

/-! ### Memory -/

/-- The counters one short of their limit; k3:k2 and n3:n2 hold an address, n9:n8 the last of the page. -/
def accessDemo : State :=
  { withN [(2, 0x10100#32), (8, 0x10FF0#32), (4, 5)] (modGroup demo 0 0 fun g =>
      { g with ldc := 62, stc := 62, cpc := 62, tlc := 62, k := listSet g.k 2 (.word 0x10100#32) }) with mem := [(0x10100, 0x80)] }
theorem access_issuing : Issuing accessDemo demoRun [] := ⟨rfl, by decide, both rfl rfl⟩
theorem access_group_run : GroupRun accessDemo demoRun [] := ⟨access_issuing, rfl, by decide, both rfl rfl⟩
theorem direct_plain (s : State) (pa n : Nat) (t : targetOf s pa = .device ∨ targetOf s pa = .host ∨ targetOf s pa = .peer)
    (a : s.aper = []) (b : ∀ t ∈ s.teams, t.body.stashLines = []) : Direct s pa n :=
  ⟨t, by simp [a], fun t h l hl => by simp [b t h] at hl⟩
theorem access_direct (pa n : Nat) (h : targetOf accessDemo pa = .device) : Direct accessDemo pa n :=
  direct_plain _ _ _ (.inl h) rfl (fun _ h => by cases h with | head => rfl | tail _ h => cases h)

/-- MU and MP loads of every lane at one address, and of thread 1 at the last 16 bytes of the page. -/
theorem witness_LoadResults :
    Issuing accessDemo demoRun [] ∧ (∀ c ∈ demoRun.lanes, DstHere (laneTh accessDemo demoRun c) (.n 28)) ∧
    (∀ c ∈ demoRun.lanes, muAddr accessDemo demoRun 1 6 true 0 16 c = .ok 0x10100) ∧
    Reaches accessDemo demoRun .load false 16 (fun _ => true) (fun _ => 0x10100 + BitVec.ofInt 64 (repShift accessDemo demoRun 16)) (fun _ => 0x10100) ∧
    (∀ c ∈ demoRun.lanes, mpAddr accessDemo demoRun 4 0 16 noGuard c = .ok (some 0x10FF0)) ∧
    Reaches accessDemo demoRun .load false 16 (fun _ => (some (0x10FF0 : Dword)).isSome)
      (fun _ => (some 0x10FF0).getD 0 + BitVec.ofInt 64 (repShift accessDemo demoRun 16)) (fun _ => 0x10FF0) ∧
    (getGroup accessDemo 0 0).ldc < 63 :=
  ⟨access_issuing, both rfl rfl, both rfl rfl, both (fun _ => ⟨⟨_, rfl⟩, access_direct _ _ rfl⟩) (fun _ => ⟨⟨_, rfl⟩, access_direct _ _ rfl⟩),
    both rfl rfl, both (fun _ => ⟨⟨_, rfl⟩, access_direct _ _ rfl⟩) (fun _ => ⟨⟨_, rfl⟩, access_direct _ _ rfl⟩), by decide⟩
/-- A guard that holds in no lane. -/
theorem witness_LoadResults_no_lane :
    (∀ c ∈ demoRun.lanes, mpAddr accessDemo demoRun 4 0 16 ⟨0, .nv⟩ c = .ok none) ∧
    Reaches accessDemo demoRun .load false 16 (fun _ => (none : Option Dword).isSome) (fun _ => 0) (fun _ => 0) :=
  ⟨both rfl rfl, both (fun h => nomatch h) (fun h => nomatch h)⟩
theorem witness_LoadResults_uniform_and_local :
    demoRun.lanes ≠ [] ∧ readPairK accessDemo demoRun demoRun.lowest 1 = .ok 0x10100 ∧
    checkGlobal accessDemo (envOf accessDemo demoRun) .load false false 4 0x10100 = .ok 0x10100 false ∧
    Direct accessDemo 0x10100 4 ∧ (∀ c ∈ demoRun.lanes, readSrc accessDemo demoRun c (.q 0) = .ok 0) ∧
    InScratch accessDemo demoRun 16 (scratchOffsets accessDemo demoRun 63 16 fun _ => 0) ∧
    (let off := scratchOffsets accessDemo demoRun 3 16 fun _ => 0
     ∀ c ∈ demoRun.lanes, off c % 16 = 0 ∧ off c + 16 ≤ (teamLaunch accessDemo 0).desc.ld ∧
      ∃ sa, checkGlobal accessDemo (envOf accessDemo demoRun) .load false false 1
        (localRegion accessDemo demoRun c + BitVec.ofNat 64 (4 * (teamLaunch accessDemo 0).desc.l + off c)) = .ok (0x10430 + 0x440 * c) sa) :=
  ⟨by decide, rfl, rfl, access_direct _ _ rfl, both rfl rfl,
    both ⟨by decide, by decide, fun _ _ _ => .inl rfl⟩ ⟨by decide, by decide, fun _ _ _ => .inl rfl⟩,
    both ⟨rfl, by decide, _, rfl⟩ ⟨rfl, by decide, _, rfl⟩⟩
/-- A local access inside a page, and one of 16 bytes that crosses into the next. -/
def twoPages : State := { accessDemo with tlb := [(0, ⟨1, 0x10000, 16, 0x10000, false, true, true, true⟩)] }
theorem two_direct (pa n : Nat) (h : targetOf twoPages pa = .device) : Direct twoPages pa n :=
  direct_plain _ _ _ (.inl h) rfl (fun _ h => by cases h with | head => rfl | tail _ h => cases h)
theorem twice_part {p : LocalPart → Prop} {a b : LocalPart} (h0 : p a) (h1 : p b) : ∀ x ∈ [a, b], p x := by
  intro x h
  cases h with
  | head => exact h0
  | tail _ h => cases h with
    | head => exact h1
    | tail _ h => cases h
theorem witness_LocalAccesses :
    LocalReach twoPages demoRun .load 0x10430 16 [⟨0x10430, 0x10430, 16⟩] ∧
    LocalReach twoPages demoRun .load 0x10FF8 16 [⟨0x10FF8, 0x10FF8, 8⟩, ⟨0x11000, 0x11000, 8⟩] ∧
    LocalReach twoPages demoRun .store 0x10FF8 16 [⟨0x10FF8, 0x10FF8, 8⟩, ⟨0x11000, 0x11000, 8⟩] :=
  ⟨⟨by decide, by intro p h; cases h with | head => exact ⟨two_direct _ _ rfl, _, rfl⟩ | tail _ h => cases h⟩, ⟨by decide, twice_part ⟨two_direct _ _ rfl, _, rfl⟩ ⟨two_direct _ _ rfl, _, rfl⟩⟩,
    ⟨by decide, twice_part ⟨two_direct _ _ rfl, _, rfl⟩ ⟨two_direct _ _ rfl, _, rfl⟩⟩⟩
theorem witness_StoreResults :
    accessDemo.sound ∧ hasItems accessDemo 0 = false ∧ (∀ c ∈ demoRun.lanes, StoreReads accessDemo demoRun (.n 4) 16 c fun j => if j = 0 then 5 else 0) ∧
    Reaches accessDemo demoRun .store false 16 (fun _ => true) (fun _ => 0x10100) (fun _ => 0x10100) ∧ (getGroup accessDemo 0 0).stc < 63 ∧
    (∀ c ∈ demoRun.lanes, ∃ sa, checkGlobal accessDemo (envOf accessDemo demoRun) .store false false 1
        (localRegion accessDemo demoRun c + BitVec.ofNat 64 (4 * (teamLaunch accessDemo 0).desc.l)) = .ok (0x10400 + 0x440 * c) sa) :=
  ⟨(rfl : Memory.wf accessDemo.mem = true), rfl, both (by intro j h; match j, h with | 0, _ => rfl | 1, _ => rfl | 2, _ => rfl | 3, _ => rfl)
      (by intro j h; match j, h with | 0, _ => rfl | 1, _ => rfl | 2, _ => rfl | 3, _ => rfl),
    both (fun _ => ⟨⟨_, rfl⟩, access_direct _ _ rfl⟩) (fun _ => ⟨⟨_, rfl⟩, access_direct _ _ rfl⟩), by decide, both ⟨_, rfl⟩ ⟨_, rfl⟩⟩
theorem atom_ready (a : Aop) (h : a = .add ∨ a = .faddRa) :
    AtomReady accessDemo demoRun 1 (.n 4) false 4 (.atomic (some a) false) false (fun _ => 0x10100) (fun _ => 0x10100) (fun _ => 5) := by
  rcases h with rfl | rfl <;> exact
    ⟨by decide, ⟨rfl, rfl⟩, (fun _ h => nomatch h), both ⟨_, rfl, rfl⟩ ⟨_, rfl, rfl⟩, both ⟨_, rfl, rfl⟩ ⟨_, rfl, rfl⟩,
      both (fun _ => ⟨⟨_, rfl⟩, access_direct _ _ rfl⟩) (fun _ => ⟨⟨_, rfl⟩, access_direct _ _ rfl⟩), both ⟨rfl, by decide⟩ ⟨rfl, by decide⟩⟩
theorem witness_AtomicResults :
    AtomReady accessDemo demoRun 1 (.n 4) false 4 (.atomic (some .add) false) false (fun _ => 0x10100) (fun _ => 0x10100) (fun _ => 5) ∧
    AtomReady accessDemo demoRun 1 (.n 4) false 4 (.atomic (some .faddRa) false) false (fun _ => 0x10100) (fun _ => 0x10100) (fun _ => 5) ∧
    AtomReady accessDemo demoRun 1 (.n 4) true 8 (.atomic (some .add64) true) true (fun _ => 0x10100) (fun _ => 0x10100) (fun _ => 5) ∧
    (getGroup accessDemo 0 0).ldc < 63 ∧ (getGroup accessDemo 0 0).stc < 63 ∧
    (∀ c ∈ demoRun.lanes, DstHere (laneTh accessDemo demoRun c) .push) ∧
    (∀ c ∈ demoRun.lanes, ∃ w, readSrc accessDemo demoRun c (.n 4) = .ok w ∧ (5 : Dword) = w.setWidth 64) ∧
    InScratch accessDemo demoRun 8 (fun _ => ((0xFF8 : Word) + BitVec.ofInt 32 (repShift accessDemo demoRun 8)).toNat) ∧
    (∀ c ∈ demoRun.lanes, poisonIn (getCore accessDemo 0).scratchPoison (0xFF8 + 0 * c) 8 = none) :=
  ⟨atom_ready _ (.inl rfl), atom_ready _ (.inr rfl),
    ⟨by decide, ⟨rfl, rfl⟩, (fun _ h => nomatch h), both ⟨_, rfl, rfl⟩ ⟨_, rfl, rfl⟩, both rfl rfl,
      both (fun _ => ⟨⟨_, rfl⟩, access_direct _ _ rfl⟩) (fun _ => ⟨⟨_, rfl⟩, access_direct _ _ rfl⟩), both ⟨rfl, by decide⟩ ⟨rfl, by decide⟩⟩,
    by decide, by decide, both trivial trivial, both ⟨_, rfl, rfl⟩ ⟨_, rfl, rfl⟩,
    both ⟨by decide, by decide, fun _ _ _ => .inl rfl⟩ ⟨by decide, by decide, fun _ _ _ => .inl rfl⟩, both rfl rfl⟩
theorem witness_CacheOperationsAndFences :
    (∀ c ∈ demoRun.lanes, readSrc64 accessDemo demoRun c (.n 2) = .ok 0x10100 ∧
      ∃ sa, checkGlobal accessDemo (envOf accessDemo demoRun) .load false false 1 0x10100 = .ok 0x10100 sa) ∧
    (getGroup accessDemo 0 0).stc < 63 ∧ (∀ t ∈ accessDemo.teams, ∀ l ∈ t.body.stashLines, l.dirty = true → l.pa ≠ 0x10100) ∧
    teamIl accessDemo 0 ≠ 3 :=
  ⟨both ⟨rfl, _, rfl⟩ ⟨rfl, _, rfl⟩, by decide, by decide, by decide⟩
/-- A stash map of one entry, with one dirty line. -/
def stashDemo : State :=
  modCore (withN [(0, 0x80), (1, 0), (6, 0x80)] accessDemo) 0 fun tc =>
    { tc with stash := [⟨0x80, 0x10100, 0x80⟩], stashLines := [⟨0x80, 0x10100, true, 2 ^ 128 - 1⟩] }
theorem witness_StashOperations :
    stashDemo.runs = demoRun :: [] ∧ (∀ x ∈ demoRun.lanes, (laneTh stashDemo demoRun x).inBody = false) ∧
    readSrc stashDemo demoRun demoRun.lowest (.n 0) = .ok 0x80 ∧ readSrc64 stashDemo demoRun demoRun.lowest (.n 0) = .ok 0x80 ∧
    readSrc stashDemo demoRun demoRun.lowest (.n 6) = .ok 0x80 ∧ (0x80 : Word).toNat % 128 = 0 ∧ hasItems stashDemo 0 = false ∧
    (getGroup stashDemo 0 0).stc < 63 ∧
    ((getCore stashDemo 0).stashLines.filter fun l => l.dirty && decide (0x80 ≤ l.off) && decide (l.off < 0x80 + 0x80)) = [⟨0x80, 0x10100, true, 2 ^ 128 - 1⟩] ∧
    ((getCore accessDemo 0).stashLines.filter fun l => l.dirty && decide (0x80 ≤ l.off) && decide (l.off < 0x80 + 0x80)) = [] ∧
    0 < stashDemo.teams.length ∧ (∀ x ∈ stashDemo.aper, backingMeets stashDemo 0x10100 128 x = false) :=
  ⟨rfl, both rfl rfl, rfl, rfl, rfl, rfl, rfl, by decide, by decide, by decide, by decide, fun _ h => nomatch h⟩

/-! ### Waits, queues, channels, barriers, copies -/

/-- The counters are all at 62: a WAIT for at most 62 passes, one for at most 61 waits, and 63 waits for nothing. -/
theorem witness_WaitYieldAndSyncWords :
    Issuing accessDemo demoRun [] ∧ (∀ c ∈ demoRun.lanes, (laneTh accessDemo demoRun c).reports = []) ∧
    (let g := getGroup accessDemo 0 0
     let holds := fun (o : WFmt) => (o.ld = 63 ∨ g.ldc ≤ o.ld.toNat) ∧ (o.st = 63 ∨ g.stc ≤ o.st.toNat) ∧ (o.cp = 63 ∨ g.cpc ≤ o.cp.toNat) ∧
      (o.tl = 63 ∨ g.tlc ≤ o.tl.toNat)
     holds ⟨62, 63, 62, 63⟩ ∧ ¬holds ⟨61, 63, 63, 63⟩) ∧
    GroupRun accessDemo demoRun [] ∧ (∀ c ∈ demoRun.lanes, readSrc accessDemo demoRun c (.q 0) = .ok 0 ∧ readSrc accessDemo demoRun c (.n 4) = .ok 5) ∧
    InScratch accessDemo demoRun 16 (fun _ => (0 : Word).toNat) ∧ (getGroup accessDemo 0 0).stc < 63 ∧ (getGroup accessDemo 0 0).ldc < 63 ∧
    (∀ c ∈ demoRun.lanes, DstHere (laneTh accessDemo demoRun c) (.n 31)) ∧
    (∀ c ∈ demoRun.lanes, 0 ≤ (scratchWord accessDemo 0 ((0 : Word).toNat + 8) - (0 : Word)).toInt ∧ c < 2) ∧
    ¬(∀ c ∈ demoRun.lanes, 0 ≤ (scratchWord accessDemo 0 ((0 : Word).toNat + 8) - (5 : Word)).toInt ∧ c < 2) :=
  ⟨access_issuing, both rfl rfl, by decide, access_group_run, both ⟨rfl, rfl⟩ ⟨rfl, rfl⟩,
    both ⟨by decide, by decide, fun _ _ _ => .inl rfl⟩ ⟨by decide, by decide, fun _ _ _ => .inl rfl⟩, by decide, by decide,
    both rfl rfl, both (by decide) (by decide), fun h => absurd (h 0 (List.mem_cons_self ..)).1 (by decide)⟩

/-- Queue 0 holds two handles and has an allowance of two; queue 1 is empty and has none left. -/
def queueDemo : State :=
  modCore demo 0 fun tc => { tc with queues := [⟨4, [(8, 0), (9, 0)], 0, [2], [4]⟩, ⟨4, [], 0, [1], [2]⟩, ⟨1, [], 0, [1], [1]⟩] }
theorem queue_group_run : GroupRun queueDemo demoRun [] := ⟨⟨rfl, by decide, both rfl rfl⟩, rfl, by decide, both rfl rfl⟩
theorem witness_NamedQueueSteps :
    QueueReady queueDemo demoRun [] 0 true ∧ QueueReady queueDemo demoRun [] 1 true ∧ QueueReady queueDemo demoRun [] 0 false ∧
    QueueReady queueDemo demoRun [] 1 false ∧ (∀ c ∈ demoRun.lanes, readSrc queueDemo demoRun c (.n 0) = .ok (BitVec.ofNat 32 c)) ∧
    (∀ c ∈ demoRun.lanes, DstHere (laneTh queueDemo demoRun c) (.n 5)) ∧
    demoRun.lanes.length ≤ ((getCore queueDemo 0).queue 0).allow.getD 0 0 ∧ ((getCore queueDemo 0).queue 1).allow.getD 0 0 < demoRun.lanes.length ∧
    demoRun.lanes.length ≤ ((getCore queueDemo 0).queue 0).ring.length ∧ ((getCore queueDemo 0).queue 1).ring.length < demoRun.lanes.length ∧
    (getCore queueDemo 0).queues.length ≤ (3 : Fin 16).val ∧ (2 : Fin 16).val < (getCore queueDemo 0).queues.length ∧
    ((getCore queueDemo 0).queue 2).initial.getD 0 0 < demoRun.lanes.length :=
  ⟨⟨queue_group_run, by decide, by decide⟩, ⟨queue_group_run, by decide, by decide⟩, ⟨queue_group_run, by decide, by decide⟩,
    ⟨queue_group_run, by decide, by decide⟩, both rfl rfl, both rfl rfl, by decide, by decide, by decide, by decide, by decide, by decide,
    by decide⟩

/-- Team 0 sends on channel 3, with one credit, to team 1, and receives on channel 4, which holds a message. -/
def channelDemo (life : TeamLife) (credits : Nat) (msgs : List (List Byte)) : State :=
  { modCore demo 0 (fun tc => { tc with credits := [⟨3, credits⟩], boxes := [⟨4, msgs, 0⟩] }) with
    launches := [{ demoLaunch with kernel := { demoKernel with channels := [⟨3, 2, 0, 1⟩, ⟨4, 2, 1, 0⟩] } }]
    teams := (modCore demo 0 (fun tc => { tc with credits := [⟨3, credits⟩], boxes := [⟨4, msgs, 0⟩] })).teams ++ [{ demoTeam with idx := 1, core := 1, life := life }] }
theorem channel_ready (life : TeamLife) (credits : Nat) (msgs : List (List Byte)) :
    ChannelReady (channelDemo life credits msgs) demoRun [] 3 ⟨3, 2, 0, 1⟩ (.q 0) 0 true ∧
    ChannelReady (channelDemo life credits msgs) demoRun [] 4 ⟨4, 2, 1, 0⟩ (.q 0) 0 false :=
  have run : GroupRun (channelDemo life credits msgs) demoRun [] := ⟨⟨rfl, by decide, both rfl rfl⟩, rfl, by decide, both rfl rfl⟩
  ⟨⟨run, rfl, rfl, rfl, ⟨rfl, (by decide : 0 + 64 ≤ 4096)⟩, fun _ _ _ => .inl rfl, rfl, fun h => nomatch h⟩,
   ⟨run, rfl, rfl, rfl, ⟨rfl, (by decide : 0 + 64 ≤ 4096)⟩, fun _ _ _ => .inl rfl, rfl, fun h => nomatch h⟩⟩
theorem witness_ChannelMessages :
    teamByIdx (channelDemo .resident 1 [[1]]) 0 1 = some 1 ∧ (getTeam (channelDemo .resident 1 [[1]]) 1).life = .resident ∧
    0 < creditOf (getCore (channelDemo .resident 1 [[1]]) 0) 3 ∧ boxMsgs (getCore (channelDemo .resident 1 [[1]]) 0) 4 = [1] :: [] ∧
    (getTeam (channelDemo .saved 1 []) 1).life = .saved ∧ creditOf (getCore (channelDemo .resident 0 []) 0) 3 = 0 ∧
    boxMsgs (getCore (channelDemo .resident 0 []) 0) 4 = [] ∧ channelDecl (channelDemo .resident 1 [[1]]) 0 4 = some ⟨4, 2, 1, 0⟩ ∧
    (∀ c ∈ demoRun.lanes, DstHere (laneTh (channelDemo .resident 1 [[1]]) demoRun c) (.n 5)) :=
  ⟨rfl, rfl, by decide, rfl, rfl, rfl, rfl, rfl, both rfl rfl⟩
/-- Barrier 0 expects two arrivals and has one; barrier 1 expects three and has none; each thread has arrived at both in the
generation before. -/
def meetingDemo (gen : Nat) : State :=
  withThreads (modCore demo 0 fun tc => { tc with barriers := [⟨2, 1, gen⟩, ⟨3, 0, gen⟩] }) fun _ th => { th with arrival := some (1, 0) }
theorem meeting_ready (gen : Nat) (h : gen < 65536) (i : Fin 32) (b : Word) (x : Barrier)
    (hr : readSrc (meetingDemo gen) demoRun demoRun.lowest (.n i) = .ok b) (hx : (getCore (meetingDemo gen) 0).barriers[b.toNat]? = some x)
    (hl : 0 < x.exp ∧ x.arr < x.exp ∧ x.gen = gen) : BarrierReady (meetingDemo gen) demoRun [] (.n i) b x :=
  ⟨⟨⟨rfl, by decide, both rfl rfl⟩, rfl, by decide, both rfl rfl⟩, hr, hx, ⟨hl.1, hl.2.1, hl.2.2 ▸ h⟩, rfl⟩
/-- Barrier 0 at the last generation, and whether every lane's record has passed. -/
theorem witness_BarriersAndMaskedSync :
    BarrierReady (meetingDemo 65535) demoRun [] (.n 5) 0 ⟨2, 1, 65535⟩ ∧
    (∀ c ∈ demoRun.lanes, ∃ g, (laneTh (meetingDemo 65535) demoRun c).arrival = some (1, g) ∧ g ≠ 65535) ∧
    ¬(∀ c ∈ demoRun.lanes, ∃ g, (laneTh (meetingDemo 0) demoRun c).arrival = some (1, g) ∧ g ≠ 0) ∧
    (arrived ⟨2, 1, 65535⟩ demoRun.lanes.length).gen ≠ 65535 ∧ (arrived ⟨3, 0, 7⟩ demoRun.lanes.length).gen = 7 :=
  ⟨meeting_ready _ (by decide) _ _ _ rfl rfl ⟨by decide, by decide, rfl⟩, both ⟨0, rfl, by decide⟩ ⟨0, rfl, by decide⟩,
    fun h => by obtain ⟨g, h1, h2⟩ := h 0 (List.mem_cons_self ..); exact h2 (by cases h1; rfl), by decide, by decide⟩
/-- SYNCM whose lanes name each other. -/
theorem witness_BarriersAndMaskedSync_masks :
    GroupRun demo demoRun [] ∧ (getGroup demo 0 0).threads.length ≤ 32 ∧ (∀ th ∈ (getGroup demo 0 0).threads, th.syncm = none) ∧
    (∀ c ∈ demoRun.lanes, readSrc (withN [(5, 3)] demo) demoRun c (.n 5) = .ok 3) ∧
    (let m := fun c => (3 : Word) ||| BitVec.ofNat 32 (2 ^ c)
     ∀ c ∈ demoRun.lanes, ∀ j < 32, (m c).getLsbD j = true → (getTh demo 0 0 (.lane j)).life ≠ .exited ∧ (j ∈ demoRun.lanes → (m j).getLsbD c = true)) :=
  ⟨witness_group_run, by decide, by decide, both rfl rfl, by decide⟩

theorem twice {p : Dword → Prop} {x : Dword} (h : p x) : ∀ a ∈ [x, x], p a := by
  intro a m
  cases m with
  | head => exact h
  | tail _ m => cases m with
    | head => exact h
    | tail _ m => cases m
/-- A copy of 64 bytes to scratchpad with a sync word; a gather; a regrouping; a valid publication entry of context 1. -/
def copyDemo : State :=
  setBar (withN [(2, 0), (4, 0x10100#32), (6, 0x98000000#32), (7, 0x00040000#32), (8, 0x08000000#32), (9, 0x00101004#32)] accessDemo)
    (Config.oPart 0 + Config.oPublication 0) 0x8000000000010000#64
theorem copy_group_run : GroupRun copyDemo demoRun [] := ⟨⟨rfl, by decide, both rfl rfl⟩, rfl, by decide, both rfl rfl⟩
def copyCmd : CopyCmd :=
  { dst := 0, dstSpace := .scratch, srcs := [0x10100], srcSpace := .global, len := 64, sync := some 144, shadow := false, scope := .grp }
theorem witness_CopiesAndPublication :
    readSrc64 copyDemo demoRun demoRun.lowest (.n 2) = .ok 0 ∧ readSrc64 copyDemo demoRun demoRun.lowest (.n 4) = .ok 0x10100 ∧
    readSrc64 copyDemo demoRun demoRun.lowest (.n 6) = .ok 0x0004000098000000#64 ∧
    (let k : Dword := 0x0004000098000000#64
     k.extractLsb' 24 2 = 0 ∧ (k.extractLsb' 44 20).toNat = 64 ∧ k.getLsbD 27 = true ∧ (k.extractLsb' 28 16).toNat * 16 = 144 ∧ k.getLsbD 26 = false) ∧
    CopyFits copyDemo demoRun copyCmd 64 64 ∧ (∀ c ∈ demoRun.lanes, readSrc64 copyDemo demoRun c (.n 4) = .ok 0x10100) ∧
    CopyFits copyDemo demoRun { copyCmd with srcs := [0x10100, 0x10100] } (64 * 2) 64 ∧
    readSrc copyDemo demoRun demoRun.lowest (.n 2) = .ok 0 ∧ readSrc64 copyDemo demoRun demoRun.lowest (.n 8) = .ok 0x0010100408000000#64 ∧
    (let k : Dword := 0x0010100408000000#64
     (k.extractLsb' 52 12).toNat ≠ 0 ∧ (k.extractLsb' 40 12).toNat ≠ 0 ∧ (k.extractLsb' 34 6).toNat ≠ 0 ∧ k.extractLsb' 32 2 ≠ 3) ∧
    hasItems copyDemo 0 = false ∧ (getGroup copyDemo 0 0).stc < 63 ∧
    (let e := bar copyDemo (Config.oPart 0 + Config.oPublication 0)
     e.msb = true ∧ (e.extractLsb' 16 16).toNat = (teamLaunch copyDemo 0).ctx) ∧
    (bar copyDemo (Config.oPart 0 + Config.oPublication 255)).msb = false :=
  ⟨rfl, rfl, rfl, by decide,
    ⟨⟨rfl, (fun a h => by cases h with | head => rfl | tail _ h => cases h), rfl⟩, (by decide : 0 + 64 ≤ 4096),
      (fun a h => by cases h with | head => decide | tail _ h => cases h), (fun o h => by cases h; decide), (fun h => nomatch h), ⟨rfl, rfl⟩, rfl, by decide⟩,
    both rfl rfl,
    ⟨⟨rfl, twice rfl, rfl⟩, (by decide : 0 + 128 ≤ 4096),
      twice (by decide), (fun o h => by cases h; decide), (fun h => nomatch h), ⟨rfl, rfl⟩, rfl, by decide⟩,
    rfl, rfl, by decide, rfl, by decide, by decide, by decide⟩

/-! ### Control -/

/-- The word at 0x1004C is a clause header, and 0x10048 and 0x10050 are not; a REP at 0x10048 stands before it. The word
after the header is ADDI n4, n0, 10. -/
def codeDemo : State := { demo with mem := writeBytes [] 0x10050 (natBytes 4 0x4022000A) }
def repRun : Run := { demoRun with pc := 0x10048 }
theorem witness_ControlTransfers :
    Issuing demo demoRun [] ∧ hasItems demo 0 = false ∧ (∀ c ∈ demoRun.lanes, guardTrue demo demoRun c noGuard = .ok true) ∧
    (∀ c ∈ demoRun.lanes, MayGo demo demoRun c (demoRun.pc + BitVec.ofInt 64 (4 * (2#19).toInt))) ∧
    (teamLaunch demo 0).isHeader (demoRun.pc + BitVec.ofInt 64 (4 * (3#19).toInt)) = false ∧
    (∀ c ∈ demoRun.lanes, readSrc (withN [(5, 0x13)] demo) demoRun c (.n 5) = .ok 0x13) ∧
    (∀ c ∈ demoRun.lanes, MayGo demo demoRun c ((teamLaunch demo 0).desc.kernel + BitVec.ofNat 64 (4 * (0x13 : Word).toNat))) ∧
    (teamLaunch demo 0).isHeader ((teamLaunch demo 0).desc.kernel + BitVec.ofNat 64 (4 * (0 : Word).toNat)) = false :=
  have in_code : ∀ c, MayGo demo demoRun c 0x1004C := fun c => ⟨rfl, fun lo hi h => by
    have : bodyOf demo demoRun c = none := by
      match c with
      | 0 => rfl
      | 1 => rfl
      | n + 2 => rfl
    rw [this] at h; cases h⟩
  ⟨witness_issuing, rfl, both rfl rfl, fun c _ => in_code c, rfl, both rfl rfl, fun c _ => in_code c, rfl⟩
/-- MEET in and out of range, and on a full meeting stack; EXIT; REP. -/
theorem witness_ControlTransfers_meetings :
    (∀ c ∈ demoRun.lanes, ¬((teamLaunch demo 0).kernel.mdepth ≤ (laneTh demo demoRun c).meetStk.length)) ∧
    (let base := (teamLaunch demo 0).desc.kernel
     let inRange := fun (a : Dword) => base.toNat ≤ a.toNat ∧ a.toNat < base.toNat + 2 ^ 34 - 4
     inRange (demoRun.pc + BitVec.ofInt 64 (4 * (-17#19).toInt)) ∧ ¬inRange (demoRun.pc + BitVec.ofInt 64 (4 * (-18#19).toInt))) ∧
    (let s := withThreads demo fun _ th => { th with meetStk := [0, 0, 0, 0] }
     Issuing s demoRun [] ∧ (teamLaunch s 0).kernel.mdepth ≤ (laneTh s demoRun demoRun.lowest).meetStk.length) ∧
    (∀ t < 32, (getTh demo 0 0 (.lane t)).syncm = none) ∧
    (∀ c ∈ demoRun.lanes, (laneTh demo demoRun c).hasPend = false ∧ (laneTh demo demoRun c).reports = [] ∧ (laneTh demo demoRun c).marks = []) ∧
    (teamLaunch codeDemo 0).isHeader (repRun.pc + 4) = true ∧ CodeAt codeDemo repRun (repRun.pc + 8) 0x4022000A#32 ∧
    decode 0x4022000A#32 = .ok (.addi ⟨.n 4, .n 0, 10⟩) ∧ (0x4022000A#32).toNat / 2 ^ 25 ≤ 0x61 ∧ (0x4022000A#32).toNat / 2 ^ 25 ≠ 0x4F :=
  ⟨both (by decide) (by decide), by decide, ⟨⟨rfl, by decide, both rfl rfl⟩, by decide⟩, by decide, both (by decide) (by decide), rfl,
    ⟨_, _, rfl, direct_plain _ _ _ (.inl rfl) rfl (fun _ h => by cases h with | head => rfl | tail _ h => cases h), rfl⟩, rfl, by decide, by decide⟩

/-- Callers: thread 0 of depth 64 in one state, both threads with a return address in another. -/
def fullDemo : State := withThreads demo fun _ th => { th with links := List.replicate 64 ⟨0x1004C, 32⟩ }
def wideDemo : State := withThreads demo fun _ th => { th with wb := 193 }
def returnDemo : State := withThreads demo fun _ th => { th with links := [⟨0x1004C, 32⟩], wb := 32 }
theorem witness_CallsAndReturns :
    GroupRun demo demoRun [] ∧ hasItems demo 0 = false ∧ (∀ c ∈ demoRun.lanes, guardTrue demo demoRun c noGuard = .ok true) ∧
    (teamLaunch demo 0).isHeader (demoRun.pc + BitVec.ofInt 64 (4 * (2#19).toInt)) = true ∧
    (∀ c ∈ demoRun.lanes, MayCall demo demoRun (laneTh demo demoRun c)) ∧
    (GroupRun fullDemo demoRun [] ∧ (laneTh fullDemo demoRun demoRun.lowest).links.length = 64) ∧
    (GroupRun wideDemo demoRun [] ∧ ((teamLaunch wideDemo 0).desc.l : Int) < (laneTh wideDemo demoRun demoRun.lowest).wb +
      (laneTh wideDemo demoRun demoRun.lowest).cf + 32) ∧
    (∀ c ∈ demoRun.lanes, readSrc (withN [(5, 0x13)] demo) demoRun c (.n 5) = .ok 0x13 ∧
      (teamLaunch demo 0).isHeader ((teamLaunch demo 0).desc.kernel + BitVec.ofNat 64 (4 * (0x13 : Word).toNat)) = true) ∧
    (∀ c ∈ demoRun.lanes, ∃ k ks, (laneTh returnDemo demoRun c).links = k :: ks ∧ (teamLaunch returnDemo 0).isHeader k.ret = true ∧
      NoSpill returnDemo demoRun (laneTh returnDemo demoRun c).wb) ∧
    (laneTh demo demoRun demoRun.lowest).links = [] :=
  have calls : ∀ c ∈ demoRun.lanes, MayCall demo demoRun (laneTh demo demoRun c) :=
    both ⟨by decide, by decide, (by decide : (64 : Int) ≤ 128), fun h => nomatch h⟩ ⟨by decide, by decide, (by decide : (64 : Int) ≤ 128), fun h => nomatch h⟩
  ⟨witness_group_run, rfl, both rfl rfl, rfl, calls, ⟨⟨⟨rfl, by decide, both rfl rfl⟩, rfl, by decide, both rfl rfl⟩, rfl⟩,
    ⟨⟨⟨rfl, by decide, both rfl rfl⟩, rfl, by decide, both rfl rfl⟩, by decide⟩, both ⟨rfl, rfl⟩ ⟨rfl, rfl⟩,
    both ⟨_, _, rfl, rfl, (by decide : (64 : Int) ≤ 128)⟩ ⟨_, _, rfl, rfl, (by decide : (64 : Int) ≤ 128)⟩, rfl⟩

/-- A thread in a handler: its EPC stands at a header, and at a word of a clause of two words. -/
def handlerDemo (epc : Dword) : State :=
  withThreads { demo with mem := writeBytes [] 0x10040 (natBytes 4 0x2000FFFF) } fun _ th =>
    { th with inTrap := true, epc := epc, hidBase := 32, hidCf := 32, wb := 16 }
theorem witness_TrapEntryAndReturn :
    TrapReady demo demoRun [] ∧ classT 0x28 = false ∧ (63#6 - 1).toNat ≠ 63 ∧ (teamLaunch demo 0).desc.dbg = false ∧
    (Issuing (handlerDemo 0) demoRun [] ∧ demoRun.lanes.find? (fun x => (laneTh (handlerDemo 0) demoRun x).inTrap) = some 0 ∧
      ∀ x ∈ demoRun.lanes, (laneTh (handlerDemo 0) demoRun x).hasPend = false ∧ (laneTh (handlerDemo 0) demoRun x).reports = [] ∧
        (laneTh (handlerDemo 0) demoRun x).marks = []) ∧
    (∀ c ∈ demoRun.lanes, (laneTh demo demoRun c).inTrap = false) ∧
    (∀ x ∈ (demoThread 0).q, ∀ op a, x ≠ .mark op a) ∧ (∃ a b c d, (demoThread 0).cc = [.flags a, .flags b, .flags c, .flags d]) ∧
    (demoThread 0).inTrap = false :=
  ⟨⟨witness_issuing, rfl, both (by decide) (by decide), by decide⟩, rfl, by decide, rfl,
    ⟨⟨rfl, by decide, both rfl rfl⟩, rfl, both (by decide) (by decide)⟩, both rfl rfl,
    (by intro x h op a e; subst e; revert h; simp [demoThread, Thread.fresh, zeroCells]), ⟨_, _, _, _, rfl⟩, rfl⟩
theorem witness_TrapEntryAndReturn_eret :
    GroupRun (handlerDemo 0x1004C) demoRun [] ∧
    (∀ c ∈ demoRun.lanes, let th := laneTh (handlerDemo 0x1004C) demoRun c
      th.inTrap = true ∧ th.hasPend = false ∧ (th.wb ≤ th.hidBase ∨ NoSpill (handlerDemo 0x1004C) demoRun th.wb) ∧
        (teamLaunch (handlerDemo 0x1004C) 0).isHeader th.epc = true) ∧
    (∀ c ∈ demoRun.lanes, let th := laneTh (handlerDemo 0x10048) demoRun c
      ∃ h w, (teamLaunch (handlerDemo 0x10048) 0).headerBelow th.epc = some h ∧ CodeAt (handlerDemo 0x10048) demoRun h w ∧
        (th.epc - h).toNat ≤ 4 * (w.toNat / 2 ^ 28)) :=
  have code : CodeAt (handlerDemo 0x10048) demoRun 0x10040 0x2000FFFF#32 :=
    ⟨_, _, rfl, direct_plain _ _ _ (.inl rfl) rfl (fun _ h => by cases h with | head => rfl | tail _ h => cases h), rfl⟩
  ⟨⟨⟨rfl, by decide, both rfl rfl⟩, rfl, by decide, both rfl rfl⟩,
    both ⟨rfl, rfl, .inl (by decide), rfl⟩ ⟨rfl, rfl, .inl (by decide), rfl⟩,
    both ⟨_, _, rfl, code, by decide⟩ ⟨_, _, rfl, code, by decide⟩⟩

/-- System registers: EPC, a k register at both ends, a counter, SAT_TEAM; an unassigned number. -/
def grantDemo : State :=
  { accessDemo with launches := [{ demoLaunch with desc := { demoDesc with inj := true }, kernel := { demoKernel with il := 2 } }] }
theorem witness_SystemRegisters :
    Issuing accessDemo demoRun [] ∧ demoRun.lanes ≠ [] ∧ (∀ c ∈ demoRun.lanes, DstHere (laneTh accessDemo demoRun c) (.n 6)) ∧
    (∀ c ∈ demoRun.lanes, plainRegister accessDemo demoRun c (0x002#12).toNat = some [0, 0]) ∧ Dst.pairOk (.n 6) = true ∧
    GroupRun accessDemo demoRun [] ∧ plainRegister accessDemo demoRun demoRun.lowest (0x01F#12).toNat = some [0] ∧
    counterRegister accessDemo demoRun (0x100#12).toNat = some [0, 0] ∧ counterRegister accessDemo demoRun (0x106#12).toNat = some [0] ∧
    (getGroup accessDemo 0 0).ldc < 63 ∧ Src.pairOk (.n 2) = true ∧ (∀ c ∈ demoRun.lanes, readSrc64 accessDemo demoRun c (.n 2) = .ok 0x10100) ∧
    (∀ c ∈ demoRun.lanes, readSrc accessDemo demoRun c (.n 4) = .ok 5) ∧ (0x017#12).toNat < 0x018 ∧ ¬(0x018#12).toNat < 0x018 ∧
    (teamLaunch accessDemo 0).desc.inj = false ∧ (teamLaunch grantDemo 0).desc.inj = true ∧ (getTeam grantDemo 0).side = .single ∧
    readSrc grantDemo demoRun demoRun.lowest (.n 4) = .ok 5 ∧ (5 : Word).extractLsb' 29 2 ≠ 3 ∧
    plainRegister accessDemo demoRun demoRun.lowest (0x00D#12).toNat = none ∧ counterRegister accessDemo demoRun (0x00D#12).toNat = none :=
  ⟨access_issuing, by decide, both rfl rfl, both rfl rfl, rfl, access_group_run, rfl, rfl, rfl, by decide, rfl, both rfl rfl, both rfl rfl,
    by decide, by decide, rfl, rfl, rfl, rfl, by decide, rfl, rfl⟩

def firmwareDemo : State :=
  { modTeam demo 0 (fun t => { t with firmware := some 0 }) with
    svc := [{ cluster := 0, ops := [0], gives := [], aop := 0, ord := 0, scope := 0, p := false, kind := 0, slot := 0, pa := 0x10100, value := 0 }] }
def checkDemo (il : Nat) (w : List Nat) : State :=
  { modTeam demo 0 (fun t => { t with ckptWaiting := w }) with launches := [{ demoLaunch with kernel := { demoKernel with il := il } }] }
theorem check_quiet (il : Nat) (w : List Nat) :
    GroupRun (checkDemo il w) demoRun [] ∧ (∀ th ∈ (getGroup (checkDemo il w) 0 0).threads, th.hasPend = false) ∧
    (∀ x ∈ (getGroup (checkDemo il w) 0 0).k, x.isPend = false) ∧
    (∀ c ∈ demoRun.lanes, (laneTh (checkDemo il w) demoRun c).reports = [] ∧ (laneTh (checkDemo il w) demoRun c).marks = []) :=
  ⟨⟨⟨rfl, by decide, both rfl rfl⟩, rfl, by decide, both rfl rfl⟩, both_threads, by
    show ∀ x ∈ zeroCells 32, x.isPend = false
    decide, both ⟨rfl, rfl⟩ ⟨rfl, rfl⟩⟩
where
  both_threads : ∀ th ∈ [demoThread 0, demoThread 1], th.hasPend = false := by decide
theorem witness_GroupAndServiceInstructions :
    readSrc accessDemo demoRun demoRun.lowest (.n 4) = .ok 5 ∧ hasItems accessDemo 0 = false ∧ (teamLaunch accessDemo 0).desc.rop ≤ 4 ∧
    (getTeam accessDemo 0).side = .single ∧ (∀ c ∈ demoRun.lanes, DstHere (laneTh accessDemo demoRun c) (.n 6)) ∧
    32 + demoRun.grp ∈ (getTeam (checkDemo 2 [32]) 0).ckptWaiting ∧ 32 + demoRun.grp ∉ (getTeam (checkDemo 1 []) 0).ckptWaiting ∧
    (teamLaunch (checkDemo 1 []) 0).kernel.il < 2 ∧ 32 + demoRun.grp ∉ (getTeam (checkDemo 2 [0]) 0).ckptWaiting ∧
    2 ≤ (teamLaunch (checkDemo 2 [0]) 0).kernel.il ∧
    GroupRun firmwareDemo demoRun [] ∧ (getTeam firmwareDemo 0).firmware = some 0 ∧
    (∀ c ∈ demoRun.lanes, readSrc64 firmwareDemo demoRun c (.n 2) = .ok 0 ∧ readSrc firmwareDemo demoRun c (.n 4) = .ok 0) ∧
    (getTeam demo 0).firmware = none ∧ readSrc64 accessDemo demoRun demoRun.lowest (.n 2) = .ok 0x10100 ∧
    readSrc64 (withN [(3, 0x1000000#32)] accessDemo) demoRun demoRun.lowest (.n 2) = .ok 0x100000000010100 ∧ (getGroup accessDemo 0 0).stc < 63 ∧
    (pbar demo 0 Config.oTrCtl).msb = false ∧ (∀ c ∈ demoRun.lanes, c < 32 ∧ DstHere (laneTh demo demoRun c) .push) :=
  ⟨rfl, rfl, by decide, rfl, both rfl rfl, by decide, by decide, by decide, by decide, by decide,
    ⟨⟨rfl, by decide, both rfl rfl⟩, rfl, by decide, both rfl rfl⟩, rfl, both ⟨rfl, rfl⟩ ⟨rfl, rfl⟩, rfl, rfl, rfl, by decide, by decide,
    both ⟨by decide, trivial⟩ ⟨by decide, trivial⟩⟩

/-! ### Matrix instructions -/

/-- x0 a generator record of 32 by 1, x1 a dense global one, x2 a window of one pixel and x3 a sparse one in scratchpad, x4
empty, x5 a generator record of 64 by 1; g3 has no assigned kind. -/
def withRecord (x : Nat) (ws : List (Nat × Word)) (s : State) : State :=
  modGroup s 0 0 fun g => ws.foldl (fun g p => setRecWord g x p.1 p.2) g
def matrixDemo : State :=
  withRecord 0 [(0, 0x50008010#32)] <| withRecord 1 [(0, 0x12008010#32), (1, 0x10100#32)] <|
  withRecord 2 [(0, 0x41408012#32), (4, 0x10000000#32), (6, 0x00100111#32), (7, 0x10#32)] <| withRecord 3 [(0, 0x31410012#32)] <|
  withRecord 5 [(0, 0x50010010#32)] <| withRecord 6 [(0, 0x50008010#32), (3, 3)] <|
  modGroup accessDemo 0 0 fun g => { g with gens := listMod g.gens 3 fun x => { x with w2 := 0x7000#32 } }
theorem matrix_group_run : GroupRun matrixDemo demoRun [] := ⟨⟨rfl, by decide, both rfl rfl⟩, rfl, by decide, both rfl rfl⟩
theorem one_team {p : Team → Prop} {t : Team} (h : p t) : ∀ x ∈ [t], p x := by
  intro x m
  cases m with
  | head => exact h
  | tail _ m => cases m
theorem witness_RecordAndGeneratorInstructions :
    GroupRun matrixDemo demoRun [] ∧ readSrc matrixDemo demoRun demoRun.lowest (.n 0) = .ok 0 ∧ InScratch matrixDemo demoRun 32 (fun _ => (0 : Word).toNat) ∧
    poisonIn (getCore matrixDemo 0).scratchPoison 0 32 = none ∧ readSrc64 matrixDemo demoRun demoRun.lowest (.n 2) = .ok 0x10100 ∧
    checkGlobal matrixDemo (envOf matrixDemo demoRun) .load false false 32 0x10100 = .ok 0x10100 false ∧ Direct matrixDemo 0x10100 32 ∧
    poisonIn matrixDemo.poison 0x10100 32 = none ∧ readSrc matrixDemo demoRun demoRun.lowest (.n 4) = .ok 5 ∧
    (let ws := recOf (getGroup matrixDemo 0 0)
     adjustFault (ws 4) .outer = some 0x18 ∧ adjustFault (ws 0) .tap = some 0x18 ∧ adjustFault (ws 2) .tap = none ∧ adjustFault (ws 1) .kstep = none ∧
     adjustFault (ws 3) .kstep = none ∧ adjustFault (ws 2) .kstep = some 0x18 ∧ adjustFault (ws 0) .kstep = none ∧ adjustFault (ws 2) .outer = none) ∧
    (0 : Word).toNat % 4 = 0 ∧ (0 : Word).toNat + 256 ≤ (teamLaunch matrixDemo 0).kernel.scratch ∧ (∀ x, stashEntryAt (getCore matrixDemo 0) x = none) ∧
    poisonIn (getCore matrixDemo 0).scratchPoison 0 256 = none ∧ genNamed matrixDemo demoRun 0 = false ∧
    (∀ l ∈ demoRun.lanes, DstHere (laneTh matrixDemo demoRun l) (.n 6)) ∧ (∀ l ∈ demoRun.lanes, readSrc matrixDemo demoRun l (.n 4) = .ok 5) ∧
    recKind (recOf (getGroup matrixDemo 0 0) 1) ≠ 5 ∧
    (let ws := recOf (getGroup matrixDemo 0 0) 6
     recKind ws = 5 ∧ genKind ((getGroup matrixDemo 0 0).gens.getD (recGen ws) {}) = none) ∧
    (let ws := recOf (getGroup matrixDemo 0 0) 0
     recKind ws = 5 ∧ genKind ((getGroup matrixDemo 0 0).gens.getD (recGen ws) {}) = some .sign) :=
  ⟨matrix_group_run, rfl, both ⟨by decide, by decide, fun _ _ _ => .inl rfl⟩ ⟨by decide, by decide, fun _ _ _ => .inl rfl⟩, rfl, rfl, rfl,
    direct_plain _ _ _ (.inl rfl) rfl (one_team rfl), rfl, rfl, by decide, rfl, by decide, fun _ => rfl, by decide, rfl, both rfl rfl, both rfl rfl,
    by decide, by decide, by decide⟩

/-- An operation in flight on accumulator 1 that names generator 0 and has not fetched. -/
def demoMma (stage : MmaStage) : MmaCmd :=
  { acc := 1, ra := recOf (getGroup matrixDemo 0 0) 0, rb := recOf (getGroup matrixDemo 0 0) 0, ga := {}, gb := {}, tap := 0, sparse := false
    integer := true, lanes := [0, 1], z := true, slot := 3, waits := [], xlat := [], lines := [0x10100], stage := stage
    rows := [some [], none], cols := List.replicate 16 [] }
def demoOp (k : OpKind) : Op := { id := 0, team := 0, grp := 0, pc := 0x10044, reporter := 0, kind := k }
def busyDemo (k : OpKind) : State := { matrixDemo with ops := [demoOp k], nextId := 1 }
theorem witness_AccumulatorInstructions :
    AccReady matrixDemo demoRun [] [0, 0 + 1] ∧ (∀ l ∈ demoRun.lanes, DstHere (laneTh matrixDemo demoRun l) (.n 31)) ∧
    (∀ l ∈ demoRun.lanes, readSrc matrixDemo demoRun l (.n 4) = .ok 5) ∧ hasItems matrixDemo 0 = false ∧
    (∀ c ∈ demoRun.lanes, accstRow matrixDemo demoRun ⟨.n 2, .q 0, 1, 6, false, .w32, .dev⟩ c =
      .ok ([⟨c, 0x10100, 0x10100, List.replicate 64 0, none, 0, false, false, 0⟩], 0)) ∧
    ((matrixDemo.ops.filter fun x => (match x.kind with | .accst _ _ => true | _ => false) &&
      subCoreOf matrixDemo x == ((getTeam matrixDemo 0).core, (getGroup matrixDemo 0 0).sub)).length < 16) ∧ (getGroup matrixDemo 0 0).tlc < 63 ∧
    (getGroup matrixDemo 0 0).d.getD 6 0 < 63 ∧
    readSrc64 matrixDemo demoRun 1 (.n 2) = .ok 0x10100 ∧
    checkGlobal matrixDemo (envOf matrixDemo demoRun) .accst false false 16 0x10100 = .ok 0x10100 false ∧ Direct matrixDemo 0x10100 64 ∧
    (0x10100 : Dword).toNat % 4096 + 64 ≤ 4096 ∧ AccBusy (busyDemo (.mma (demoMma .queued))) demoRun [] [1] ∧
    genNamed (busyDemo (.mma (demoMma .queued))) demoRun 0 = true ∧
    readSrc matrixDemo demoRun demoRun.lowest (.n 0) = .ok 0 ∧ readSrc matrixDemo demoRun demoRun.lowest (.n 4) = .ok 5 ∧
    InScratch matrixDemo demoRun 64 (fun _ => (0 : Word).toNat) ∧ (getTeam matrixDemo 0).side = .single :=
  ⟨⟨matrix_group_run, by decide, (fun _ h => nomatch h), both rfl rfl⟩, both rfl rfl, both rfl rfl, rfl, both rfl rfl, by decide, by decide, by decide,
    rfl, rfl, direct_plain _ _ _ (.inl rfl) rfl (one_team rfl), by decide,
    ⟨⟨⟨rfl, by decide, both rfl rfl⟩, rfl, by decide, both rfl rfl⟩, by decide, demoOp (.mma (demoMma .queued)), List.mem_cons_self .., _, rfl, rfl, rfl, List.mem_cons_self ..⟩,
    rfl, rfl, rfl, both ⟨by decide, by decide, fun _ _ _ => .inl rfl⟩ ⟨by decide, by decide, fun _ _ _ => .inl rfl⟩, rfl⟩

/-- MMA of a dense global record with a generator, MMAS of a sparse one and MMAT of a window. -/
theorem witness_MatrixOperations :
    MmaFits matrixDemo demoRun .mma ⟨0, 1, 0, 0xFF, 7, true⟩ 0 [(0x10, 0x10)] [0x10100] ∧
    MmaFits matrixDemo demoRun .mmas ⟨0, 3, 5, 0xFF, 7, true⟩ 0 [] [2 ^ 64] ∧
    MmaFits matrixDemo demoRun .mmat ⟨0, 2, 0, 0xFF, 7, true⟩ 0 [] [2 ^ 64] ∧
    (0 : Fin 4).val < (teamLaunch matrixDemo 0).kernel.accum ∧ (∀ c ∈ demoRun.lanes, (laneTh matrixDemo demoRun c).reports = []) :=
  ⟨⟨by decide, by intro b ws h; subst h; cases b <;> decide, by decide, by decide,
      by intro b ws h; subst h; cases b <;> intro h <;> exact absurd h (by decide), rfl, by decide, by decide, by decide, by decide⟩,
   ⟨by decide, by intro b ws h; subst h; cases b <;> decide, by decide, by decide,
      by intro b ws h; subst h; cases b
         · intro _; exact ⟨by decide, fun _ _ _ _ _ => rfl⟩
         · intro h; exact absurd h (by decide), rfl, by decide, by decide, by decide, by decide⟩,
   ⟨by decide, by intro b ws h; subst h; cases b <;> decide, by decide, by decide,
      by intro b ws h; subst h; cases b
         · intro _; exact ⟨by decide, fun _ _ _ _ _ => rfl⟩
         · intro h; exact absurd h (by decide), rfl, by decide, by decide, by decide, by decide⟩,
   by decide, both rfl rfl⟩
theorem witness_MatrixOperations_faults :
    (let g := getGroup matrixDemo 0 0
     recKindOk .mma false (recOf g 2) = false ∧ recKindOk .mma false (recOf g 1) = true ∧ recKindOk .mma true (recOf g 2) = false ∧
     recKindOk .mma true (recOf g 5) = true ∧ recFieldOk false (g.gens.getD (recGen (recOf g 1)) {}) (recOf g 1) = true ∧
     recFieldOk true (g.gens.getD (recGen (recOf g 5)) {}) (recOf g 5) = true ∧ recK (recOf g 1) ≠ recK (recOf g 5)) := by decide
/-- The engine's stages, and a store queue's completion. -/
theorem witness_MatrixOperations_engine :
    (opMma (busyDemo (.mma (demoMma .queued))) 0 = some (demoOp (.mma (demoMma .queued)), demoMma .queued) ∧
      fetchReady (busyDemo (.mma (demoMma .queued))) (demoOp (.mma (demoMma .queued))) (demoMma .queued) = true ∧
      hasItems (busyDemo (.mma (demoMma .queued))) 0 = false) ∧
    (opMma (busyDemo (.mma (demoMma .fetched))) 0 = some (demoOp (.mma (demoMma .fetched)), demoMma .fetched) ∧
      ∀ x ∈ (busyDemo (.mma (demoMma .fetched))).ops, ¬x.id < 0 ∧ x = demoOp (.mma (demoMma .fetched))) ∧
    (opMma (busyDemo (.mma (demoMma .started))) 0 = some (demoOp (.mma (demoMma .started)), demoMma .started) ∧ (demoMma .started).fault = none ∧
      (busyDemo (.mma (demoMma .started))).perfProg = [] ∧ (demoMma .started).lanes.Nodup ∧ (demoMma .started).cols.length ≤ 16 ∧
      (∀ c ∈ (demoMma .started).lanes, mapWf 0 (getTh (busyDemo (.mma (demoMma .started))) 0 0 (.lane c)).acc = true) ∧
      present (busyDemo (.mma (demoMma .started))) 0 0 (.lane 1) = true ∧ 0 < (getCore (busyDemo (.mma (demoMma .started))) 0).groups.length ∧
      (demoMma .started).slot < (getGroup (busyDemo (.mma (demoMma .started))) 0 0).d.length) ∧
    (let rows := [AccstRow.mk 0 0x10100 0x10100 [1, 2] (some 0x10200) 7 false false 0x10200]
     findOp (busyDemo (.accst rows 7)) 0 = some (demoOp (.accst rows 7)) ∧ opHeld (busyDemo (.accst rows 7)) 0 = false ∧
     Memory.wf (busyDemo (.accst rows 7)).mem = true ∧ Direct (busyDemo (.accst rows 7)) 0x10100 2 ∧ Direct (busyDemo (.accst rows 7)) 0x10200 1) :=
  ⟨⟨rfl, by decide, rfl⟩, ⟨rfl, by decide⟩, ⟨rfl, rfl, rfl, by decide, by decide, by decide, rfl, by decide, by decide⟩,
    rfl, rfl, rfl, direct_plain _ _ _ (.inl rfl) rfl (one_team rfl), direct_plain _ _ _ (.inl rfl) rfl (one_team rfl)⟩

/-! ### Crews -/

/-- The word 0x10048, two words into the clause, is CREWEND; the CREW stands before it. -/
def crewMem : List Host.Cell := writeBytes [] 0x10048 (natBytes 4 0xF2000028)
def openDemo : State := { demo with runs := [bodyRun], mem := crewMem }
def innerDemo (k iter : Nat) (done : List Nat) (nested : Option Nested) : State :=
  withThreads { modCore openDemo 0 (fun tc => { tc with crews := [{ demoCrew with next := k + 1, done := done }] }) with runs := [bodyRun] } fun c th =>
    if c = 0 then { th with inCrew := true, member := some { chunk := k, iter := iter, seq := 0, nested := nested } } else th
def demoNested (count : Nat) : Nested :=
  { lo := 0, count := count, comb := .max, start := 0x10044, crewEnd := 0x10048, iter := 1, c := 0, fold := none, held := demoHeld, h := zeroCells 8 }
theorem inner_issuing (k iter : Nat) (done : List Nat) (nested : Option Nested) : Issuing (innerDemo k iter done nested) bodyRun [] :=
  ⟨rfl, by decide, first rfl⟩
theorem inner_chunk (k iter : Nat) (done : List Nat) :
    InChunk (innerDemo k iter done none) bodyRun (fun _ => { chunk := k, iter := iter, seq := 0, nested := none })
      fun _ => { demoCrew with next := k + 1, done := done } := first ⟨rfl, rfl, rfl, rfl⟩
/-- A CREW outside a body and inside one, CREWACC and CREWEND at every place of a chunk. -/
theorem witness_CrewInstructions :
    (Issuing openDemo bodyRun [] ∧ (laneTh openDemo bodyRun 0).inBody = false ∧ (getCore openDemo 0).crew 0 0 = none ∧
      readSrc openDemo bodyRun 0 (.n 4) = .ok 0 ∧ ∃ s' e, BodyEnds openDemo bodyRun [] s' e) ∧
    (∃ s' e, BodyEnds (innerDemo 1 2 [0] none) bodyRun [] s' e) ∧ readSrc (innerDemo 1 2 [0] none) bodyRun 0 (.k 8) = .ok 0 ∧
    (∃ m, (laneTh (innerDemo 0 0 [] (some (demoNested 2))) bodyRun bodyRun.lowest).member = some m ∧ m.nested ≠ none) ∧
    (let cr := { demoCrew with next := 2, done := [0] }
     cr.stored (getTh (innerDemo 1 2 [0] none) 0 0 (.lane 0)) + 1 ≤ 1024 ∧ 2 + 1 < 1 * 2 ^ cr.c + cr.chunkSize 1 ∧
     lastOfChunk cr { chunk := 1, iter := 3, seq := 0, nested := none } ∧
     Crew.nextChunk { cr with done := setAdd cr.done 1 } = some 2) ∧
    (let cr := { demoCrew with next := 3, done := [0, 1] }
     lastOfChunk cr { chunk := 2, iter := 5, seq := 0, nested := none } ∧ cr.nextChunk = none ∧ cr.helpers = [] ∧ cr.charged = [] ∧
     cr.overruns = [] ∧ cr.chunks ≤ (setAdd cr.done 2).length) ∧
    (demoNested 3).iter + 1 < (demoNested 3).count ∧ (demoNested 2).count ≤ (demoNested 2).iter + 1 ∧
    (laneTh openDemo bodyRun bodyRun.lowest).inBody = false :=
  ⟨⟨⟨rfl, by decide, first rfl⟩, rfl, rfl, rfl, _, _, rfl, rfl⟩, ⟨_, _, rfl, rfl⟩, rfl, ⟨_, rfl, fun h => nomatch h⟩,
    ⟨by decide, by decide, rfl, rfl⟩, ⟨rfl, by decide, rfl, rfl, rfl, by decide⟩, by decide, by decide, rfl⟩
/-- Contributions of two members, in two orders of arrival. -/
def contributed (l : List Contribution) : Crew := { demoCrew with contrib := l }
theorem witness_CrewResultWhoeverRan :
    let a : Contribution := ⟨0, 0, 0, 5⟩
    let b : Contribution := ⟨3, 0, 1, 7⟩
    (contributed [a, b]).comb = (contributed [b, a]).comb ∧ (contributed [a, b]).contrib.Perm (contributed [b, a]).contrib ∧
    (∀ x ∈ [a, b], ∀ y ∈ [a, b], x.iter = y.iter → x.seq = y.seq → x = y) ∧ (contributed [a, b]).contrib.Nodup ∧ demoCrew.contrib = [] ∧
    (∀ y ∈ [a], y.iter < b.iter ∨ (y.iter = b.iter ∧ y.seq < b.seq)) :=
  ⟨rfl, .swap .., by decide, by decide, rfl, by decide⟩

/-! ### Ports, limits, places and ends -/

/-- No run; the group is ready on port 0, with a clause at its counter; the progress count is `n`. -/
def readyDemo (n : Nat) : State :=
  { modGroup demo 0 0 (fun g => { g with readyAt := some 0, progress := n }) with runs := [] }
/-- The run on port 0 with a trap due, and stalled for longer than HOLD_LIMIT. -/
def dueTrap : TrapDue := { cause := 0x28, addr := 5, info := 0, epc := 0x10048 }
def dueRun : Run := { demoRun with due := some dueTrap }
def stalledRun : Run := { demoRun with sig := .stall, cause := some 0 }
def stalledDemo (cycle : Dword) : State := { demo with runs := [stalledRun], cycle := cycle }
theorem due_ready : TrapReady { demo with runs := [dueRun] } dueRun [] :=
  ⟨⟨rfl, by decide, both rfl rfl⟩, rfl, both (by decide) (by decide), by decide⟩
theorem witness_RunsBeginAndTrapsEnter :
    (startable (readyDemo 0) 0 false).map (fun e => (e.team, e.grp, e.helpers)) = some (0, 0, none) ∧
    (startable (readyDemo 64) 0 true).map (fun e => (e.team, e.grp, e.helpers)) = some (0, 0, none) ∧
    startable (readyDemo 64) 0 false = none ∧ startable (readyDemo 63) 0 true = none ∧
    (let s := { demo with runs := [dueRun] }
     runOn s 0 = some dueRun ∧ toHead s dueRun = s ∧ classT dueTrap.cause = false ∧ dueTrap.charged = false ∧ dueTrap.others = 0) ∧
    (∀ r, runOn (readyDemo 0) 0 = some r → trapReady (readyDemo 0) r = false) :=
  ⟨rfl, rfl, rfl, rfl, ⟨rfl, rfl, rfl, rfl, rfl⟩, fun _ h => nomatch h⟩
/-- A helper at and below its budget; a hold of 129 clk; a watchdog, a duration and a halt at and past their limits. -/
def helperDemo (clk : Nat) : State :=
  modCore demo 0 fun tc => { tc with crews := [{ demoCrew with helpers := [{ grp := 0, thr := 1, th := { demoThread 1 with inCrew := true, member := some { chunk := 1, iter := 2, seq := 0, nested := none } }, clk := clk }] }] }
def timedDemo (wd : Nat) (now : Dword) : State :=
  { modTeam demo 0 (fun t => { t with wd := wd, started := some 0 }) with
    phcNs := now, launches := [{ demoLaunch with kernel := { demoKernel with il := 1, duration := 1000 } }] }
def haltedDemo (resumable stopped : Bool) : State :=
  modTeam demo 0 fun t => { t with stopped := stopped, halt := some { cause := 0x37, epc := 0, addr := 0, info := 0, thread := 0, items := [], resumable := resumable } }
theorem witness_LimitsAndHalts :
    (∀ clk, ∃ h c m, findHelper (helperDemo clk) 0 0 0 1 = some h ∧ (getCore (helperDemo clk) 0).crew 0 0 = some c ∧ h.th.member = some m ∧ h.clk = clk) ∧
    (runOn (stalledDemo 129) 0 = some stalledRun ∧ TrapReady (toHead (stalledDemo 129) stalledRun) stalledRun [] ∧ holdExpired (stalledDemo 129) stalledRun = true) ∧
    holdExpired (stalledDemo 128) stalledRun = false ∧
    ((getTeam (timedDemo 0 0) 0).side = .single ∧ teamIl (timedDemo 0 0) 0 ≠ 3 ∧ wdExpired (timedDemo 0 0) 0 = false ∧
      wdExpired (timedDemo (2 ^ 40) 0) 0 = true ∧ pastDuration (timedDemo 0 2000) 0 = false ∧ pastDuration (timedDemo 0 2001) 0 = true) ∧
    (haltDone (haltedDemo false false) 0 = true ∧ (pbar (haltedDemo false false) 0 Config.oDumpCtl).getLsbD 0 = false ∧
      haltDone (haltedDemo true true) 0 = true ∧ (getTeam (haltedDemo true true) 0).stopped = true ∧ dumpRoom (haltedDemo true true) 0 = false ∧
      haltDone { haltedDemo true true with ops := [demoOp (.load [])] } 0 = false) :=
  ⟨fun _ => ⟨_, _, _, rfl, rfl, rfl, rfl⟩,
    ⟨rfl, ⟨⟨rfl, by decide, both rfl rfl⟩, rfl, both (by decide) (by decide), by decide⟩, by decide⟩, by decide, by decide, by decide⟩
/-- The device is ready; context 1 is valid, its tables at 0x20000; the launch has one team still to place. -/
def live (s : State) : State :=
  setBar (setBar (setBar s Config.oBootStatus 0x80) (Config.oContext 0) 0x8000000000000001#64) (Config.oContext 0 + 8) 0x20000
def placeDemo (il : Nat) : State :=
  live { demo with runs := [], teams := [], launches := [{ demoLaunch with nextTeam := 0, kernel := { demoKernel with il := il } }] }
def restDemo (life : TeamLife) (spoiled : Bool) : State :=
  live { modTeam demo 0 (fun t => { t with life := life, areaSpoiled := spoiled }) with runs := [] }
theorem witness_TeamPlacementAndLoading :
    (nextPending ((placeDemo 0).launches.getD 0 Launch.empty) = some 0 ∧ canTake (placeDemo 0) 0 0 0 ⟨63, 7, 3⟩ [] = true ∧
      (let l := (placeDemo 0).launches.getD 0 Launch.empty
       l.kernel.il ≠ 2 ∧ l.desc.trace ≠ 1 ∧ l.again = [] ∧ ∀ u ∈ (placeDemo 0).teams, u.launch = 0 → u.life ≠ .pending)) ∧
    (canTake (placeDemo 2) 0 0 0 ⟨31, 0, 0⟩ [] = true ∧ ((placeDemo 2).launches.getD 0 Launch.empty).kernel.il = 2) ∧
    canTake (placeDemo 0) 0 0 0 ⟨64, 0, 0⟩ [] = false ∧
    ((getTeam (restDemo .loading false) 0).life = .loading ∧ (getTeam (restDemo .loading false) 0).halt = none ∧ (getTeam (restDemo .resident false) 0).life ≠ .loading) ∧
    (∀ b, (getTeam (restDemo .saved b) 0).partner = none ∧ canRestore (restDemo .saved b) 0 ⟨1, 0, 0⟩ = true ∧ (getTeam (restDemo .saved b) 0).areaSpoiled = b ∧
      (getTeam (restDemo .saved b) 0).halt = none) ∧
    canRestore (restDemo .resident false) 0 ⟨1, 0, 0⟩ = false := by decide
/-- A group of exited threads; a team of retired groups, alone and as a core pair. -/
def exitedDemo : State := { withThreads demo (fun _ th => { th with life := .exited }) with runs := [] }
def retiredDemo (life : TeamLife) : State :=
  { modTeam (modGroup exitedDemo 0 0 fun g => { g with retired := true }) 0 (fun t => { t with life := life }) with runs := [] }
def pairedDemo : State :=
  let t := getTeam (retiredDemo .resident) 0
  { retiredDemo .resident with teams := [{ t with side := .lead 1 }, { t with side := .trail 0, core := 32 }] }
theorem witness_GroupAndTeamEnds :
    (let gr := getGroup exitedDemo 0 0
     gr.retired = false ∧ (∀ th ∈ gr.threads, th.life = .exited) ∧ (∀ c < 32, (getCore exitedDemo 0).borrowed 0 c = false) ∧
     gr.ldc = 0 ∧ gr.stc = 0 ∧ gr.cpc = 0 ∧ gr.tlc = 0 ∧ (∀ n ∈ gr.d, n = 0) ∧ (∀ r ∈ exitedDemo.runs, r.team = 0 → r.grp ≠ 0) ∧
     (getTeam exitedDemo 0).life = .resident ∧ (getTeam exitedDemo 0).halt = none ∧ (getTeam exitedDemo 0).stopped = false) ∧
    (∃ th ∈ (getGroup demo 0 0).threads, th.life ≠ .exited) ∧
    (retireReady (retiredDemo .resident) 0 = true ∧ (getTeam (retiredDemo .resident) 0).side = .single ∧ (getTeam (retiredDemo .resident) 0).life = .resident) ∧
    (retireReady (retiredDemo .stopping) 0 = true ∧ (getTeam (retiredDemo .stopping) 0).life = .stopping) ∧
    ((getTeam pairedDemo 0).side = .lead 1 ∧ (getTeam pairedDemo 1).side = .trail 0 ∧ retireReady pairedDemo 0 = true ∧ il2EndAgrees pairedDemo 0 1 = true) ∧
    retireReady exitedDemo 0 = false := by decide
/-- A team asked to stop, in each case of R378's order; teams that stand still to be discarded and saved. -/
def boundedDemo (restart : Bool) (duration ran : Nat) (began : Option Dword) (save : Nat) : State :=
  setBar { modTeam demo 0 (fun t => { t with runs := BitVec.ofNat 32 ran, started := began }) with
    phcNs := 50000, launches := [{ demoLaunch with desc := { demoDesc with bounded := true }, kernel := { demoKernel with restart := restart, duration := duration } }] }
    (Config.oPart 0 + Config.oSaveSize) (BitVec.ofNat 64 save)
def stillDemo (a : StopAction) : State :=
  { modTeam demo 0 (fun t => { t with life := .stopping, action := a, area := some (0x20000, 0x8000) }) with runs := [] }
theorem witness_PreemptionActions :
    ((getTeam demo 0).partner = none ∧ (getTeam demo 0).side = .single ∧ (getTeam demo 0).life = .resident ∧ (getTeam demo 0).halt = none ∧
      (getTeam demo 0).stopped = false ∧ (getTeam demo 0).stepping = none ∧ (getTeam (stillDemo .drain) 0).life ≠ .resident) ∧
    (teamLaunch demo 0).desc.bounded = false ∧
    (let s := boundedDemo true 1000 0 none 0
     (teamLaunch s 0).desc.bounded = true ∧ (getTeam s 0).runs = 0 ∧ (teamLaunch s 0).kernel.restart = true) ∧
    (let s := boundedDemo false 1000 3 (some 49000) 0
     ¬((getTeam s 0).runs = 0 ∧ (teamLaunch s 0).kernel.restart = true) ∧ drainCost s 0 ≤ 0) ∧
    (let s := boundedDemo true 1000000 3 (some 49999) 0
     ¬(getTeam s 0).runs = 0 ∧ 0 < drainCost s 0 ∧ (teamLaunch s 0).kernel.restart = true ∧ elapsedCost s 0 ≤ saveCost s 0) ∧
    (let s := boundedDemo true 1000000 3 (some 0) 0x100000
     ¬(getTeam s 0).runs = 0 ∧ 0 < drainCost s 0 ∧ saveCost s 0 < elapsedCost s 0 ∧ (carveArea s (getTeam s 0).part (saveBytes s 0 true)).isSome = true) ∧
    discardReady (stillDemo .discard) 0 = true ∧ discardReady (stillDemo .save) 0 = false ∧ saveReady (stillDemo .discard) 0 = false ∧
    (saveReady (stillDemo .save) 0 = true ∧ Memory.wf (stillDemo .save).mem = true ∧ (getTeam (stillDemo .save) 0).area = some (0x20000, 0x8000) ∧
      (getTeam (stillDemo .save) 0).body.stashLines = []) := by decide
theorem witness_PreemptionActions_save : Direct (stillDemo .save) 0x20000 256 ∧
    (∀ g th, th ∈ (getGroup (stillDemo .save) 0 g).threads → th.reports = [] ∧ th.marks = []) :=
  ⟨direct_plain _ _ _ (.inl rfl) rfl (one_team rfl), fun g th h => by
    match g, h with
    | 0, h => exact (by decide : ∀ th ∈ [demoThread 0, demoThread 1], th.reports = [] ∧ th.marks = []) th h
    | n + 1, h => cases h⟩

/-! ### Completions -/

def laneFill (c : Nat) (ws : List Word) : Fill := { who := .lane c, words := ws, poison := none, addr := 0x10100, bytes := 4 }
def flying (k : OpKind) : State := { withThreads demo (fun _ th => th.setN 8 (.pend 0 0)) with ops := [demoOp k], nextId := 1 }
theorem flying_receivers (k : OpKind) : Receivers (flying k) (demoOp k) [laneFill 0 [5], laneFill 1 [6]] :=
  ⟨by decide, fun f h => by
    cases h with
    | head => exact ⟨by decide, rfl, by decide, rfl⟩
    | tail _ h => cases h with
      | head => exact ⟨by decide, rfl, by decide, rfl⟩
      | tail _ h => cases h⟩
theorem witness_ValuesAndStoresComplete :
    (let k := OpKind.load [laneFill 0 [5], laneFill 1 [6]]
     findOp (flying k) 0 = some (demoOp k) ∧ opHeld (flying k) 0 = false ∧ Receivers (flying k) (demoOp k) [laneFill 0 [5], laneFill 1 [6]]) ∧
    (let f := { laneFill 0 [5] with who := .group }
     findOp (flying (.load [f])) 0 = some (demoOp (.load [f])) ∧ opHeld (flying (.load [f])) 0 = false ∧ f.who = .group ∧ f.words ≠ []) ∧
    (∃ f ∈ [laneFill 0 []], f.words = []) ∧
    (let k := OpKind.lane [laneFill 0 [5], laneFill 1 [6]]
     findOp (flying k) 0 = some (demoOp k) ∧ Receivers (flying k) (demoOp k) [laneFill 0 [5], laneFill 1 [6]]) ∧
    (storeReady (flying (.store [])) (demoOp (.store [])) = true ∧ 0 < (flying (.store [])).teams.length ∧ 0 < (getCore (flying (.store [])) 0).groups.length ∧
      ∀ x ∈ (flying (.store [])).window, x.op ≠ 0) :=
  ⟨⟨rfl, by decide, flying_receivers _⟩, ⟨rfl, by decide, rfl, by decide⟩, ⟨_, List.mem_cons_self .., rfl⟩, ⟨rfl, flying_receivers _⟩,
    by decide, by decide, by decide, fun _ h => nomatch h⟩
/-- An operation that a comparator holds. -/
def heldOp (k : OpKind) : State :=
  { flying k with pairs := [{ items := [{ team := 0, grp := 0, thr := 0, pc := 0, kind := .store, lead := ⟨0, [], 0, 0, 0⟩, trail := ⟨0, [], 0, 0, 0⟩, act := .go, op := some 0 }] }] }
theorem witness_ValuesAndStoresComplete_held :
    opHeld (heldOp (.load [laneFill 0 [5]])) 0 = true ∧ findOp (heldOp (.store [])) 0 = some (demoOp (.store [])) ∧ opHeld (heldOp (.store [])) 0 = true := by decide

/-- The tables lead from the root at 0x20000 to a leaf of level 1, 2 MiB; an address without an entry. -/
def tableMem : List Host.Cell :=
  writeBytes (writeBytes (writeBytes (writeBytes [] 0x20000 (natBytes 8 0x21001)) 0x21000 (natBytes 8 0x22001)) 0x22000 (natBytes 8 0x23001))
    0x23000 (natBytes 8 0x20002B)
def demoWalk (id page : Nat) (started stale : Bool) : Walk := { id := id, ctx := 1, page := page, part := 0, by_ := [⟨0, 0, 0⟩], started := started, stale := stale }
def walkDemo (ws : List Walk) : State := { live demo with mem := tableMem, walks := ws }
theorem witness_WalksShootdownsAndMergeLines :
    (let ws := [demoWalk 0 1 true false, demoWalk 1 2 false false]
     ws = [demoWalk 0 1 true false] ++ demoWalk 1 2 false false :: [] ∧ (∀ x ∈ [demoWalk 0 1 true false], x.started = true) ∧ (ws.map (·.id)).Nodup ∧
     ((walkDemo ws).walks.filter (·.started)).length < 64) ∧
    (walkPage { walkDemo [demoWalk 0 1 true false] with walks := (walkDemo [demoWalk 0 1 true false]).walks.filter (·.id != 0) } 1 0 (1 * 4096)).2 =
      .page { ctx := 1, va := 0, bits := 21, pa := 0x200000, sa := false, r := true, w := false, x := true } ∧
    (walkPage { walkDemo [demoWalk 0 512 true false] with walks := (walkDemo [demoWalk 0 512 true false]).walks.filter (·.id != 0) } 1 0 (512 * 4096)).2 =
      .fault 0x07 ∧
    (demoWalk 0 1 true true).stale = true ∧
    (∀ counted, let k := OpKind.shootdown (.context 1) counted
      findOp (flying k) 0 = some (demoOp k) ∧ shootReady (flying k) (demoOp k) (.context 1) counted = true ∧ 0 < (flying k).teams.length ∧
      0 < (getCore (flying k) 0).groups.length) ∧
    ([(0, 0x10100), (1, 0x10080), (0, 0x10200)] : List (Nat × Nat)) = [(0, 0x10100)] ++ (1, 0x10080) :: [(0, 0x10200)] ∧
    (∀ x ∈ ([(0, 0x10100)] : List (Nat × Nat)), x.1 ≠ 1) := by decide +kernel

/-- Copies from scratchpad and memory, waiting, in the middle, at their end and failed. -/
def demoCopy (src dst : CopySpace) (started : Bool) (written : Nat) (failed : Option (Nat × Dword)) (sync : Option Nat) : CopyCmd :=
  { dst := 0x10200, dstSpace := dst, srcs := [0x10100], srcSpace := src, len := 8, sync := sync, shadow := false, scope := .grp, started := started
    pieces := if started then [⟨if dst = .scratch then 0x200 else 0x10200, [1, 2, 3, 4], []⟩] else [], written := written, failed := failed }
theorem witness_CopiesRunToTheirEnd :
    (let c := demoCopy .scratch .global false 0 none none
     nextCopy (flying (.copy c)) 0 = some (demoOp (.copy c), c) ∧ c.regroup = none ∧ c.len % 4 = 0 ∧ c.srcSpace = .scratch ∧
     (getCore (flying (.copy c)) 0).stash = [] ∧ ∀ a ∈ c.srcs, a.toNat + c.len < 2 ^ 32) ∧
    (let c := demoCopy .global .scratch false 0 none none
     nextCopy (flying (.copy c)) 0 = some (demoOp (.copy c), c) ∧ (copySources c).map Prod.fst = [0x10100, 0x10104]) ∧
    nextCopy (flying (.store [])) 0 = none ∧
    (let c := demoCopy .global .scratch true 0 none (some 0x240)
     findOp (flying (.copy c)) 0 = some (demoOp (.copy c)) ∧ c.started = true ∧ c.pieces[c.written]? = some ⟨0x200, [1, 2, 3, 4], []⟩ ∧ c.dstSpace = .scratch ∧
     (0x200 : Dword).toNat + 4 < 2 ^ 32 ∧ ∀ i < 4, (0x200 : Dword).toNat + i < 0x240) ∧
    (let c := demoCopy .scratch .global true 0 none none
     c.pieces[c.written]? = some ⟨0x10200, [1, 2, 3, 4], []⟩ ∧ c.mute = false ∧ c.sync = none ∧ teamIl (flying (.copy c)) 0 ≠ 3 ∧
     Memory.wf (flying (.copy c)).mem = true) ∧
    (let c := demoCopy .scratch .global true 1 none none
     copyEnd (flying (.copy c)) 0 = some (demoOp (.copy c), c) ∧ c.failed = none) ∧
    (let c := demoCopy .scratch .global true 1 (some (0x05, 0x10100)) none
     copyEnd (flying (.copy c)) 0 = some (demoOp (.copy c), c) ∧ c.failed = some (0x05, 0x10100) ∧ (getTeam (flying (.copy c)) 0).halt = none ∧
     present (flying (.copy c)) 0 0 (.lane (demoOp (.copy c)).reporter) = true ∧ (demoOp (.copy c)).reporter < 1024) ∧
    copyEnd (flying (.copy (demoCopy .scratch .global true 0 none none))) 0 = none :=
  ⟨⟨rfl, rfl, rfl, rfl, rfl, fun a h => by cases h with | head => exact (by omega : 0x10100 + 8 < 2 ^ 32) | tail _ h => cases h⟩, ⟨rfl, rfl⟩, rfl,
    ⟨rfl, rfl, rfl, rfl, (by omega : 0x200 + 4 < 2 ^ 32), fun i h => (by omega : 0x200 + i < 0x240)⟩, ⟨rfl, rfl, rfl, by decide, rfl⟩, ⟨rfl, rfl⟩,
    ⟨rfl, rfl, rfl, rfl, by decide⟩, rfl⟩
theorem witness_CopiesRunToTheirEnd_reach :
    (let c := demoCopy .global .scratch false 0 none none
     ∀ a ∈ ([0x10100, 0x10104] : List Dword), EngineReaches (flying (.copy c)) (demoOp (.copy c)) .copySrc false a a.toNat) ∧
    (let c := demoCopy .scratch .global true 0 none none
     ∀ i < 4 / 4, EngineReaches (flying (.copy c)) (demoOp (.copy c)) .copyDst false ((0x10200 : Dword) + BitVec.ofNat 64 (4 * i)) (0x10200 + i)) :=
  have read : ∀ a : Dword, (a = 0x10100 ∨ a = 0x10104) →
      EngineReaches (flying (.copy (demoCopy .global .scratch false 0 none none))) (demoOp (.copy (demoCopy .global .scratch false 0 none none))) .copySrc false a a.toNat := by
    rintro a (rfl | rfl) <;> exact ⟨direct_plain _ _ _ (.inl rfl) rfl (one_team rfl), _, rfl⟩
  ⟨fun a h => read a (by simpa using h), fun i h => by
    obtain rfl : i = 0 := by omega
    exact ⟨direct_plain _ _ _ (.inl rfl) rfl (one_team rfl), _, rfl⟩⟩
/-- A message and a credit in flight between the two teams of channel 3, whose receiver is resident or has ended; a swap. -/
def mailDemo (k : OpKind) (life : TeamLife) : State := { channelDemo life 0 [] with ops := [demoOp k], nextId := 1 }
theorem witness_MessagesCreditsAndSwaps :
    (let k := OpKind.message 3 [1]
     let o := demoOp k
     findOp (mailDemo k .resident) 0 = some o ∧ messageReady (mailDemo k .resident) o = true ∧ channelDecl (mailDemo k .resident) 0 3 = some ⟨3, 2, 0, 1⟩ ∧
     teamByIdx (mailDemo k .resident) 0 1 = some 1 ∧ (getTeam (mailDemo k .resident) 1).life ≠ .done ∧ (getTeam (mailDemo k .resident) 1).life ≠ .failed ∧
     messageReady (mailDemo k .done) o = true ∧ (getTeam (mailDemo k .done) 1).life = .done ∧ 0 < (mailDemo k .done).launches.length ∧
     messageReady (heldOp k) o = false) ∧
    (let k := OpKind.credit 4
     findOp (mailDemo k .resident) 0 = some (demoOp k) ∧ channelDecl (mailDemo k .resident) 0 4 = some ⟨4, 2, 1, 0⟩ ∧ teamByIdx (mailDemo k .resident) 0 1 = some 1) ∧
    (let k := OpKind.publish 0 255
     findOp (flying k) 0 = some (demoOp k) ∧ publishReady (flying k) (demoOp k) = true ∧ (getTeam (flying k) 0).side = .single ∧
     mapWf 0 (flying k).bar = true ∧ publishReady (heldOp k) (demoOp k) = false) := by decide +kernel

/-! ### The command processor, checked pairs and the host -/

/-- A queue that holds one descriptor at 0x41000, whose kernel header is at 0x2000 of context 1, or none; it fails when
`groups` is 0. -/
def submitDemo (groups : Nat) : State :=
  let s := { live demo with watches := [{ q := 0, header := 0x40000, lineHeld := true, line := lineBytes }] }
  { setBar (setBar s (Config.oQueueReg 0) 0x8000000000040000#64) (Config.oQueueReg 0 + 8) 0x1000000000000#64 with
    mem := writeBytes (writeBytes (writeBytes (writeBytes tableMem 0x40000 lineBytes) 0x41000 descBytes) 0x202000 headBytes) 0x202100 [1] }
where
  lineBytes := natBytes 8 0x41000 ++ natBytes 8 4 ++ natBytes 8 1 ++ List.replicate 104 0
  descBytes := natBytes 8 0x2000 ++ natBytes 8 0x1000 ++ natBytes 8 0 ++ natBytes 8 0 ++ natBytes 8 (2 ^ 32) ++ natBytes 8 (64 * 2 ^ 40) ++ List.replicate 80 0
  headBytes := natBytes 4 0x4B374844 ++ natBytes 4 0x10040 ++ natBytes 4 4 ++ natBytes 4 0x100 ++ natBytes 8 0 ++ natBytes 4 (32 * 2 ^ 22 + groups * 2 ^ 16) ++
    List.replicate 16 0 ++ natBytes 4 0x40 ++ List.replicate 16 0
/-- A phase of partition 0, due, of period `p`. -/
def phaseDemo (p : Dword) : State :=
  { setBar (setBar (live demo) (Config.oPart 0 + Config.oPhase 0 + 16) 0x8000000000010000#64) (Config.oPart 0 + Config.oPhase 0 + 8) p with phcNs := 5000 }
/-- The same phase with graph 0 loaded, whose root is node 0 with a descriptor that passes its checks. -/
def firingDemo : State :=
  let s := submitDemo 1
  let s := setBar (setBar s (Config.oQueueReg 0) 0x8800000000040000#64) (Config.oPart 0 + Config.oGraph 0) 0x8000000000010000#64
  let s := setBar (setBar s (Config.oPart 0 + Config.oNode 0) 0x41000#64) (Config.oPart 0 + Config.oPhase 0 + 16) 0x8000000000010000#64
  { setBar s (Config.oPart 0 + Config.oPhase 0 + 8) 1000 with phcNs := 5000 }
theorem witness_LaunchesArriveAndPhasesFire_fired :
    (let s := firingDemo
     let graph := pbar s 0 (Config.oGraph (field (phaseWord s 0 0 2) 0 8))
     let s1 := { fired s 0 0 with traversals := [⟨0, 0, 1, 0, 1, [0], 0, 0, true, 0⟩], nextLaunch := mapSet 0 s.nextLaunch 1 1 }
     phaseDue s 0 0 = true ∧ mapWf 0 s.bar = true ∧ field (phaseWord s 0 0 2) 16 16 = 1 ∧ graph.msb = true ∧ field graph 16 16 = 1 ∧
     ttQueue (fired s 0 0) 1 = some 0 ∧ field graph 0 12 = 0 ∧ field (pbar (fired s 0 0) 0 (Config.oNode 0)) 7 57 * 128 = 0x41000 ∧
     s.traversals = [] ∧ mapGet 0 s.nextLaunch 1 = 0 ∧
     (match (checkDesc s1 0 1 0 (readBytes s.mem 0x41000 128) (BitVec.ofNat 64 (firingTimes (phaseNext s 0 0) 1000 5000).1)).2 with
      | .ok (l, _) => l.desc.trace != 1
      | .error _ => false) = true) := by decide +kernel
theorem witness_LaunchesArriveAndPhasesFire_direct : Direct (fired firingDemo 0 0) 0x41000 128 :=
  direct_plain _ _ _ (.inl (by decide +kernel)) rfl (one_team rfl)
theorem witness_LaunchesArriveAndPhasesFire :
    (let s := submitDemo 1
     ∃ w, findWatch s 0 = some w ∧ arrivalReady s w = true ∧
      (checkDesc s 0 (qCtx s 0) 0 (readBytes s.mem 0x41000 128) s.phcNs).2.toOption.isSome = true) ∧
    (let s := submitDemo 0
     ∃ w, findWatch s 0 = some w ∧ arrivalReady s w = true ∧
      (checkDesc s 0 (qCtx s 0) 0 (readBytes s.mem 0x41000 128) s.phcNs).2.toOption.isSome = false) ∧
    descFieldsOk (List.replicate 128 0) = false ∧ (∀ w, findWatch demo 0 = some w → arrivalReady demo w = false) ∧
    prefetchDue (phaseDemo 1000) 0 0 = true ∧ prefetchDue demo 0 0 = false ∧ phaseDue demo 0 0 = false ∧
    (phaseDue (phaseDemo 1000) 0 0 = true ∧ mapWf 0 (phaseDemo 1000).bar = true ∧
      ttQueue (phaseDemo 1000) (field (phaseWord (phaseDemo 1000) 0 0 2) 16 16) = none ∧ (phaseWord (phaseDemo 0) 0 0 1).toNat = 0 ∧ phaseDue (phaseDemo 0) 0 0 = true) ∧
    (let s := { submitDemo 1 with watches := (submitDemo 1).watches.map fun w => { w with lineHeld := false } }
     ∃ w, findWatch s 0 = some w ∧ mustRead s w = true ∧ { w with line := readBytes s.mem w.header 128 : QueueWatch }.configOk = true ∧
      { w with line := readBytes s.mem w.header 128 : QueueWatch }.pointersOk = true ∧
      { w with line := readBytes s.mem w.header 128 : QueueWatch }.offPortB = true ∧ { w with line := readBytes [] w.header 128 : QueueWatch }.configOk = false) ∧
    (∀ w, findWatch (submitDemo 1) 0 = some w → mustRead (submitDemo 1) w = false) := by decide +kernel
/-- Pair 0 in a mode, with no team on its cores; with the integrity area. -/
def modeDemo (m : PairMode) : State := modPair (live { demo with teams := [], runs := [] }) 0 fun q => { q with mode := m }
def areaDemo : State := setBar (modeDemo .independent) (Config.oPart 0 + Config.oIntegArea) 0x8000000000000000#64
theorem witness_PairModesFollowTheTable :
    (pairHolders areaDemo 0 = [] ∧ (getPair areaDemo 0).mode = .independent ∧ integOk areaDemo (pairPart areaDemo 0) = true ∧
      (ctxEntry areaDemo (field (0x10000 : Dword) 16 16)).isSome = true ∧ ctxPart areaDemo (field (0x10000 : Dword) 16 16) = pairPart areaDemo 0 ∧
      (ctxEntry areaDemo (field (0x20000 : Dword) 16 16)).isSome = false ∧ mapWf 0 areaDemo.bar = true) ∧
    integOk (modeDemo .independent) (pairPart (modeDemo .independent) 0) = false ∧ (getPair (modeDemo .paired) 0).mode ≠ .independent ∧
    (∀ m, (getPair (modeDemo m) 0).mode = m) ∧ pairHolders (modeDemo .paired) 0 = [] ∧
    quiesceDue (modeDemo .quiesce) 0 = true ∧ flushDue (modeDemo .flush) 0 = true ∧ unpairDue (modeDemo .unpair) 0 = true ∧
    quiesceDue (modeDemo .flush) 0 = false ∧ flushDue (modeDemo .align) 0 = false ∧ unpairDue (modeDemo .paired) 0 = false :=
  ⟨by decide, by decide, by decide, fun m => by cases m <;> decide, by decide⟩
/-- The team of an IL3 launch on pair 0, or of an IL2 launch with its partner, whose checkpoint is due at rest. -/
def agreeing : Item :=
  { team := 0, grp := 0, thr := 0, pc := 0x10044, kind := .store, lead := ⟨0x10100, [1], 1, 0, 0⟩, trail := ⟨0x10100, [1], 1, 0, 0⟩, act := .write [(0x10100, 1)], op := none }
def comparing (m : PairMode) (i : Item) : State :=
  { modPair (live demo) 0 (fun q => { q with mode := m, items := [i], prov := [(0, (0x10100, 7))] }) with cycle := 30 }
def il3Demo (m : PairMode) (request : Bool) : State :=
  modPair { live demo with runs := [], launches := [{ demoLaunch with kernel := { demoKernel with il := 3 } }]
                           teams := [{ demoTeam with snap := some demoCore }] } 0
    fun q => { q with mode := m, request := request, prov := [(0, (0x10100, 7))] }
def il2Demo (request : Bool) : State :=
  { live demo with runs := [], launches := [{ demoLaunch with kernel := { demoKernel with il := 2 } }]
                   teams := [{ demoTeam with side := .lead 1, ckptRequest := request }, { demoTeam with side := .trail 0, core := 32 }] }
theorem witness_ComparedItemsCheckpointsAndRollbacks :
    (let s := comparing .paired agreeing
     compareDue s 0 = true ∧ (getPair s 0).items = agreeing :: [] ∧ (∀ j ∈ ([] : List Item), agreeing.clk.toNat ≤ j.clk.toNat ∧ sameItem agreeing j = false) ∧
     agreeing.lead = agreeing.trail ∧ ∀ c ∈ [((0x10100, 1) : Host.Cell)], c.1 < 2 ^ 52) ∧
    compareDue (comparing .paired { agreeing with act := .go }) 0 = true ∧
    (let i := { agreeing with trail := { agreeing.trail with data := [2] } }
     compareDue (comparing .paired i) 0 = true ∧ i.lead ≠ i.trail ∧ (getPair (comparing .paired i) 0).mismatches < 2 ∧ (getPair (comparing .paired i) 0).mode = .paired) ∧
    compareDue demo 0 = false ∧
    ((getPair (il3Demo .rollback false) 0).mode = .rollback ∧ (getPair (il3Demo .rollback false) 0).unpairHeld = false ∧
      memberTeams (il3Demo .rollback false) 0 = [0] ∧ (getTeam (il3Demo .rollback false) 0).snap = some demoCore ∧ (getTeam (il3Demo .rollback false) 0).snapDet = [] ∧ (getPair demo 0).mode ≠ .rollback) ∧
    (let s := il3Demo .paired true
     Memory.wf s.mem = true ∧ checkpointDue s 0 = true ∧ memberTeams s 0 = [0] ∧ (getTeam s 0).halt = none ∧ backsOf (getTeam s 0) = []) ∧
    checkpointDue (il3Demo .paired false) 0 = false ∧
    (let s := il2Demo true
     (getTeam s 0).side = .lead 1 ∧ il2CheckpointDue s 0 = true ∧ (∀ g < (getCore s 0).groups.length, countsAgree s 0 1 g = true) ∧
     il2EndAgrees s 0 1 = true ∧ backsOf (getTeam s 0) = []) ∧
    il2CheckpointDue (il2Demo false) 0 = false := by decide
theorem witness_ComparedItemsCheckpointsAndRollbacks_due :
    takeDue (il3Demo .paired true) 0 = il3Demo .paired true ∧ takeDue (il2Demo true) 0 = il2Demo true ∧ takeDue (il2Demo true) 1 = il2Demo true ∧
    ∀ x ∈ (getPair (il3Demo .paired true) 0).prov, Direct (il3Demo .paired true) x.2.1 1 :=
  ⟨by decide +kernel, by decide +kernel, by decide +kernel, fun x h => by
    cases h with
    | head => exact direct_plain _ _ _ (.inl rfl) rfl (one_team rfl)
    | tail _ h => cases h⟩
/-- A device whose queue 0 waits to be registered, or is registered; with a format range to disable. -/
def regDemo (word : Dword) : State := setBar (setBar (live demo) (Config.oQueueReg 0) word) (Config.oQueueReg 0 + 8) 0x1000000000000#64
theorem witness_TableWritesOfTheHost :
    (mapWf 0 (live demo).bar = true ∧ barLive (live demo) (Config.oContext 0) = true ∧ (live demo).ctxWrites = [] ∧
      ctxTaken (live demo) 1 (field (0x8000000000000001 : Dword) 0 16) = true ∧ ctxTaken (live demo) 1 (field (0x8000000000000002 : Dword) 0 16) = false ∧
      (bar (live demo) (Config.oContext 0)).msb = true ∧ (bar (live demo) (Config.oContext 1)).msb = false) ∧
    (let s := { live demo with ctxWrites := [(0, 0, 0)], launches := [] }
     ctxBusy s (field (bar s (Config.oContext 0)) 0 16) = false ∧ clearDue s 0 = true ∧ clearDue demo 0 = false) ∧
    (aperEnabled (live demo) 0 = false ∧ aperEnabled (setBar (live demo) (Config.oFormat 0) 0x8000000000000000#64) 0 = true) ∧
    (let r := { formatFields (live demo) 0 with base := 0xF000000000000, width := 4, limit := 0xF000000001000 }
     formatValid r = true ∧ formatConflict (live demo) 0 r = false ∧ formatValid { r with width := 0 } = false) ∧
    (let s := { live demo with fmtDisables := [0] }
     disableDue s 0 = true ∧ s.aper = [] ∧ disableDue demo 0 = false) ∧
    ((bar (live demo) (Config.oPart 0 + Config.oPublication 0)).msb = false ∧
      (bar (setBar (live demo) (Config.oPart 0 + Config.oPublication 0) 0x8C00000000000000#64) (Config.oPart 0 + Config.oPublication 0)).msb = true ∧
      (12 ≤ field (0x8C00000000000000 : Dword) 56 6) ∧ swapPending (live demo) 0 0 = false ∧
      swapPending (flying (.publish 0 0)) 0 0 = true) ∧
    partitioned (live demo) = false ∧ (live demo).partWrites = [] ∧
    (qValid (regDemo 0x8000000000040000#64) 0 = true ∧ qValid (regDemo 0) 0 = false ∧ queueErr (regDemo 0) 0 0x8000000000040000#64 = 0 ∧
      queueErr (regDemo 0) 0 0x8000000000040001#64 ≠ 0) ∧
    (∀ off, barLive { live demo with bar := [] } off = false) :=
  ⟨by decide, by decide, by decide, by decide, by decide, by decide, by decide, by decide, by decide, fun _ => rfl⟩

/-- A cancel of `item` in context `ctx`, with launches and traversals. -/
def cancelDemo (ctx : Nat) (item : Dword) (s : State) : State :=
  setBar (setBar { s with nextLaunch := [(1, 1)] } (Config.oPart 0 + Config.oCancelCtl) (BitVec.ofNat 64 (ctx * 2 ^ 48))) (Config.oPart 0 + Config.oCancelArg) item
def unplacedDemo : State := live { demo with teams := [], runs := [], launches := [{ demoLaunch with nextTeam := 0 }] }
def graphDemo (running : Bool) : State :=
  cancelDemo 1 5 { live { demo with launches := [], teams := [], runs := [] } with
    traversals := [{ part := 0, phase := 0, ctx := 1, node := 0, launches := 1, nums := [5], done := 0, failed := 0, running := running }] }
def cancelReady (s : State) : Bool := mapWf 0 s.bar && barLive s (Config.oPart 0) && !cancelBusy s 0 && cancelCtxOk s 0
theorem witness_CancelsAndTheirResults :
    (cancelBusy (setBar (live demo) (Config.oPart 0 + Config.oCancelCtl) 2) 0 = true ∧ barLive demo (Config.oPart 0) = false) ∧
    (cancelBusy (live demo) 0 = false ∧ cancelCtxOk (live demo) 0 = false) ∧
    (let s := cancelDemo 1 1 (live demo)
     cancelReady s = true ∧ mapGet 0 s.nextLaunch (cancelCtx s 0) ≤ cancelItem s 0) ∧
    (let s := cancelDemo 1 0 { live demo with launches := [{ demoLaunch with status := .cancelled }] }
     cancelReady s = true ∧ cancelItem s 0 < mapGet 0 s.nextLaunch (cancelCtx s 0) ∧ findLaunch s (cancelCtx s 0) (cancelItem s 0) = some 0 ∧
     (s.launches.getD 0 Launch.empty).status ≠ .active) ∧
    (let s := cancelDemo 1 7 (live demo)
     (∀ v < s.traversals.length, cancelItem s 0 ∉ (getTraversal s v).nums) ∧ field (phaseWord s 0 (cancelItem s 0 % 64) 2) 16 16 ≠ cancelCtx s 0) ∧
    (let s := cancelDemo 1 0 (live demo)
     let l := s.launches.getD 0 Launch.empty
     cancelReady s = true ∧ cancelItem s 0 < mapGet 0 s.nextLaunch (cancelCtx s 0) ∧ findLaunch s (cancelCtx s 0) (cancelItem s 0) = some 0 ∧
     l.status = .active ∧ l.done + l.failed < l.desc.teams ∧ l.again = [] ∧ l.nextTeam = l.desc.teams ∧ l.kernel.il < 2 ∧
     ∀ t ∈ s.teams, t.launch = 0 → t.life = .resident ∧ t.side = .single ∧ t.halt = none) ∧
    (let s := cancelDemo 1 0 unplacedDemo
     let l := s.launches.getD 0 Launch.empty
     cancelReady s = true ∧ cancelItem s 0 < mapGet 0 s.nextLaunch (cancelCtx s 0) ∧ findLaunch s (cancelCtx s 0) (cancelItem s 0) = some 0 ∧
     l.status = .active ∧ l.done + l.failed < l.desc.teams ∧ l.again = [] ∧ l.nextTeam = 0 ∧ l.done = 0 ∧ l.failed = 0 ∧
     (∀ t ∈ s.teams, t.launch ≠ 0) ∧ l.traversal = none) := by decide +kernel
theorem witness_CancelsAndTheirResults_graphs :
    (∀ b, cancelReady (graphDemo b) = true ∧ (∀ u < (graphDemo b).traversals.length, u ≠ 0 → cancelItem (graphDemo b) 0 ∉ (getTraversal (graphDemo b) u).nums) ∧
      cancelItem (graphDemo b) 0 ∈ (getTraversal (graphDemo b) 0).nums ∧ (getTraversal (graphDemo b) 0).part = 0 ∧
      (getTraversal (graphDemo b) 0).ctx = cancelCtx (graphDemo b) 0 ∧ (getTraversal (graphDemo b) 0).running = b ∧ nodeLaunches (graphDemo b) [0] = []) ∧
    (let s := cancelDemo 1 0 (phaseDemo 1000)
     cancelReady s = true ∧ field (phaseWord s 0 0 2) 16 16 = cancelCtx s 0 ∧ runningTraversals s (fun t => t.part == 0 && t.phase == 0) = [] ∧ phaseOn s 0 0 = true ∧
     phaseOn (setBar s (Config.oPart 0 + Config.oPhase 0 + 16) 0x10000) 0 0 = false) ∧
    (let s := cancelDemo 1 0 { live demo with launches := [] }
     cancelReady s = true ∧ (∀ i < s.launches.length, (s.launches.getD i Launch.empty).ctx = cancelCtx s 0 → launchOver s i = true) ∧
     runningTraversals s (fun t => t.part == 0 && t.ctx == cancelCtx s 0) = []) ∧
    (cancelDue { live demo with cancels := [⟨0, []⟩] } 0 = true ∧ cancelDue demo 0 = false) := by
  decide +kernel

/-- A team that the debugger names: one that runs, or that it has stopped, or that takes its step. -/
def namedDemo (stopped : Bool) (stepping : Option (List Nat)) : State :=
  let s := live { modTeam demo 0 (fun t => { t with stopped := stopped, stepping := stepping }) with runs := if stopped || stepping.isSome then [] else [demoRun] }
  setBar (setBar s (Config.oPart 0 + Config.oDbgCtl) 0x1000000000000#64) (Config.oPart 0 + Config.oDumpCtl) 0x1000000000000#64
def dumpDemo (h : Option Bool) (dumps : List DumpJob) : State :=
  { modTeam (namedDemo false none) 0 (fun t => { t with halt := h.map fun b =>
      { cause := 0, epc := 0, addr := 0, info := 0, thread := 0, items := [], resumable := b } }) with dumps := dumps }
theorem witness_DebuggerStopsAndDumps :
    (debugTeam (live { demo with teams := [] }) 0 = none ∧ barLive demo (Config.oPart 0) = false) ∧
    (∀ b, barLive (namedDemo b none) (Config.oPart 0) = true ∧ debugTeam (namedDemo b none) 0 = some 0 ∧ (getTeam (namedDemo b none) 0).side = .single ∧
      (getTeam (namedDemo b none) 0).stopped = b) ∧
    (let s := withThreads (namedDemo false (some [])) fun _ th => { th with stepArmed := true }
     (getTeam s 0).side = .single ∧ (getTeam s 0).life = .resident ∧ singleStepDue s 0 = true ∧ singleStepDue demo 0 = false) ∧
    (dumpBusy (dumpDemo none [⟨0, 0, false⟩]) 0 = true ∧ dumpBusy (dumpDemo none []) 0 = false ∧
      namedTeam (dumpDemo none []) 0 (field (pbar (dumpDemo none []) 0 Config.oDumpCtl) 48 16) 0 0 = some 0 ∧
      namedTeam (dumpDemo none []) 0 2 0 0 = none ∧ dumpRoom (dumpDemo none []) 0 = false ∧
      dumpRoom (setBar (dumpDemo none []) (Config.oPart 0 + Config.oDumpSize) 0x1000) 0 = true) ∧
    (∀ b, let s := dumpDemo (some b) [⟨0, 0, true⟩]
      s.dumps = [⟨0, 0, true⟩] ∧ s.dumpWaits = [] ∧ 0 < s.teams.length ∧ (getTeam s 0).side = .single ∧ ((getTeam s 0).halt.map (·.resumable)) = some b) ∧
    (∀ j ∈ demo.dumps, j.part ≠ 0 ∨ j.writing = false) := by decide

/-- A device of four partitions, the demo's team in partition 0. -/
def partsDemo : State := setBar (live { demo with runs := [] }) Config.oPartCtl 0x8000000000000000#64
/-- Partition 0 with tracing and sampling on, or with its ring full. -/
def ringDemo (wr : Dword) : State :=
  setBar (setBar { live demo with runs := [demoRun] } (Config.oPart 0 + Config.oTrCtl) 0x800400000000000C#64) (Config.oPart 0 + Config.oTrWr) wr
theorem witness_PartitionsAndTraceRecords :
    partitioned (live demo) = false ∧
    (let s := partsDemo
     mapWf 0 s.bar = true ∧ partitioned s = true ∧ barLive s Config.oPartCtl = true ∧ s.resets = [] ∧ partQueues s 0 = [] ∧
     runningTraversals s (fun t => t.part == 0) = [] ∧ partLaunches s 0 = [0] ∧
     (let l := s.launches.getD 0 Launch.empty
      l.again = [] ∧ l.nextTeam = l.desc.teams ∧ l.kernel.il < 2) ∧
     (∀ p < 8, pairPart s p = 0 → (getPair s p).mode = .independent) ∧ (∀ t ∈ s.teams, t.life = .resident ∧ t.side = .single ∧ t.halt = none)) ∧
    (let s := { partsDemo with resets := [⟨0⟩], teams := [] }
     resetDue s 0 = true ∧ s.aper = [] ∧ resetDue demo 0 = false) ∧
    ((∃ e < 64, (bar (live demo) (Config.oContext e)).msb = true) ∧ (∀ e < 64, (bar demo (Config.oContext e)).msb = false)) ∧
    (pbar demo 0 Config.oTrCtl).msb = false ∧
    (let s := ringDemo 0
     (pbar s 0 Config.oTrCtl).msb = true ∧ pbar s 0 Config.oTrLost = 0 ∧ (pbar s 0 Config.oTrCtl).getLsbD 50 = true ∧
     (pbar s 0 Config.oTrWr).toNat - (pbar s 0 Config.oTrRd).toNat + 48 ≤ 2 ^ field (pbar s 0 Config.oTrCtl) 0 5 ∧ s.runs = [demoRun] ∧
     (getTeam s 0).part = 0 ∧ (getGroup s 0 0).port = 0 ∧ demoRun.sig ≠ .stall ∧ demoRun.helpers = none) ∧
    (let s := ringDemo 0x1000
     2 ^ field (pbar s 0 Config.oTrCtl) 0 5 < (pbar s 0 Config.oTrWr).toNat - (pbar s 0 Config.oTrRd).toNat + 48) ∧
    (∀ r ∈ partsDemo.runs, (getTeam partsDemo r.team).part ≠ 0 ∨ (getGroup partsDemo r.team r.grp).port ≠ 0) := by decide
theorem witness_TimeRegistersAndLatches :
    (mapWf 0 (live demo).bar = true ∧ barLive (live demo) Config.oTimeCtl = true ∧ barLive (live demo) Config.oPhcAdj = true ∧
      (∀ d < 4, (pbar (live demo) d Config.oTrCtl).msb = false)) ∧
    (let s := setBar { live demo with ptm := some (7, 0) } Config.oTimeCtl 1
     s.ptm = some (7, 0) ∧ field (bar s Config.oTimeCtl) 0 2 = 1 ∧ (0 : BitVec 16) = s.steps) ∧
    (demo.ptm = none ∧ field (bar demo Config.oTimeCtl) 0 2 ≠ 1 ∧ field (bar demo Config.oTimeCtl) 0 2 ≠ 2) ∧
    field (bar (setBar demo Config.oTimeCtl 2) Config.oTimeCtl) 0 2 = 2 := by decide
/-- The device at a boot stage, with one image in slot 1 or none that runs. -/
def bootDemo (stage : Dword) (slot0 slot1 : Option Image) : State :=
  { setBar State.reset Config.oBootStatus stage with nor := { State.reset.nor with slot0 := slot0, slot1 := slot1 } }
theorem witness_PowerBootAndLifeRecords :
    (mapWf 0 State.reset.bar = true ∧ barLive (live demo) Config.oPowerLimit = true ∧ (∀ d < 4, (pbar demo d Config.oTrCtl).msb = false) ∧
      (1000000 : BitVec 32) ≠ 0 ∧ (1000000 : BitVec 32).toNat < demo.khz.toNat) ∧
    (mapWf 0 demo.hist = true ∧ (∀ x ∈ demo.hist, x.2 < 0xFFFFFFFF) ∧ mapGet 0 demo.hist 65 < 0xFFFFFFFF) ∧
    (let image : Image := ⟨true, true, true, 0, []⟩
     let bad : Image := ⟨false, true, true, 0, []⟩
     stage (bootDemo 1 none none) = 1 ∧
     (stage (bootDemo 2 (some image) none) = 2 ∧ (bootDemo 2 (some image) none).nor.fusedMin ≤ image.version) ∧
     (bootDemo 2 (some bad) (some image)).nor.slot0 = some bad ∧ stage (bootDemo 3 none none) = 3 ∧ stage (bootDemo 4 none none) = 4 ∧
     stage (bootDemo 5 none none) = 5 ∧ stage (bootDemo 0x80 none none) = 0x80) := by decide
theorem witness_RegisterWritesOfTheHost :
    (Config.oPart 0 + 1) % 8 ≠ 0 ∧ barLive (live demo) (Config.oPart 3 + 0xC0) = true ∧ barLive (live demo) (Config.oPart 0) = true ∧
    ((0xC0, [(12, 40)]) : Nat × List (Nat × Nat)) ∈ [((0x40, [(0, 64)]) : Nat × List (Nat × Nat)), (0xC0, [(12, 40)])] ∧
    Config.oErrors % 8 = 0 ∧ barLive (live demo) Config.oErrors = true ∧ mapWf 0 (live demo).bar = true := by decide
/-- A page to move from 0x200000 to 0x300000, mapped by the entry at 0x23000. -/
def moveDemo : State := { live demo with mem := tableMem, migrations := [⟨0x200000, 0x300000, 0x1000, 0x23000⟩] }
theorem witness_AccessesOfOtherAgents :
    (let s := live demo
     portsUp s = true ∧ portsUp demo = false ∧ reachable s (.write 0x3000000000 [1]) (fun t => t == .device || t == .host || t == .portB) = false ∧
     reachable s (.write 0x1000000000000 [1]) (· == .device) = false ∧
     reachable s (.write 0x10100 [1]) (fun t => t == .device || t == .host) = true ∧ reachable s (.write 0x10100 [1]) (· == .device) = true ∧
     reachable s (.atomic .add64 0x10100 1) (· == .device) = true ∧ reachable s (.atomic .add 0x10100 1) (fun t => t == .device || t == .host) = true ∧
     poisonIn s.poison 0x10100 8 = none ∧ pageMoving s 0x10100 = false ∧ targetOf s 0x10100 = .device ∧ Memory.wf s.mem = true ∧ targetOf s 0x10100 ≠ .host ∧ targetOf s 0x1000000000000 = .host) ∧
    ((getTeam demo 0).life = .resident ∧ (getTeam demo 0).side = .single ∧ (getTeam demo 0).halt = none ∧ teamIl demo 0 < 2 ∧ demo.dumps = []) ∧
    (let m : Migration := ⟨0x200000, 0x300000, 0x1000, 0x23000⟩
     moveDemo.migrations = [m] ∧ moveDemo.queued = [] ∧ pageMoving moveDemo 0x200010 = true ∧
     reachable moveDemo (.read 0x200010 4) (· == .device) = true ∧ migrationDue moveDemo m = true ∧ m.size = 0x1000 ∧ m.src % 4096 = 0 ∧ m.dst % 4096 = 0 ∧ m.pte % 8 = 0 ∧
     Memory.wf moveDemo.mem = true ∧ m.pte / 4096 * 4096 ≠ m.src ∧ m.pte / 4096 * 4096 ≠ m.dst) ∧
    demo.migrations = [] ∧ barLive (live demo) Config.oPortbStatus = true := by decide
theorem witness_AccessesOfOtherAgents_direct :
    (∀ n, Direct (live demo) 0x10100 n) ∧ Direct moveDemo 0x23000 8 ∧ Direct moveDemo 0x200000 4096 ∧ Direct moveDemo 0x300000 4096 :=
  ⟨fun _ => direct_plain _ _ _ (.inl rfl) rfl (one_team rfl), direct_plain _ _ _ (.inl rfl) rfl (one_team rfl), direct_plain _ _ _ (.inl rfl) rfl (one_team rfl),
    direct_plain _ _ _ (.inl rfl) rfl (one_team rfl)⟩
/-- The mailbox with a command of `len` bytes for page `page`, at a boot stage. -/
def mbxDemo (boot : Dword) (len page : Nat) : State :=
  setBar (setBar { demo with nor := { demo.nor with slot0 := some ⟨true, true, true, 3, []⟩ } } Config.oBootStatus boot) Config.oMbxCtl (BitVec.ofNat 64 (len * 2 ^ 32 + page * 2 ^ 16))
theorem witness_MailboxCommands :
    (mbxBusy (setBar demo Config.oMbxStatus 0x8000000000000000#64) = true ∧ barLive demo Config.oMbxCtl = false ∧ demo.mbx.result < 2 ^ 16 ∧ mbxBusy demo = false) ∧
    (let s := mbxDemo 0x80 32 0
     mbxBusy s = false ∧ barLive s Config.oMbxCtl = true ∧ mbxPage s = 0 ∧ mbxLen s = 32 ∧ stage s ≠ 0x0F ∧ barLive s Config.oMbxStatus = true) ∧
    (mbxLen (mbxDemo 0x80 0 0) = 0 ∧ mbxPage (mbxDemo 0x80 0 0) = 0 ∧ mbxLen (mbxDemo 0x80 4 0) = 4 ∧ (mbxDemo 0x80 0 0).nor.slot0.isSome = true) ∧
    (let s := mbxDemo 0x0F 3840 0
     barLive s Config.oMbxCtl = true ∧ stage s = 0x0F ∧ mbxPage s = s.mbx.imagePages ∧ mbxLen s = 3840) ∧
    (stage (mbxDemo 0x0F 100 1) = 0x0F ∧ mbxPage (mbxDemo 0x0F 100 1) ≠ (mbxDemo 0x0F 100 1).mbx.imagePages ∧ mbxLen (mbxDemo 0x0F 100 0) < 3840) := by decide

/-- The run stands at the word of a clause that its instruction cache holds. -/
def wordDemo (c : Option Clause) : State :=
  { demo with mem := writeBytes (writeBytes [] 0x10040 (natBytes 4 0x10000000)) 0x10044 (natBytes 4 0x4022000A), icache := [(0, 0x10000)], runs := [{ demoRun with clause := c }] }
theorem ready_code (c : Option Clause) : ReadyToIssue (wordDemo c) { demoRun with clause := c } [] where
  alive := rfl
  quiet := ⟨rfl, (fun _ h => nomatch h), by
    show demo.cycle.toNat % 4 ≠ 3
    decide⟩
  head := ⟨rfl, fun h => nomatch h⟩
  alone := fun _ h => nomatch h
  word := ⟨rfl, by
    show (teamLaunch demo 0).isHeader 0x10044 = false
    decide, (by omega : 0 < 24), by
    show kLong demo demoRun = false
    decide⟩
  plain := ⟨rfl, both rfl rfl⟩
/-- A load in a clause of class 1, with no atomic of its group in flight. -/
theorem witness_StepRunsTheDecodedInstruction_memory :
    memoryWord ⟨0x10040, 0x14000000#32, []⟩ = true ∧ hdClass 0x14000000#32 = 1 ∧
    ∀ o : MuLd, mustWait (wordDemo none) demoRun (.ldwMu o) = false := ⟨by decide, by decide, fun _ => rfl⟩
theorem witness_StepRunsTheDecodedInstruction_held :
    let c : Clause := ⟨0x10040, 0x10000000#32, [0x4022000A#32]⟩
    ReadyToIssue (wordDemo (some c)) { demoRun with clause := some c } [] ∧ c.at_ demoRun.pc = some (0x4022000A#32, true, true) ∧
    opClass (opOf 0x4022000A#32) = hdClass c.header ∧ decode 0x4022000A#32 = .ok (.addi ⟨.n 4, .n 0, 10⟩) :=
  ⟨ready_code _, by decide, by decide, rfl⟩
theorem cached_code (va : Dword) (w : Word) (h : (va, w) ∈ [((0x10040, 0x10000000#32) : Dword × Word), (0x10044, 0x4022000A#32)]) :
    CachedWord (wordDemo none) demoRun va w := by
  simp only [List.mem_cons, List.not_mem_nil, or_false, Prod.mk.injEq] at h
  rcases h with ⟨rfl, rfl⟩ | ⟨rfl, rfl⟩ <;>
    exact ⟨_, _, rfl, direct_plain _ _ _ (.inl rfl) rfl (one_team rfl), by decide, by decide +kernel⟩
theorem witness_StepRunsTheDecodedInstruction_fetched :
    ReadyToIssue (wordDemo none) demoRun [] ∧ demoRun.clause = none ∧ (teamLaunch (wordDemo none) 0).codeStart ≤ demoRun.pc.toNat ∧
    demoRun.pc.toNat < (teamLaunch (wordDemo none) 0).codeEnd ∧ (teamLaunch (wordDemo none) 0).headerBelow demoRun.pc = some 0x10040 ∧
    CachedWord (wordDemo none) demoRun 0x10040 0x10000000#32 ∧ hdBad (teamLaunch (wordDemo none) 0) 0x10040 0x10000000#32 = false ∧
    [0x4022000A#32].length = hdCount 0x10000000#32 ∧ CachedWord (wordDemo none) demoRun 0x10044 0x4022000A#32 ∧
    demoRun.pc = 0x10040 + BitVec.ofNat 64 (4 + 4 * 0) :=
  ⟨ready_code none, rfl, by decide, by decide, by decide, cached_code _ _ (by decide), by decide, by decide, cached_code _ _ (by decide), by decide⟩
theorem witness_StepRunsTheDecodedInstruction_events :
    (demo.dead = false ∧ { demo with due := [.cancelDone 0] }.due = .cancelDone 0 :: []) ∧ { demo with dead := true }.dead = true ∧
    (encodeNat (.addi ⟨.n 4, .n 0, 10⟩)).isSome = true ∧ encodeNat (.cancelDone 0) = none := by decide
theorem witness_StepKeepsMemoryCanonical :
    Memory.wf (State.reset.withFetchWord 32 0x4022000A).mem = true ∧ (∃ t, step (State.reset.withFetchWord 32 0x4022000A) = .next t) :=
  ⟨by decide, _, rfl⟩
theorem witness_StepKeepsRegistersAndOperations : MapsKept State.reset ∧ (∃ t, step State.reset = .next t) :=
  ⟨⟨by decide, by decide, by decide, (fun _ h => nomatch h), (fun _ h => nomatch h)⟩, _, rfl⟩

/-- k3:k2 at an address that is not canonical, misaligned, whose walk has failed, or whose page nothing holds. -/
def addrDemo (k2 k3 : Word) : State :=
  modGroup { accessDemo with outcomes := [⟨(envOf accessDemo demoRun).req, 1, 0x50, .fault 0x07⟩] } 0 0 fun g => { g with k := listSet (listSet g.k 2 (.word k2)) 3 (.word k3) }
theorem witness_LoadAddressesAreChecked :
    (∀ k2 k3, Issuing (addrDemo k2 k3) demoRun [] ∧ ∀ c ∈ demoRun.lanes, DstHere (laneTh (addrDemo k2 k3) demoRun c) (.n 28)) ∧
    (muAddr (addrDemo 0 0x01000000#32) demoRun 1 6 true 0 4 0 = .ok 0x100000000000000#64 ∧ 2 ^ 56 ≤ (0x100000000000000 : Dword).toNat) ∧
    (muAddr (addrDemo 0x10101 0) demoRun 1 6 true 0 4 0 = .ok 0x10101#64 ∧ (0x10101 : Dword).toNat % 4 ≠ 0) ∧
    (muAddr (addrDemo 0x50000 0) demoRun 1 6 true 0 4 0 = .ok 0x50000#64 ∧
      outcomeFor (addrDemo 0x50000 0) (envOf (addrDemo 0x50000 0) demoRun) 0x50 = some (.fault 0x07)) ∧
    (let s := addrDemo 0x60000 0
     muAddr s demoRun 1 6 true 0 4 0 = .ok 0x60000#64 ∧ outcomeFor s (envOf s demoRun) 0x60 = none ∧
     tlbFind s.tlb (envOf s demoRun).req.core (envOf s demoRun).ctx 0x60000 = none ∧ tlbFind s.ctlb ((envOf s demoRun).req.core / 4) (envOf s demoRun).ctx 0x60000 = none) :=
  ⟨fun _ _ => ⟨⟨rfl, by decide, both rfl rfl⟩, both rfl rfl⟩, ⟨rfl, by decide⟩, ⟨rfl, by decide⟩, ⟨rfl, by decide⟩, rfl, by decide, by decide, by decide⟩

/-! ### Further clauses -/

/-- BFPQ with block exponent 0 and x infinite: the clause for x decides. -/
theorem witness_PackedConvertAndNarrowResults_infinite :
    (⟨.n 30, .n 0, .n 1, .w8, true⟩ : NarFmt).o = true ∧ bfpqExp 8 0x7F800000 0 = (0xFF000000#32, 0) := by decide
/-- A lane in a crew body, and a k destination outside one. -/
theorem witness_CrossThreadResults_refused :
    (bodyDemo.runs = bodyRun :: [] ∧ bodyRun.lanes.find? (fun c => (laneTh bodyDemo bodyRun c).inBody) = some 0) ∧
    (demo.runs = demoRun :: [] ∧ (∀ c ∈ demoRun.lanes, (laneTh demo demoRun c).inBody = false) ∧ (Dst.k 3).isK = true) :=
  ⟨⟨rfl, by decide⟩, rfl, both rfl rfl, rfl⟩
/-- Old words of a destination, and data from n, from q and, in a crew body, from h. -/
theorem witness_LoadsAndStores_operands :
    (∀ c ∈ demoRun.lanes, OldReads (laneTh accessDemo demoRun c) (.n 28) 4) ∧ (∀ c ∈ demoRun.lanes, DataHere (laneTh accessDemo demoRun c) (.n 4)) ∧
    (∀ c ∈ bodyRun.lanes, DataHere (laneTh bodyDemo bodyRun c) (.k 15)) :=
  ⟨both (by intro j h; match j, h with | 0, _ => rfl | 1, _ => rfl | 2, _ => rfl | 3, _ => rfl)
      (by intro j h; match j, h with | 0, _ => rfl | 1, _ => rfl | 2, _ => rfl | 3, _ => rfl),
    both (fun _ h => nomatch h) (fun _ h => nomatch h), first fun i h => by cases h; exact ⟨rfl, by decide⟩⟩
/-- Queue 3 does not exist, and queue 2 has room for one handle. -/
theorem witness_NamedQueueSteps_refused :
    GroupRun queueDemo demoRun [] ∧ (getCore queueDemo 0).queues.length ≤ (3 : Fin 16).val ∧
    ((2 : Fin 16).val < (getCore queueDemo 0).queues.length ∧ ((getCore queueDemo 0).queue 2).initial.getD 0 0 < demoRun.lanes.length ∧
      ((getCore queueDemo 0).queue 2).depth < demoRun.lanes.length) :=
  ⟨queue_group_run, by decide, by decide⟩
theorem witness_MatrixOperations_more_faults :
    GroupRun matrixDemo demoRun [] ∧ (0 : Fin 4).val < (teamLaunch matrixDemo 0).kernel.accum ∧
    (∀ c ∈ demoRun.lanes, (laneTh matrixDemo demoRun c).reports = []) ∧
    (let g := getGroup matrixDemo 0 0
     recKindOk .mmas false (recOf g 1) = false ∧ recKindOk .mmat false (recOf g 1) = false ∧
     recKindOk .mma false (recOf g 1) = true ∧ recKindOk .mma true (recOf g 1) = true ∧
     recFieldOk false {} (listSet (recOf g 1) 0 0xFFFFFFFF#32) = false) := by
  refine ⟨matrix_group_run, by decide, both rfl rfl, by decide⟩
theorem apart_one (u : Nat) (e : TlbEntry) : Apart [(u, e)] := by
  intro x hx y hy _ _
  rw [List.mem_singleton] at hx hy
  rw [hx, hy]
theorem witness_WalksAndCopies_apart :
    Apart demo.tlb ∧ (flying (.copy (demoCopy .scratch .global true 0 none none))).tlb = demo.tlb ∧
    (demoCopy .scratch .global true 0 none none).mute = false ∧ (0x10200 : Dword).toNat + 4 < 2 ^ 32 ∧
    0 < (flying (.copy (demoCopy .scratch .global true 0 none none))).teams.length ∧
    (getCore (flying (.copy (demoCopy .global .scratch true 0 none none))) 0).stash = [] :=
  ⟨apart_one _ _, rfl, rfl, (by omega : 0x10200 + 4 < 2 ^ 32), by decide, rfl⟩
/-- A walk whose translation faults for every access, in the hole of the address map, and one that is of use. -/
theorem witness_WalksShootdownsAndMergeLines_useless :
    (∃ pa, frameFaults (live demo) 0 pa = true) ∧ frameFaults (live demo) 0 0x200000 = false :=
  ⟨⟨0x4000000000, by decide⟩, by decide⟩
theorem witness_CommandProcessor_quiet :
    (submitDemo 1).queued = [] ∧ (submitDemo 1).migrations = [] ∧ firingDemo.queued = [] := by decide
theorem witness_MessagesCreditsAndSwaps_sides :
    (getTeam (mailDemo (.message 3 [1]) .done) 0).side = .single ∧ (getTeam (il2Demo false) 1).side = .trail 0 := by decide
theorem witness_ComparedItems_order :
    agreeing.rel = false ∧ agreeing.logs = false ∧ (∀ j ∈ ([] : List Item), agreeing.clk.toNat ≤ j.clk.toNat ∧ sameItem agreeing j = false) ∧
    (let s := il3Demo .paired true
     (∀ i ∈ memberTeams s 0, (getTeam s i).halt = none ∧ backLines (getTeam s i) = [] ∧ (getTeam s i).detOut = []) ∧
     (∀ th ∈ (getGroup s 0 0).threads, th.reports = [] ∧ th.marks = [])) := by decide
theorem witness_TableWritesOfTheHost_disabled :
    ∀ tm ∈ (live demo).teams, ∀ x ∈ tm.body.stashLines, ¬((formatFields (live demo) 0).base ≤ x.pa ∧ x.pa < (formatFields (live demo) 0).limit) := by decide
/-- A team that runs; one in the halt of a requested dump; one in a debugger's stop, with room for a dump. -/
theorem witness_DebuggerStopsAndDumps_halts :
    (getTeam (namedDemo false none) 0).halt = none ∧
    (let h : Halt := { cause := 0, epc := 0, addr := 0, info := 0, thread := 0, items := [], resumable := true, asked := true }
     let s := modTeam (namedDemo false none) 0 fun t => { t with halt := some h }
     debugTeam s 0 = some 0 ∧ (getTeam s 0).stopped = false ∧ (getTeam s 0).halt = some h ∧ h.asked = true ∧ h.thenStop = false) ∧
    (let s := setBar (dumpDemo (some true) []) (Config.oPart 0 + Config.oDumpSize) 0x1000
     dumpRoom s 0 = true ∧ dumpBusy s 0 = false ∧ (getTeam s 0).halt ≠ none ∧
     namedTeam s 0 (field (pbar s 0 Config.oDumpCtl) 48 16) 0 0 = some 0) ∧
    (∀ r ∈ (namedDemo false none).runs, r.rep = none) ∧ (∀ k ∈ (getCore (namedDemo false none) 0).crews, k.helpers = []) := by decide
theorem witness_PartitionsAndTraceRecords_window : { partsDemo with resets := [⟨0⟩], teams := [] }.window = [] := rfl
/-- A temperature in 1/16 °C above and one below every grade's threshold; firmware images that run, or one that does not. -/
theorem witness_PowerBootAndLifeRecords_more :
    ((16 * 125 - 160 : Int) ≤ (2000 : BitVec 16).toInt ∧ (400 : BitVec 16).toInt < 16 * 105 - 160) ∧
    (let image : Image := ⟨true, true, true, 0, []⟩
     let s := bootDemo 3 none none
     stage { s with nor := { s.nor with cp := some image, svcGroup := some image } } = 3 ∧ s.nor.fusedMin ≤ image.version ∧
     imageRuns s.nor.fusedMin (some { image with keys := false }) = false) ∧
    (let image : Image := ⟨true, true, true, 3, []⟩
     let s := mbxDemo 0x80 0 0
     imageRuns s.nor.fusedMin (some image) = true ∧ s.nor.slot0 = some image ∧
     (runningImages { s with nor := { s.nor with cp := some image, svcGroup := some { image with version := 5 } } }).map (·.version) = [3, 3, 5]) := by decide
/-- No group of the team waits, so no enqueue step comes first. -/
theorem witness_StepRunsTheDecodedInstruction_enqueues :
    enqueuesFirst (wordDemo none) demoRun (.enq (.n 0) 0) = wordDemo none ∧ (∀ g, (getGroup (wordDemo none) 0 g).wait = none) ∧
    ∀ c ∈ (getCore (wordDemo none) 0).crews, c.wait = none :=
  ⟨rfl, fun g => by
    match g with
    | 0 => rfl
    | n + 1 => rfl, fun _ h => nomatch h⟩

end Sys2Proof.Tests
end

section
/-! SUPPORT. The bits of a register after a field is replaced (R5), and what a host write of a register of the management
window does (R425, R427). -/

namespace Sys2Proof

open Machine Claims

/-! ## Bits of a replaced field (R5) -/

/-- The number that `setField` computes is the old one outside the field and the new value inside it. -/
theorem testBit_replace (v lo n x i : Nat) :
    (v - v / 2 ^ lo % 2 ^ n * 2 ^ lo + x % 2 ^ n * 2 ^ lo).testBit i = if lo ≤ i ∧ i < lo + n then x.testBit (i - lo) else v.testBit i := by
  have hv : v - v / 2 ^ lo % 2 ^ n * 2 ^ lo + x % 2 ^ n * 2 ^ lo = 2 ^ lo * (2 ^ n * (v / 2 ^ lo / 2 ^ n) + x % 2 ^ n) + v % 2 ^ lo := by
    have hlow := Nat.div_add_mod v (2 ^ lo)
    have hmid := congrArg (2 ^ lo * ·) (Nat.div_add_mod (v / 2 ^ lo) (2 ^ n))
    simp only [Nat.mul_add] at hmid ⊢
    rw [Nat.mul_comm _ (2 ^ lo), Nat.mul_comm _ (2 ^ lo)]
    omega
  rw [hv, Nat.testBit_two_pow_mul_add _ (Nat.mod_lt _ (Nat.two_pow_pos lo))]
  by_cases hlo : i < lo
  · rw [if_pos hlo, if_neg (by omega), Nat.testBit_mod_two_pow, decide_eq_true hlo, Bool.true_and]
  · rw [if_neg hlo, Nat.testBit_two_pow_mul_add _ (Nat.mod_lt _ (Nat.two_pow_pos n))]
    by_cases hn : i - lo < n
    · rw [if_pos hn, if_pos (by omega), Nat.testBit_mod_two_pow, decide_eq_true hn, Bool.true_and]
    · rw [if_neg hn, if_neg (by omega), Nat.testBit_div_two_pow, Nat.testBit_div_two_pow]
      congr 1
      omega

theorem getLsbD_setField (v : Dword) (lo n x : Nat) {i : Nat} (hi : i < 64) :
    (setField v lo n x).getLsbD i = if lo ≤ i ∧ i < lo + n then x.testBit (i - lo) else v.getLsbD i := by
  rw [setField, BitVec.getLsbD_ofNat, decide_eq_true hi, Bool.true_and, testBit_replace, BitVec.testBit_toNat]

theorem testBit_field {w : Nat} (v : BitVec w) (lo n j : Nat) : (field v lo n).testBit j = (decide (j < n) && v.getLsbD (lo + j)) := by
  rw [field, Nat.testBit_mod_two_pow, Nat.testBit_div_two_pow, BitVec.testBit_toNat, Nat.add_comm]

/-- `takeFields` takes a bit from the new value when a field covers it, and keeps the old one elsewhere. -/
theorem getLsbD_takeFields (old v : Dword) (fs : List (Nat × Nat)) {i : Nat} (hi : i < 64) :
    (takeFields old v fs).getLsbD i =
      if fs.any (fun f => decide (f.1 ≤ i) && decide (i < f.1 + f.2)) then v.getLsbD i else old.getLsbD i := by
  induction fs generalizing old with
  | nil => rfl
  | cons f fs ih =>
    have hstep : takeFields old v (f :: fs) = takeFields (setField old f.1 f.2 (field v f.1 f.2)) v fs := rfl
    rw [hstep, ih, getLsbD_setField _ _ _ _ hi, testBit_field]
    by_cases hf : f.1 ≤ i ∧ i < f.1 + f.2
    · have hin : i - f.1 < f.2 := by omega
      simp [hf, hin]
    · simp only [if_neg hf, List.any_cons, ← Bool.decide_and, decide_eq_false hf, Bool.false_or]

theorem onlyBits_takeFields (v : Dword) (fs : List (Nat × Nat)) : OnlyBits v fs (takeFields 0 v fs) := by
  intro i hi
  rw [getLsbD_takeFields _ _ _ hi]
  split
  · next hin => rw [hin, Bool.and_true]
  · next hout => simp [hout]

/-- A register without reserved bits holds the whole value. -/
theorem onlyBits_whole (v : Dword) : OnlyBits v [(0, 64)] v := by
  intro i hi
  simp [hi]

/-! ## The control of the fault ring, and bounded limits (R408, R427) -/

/-- The ring size that FR_CTL keeps of a value: 12 to 30, or else 12. -/
def ringSize (v : Dword) : Nat := if 12 ≤ field v 0 5 ∧ field v 0 5 ≤ 30 then field v 0 5 else 12

theorem ringSize_lt (v : Dword) : ringSize v < 2 ^ 5 := by
  unfold ringSize
  split <;> omega

theorem frCtl_eq (v : Dword) : frCtl v = setField (takeFields 0 v [(63, 1)]) 0 5 (ringSize v) := by
  simp only [frCtl, ringSize, Bool.and_eq_true, decide_eq_true_eq]

theorem getLsbD_frCtl (v : Dword) {i : Nat} (hi : i < 64) :
    (frCtl v).getLsbD i = if i < 5 then (ringSize v).testBit i else decide (i = 63) && v.getLsbD i := by
  rw [frCtl_eq, getLsbD_setField _ _ _ _ hi, onlyBits_takeFields v [(63, 1)] i hi]
  by_cases h5 : i < 5
  · simp [h5]
  · have h63 : (63 ≤ i ∧ i < 64) ↔ i = 63 := by omega
    simp [h5, ← Bool.decide_and, h63, Bool.and_comm]

theorem frCtl_msb (v : Dword) : (frCtl v).msb = v.msb := by
  rw [BitVec.msb_eq_getLsbD_last, BitVec.msb_eq_getLsbD_last, getLsbD_frCtl v (by decide)]
  simp

theorem frCtl_size (v : Dword) : (frCtl v).toNat % 2 ^ 63 = ringSize v := by
  refine Nat.eq_of_testBit_eq fun i => ?_
  rw [Nat.testBit_mod_two_pow, BitVec.testBit_toNat]
  by_cases h5 : i < 5
  · simp [getLsbD_frCtl v (show i < 64 by omega), h5, show i < 63 by omega]
  · have hbig : ringSize v < 2 ^ i := Nat.lt_of_lt_of_le (ringSize_lt v) (Nat.pow_le_pow_right (by decide) (by omega))
    rw [Nat.testBit_lt_two_pow hbig]
    by_cases h63 : i < 63
    · simp [getLsbD_frCtl v (show i < 64 by omega), h5, show i ≠ 63 by omega]
    · simp [h63]

/-- A bounded value fits its register. -/
theorem toNat_clampNat {lo hi : Nat} (n : Nat) (hlo : lo < 2 ^ 64) (hhi : hi < 2 ^ 64) :
    (BitVec.ofNat 64 (clampNat lo hi n)).toNat = max lo (min hi n) := by
  rw [BitVec.toNat_ofNat, clampNat]
  exact Nat.mod_eq_of_lt (Nat.max_lt.2 ⟨hlo, Nat.lt_of_le_of_lt (Nat.min_le_left _ _) hhi⟩)

/-! ## A host write by offset (R5, R425, R433) -/

theorem onBar_live {s : State} {off : Nat} (h : barLive s off = true) (f : State → State) : onBar s off f = f s := if_pos h
theorem onBar_dead {s : State} {off : Nat} (h : barLive s off = false) (f : State → State) : onBar s off f = s := by
  rw [onBar, h, if_neg Bool.false_ne_true]

/-- Above the device block every offset answers when one does. -/
theorem barLive_above {s : State} {a b : Nat} (ha : 0x100000 ≤ a) (hb : 0x100000 ≤ b) (h : barLive s a = true) : barLive s b = true := by
  simpa [barLive, Nat.not_lt.2 ha, Nat.not_lt.2 hb] using h

theorem exec_registerWrite_live {s : State} {w : RegWrite} (hl : barLive s w.off = true) (ha : w.off % 8 = 0) :
    exec (.registerWrite w) s = .next (writeRegister s w.off (mergedValue s w)) := by
  rw [show exec (.registerWrite w) s = execRegisterWrite w s from rfl, execRegisterWrite, onBar_live hl, if_pos ha]

/-- R5: a write that is not naturally aligned, or that nothing answers, has no effect. -/
theorem exec_registerWrite_ignored {s : State} {w : RegWrite} (h : w.off % 8 ≠ 0 ∨ barLive s w.off = false) :
    exec (.registerWrite w) s = .next s := by
  rw [show exec (.registerWrite w) s = execRegisterWrite w s from rfl, execRegisterWrite]
  cases hl : barLive s w.off with
  | false => rw [onBar_dead hl]
  | true => rw [onBar_live hl, if_neg (h.resolve_right (by simp [hl]))]

/-- An event that sets a register of the window writes that register alone. -/
theorem writesBar_of_setBar {i : Instr} {s : State} {off : Nat} {v : Dword} {good : Dword → Prop} (hw : mapWf 0 s.bar = true)
    (he : exec i s = .next (setBar s off v)) (hg : good v) : WritesBar i s off good :=
  ⟨setBar s off v, he, setBar_else s off v, by rwa [bar_setBar hw], fun _ hne => bar_setBar_other s v hne.symm⟩

/-- The halves of a register are merged as numbers; no counter area lies in the partition blocks. -/
theorem mergedValue_low {s : State} {off : Nat} (v : Dword) (ho : 0x205000 ≤ off) :
    mergedValue s ⟨off, v, some false⟩ = BitVec.ofNat 64 ((bar s off).toNat / 2 ^ 32 * 2 ^ 32 + v.toNat % 2 ^ 32) := by
  have hheld : heldValue s off = bar s off := if_neg (by simp [Nat.not_lt.2 ho])
  simp only [mergedValue, hheld, setField, field]
  congr 1
  omega
theorem mergedValue_high {s : State} {off : Nat} (v : Dword) (ho : 0x205000 ≤ off) :
    mergedValue s ⟨off, v, some true⟩ = BitVec.ofNat 64 (v.toNat % 2 ^ 32 * 2 ^ 32 + (bar s off).toNat % 2 ^ 32) := by
  have hheld : heldValue s off = bar s off := if_neg (by simp [Nat.not_lt.2 ho])
  simp only [mergedValue, hheld, setField, field]
  congr 1
  have := (bar s off).isLt
  omega

/-! ## A partition block (R427) -/

theorem oPart_ge (d : Nat) : 0x1000000 ≤ Config.oPart d := Nat.le_add_right ..
theorem oPart_add_ge (d o : Nat) : 0x1000000 ≤ Config.oPart d + o := Nat.le_add_right_of_le (oPart_ge d)

theorem oPart_mod (d o : Nat) : (Config.oPart d + o) % 8 = o % 8 := by
  rw [Config.oPart]
  omega

/-- An offset in a partition's block goes to that block. -/
theorem writeRegister_part (s : State) {d o : Nat} (hd : d < 4) (ho : o < 0x400000) (v : Dword) :
    writeRegister s (Config.oPart d + o) v = writePart s d o v := by
  have hlow := oPart_add_ge d o
  have hhigh : Config.oPart d + o < 0x2000000 := by rw [Config.oPart]; omega
  have hd' : (Config.oPart d + o - 0x1000000) / 0x400000 = d := by rw [Config.oPart]; omega
  have ho' : (Config.oPart d + o - 0x1000000) % 0x400000 = o := by rw [Config.oPart]; omega
  rw [writeRegister, if_neg (by omega), if_neg (by omega), if_pos hhigh, hd', ho']

/-- A live, aligned write in partition d's block whose register is set: it writes that register alone. -/
theorem writesBar_part {s : State} {d o : Nat} {v x : Dword} {h : Option Bool} {good : Dword → Prop} (hd : d < 4) (ho : o < 0x400000)
    (ha : o % 8 = 0) (hw : mapWf 0 s.bar = true) (hl : barLive s (Config.oPart d + o) = true)
    (he : writePart s d o (mergedValue s ⟨Config.oPart d + o, v, h⟩) = setPbar s d o x) (hg : good x) :
    WritesBar (.registerWrite ⟨Config.oPart d + o, v, h⟩) s (Config.oPart d + o) good := by
  refine writesBar_of_setBar hw ?_ hg
  rw [exec_registerWrite_live hl (by rw [oPart_mod, ha]), writeRegister_part s hd ho, he]
  rfl

/-- The plain registers of a partition block: offset, and fields (low bit, width). -/
abbrev plainRegisters : List (Nat × List (Nat × Nat)) :=
  [(0x40, [(0, 64)]), (0x58, [(0, 64)]), (0x80, [(0, 64)]), (0x98, [(0, 64)]), (0xC0, [(12, 40)]), (0xC8, [(12, 40)]),
    (0xE0, [(12, 40)]), (0xE8, [(0, 32)]), (0xF8, [(8, 56)]), (0x108, [(8, 56)]), (0x188, [(0, 32)])]

theorem plainRegisters_offset : ∀ x ∈ plainRegisters, x.1 < 0x400000 ∧ x.1 % 8 = 0 := by decide

/-- A plain register takes the bits of its fields, and zero elsewhere. -/
theorem writePart_plain (s : State) (d : Nat) (v : Dword) {x : Nat × List (Nat × Nat)} (hx : x ∈ plainRegisters) :
    ∃ y, writePart s d x.1 v = setPbar s d x.1 y ∧ OnlyBits v x.2 y := by
  have whole {o : Nat} (h : writePart s d o v = setPbar s d o v) : ∃ y, writePart s d o v = setPbar s d o y ∧ OnlyBits v [(0, 64)] y :=
    ⟨v, h, onlyBits_whole v⟩
  have fields {o : Nat} {fs : List (Nat × Nat)} (h : writePart s d o v = setPbar s d o (takeFields 0 v fs)) :
      ∃ y, writePart s d o v = setPbar s d o y ∧ OnlyBits v fs y := ⟨_, h, onlyBits_takeFields v fs⟩
  simp only [List.mem_cons, List.not_mem_nil, or_false] at hx
  rcases hx with rfl | rfl | rfl | rfl | rfl | rfl | rfl | rfl | rfl | rfl | rfl
  · exact whole rfl
  · exact whole rfl
  · exact whole rfl
  · exact whole rfl
  all_goals exact fields rfl

/-- A plain register takes its fields of the merged value, whether the write is whole or of a half. -/
theorem plainWrite_onlyBits {s : State} {d : Nat} {x : Nat × List (Nat × Nat)} (hd : d < 4) (hw : mapWf 0 s.bar = true)
    (hl : barLive s (Config.oPart d + x.1) = true) (hx : x ∈ plainRegisters) (v : Dword) (h : Option Bool) :
    WritesBar (.registerWrite ⟨Config.oPart d + x.1, v, h⟩) s (Config.oPart d + x.1)
      (OnlyBits (mergedValue s ⟨Config.oPart d + x.1, v, h⟩) x.2) := by
  obtain ⟨ho, ha⟩ := plainRegisters_offset x hx
  obtain ⟨y, he, hy⟩ := writePart_plain s d (mergedValue s ⟨Config.oPart d + x.1, v, h⟩) hx
  exact writesBar_part hd ho ha hw hl he hy

/-! The registers of a partition block whose value is bounded (R408, R427). -/

theorem writePart_holdLimit (s : State) (d : Nat) (v : Dword) : writePart s d Config.oHoldLimit v =
    setPbar s d Config.oHoldLimit (BitVec.ofNat 64 (clampNat 64 1024 (field v 0 11))) := rfl
theorem writePart_wdLimit (s : State) (d : Nat) (v : Dword) : writePart s d Config.oWdLimit v =
    setPbar s d Config.oWdLimit (BitVec.ofNat 64 (clampNat 100 1000000 (field v 0 20))) := rfl
theorem writePart_frCtl (s : State) (d : Nat) (v : Dword) : writePart s d Config.oFrCtl v = setPbar s d Config.oFrCtl (frCtl v) := rfl

/-- Offsets at which a partition block has no register. -/
abbrev reservedOffsets : List Nat :=
  [0x18, 0x28, 0x30, 0x38, 0x68, 0xA8, 0xB0, 0xD0, 0x110, 0x190, 0x2800, 0x3000, 0x6000, 0x10800, 0x30000]

theorem reservedOffsets_lt : ∀ o ∈ reservedOffsets, o < 0x400000 := by decide

theorem writePart_reserved (s : State) (d : Nat) (v : Dword) {o : Nat} (ho : o ∈ reservedOffsets) : writePart s d o v = s := by
  simp only [List.mem_cons, List.not_mem_nil, or_false] at ho
  rcases ho with rfl | rfl | rfl | rfl | rfl | rfl | rfl | rfl | rfl | rfl | rfl | rfl | rfl | rfl | rfl
  all_goals rfl

theorem exec_registerWrite_reserved (s : State) {d o : Nat} (v : Dword) (h : Option Bool) (hd : d < 4) (ha : o % 8 = 0)
    (ho : o ∈ reservedOffsets) : exec (.registerWrite ⟨Config.oPart d + o, v, h⟩) s = .next s := by
  cases hl : barLive s (Config.oPart d + o) with
  | false => exact exec_registerWrite_ignored (.inr hl)
  | true =>
    rw [exec_registerWrite_live hl (by rw [oPart_mod, ha]), writeRegister_part s hd (reservedOffsets_lt o ho), writePart_reserved s d _ ho]

/-! ## The error counters (R201) -/

/-- An offset in the area of the error counters. -/
def InErrors (off : Nat) : Prop := Config.oErrors ≤ off ∧ off < Config.oErrors + 0x4000

theorem clearError_eq (s : State) {off : Nat} (h : InErrors off) : clearError s off = setBar s off 0 := by
  obtain ⟨hlow, hhigh⟩ := h
  simp [clearError, hlow, hhigh]

/-- A write of a whole register in that area clears its counter. -/
theorem writeRegister_errors (s : State) {off : Nat} (v : Dword) (h : InErrors off) : writeRegister s off v = setBar s off 0 := by
  obtain ⟨hlow, hhigh⟩ : 0x200000 ≤ off ∧ off < 0x204000 := h
  have hoff : ∀ b ≤ 0x200000, ¬ off < b := fun b hb => by omega
  rw [writeRegister, if_neg (hoff _ (by decide)), if_pos (by omega), writeTables]
  iterate 10 rw [if_neg (hoff _ (by decide))]
  rw [if_pos hhigh, clearError_eq s ⟨hlow, hhigh⟩]

end Sys2Proof
end

section
/-! PROOF of the statement about host writes of registers. -/

namespace Sys2Proof

open Machine Claims

/-- Settles O51, by the case of the write: ignored, a plain register of a partition block, a bounded one, a reserved offset,
or a counter. -/
theorem registerWritesOfTheHost : Obligations.RegisterWritesOfTheHost := by
  unfold Obligations.RegisterWritesOfTheHost
  refine ⟨fun s w => exec_registerWrite_ignored, ?plain, ?bounded, ?reserved, ?errors, ?satMem⟩
  case plain =>
    intro s d v x hd hw hl hx
    have hoff : 0x205000 ≤ Config.oPart d + x.1 := Nat.le_trans (by decide) (oPart_add_ge d x.1)
    have hwrite := plainWrite_onlyBits hd hw hl hx v
    exact ⟨hwrite none, mergedValue_low v hoff ▸ hwrite (some false), mergedValue_high v hoff ▸ hwrite (some true)⟩
  case bounded =>
    intro s d v hd hw hl
    have hlive (o : Nat) : barLive s (Config.oPart d + o) = true :=
      barLive_above (Nat.le_trans (by decide) (oPart_ge d)) (Nat.le_trans (by decide) (oPart_add_ge d o)) hl
    refine ⟨?holdLimit, ?wdLimit, ?frCtl⟩
    case holdLimit => exact writesBar_part hd (by decide) rfl hw (hlive _) (writePart_holdLimit s d v) (toNat_clampNat _ (by decide) (by decide))
    case wdLimit => exact writesBar_part hd (by decide) rfl hw (hlive _) (writePart_wdLimit s d v) (toNat_clampNat _ (by decide) (by decide))
    case frCtl => exact writesBar_part hd (by decide) rfl hw (hlive _) (writePart_frCtl s d v) ⟨frCtl_msb v, frCtl_size v⟩
  case reserved => exact fun s d o v h hd ha ho => exec_registerWrite_reserved s v h hd ha ho
  case errors =>
    intro s off ha hlow hhigh hw hl
    refine ⟨writesBar_of_setBar hw ?_ rfl, fun v => writesBar_of_setBar hw ?_ rfl⟩
    · exact congrArg Host.Outcome.next ((onBar_live hl _).trans (clearError_eq s ⟨hlow, hhigh⟩))
    · rw [exec_registerWrite_live hl ha, writeRegister_errors s _ ⟨hlow, hhigh⟩]
  case satMem => exact fun s d hl => congrArg Host.Outcome.next (onBar_live hl _)

end Sys2Proof
end

section
/-! SUPPORT. Fields of registers after a field is replaced (R5), sparse maps after a filter or a count (R204), and the clock
without tracing (R15, R417). -/

namespace Sys2Proof

open Machine Claims

/-! ## Fields of a register (R5) -/

theorem field_setField_same (v : Dword) {lo n : Nat} (x : Nat) (h : lo + n ≤ 64) : field (setField v lo n x) lo n = x % 2 ^ n := by
  refine Nat.eq_of_testBit_eq fun j => ?_
  rw [testBit_field, Nat.testBit_mod_two_pow]
  by_cases hj : j < n
  · rw [getLsbD_setField _ _ _ _ (by omega), if_pos (by omega), Nat.add_sub_cancel_left]
  · simp [hj]

theorem field_setField_other (v : Dword) {lo n lo' n' : Nat} (x : Nat) (hd : lo' + n' ≤ lo ∨ lo + n ≤ lo') (h : lo' + n' ≤ 64) :
    field (setField v lo n x) lo' n' = field v lo' n' := by
  refine Nat.eq_of_testBit_eq fun j => ?_
  rw [testBit_field, testBit_field]
  by_cases hj : j < n'
  · rw [getLsbD_setField _ _ _ _ (by omega), if_neg (by omega)]
  · simp [hj]

/-! ## Sparse maps -/

/-- A key that a filter drops reads as the default. -/
theorem mapGet_filter_dropped {α : Type} {d : α} {p : Nat × α → Bool} {k : Nat} (hp : ∀ v, p (k, v) = false) (m : List (Nat × α)) :
    mapGet d (m.filter p) k = d := by
  induction m with
  | nil => rfl
  | cons c r ih =>
    obtain ⟨k', v⟩ := c
    by_cases hk : p (k', v) = true
    · have hne : k' ≠ k := fun e => by simp [e, hp] at hk
      rw [List.filter_cons_of_pos hk, mapGet, if_neg hne, ih]
    · rw [List.filter_cons_of_neg hk, ih]

/-- Every value read lies below a bound that the default and all listed values lie below. -/
theorem mapGet_lt {m : List (Nat × Nat)} {d n : Nat} (hd : d < n) (h : ∀ x ∈ m, x.2 < n) (k : Nat) : mapGet d m k < n := by
  induction m with
  | nil => exact hd
  | cons c r ih =>
    obtain ⟨hc, hr⟩ := List.forall_mem_cons.1 h
    rw [mapGet]
    split
    · exact hc
    · exact ih hr

/-! ## Bins of the life histograms (R204) -/

theorem countHist_hist_wf {s : State} (h : mapWf 0 s.hist = true) (bin : Nat) : mapWf 0 (countHist s bin).hist = true := mapSet_wf h ..

/-- A bin that is not full counts one more; the others keep their counts. -/
theorem mapGet_countHist {s : State} {bin : Nat} (h : mapWf 0 s.hist = true) (hlt : mapGet 0 s.hist bin < 0xFFFFFFFF) (b : Nat) :
    mapGet 0 (countHist s bin).hist b = mapGet 0 s.hist b + if b = bin then 1 else 0 := by
  rw [show (countHist s bin).hist = mapSet 0 s.hist bin (min (mapGet 0 s.hist bin + 1) 0xFFFFFFFF) from rfl]
  by_cases hb : b = bin
  · rw [hb, mapGet_mapSet_same h, if_pos rfl, Nat.min_eq_left hlt]
  · rw [mapGet_mapSet_other _ _ (Ne.symm hb), if_neg hb, Nat.add_zero]

/-- The 18 bins of 10 °C, the temperature first held within their range. -/
theorem tempBin_eq (temp : BitVec 16) : tempBin temp = (max (-640) (min 2239 temp.toInt) + 640).toNat / 160 := by
  rw [tempBin, clampNat]
  omega

theorem tempBin_le (temp : BitVec 16) : tempBin temp ≤ 17 := Nat.max_le.2 ⟨by decide, Nat.min_le_left ..⟩

/-- The state in which a sample has counted in its temperature and power bins. -/
def sampled (s : State) (temp : BitVec 16) (watts : Nat) : State :=
  countHist (countHist (showTemp s temp) (tempBin temp)) (32 + powerBin watts)

theorem sampleLife_second {s : State} (h : s.lifeSeconds + 1 < 3600) (temp : BitVec 16) (watts : Nat) :
    sampleLife s temp watts = { sampled s temp watts with lifeSeconds := s.lifeSeconds + 1 } := if_pos h
theorem sampleLife_hour {s : State} (h : ¬ s.lifeSeconds + 1 < 3600) (temp : BitVec 16) (watts : Nat) :
    sampleLife s temp watts = countHist { sampled s temp watts with lifeSeconds := 0 } 64 := if_neg h

theorem sampled_hist_wf {s : State} (hw : mapWf 0 s.hist = true) (temp : BitVec 16) (watts : Nat) :
    mapWf 0 (sampled s temp watts).hist = true :=
  countHist_hist_wf (countHist_hist_wf (s := showTemp s temp) hw _) _

theorem mapGet_sampled {s : State} (temp : BitVec 16) (watts : Nat) (hw : mapWf 0 s.hist = true)
    (hlt : ∀ b, mapGet 0 s.hist b < 0xFFFFFFFF) (b : Nat) : mapGet 0 (sampled s temp watts).hist b =
      mapGet 0 s.hist b + (if b = tempBin temp then 1 else 0) + if b = 32 + powerBin watts then 1 else 0 := by
  have htemp := mapGet_countHist (s := showTemp s temp) hw (hlt (tempBin temp))
  have hpower : mapGet 0 (countHist (showTemp s temp) (tempBin temp)).hist (32 + powerBin watts) < 0xFFFFFFFF := by
    have hle := tempBin_le temp
    rw [htemp, if_neg (by omega)]
    exact hlt _
  rw [sampled, mapGet_countHist (countHist_hist_wf (s := showTemp s temp) hw _) hpower, htemp]
  rfl

/-- R204: a sample counts in its temperature and power bins, and the 3,600th second also as a powered hour. -/
theorem mapGet_sampleLife {s : State} (temp : BitVec 16) (watts : Nat) (hw : mapWf 0 s.hist = true)
    (hlt : ∀ b, mapGet 0 s.hist b < 0xFFFFFFFF) (b : Nat) :
    mapGet 0 (sampleLife s temp watts).hist b = mapGet 0 s.hist b + (if b = tempBin temp then 1 else 0) +
      (if b = 32 + powerBin watts then 1 else 0) + if b = 64 ∧ 3600 ≤ s.lifeSeconds + 1 then 1 else 0 := by
  have hsampled := mapGet_sampled temp watts hw hlt
  by_cases hhour : s.lifeSeconds + 1 < 3600
  · rw [sampleLife_second hhour, if_neg (show ¬ (b = 64 ∧ 3600 ≤ s.lifeSeconds + 1) by omega)]
    exact hsampled b
  · have hroom : mapGet 0 (sampled s temp watts).hist 64 < 0xFFFFFFFF := by
      have htemp := tempBin_le temp
      have hpower : powerBin watts ≤ 15 := Nat.min_le_left ..
      rw [hsampled, if_neg (by omega), if_neg (by omega)]
      exact hlt 64
    have hcount := mapGet_countHist (s := { sampled s temp watts with lifeSeconds := 0 }) (sampled_hist_wf hw temp watts) hroom b
    rw [sampleLife_hour hhour, hcount, ← hsampled]
    simp only [Nat.not_lt.1 hhour, and_true]

theorem sampleLife_lifeSeconds (s : State) (temp : BitVec 16) (watts : Nat) :
    (sampleLife s temp watts).lifeSeconds = if 3600 ≤ s.lifeSeconds + 1 then 0 else s.lifeSeconds + 1 := by
  by_cases hhour : s.lifeSeconds + 1 < 3600
  · rw [sampleLife_second hhour, if_neg (by omega)]
  · rw [sampleLife_hour hhour, if_pos (by omega)]
    rfl

theorem sampleLife_frame (s : State) (temp : BitVec 16) (watts : Nat) :
    (sampleLife s temp watts).mem = s.mem ∧ (sampleLife s temp watts).teams = s.teams := by
  by_cases hhour : s.lifeSeconds + 1 < 3600
  · rw [sampleLife_second hhour]
    exact ⟨rfl, rfl⟩
  · rw [sampleLife_hour hhour]
    exact ⟨rfl, rfl⟩

/-! ## The clock and the temperature shown, with no partition tracing (R15, R417, R440) -/

theorem trace_of_off {s : State} {d : Nat} (h : (pbar s d Config.oTrCtl).msb = false) (kind : Nat) (nm : RecName) (body : List Byte) :
    trace s d kind nm body = s := by
  have hoff : traceOn s d kind = false := by rw [traceOn, h, Bool.false_and]
  rw [trace, hoff]
  rfl

theorem traceSyncAll_of_off {s : State} (h : ∀ d < 4, (pbar s d Config.oTrCtl).msb = false) (reason : Nat) : traceSyncAll s reason = s := by
  have hsync (d : Nat) (hd : d < 4) : traceSync s d reason = s := trace_of_off (h d hd) ..
  simp only [traceSyncAll, List.range, List.range.loop, List.foldl, hsync, Nat.reduceLT]

/-- THERM_STATUS lies outside the partition blocks. -/
theorem pbar_setBar_thermStatus (s : State) (v : Dword) (d off : Nat) :
    pbar (setBar s Config.oThermStatus v) d off = pbar s d off :=
  bar_setBar_other s v (Nat.ne_of_lt (Nat.lt_of_lt_of_le (by decide) (oPart_add_ge d off)))

/-- R15: a step that does not lower the clock is ignored. -/
theorem lowerClock_ignored {s : State} {k : Word} (h : k = 0 ∨ s.khz.toNat ≤ k.toNat) (why : Nat) : lowerClock s k why = s := if_pos h

theorem lowerClock_lowers {s : State} {k : Word} (hoff : ∀ d < 4, (pbar s d Config.oTrCtl).msb = false) (h0 : k ≠ 0)
    (hk : k.toNat < s.khz.toNat) (why : Nat) :
    lowerClock s k why = setBar { s with khz := k } Config.oThermStatus (setField (bar s Config.oThermStatus) why 1 1) := by
  have hlower : ¬ (k = 0 ∨ s.khz.toNat ≤ k.toNat) := not_or.2 ⟨h0, Nat.not_le.2 hk⟩
  rw [lowerClock, if_neg hlower]
  refine traceSyncAll_of_off (fun d hd => ?_) 2
  rw [pbar_setBar_thermStatus]
  exact hoff d hd

/-- A lowered clock shows the bit of its reason, and the rest of THERM_STATUS stays. -/
theorem lowerClock_thermStatus {s : State} {k : Word} (hoff : ∀ d < 4, (pbar s d Config.oTrCtl).msb = false) (hw : mapWf 0 s.bar = true)
    (h0 : k ≠ 0) (hk : k.toNat < s.khz.toNat) (why : Nat) :
    bar (lowerClock s k why) Config.oThermStatus = setField (bar s Config.oThermStatus) why 1 1 := by
  rw [lowerClock_lowers hoff h0 hk]
  exact bar_setBar (s := { s with khz := k }) hw _ _

theorem getLsbD_setField_one (v : Dword) {i : Nat} (hi : i < 64) : (setField v i 1 1).getLsbD i = true := by
  rw [getLsbD_setField _ _ _ _ hi, if_pos ⟨Nat.le_refl i, Nat.lt_succ_self i⟩, Nat.sub_self]
  rfl

theorem showTemp_field {s : State} (hw : mapWf 0 s.bar = true) (temp : BitVec 16) :
    field (bar (showTemp s temp) Config.oThermStatus) 0 16 = temp.toNat := by
  rw [showTemp, bar_setBar hw, field_setField_same _ _ (by decide)]
  exact Nat.mod_eq_of_lt temp.isLt

/-- R440: below the threshold a throttle event shows the temperature alone. -/
theorem execThermalThrottle_cool {temp : BitVec 16} (h : ¬ upperLimit - 160 ≤ temp.toInt) (k : Word) (s : State) :
    execThermalThrottle temp k s = .next (showTemp s temp) := congrArg Host.Outcome.next (if_neg h)
/-- R440: from the threshold on it also lowers the clock. -/
theorem execThermalThrottle_hot {temp : BitVec 16} (h : upperLimit - 160 ≤ temp.toInt) (k : Word) (s : State) :
    execThermalThrottle temp k s = .next (lowerClock (showTemp s temp) k 17) := congrArg Host.Outcome.next (if_pos h)

end Sys2Proof
end

section
/-! SUPPORT. The boot stages (R433, R434): what each stage's end does, by the stage that BOOT_STATUS shows. -/

namespace Sys2Proof

open Machine Claims

/-! ## BOOT_STATUS -/

theorem bar_setStage {s : State} (hw : mapWf 0 s.bar = true) (code : Nat) :
    bar (setStage s code) Config.oBootStatus = setField (bar s Config.oBootStatus) 0 8 code := bar_setBar hw ..

theorem stage_setStage {s : State} (hw : mapWf 0 s.bar = true) {code : Nat} (hc : code < 2 ^ 8) : stage (setStage s code) = code := by
  rw [stage, bar_setStage hw, field_setField_same _ _ (by decide)]
  exact Nat.mod_eq_of_lt hc

theorem stage_reset : stage State.reset = 1 := by decide

/-- The slot last set stands beside the stage set after it. -/
theorem slot_setStage_setSlot {s : State} (hw : mapWf 0 s.bar = true) {slot : Nat} (hs : slot < 2) (code : Nat) :
    field (bar (setStage (setSlot s slot) code) Config.oBootStatus) 8 1 = slot := by
  have hslot : bar (setSlot s slot) Config.oBootStatus = setField (bar s Config.oBootStatus) 8 1 slot := bar_setBar hw ..
  rw [bar_setStage (s := setSlot s slot) (setBar_wf hw ..), field_setField_other _ _ (by decide) (by decide), hslot,
    field_setField_same _ _ (by decide)]
  exact Nat.mod_eq_of_lt hs

/-! ## Images (R434) -/

theorem imageRuns_iff (m : Nat) (i : Option Image) :
    imageRuns m i = true ↔ ∃ x, i = some x ∧ x.signatures = true ∧ x.digest = true ∧ x.keys = true ∧ m ≤ x.version := by
  cases i with
  | none => simp [imageRuns]
  | some x => simp [imageRuns, and_assoc]

/-- Refusals count in the histogram, and change nothing else. -/
theorem refuseImages_else (l : List (Option Image)) (s : State) :
    l.foldl (fun s _ => refuseImage s) s = { s with hist := (l.foldl (fun s _ => refuseImage s) s).hist } := by
  induction l generalizing s with
  | nil => rfl
  | cons _ _ ih => exact ih (refuseImage s)

/-! ## The end of each stage (R433) -/

theorem bootNext_rom {s : State} (h : stage s = 1) : bootNext s = setStage s 2 := by simp only [bootNext, h]

theorem bootNext_slot0 {s : State} (h : stage s = 2) (h0 : imageRuns s.nor.fusedMin s.nor.slot0 = true) :
    bootNext s = setStage (setSlot s 0) 3 := by simp only [bootNext, h, if_pos h0]

theorem bootNext_slot1 {s : State} (h : stage s = 2) (h0 : ¬ imageRuns s.nor.fusedMin s.nor.slot0 = true)
    (h1 : imageRuns s.nor.fusedMin s.nor.slot1 = true) : bootNext s = setStage (setSlot (refuseImage s) 1) 3 := by
  simp only [bootNext, h, if_neg h0]
  exact if_pos h1

theorem bootNext_recovery {s : State} (h : stage s = 2) (h0 : ¬ imageRuns s.nor.fusedMin s.nor.slot0 = true)
    (h1 : ¬ imageRuns s.nor.fusedMin s.nor.slot1 = true) : bootNext s = setStage (refuseImage (refuseImage s)) 0x0F := by
  simp only [bootNext, h, if_neg h0]
  exact if_neg h1

/-- The images of stage 3 that are refused. -/
def refusedImages (s : State) : List (Option Image) := [s.nor.cp, s.nor.svcGroup].filter fun i => !imageRuns s.nor.fusedMin i

theorem refusedImages_nil_iff (s : State) : refusedImages s = [] ↔
    imageRuns s.nor.fusedMin s.nor.cp = true ∧ imageRuns s.nor.fusedMin s.nor.svcGroup = true := by
  simp [refusedImages, List.filter_eq_nil_iff]

theorem bootNext_firmware {s : State} (h : stage s = 3) :
    bootNext s = setStage ((refusedImages s).foldl (fun s _ => refuseImage s) s) (if (refusedImages s).isEmpty then 4 else 0x0F) := by
  simp only [bootNext, h]
  rfl

theorem bootNext_memory {s : State} (h : stage s = 4) : bootNext s = setStage { s with
    mem := s.mem.filter (fun c => 0x3000000000 ≤ c.1), poison := s.poison.filter fun x => 0x3000000000 ≤ 32 * x } 5 := by
  simp only [bootNext, h]

theorem bootNext_ready {s : State} (h : stage s = 5) : bootNext s = setStage s 0x80 := by simp only [bootNext, h]

/-- Running, recovery and stage 0 do not end. -/
theorem bootNext_rest {s : State} (h : stage s = 0x80 ∨ stage s = 0x0F ∨ stage s = 0) : bootNext s = s := by
  rcases h with h | h | h <;> simp only [bootNext, h]

/-- The end of a stage changes no team, and only that of stage 4 changes memory. -/
theorem bootNext_frame (s : State) : (bootNext s).teams = s.teams ∧ (stage s ≠ 4 → (bootNext s).mem = s.mem) := by
  unfold bootNext
  split
  case h_1 => exact ⟨rfl, fun _ => rfl⟩
  case h_2 =>
    dsimp only
    split
    · exact ⟨rfl, fun _ => rfl⟩
    · split <;> exact ⟨rfl, fun _ => rfl⟩
  case h_3 =>
    have hrefused := refuseImages_else (refusedImages s) s
    exact ⟨(congrArg State.teams hrefused :), fun _ => (congrArg State.mem hrefused :)⟩
  case h_4 h4 => exact ⟨rfl, fun h => absurd h4 h⟩
  all_goals exact ⟨rfl, fun _ => rfl⟩

end Sys2Proof
end

section
/-! PROOF of the statement about power, boot and life records. -/

namespace Sys2Proof

open Machine Claims

/-- R440: what a throttle event does, from the threshold on and below it. -/
theorem thermalThrottle_effect {s : State} (temp : BitVec 16) (k : Word) (hoff : ∀ d < 4, (pbar s d Config.oTrCtl).msb = false)
    (hw : mapWf 0 s.bar = true) : ∃ t, exec (.thermalThrottle temp k) s = .next t ∧ { t with bar := s.bar, khz := s.khz } = s ∧
      field (bar t Config.oThermStatus) 0 16 = temp.toNat ∧
      t.khz = (if upperLimit - 160 ≤ temp.toInt ∧ k ≠ 0 ∧ k.toNat < s.khz.toNat then k else s.khz) ∧
      (upperLimit - 160 ≤ temp.toInt → k ≠ 0 → k.toNat < s.khz.toNat → (bar t Config.oThermStatus).getLsbD 17 = true) := by
  have hshown := showTemp_field hw temp
  have hoff' (d : Nat) (hd : d < 4) : (pbar (showTemp s temp) d Config.oTrCtl).msb = false :=
    (congrArg BitVec.msb (pbar_setBar_thermStatus s _ d _)).trans (hoff d hd)
  have hw' : mapWf 0 (showTemp s temp).bar = true := setBar_wf hw ..
  by_cases hhot : upperLimit - 160 ≤ temp.toInt
  · by_cases hk : k ≠ 0 ∧ k.toNat < s.khz.toNat
    · obtain ⟨h0, hlt⟩ := hk
      have hstatus := lowerClock_thermStatus hoff' hw' h0 hlt 17
      refine ⟨_, execThermalThrottle_hot hhot k s, ?frame, ?temp, ?khz, fun _ _ _ => ?bit⟩
      case frame =>
        rw [lowerClock_lowers hoff' h0 hlt]
        rfl
      case temp => rw [hstatus, field_setField_other _ _ (by decide) (by decide), hshown]
      case khz =>
        rw [lowerClock_lowers hoff' h0 hlt, if_pos ⟨hhot, h0, hlt⟩]
        rfl
      case bit => rw [hstatus, getLsbD_setField_one _ (by decide)]
    · have hstay : k = 0 ∨ (showTemp s temp).khz.toNat ≤ k.toNat :=
        Decidable.or_iff_not_imp_left.2 fun h0 => Nat.not_lt.1 fun hlt => hk ⟨h0, hlt⟩
      refine ⟨_, (execThermalThrottle_hot hhot k s).trans (congrArg _ (lowerClock_ignored hstay 17)), rfl, hshown, ?_,
        fun _ h0 hlt => absurd ⟨h0, hlt⟩ hk⟩
      exact (if_neg fun h => hk h.2).symm
  · exact ⟨_, execThermalThrottle_cool hhot k s, rfl, hshown, (if_neg fun h => hhot h.1).symm, fun h => absurd h hhot⟩

/-- Settles O50, event by event; for the boot stages, by the stage that ends. -/
theorem powerBootAndLifeRecords : Obligations.PowerBootAndLifeRecords := by
  unfold Obligations.PowerBootAndLifeRecords
  refine ⟨?powerLimit, ?clockStep, ?throttle, ?powerOff, fun s => ⟨rfl, rfl⟩, ?sample, ?reset, ?boot⟩
  case powerLimit =>
    exact fun s v hw hl => writesBar_of_setBar hw (congrArg Host.Outcome.next (onBar_live hl _)) (toNat_clampNat _ (by decide) (by decide))
  case clockStep =>
    intro s k hoff hw
    refine ⟨fun h => congrArg Host.Outcome.next (lowerClock_ignored h 16), fun h0 hk => ⟨_, rfl, ?_, ?_, ?_⟩⟩
    · rw [lowerClock_lowers hoff h0 hk]
      rfl
    · rw [lowerClock_lowers hoff h0 hk]
      rfl
    · rw [lowerClock_thermStatus hoff hw h0 hk, getLsbD_setField_one _ (by decide)]
  case throttle => exact fun s temp k hoff hw => thermalThrottle_effect temp k hoff hw
  case powerOff => exact fun s rec => ⟨_, _, rfl, rfl, rfl, rfl, rfl, rfl, rfl, rfl, rfl, rfl, rfl, rfl, rfl⟩
  case sample =>
    intro s temp watts hw hlt
    obtain ⟨hmem, hteams⟩ := sampleLife_frame s temp watts
    refine ⟨_, rfl, hmem, hteams, sampleLife_lifeSeconds s temp watts, fun b => ?_⟩
    rw [← tempBin_eq]
    exact mapGet_sampleLife temp watts hw (mapGet_lt (by decide) hlt) b
  case reset =>
    intro s hw hlt
    have hcount := mapGet_countHist (s := { outsideOf s with nor := s.nor, hist := s.hist, lifeSeconds := s.lifeSeconds }) hw hlt
    exact ⟨_, rfl, stage_reset, rfl, rfl, rfl, rfl, rfl, rfl, rfl, hcount⟩
  case boot =>
    intro s hw
    obtain ⟨hteams, hmem⟩ := bootNext_frame s
    refine ⟨_, rfl, hteams, ?_⟩
    simp only [← imageRuns_iff]
    refine ⟨?rom, ?slot0, ?slot1, ?recovery, ?firmware, ?refused, ?memory, ?ready, bootNext_rest, hmem⟩
    case rom =>
      intro h
      rw [bootNext_rom h, stage_setStage hw (by decide)]
    case slot0 =>
      intro h h0
      rw [bootNext_slot0 h h0]
      exact ⟨stage_setStage (setBar_wf hw ..) (by decide), slot_setStage_setSlot hw (by decide) 3, rfl⟩
    case slot1 =>
      intro h h0 h1
      rw [bootNext_slot1 h h0 h1]
      exact ⟨stage_setStage (setBar_wf (s := refuseImage s) hw ..) (by decide), slot_setStage_setSlot (s := refuseImage s) hw (by decide) 3, rfl⟩
    case recovery =>
      intro h h0 h1
      rw [bootNext_recovery h h0 h1]
      exact stage_setStage (s := refuseImage (refuseImage s)) hw (by decide)
    case firmware =>
      intro h hcp hsvc
      have hnil := (refusedImages_nil_iff s).2 ⟨hcp, hsvc⟩
      rw [bootNext_firmware h, hnil]
      exact ⟨stage_setStage hw (by decide), rfl⟩
    case refused =>
      intro h hbad
      have hnil : ¬ (refusedImages s).isEmpty = true := fun e => hbad ((refusedImages_nil_iff s).1 (List.isEmpty_iff.1 e))
      rw [bootNext_firmware h, if_neg hnil, refuseImages_else]
      exact stage_setStage (s := { s with hist := _ }) hw (by decide)
    case memory =>
      intro h
      rw [bootNext_memory h]
      refine ⟨stage_setStage (s := { s with mem := _, poison := _ }) hw (by decide), fun a ha => ?_⟩
      exact mapGet_filter_dropped (fun _ => decide_eq_false (Nat.not_le.2 ha)) s.mem
    case ready =>
      intro h
      rw [bootNext_ready h, stage_setStage hw (by decide)]

end Sys2Proof
end
